-- ==== Sys2Proof/Word.lean ====
section
/-! DEFINITION. The word types of Penra and their plainest arithmetic, and the sparse tables that hold
registers, memories and directories as plain data. -/

namespace Sys2Proof

/-- A 64-bit register or memory word. -/
abbrev W64 := BitVec 64
/-- A byte of memory. -/
abbrev Byte := BitVec 8

/-- Bits `[hi:lo]` of a natural number (the manual's `[msb:lsb]`). -/
def fld (w hi lo : Nat) : Nat := (w >>> lo) % 2 ^ (hi + 1 - lo)

/-- One bit of a natural number. -/
def bitOf (w i : Nat) : Bool := (w >>> i) % 2 == 1

/-- Bits `[hi:lo]` of a 64-bit word. -/
def wfld (w : W64) (hi lo : Nat) : Nat := fld w.toNat hi lo

/-- The word whose value is `n`, modulo 2^64. -/
def w64 (n : Nat) : W64 := BitVec.ofNat 64 n

/-- Round up to a multiple of `m`. -/
def roundUp (n m : Nat) : Nat := (n + m - 1) / m * m

/-- Division rounding up. -/
def ceilDiv (n m : Nat) : Nat := (n + m - 1) / m

/-- `a64(n)` of R60. -/
def a64 (n : Nat) : Nat := roundUp n 64
/-- `p32(n)` of R60. -/
def p32 (n : Nat) : Nat := roundUp n 32

/-- The signed value of the low `n` bits of `w`. -/
def signed (n w : Nat) : Int := if w % 2 ^ n < 2 ^ (n - 1) then (w % 2 ^ n : Nat) else (w % 2 ^ n : Nat) - (2 ^ n : Nat)

/-- A sparse table: pairs of a key and a value, keys strictly rising; a key that is not listed holds the
table's default. -/
abbrev Tab (α : Type) := List (Nat × α)

/-- The value listed at `k`, if any. -/
def Tab.find? {α : Type} : Tab α → Nat → Option α
  | [], _ => none
  | (k', v) :: t, k => if k = k' then some v else Tab.find? t k

/-- The value at `k`; `d` where none is listed. -/
def Tab.getD {α : Type} (t : Tab α) (k : Nat) (d : α) : α := (t.find? k).getD d

/-- List `v` at `k`, in key order. -/
def Tab.put {α : Type} : Tab α → Nat → α → Tab α
  | [], k, v => [(k, v)]
  | (k', v') :: t, k, v =>
    if k < k' then (k, v) :: (k', v') :: t
    else if k = k' then (k, v) :: t
    else (k', v') :: Tab.put t k v

/-- Take `k` off the list. -/
def Tab.del {α : Type} (t : Tab α) (k : Nat) : Tab α := t.filter (fun e => e.1 != k)

/-- Set `k` to `v` in a table whose default is `d`, keeping the form in which no entry equals the default. -/
def Tab.set {α : Type} [DecidableEq α] (t : Tab α) (d : α) (k : Nat) (v : α) : Tab α :=
  if v = d then t.del k else t.put k v

/-- Keys strictly rising, every key above `lo`. -/
def Tab.sortedFrom {α : Type} : Option Nat → Tab α → Bool
  | _, [] => true
  | none, (k, _) :: t => Tab.sortedFrom (some k) t
  | some lo, (k, _) :: t => decide (lo < k) && Tab.sortedFrom (some k) t

/-- The canonical form of a table with default `d`: keys strictly rising and no entry equal to the default. -/
def Tab.wf {α : Type} [DecidableEq α] (t : Tab α) (d : α) : Bool :=
  Tab.sortedFrom none t && t.all (fun e => decide (e.2 ≠ d))

/-- Change the listed value at `k` by `f`, where one is listed. -/
def Tab.upd {α : Type} (t : Tab α) (k : Nat) (f : α → α) : Tab α :=
  match t.find? k with
  | some v => t.put k (f v)
  | none => t

/-- Keep the entries whose key passes `p`. -/
def Tab.keepKeys {α : Type} (t : Tab α) (p : Nat → Bool) : Tab α := t.filter (fun e => p e.1)

/-- The lowest natural number from `lo` up that is not a key of the table. -/
def Tab.freeFrom {α : Type} : Tab α → Nat → Nat
  | [], lo => lo
  | (k, _) :: t, lo => if k < lo then Tab.freeFrom t lo else if k = lo then Tab.freeFrom t (lo + 1) else lo

/-- The listed keys. -/
def Tab.keys {α : Type} (t : Tab α) : List Nat := t.map Prod.fst

/-- The listed values. -/
def Tab.vals {α : Type} (t : Tab α) : List α := t.map Prod.snd

/-- The sum of `f` over a list. -/
def sumBy {α : Type} (l : List α) (f : α → Nat) : Nat := l.foldl (fun a x => a + f x) 0

/-- The largest value of `f` over a list, 0 for the empty list. -/
def maxBy {α : Type} (l : List α) (f : α → Nat) : Nat := l.foldl (fun a x => Nat.max a (f x)) 0

end Sys2Proof
end

