-- ==== Sys2Proof/Machine/Parts.lean ====
section
/-! DEFINITION. The plain-data records of which State is made, chapter by chapter: one structure for each thing
the manual names. Numbers that the manual adds, masks or shows as words are words; everything else is a natural
number, a flag, an option, a list or a sparse table. -/

namespace Sys2Proof.Machine

/-! ## Object dictionary (spec/15_dictionary.md) -/

/-- The three access paths of R317. -/
inductive Path where
  | cp
  | i3c
  | fw
  deriving DecidableEq, Repr

/-- `h` of R323. -/
def Path.num : Path → Nat
  | .cp => 0
  | .i3c => 1
  | .fw => 2

/-- The dictionary registers of one path (Tables OD-6 to OD-8). `busy` holds the ODCMD word of an operation
that waits; ODSTS is kept as its fields. -/
structure PathRegs where
  sel : W64 := 0
  busy : Option W64 := none
  /-- the operation programs OTP (R346, R393) -/
  prog : Bool := false
  ovr : Bool := false
  pend : Bool := false
  cseq : Nat := 0
  rlen : Nat := 0
  code : Nat := 0
  tag : Nat := 0
  dat : Tab W64 := []
  deriving DecidableEq, Repr

/-- How far a command instance has come (Table OD-5 STATE). -/
inductive InstSt where
  /-- accepted, its row has not acted -/
  | issued
  /-- its checks or its work run on -/
  | checking
  /-- accepted by its checks; takes effect after `wait` more boundaries of partition `part` -/
  | pending
  deriving DecidableEq, Repr

/-- A command instance that has not ended (R323). `aux` is what its own chapter keeps with it. -/
structure Inst where
  area : Nat
  item : Nat
  path : Path
  cseq : Nat
  tag : Nat
  args : List W64
  st : InstSt := .issued
  part : Nat := 0
  wait : Nat := 0
  aux : Nat := 0
  deriving DecidableEq, Repr

/-- The object a command instance is of, as one number (area and item). -/
def Inst.obj (i : Inst) : Nat := i.area * 2 ^ 16 + i.item

/-- A command instance named from outside: its path and CSEQ. -/
structure CmdRef where
  path : Path
  cseq : Nat
  deriving DecidableEq, Repr

/-- A status record (Table OD-5). -/
structure StatRec where
  code : Nat := 0
  state : Nat := 0
  tag : Nat := 0
  step : Nat := 0
  r0 : W64 := 0
  r1 : W64 := 0
  deriving DecidableEq, Repr

/-- What an accepted value waits for (Table OD-3, R320). -/
inductive PendKind where
  /-- serving-ready or the next soft reload -/
  | reset
  /-- partitions, each with the boundaries still to come; the flag says that the units serving every
  partition still use the old value, and `frozen` names the partitions whose freeze point had passed -/
  | parts (l : List (Nat × Nat)) (unit : Bool) (frozen : List Nat)
  deriving DecidableEq, Repr

/-- An accepted value not yet in force everywhere: `old` is the value still in force where it waits. -/
structure PendVal where
  area : Nat
  item : Nat
  index : Nat
  old : W64
  kind : PendKind
  deriving DecidableEq, Repr

/-- One OTP override entry in force (Table OBJ-9, R347). -/
structure Ovr where
  area : Nat
  item : Nat
  index : Nat
  all : Bool
  value : W64
  /-- it passes step 1 of R347; one that does not leaves the table default -/
  ok : Bool := true
  deriving DecidableEq, Repr

/-- Bundle states (R330). -/
inductive BdlSt where
  | free
  | isOpen
  | committed
  deriving DecidableEq, Repr

/-- A bundle (R329 to R334). `order` is its commit order; `frozen` the partitions whose freeze point had
passed at the commit. -/
structure Bundle where
  st : BdlSt := .free
  path : Path := .cp
  scope : Nat := 0
  writes : List (Nat × Nat × Nat × W64) := []
  order : Nat := 0
  wait : Nat := 0
  frozen : List Nat := []
  deriving DecidableEq, Repr

/-- The dictionary. -/
structure Od where
  cp : PathRegs := {}
  i3c : PathRegs := {}
  fw : PathRegs := {}
  /-- the paths whose operation waits, in the order of its arrival (R318) -/
  waitq : List Path := []
  /-- last accepted value of every object element that is not at its default -/
  vals : Tab W64 := []
  ovrs : List Ovr := []
  pend : List PendVal := []
  insts : List Inst := []
  stats : Tab StatRec := []
  lastCseq : Tab Nat := []
  bundles : Tab Bundle := []
  commits : Nat := 0
  deriving DecidableEq, Repr

/-! ## Memory ports (spec/07_tiers.md R133, R148, R149; spec/17_ports.md R363 to R366) -/

/-- What a memory request is for. -/
inductive Use where
  /-- a write of a structure that lies in no extent, or a read that only its own row waits for (R434) -/
  | misc
  /-- item `item` of placement number `unit` of partition `d` (R114) -/
  | kindle (d unit item : Nat)
  /-- fill of the T1 image of extent `x` (Table TIER-4) -/
  | fill (x : Nat)
  /-- the copy to a Rick member on port `m` (R141, R143) -/
  | rick (x m : Nat)
  /-- write-back of a dirty T1 image (Table TIER-4) -/
  | evict (x : Nat)
  /-- a write to an extent's home or T1 image by the training unit (R211) -/
  | upd (x : Nat)
  /-- the copy of a move, and the records of its log applied to the new place (R144) -/
  | move (x : Nat)
  /-- a record of the forward log (R144, R145) -/
  | flog (x : Nat)
  /-- write-back of a dirty Layer Store line (R125) -/
  | dirty (d line : Nat)
  /-- save or restore traffic (R266, R267) -/
  | clamp (d : Nat)
  /-- a gather of the pool phase: part `u` of its reads (R181) -/
  | pool (d u : Nat)
  /-- the assembly of a map unit by a publish (R165) -/
  | pub (mu : Nat)
  /-- a Holding Pen transfer (R217) -/
  | pen (d : Nat)
  /-- a core access through the aperture (R301) -/
  | aperture
  deriving DecidableEq, Repr

/-- A memory request of Table PORT-8 with what Penra keeps beside it. -/
structure Req where
  id : Nat
  part : Nat
  write : Bool
  tier : Nat
  port : Nat
  qos : Nat
  addr : Nat
  bytes : Nat
  use : Use
  /-- reissues so far (R148) -/
  issues : Nat := 0
  /-- restore of `ISSUED`: the MGMT period of the first issue -/
  first : Nat := 0
  tag : Nat := 0
  /-- save and restore traffic is never charged (R259) -/
  free : Bool := false
  /-- the bytes that a write of a structure in T1 changes, where its request's lines hold others too: address and count -/
  span : Option (Nat × Nat) := none
  deriving DecidableEq, Repr

/-- A quarantined tag (R149), with the last beat of its reply. -/
structure Quar where
  port : Nat
  tag : Nat
  part : Nat
  last : Nat := 0
  deriving DecidableEq, Repr

/-- A Late Reply Bin entry (Table PART-9); `st` 1 WAITING, 2 REPLIED, 3 EXPIRED. -/
structure Lrb where
  st : Nat
  req : Req
  deriving DecidableEq, Repr

/-- The memory ports. Buckets are signed byte counts by slot and port, kept as offsets from their depth. -/
structure Mp where
  initReq : List Nat := []
  up : List Nat := []
  nextId : Nat := 0
  /-- requests waiting for issue, oldest first -/
  waiting : List Req := []
  /-- requests outstanding -/
  out : List Req := []
  quar : List Quar := []
  rdBucket : Tab Int := []
  wrBucket : Tab Int := []
  lastSlot : Tab Nat := []
  /-- the partition that last had a tag: by port and tag (R149, R351) -/
  tagPart : Tab Nat := []
  /-- MGMT periods since reset -/
  mgmt : Nat := 0
  deriving DecidableEq, Repr

/-! ## Tier manager (spec/07_tiers.md) -/

/-- An object of a partition (R131, R132). `mu` is its first map unit index for HOME T3; it is cut into extents of
64 KiB, at `cuts` (offset and bytes) where it is known as an image, or by `stride` where it is a trait table. -/
structure Objt where
  home : Nat
  cache : Bool
  rick : Bool
  movable : Bool
  spread : Bool
  port : Nat
  bytes : Nat
  base : Nat
  mu : Nat := 0
  cuts : List (Nat × Nat) := []
  stride : Nat := 0
  deriving DecidableEq, Repr

/-- Extent states (Table TIER-3). -/
inductive XSt where
  | filling
  | resident
  | draining
  | moving
  deriving DecidableEq, Repr

/-- An Extent Table entry (Table TIER-3) with the bytes its T1 image takes, its last use and the bytes of its
fill still owed. -/
structure XEnt where
  idx : Nat
  st : XSt
  home : Nat
  size : Nat
  dirty : Bool := false
  thawed : Bool := false
  poison : Bool := false
  final : Bool := false
  freq : Nat := 0
  rvalid : Nat := 0
  ridx : Nat := 0xFFF
  pinKin : Nat := 0
  pinGth : Nat := 0
  pinTrn : Nat := 0
  pinPub : Nat := 0
  epoch : Nat := 0
  port : Nat := 0
  addr : Nat := 0
  lastUse : Nat := 0
  owed : Nat := 0
  /-- a thaw waits for this fill (R147) -/
  thawing : Bool := false
  /-- the fill's bytes have been taken from the pages that a publish has replaced since (R166) -/
  early : Bool := false
  deriving DecidableEq, Repr

/-- A Rick: its extent and the members' ports and addresses (R141). -/
structure Rick where
  x : Nat
  members : List (Nat × Nat)
  deriving DecidableEq, Repr

/-- A move (R144): the new place, and whether its copy has ended. `opened` is the state MOVING; `log` the
forward-log records not yet applied (offset and bytes). -/
structure Move where
  x : Nat
  d : Nat
  tier : Nat
  port : Nat
  addr : Nat
  size : Nat
  opened : Bool := false
  copied : Bool := false
  /-- log records not yet applied to the new place: offset in the extent, bytes (R144 step 5) -/
  log : List (Nat × Nat) := []
  deriving DecidableEq, Repr

/-- A record that stands in a forward log (R145): its extent, its offset in the log and its bytes. -/
structure FlogRec where
  x : Nat
  off : Nat
  bytes : Nat
  deriving DecidableEq, Repr

/-- The tier manager. Objects are keyed by partition and handle, extents by partition, handle and index. -/
structure Tm where
  objs : Tab Objt := []
  xt : Tab XEnt := []
  sketch : Tab Nat := []
  sketchIncs : Nat := 0
  ricks : Tab Rick := []
  moves : List Move := []
  /-- homes changed by a move: tier, port, address (R144) -/
  moved : Tab (Nat × Nat × Nat) := []
  epochs : Tab Nat := []
  /-- the forward logs (R144 to R146), by partition -/
  flog : Tab (List FlogRec) := []
  /-- extents for which a thaw waits for an entry or a victim (R147) -/
  thawWait : List Nat := []
  thawHigh : List Nat := []
  /-- extents used in the step in progress, by partition -/
  used : List (Nat × Nat) := []
  /-- old places of the cache that drain after a move's switch: extent, port, address, bytes (Table TIER-4) -/
  old : List (Nat × Nat × Nat × Nat) := []
  /-- T1 lines of entries that were lost: port, address, bytes (R401) -/
  lost : List (Nat × Nat × Nat) := []
  /-- homes whose write failed for good and that have no entry (R148) -/
  poisoned : List Nat := []
  deriving DecidableEq, Repr

/-! ## Adapters (spec/03_adapters.md) -/

/-- A section table entry (Table ADPT-3). -/
structure Sect where
  layer : Nat
  slot : Nat
  hasF : Bool
  hasK : Bool
  hasS : Bool
  bias : Bool
  sBf16 : Bool
  isBf16 : Bool
  din : Nat
  dout : Nat
  r : Nat
  k : Nat
  bank : Nat
  alphaF : Nat
  alphaK : Nat
  poff : Nat
  plen : Nat
  ffmt : Nat
  kfmt : Nat
  deriving DecidableEq, Repr

/-- One generation of an adapter, or of the basis pair of one section. `src` is 0 for an image at the T1
address `base`, 1 for the T3 object whose handle is `base`. -/
structure AGen where
  gen : Nat
  stream : Bool
  sealed : Bool
  src : Nat
  base : Nat
  nonce : Nat
  keyid : Nat
  /-- sections of the image, and which of them `sects` begins with: a basis pair keeps its own section alone -/
  nsect : Nat
  first : Nat := 0
  sects : List Sect
  deriving DecidableEq, Repr

/-- An adapter ID or a basis pair of a partition (R55). `next` is a checked generation that awaits its
installation and `unload` an accepted unload, each with the boundaries still to come. -/
structure Adpt where
  cur : Option AGen := none
  prev : Option AGen := none
  next : Option (AGen × Nat) := none
  unload : Option Nat := none
  deriving DecidableEq, Repr

/-- A target of the partition's model shape. -/
structure Tgt where
  layer : Nat
  slot : Nat
  din : Nat
  dout : Nat
  deriving DecidableEq, Repr

/-- The partition's model shape: its layers and its adapted targets. -/
structure Shape where
  layers : Nat
  tgts : List Tgt
  deriving DecidableEq, Repr

/-! ## Trait tables (spec/09_traits.md) -/

/-- A trait table's descriptor (Table TRAIT-1) and generation; `wait` the boundaries until it is usable and
`drop` those until an accepted TBL_DROP acts. -/
structure Tbl where
  desc : List W64
  gen : Nat
  wait : Nat := 0
  drop : Option Nat := none
  deriving DecidableEq, Repr

/-- A pool specification: the record in force and one accepted that waits for its boundary (R178). -/
structure Pool where
  cur : Option (List W64)
  next : Option (List W64 × Nat) := none
  deriving DecidableEq, Repr

/-- The read of a row, or of the part of it that lies in one extent (R181). `st`: 0 not issued, 1 requests outstanding, 2 waits on a
fill, 3 ended. `slot` the shadow slot that it reads. -/
structure PoolPart where
  row : Nat
  x : Nat
  off : Nat
  n : Nat
  slot : Option Nat := none
  st : Nat := 0
  owed : Nat := 0
  pinned : Bool := false
  deriving DecidableEq, Repr

/-- The pool phase of a step (R181 to R184): the distinct rows with their reads still owed, the rows that are
missing, and whether its vectors are in the pool buffer. -/
structure PoolPhase where
  step : Nat
  rows : List (Nat × Nat × Nat)
  /-- how often each row of the list occurs (R181) -/
  occ : List Nat := []
  /-- the reads of the rows, by the extents that they lie in -/
  parts : List PoolPart := []
  owed : Nat
  missing : List (Nat × Nat × Nat)
  /-- the fetch has begun (R186) -/
  begun : Bool := true
  done : Bool
  /-- MGMT period at which the phase began, for `4.0042` -/
  since : Nat := 0
  /-- rows whose reads were in flight when a publish replaced their pages: table, P or Q, row, with the old pages' bytes (R166) -/
  old : List ((Nat × Nat × Nat) × List Byte) := []
  deriving DecidableEq, Repr

/-- A redirect entry: the shadow slot that holds a row (R187 to R190). `st`: 0 staging or staged, 1 taken by an
accepted flip, 2 in force and folding back, 3 retiring. `q` the physical table. -/
structure Redir where
  tid : Nat
  q : Bool
  row : Nat
  slot : Nat
  st : Nat
  opt : Bool
  /-- PUTs of the row whose copies have not ended -/
  copying : Nat
  /-- the first step for which it is in force, and the first for which a later flip has put another in its place (R189) -/
  since : Nat := 0
  upto : Option Nat := none
  /-- its fold-back holds a thaw of the row's T3 home (R190 step 4) -/
  thaws : Bool := false
  deriving DecidableEq, Repr

/-- A PUT whose copy runs (R187): its instance, its row, its slot; `flip` when a later TROW_FLIP took it. -/
structure Put where
  path : Path
  cseq : Nat
  tid : Nat
  q : Bool
  row : Nat
  slot : Nat
  src : Nat
  opt : Bool
  flip : Bool
  /-- its copy has been acknowledged, or has failed for good -/
  acked : Option Bool := none
  deriving DecidableEq, Repr

/-- A flip of a table (R188): `wait` counts the boundaries once it is committed. -/
structure Flip where
  tid : Nat
  path : Path
  cseq : Nat
  committed : Bool
  wait : Nat
  deriving DecidableEq, Repr

/-- The trait state of a partition. -/
structure Traits where
  tbls : Tab Tbl := []
  pools : Tab Pool := []
  phase : Option PoolPhase := none
  /-- the phase of the step before, for the gradients of its rows (R205) -/
  prev : Option PoolPhase := none
  /-- the step whose pool phase waits for the one in progress -/
  waiting : Option Nat := none
  redirs : List Redir := []
  puts : List Put := []
  flips : List Flip := []
  /-- `4.0042`: the last step's pooling time -/
  lastNs : Nat := 0
  deriving DecidableEq, Repr

/-! ## Contexts and manifests (spec/11_contexts.md) -/

/-- Context states (Table CTX-1); a context that is not listed is FREE. -/
inductive CtxSt where
  | ready
  | paused
  | ember
  | waking
  | unfit
  deriving DecidableEq, Repr

/-- Table CTX-1 STATE. -/
def CtxSt.code : CtxSt → Nat
  | .ready => 1
  | .paused => 2
  | .ember => 3
  | .waking => 4
  | .unfit => 5

/-- An adoption entry (R245): position, provisional slot, whether the copy has ended, boundaries seen. -/
structure Adopt where
  pos : Nat
  pslot : Nat
  copied : Bool
  age : Nat
  deriving DecidableEq, Repr

/-- A page copy in progress for an Ember or a wake (R242, R243). -/
structure PageCopy where
  page : Nat
  tier : Nat
  frame : Nat
  copied : Bool
  deriving DecidableEq, Repr

/-- A context record (Table CTX-1) with what the Context Keeper keeps beside it: boundaries deferred, whether
its deadline step was computed from a valid time since it became READY, the provisional slots of its open tree
by node, its adoption entries, and its page copies. -/
structure Ctx where
  st : CtxSt
  cls : Nat
  policy : Bool
  phase : Bool
  spec : Bool
  part : Nat
  pos : Nat
  pend : Nat
  rtag : W64
  deadline : W64
  dlstep : Nat
  nbag : Nat
  arrseq : Nat
  tmark : Nat
  bind : List W64
  npage : Nat
  tnodes : Nat
  map : List Nat
  deferred : Nat := 0
  dlValid : Bool := false
  tree : Tab Nat := []
  adopts : List Adopt := []
  copies : List PageCopy := []
  /-- an Ember whose pages still move -/
  embering : Bool := false
  /-- PAUSED with EMBER_NOW asked, or its time passed, and not yet an Ember -/
  emberDue : Bool := false
  /-- an uncorrectable error took a page entry (R397) -/
  kvLost : Bool := false
  deriving DecidableEq, Repr

/-- A row of a manifest (Table CTX-7). `kind` 0 prefill, 1 decode, 2 tree node, 3 pad. -/
structure Row where
  ctx : Option Nat
  kind : Nat
  node : Nat := 0
  parent : Nat := 0x3F
  pos : Nat := 0
  desc : Nat := 0
  deriving DecidableEq, Repr

/-- A row descriptor (Table CTX-8). -/
structure Desc where
  bind : List W64
  bag : Nat
  cref : Nat
  nbag : Nat
  deriving DecidableEq, Repr

/-- A Step Manifest in force or waiting (R232): rows, descriptors, the bindings of its contexts as frozen,
its seed, Kindling mode (R111) and generations in force. -/
structure Man where
  step : Nat
  host : Bool
  rows : List Row
  ndec : Nat
  descs : List Desc
  seed : Nat
  target : Bool
  /-- frozen binding and bag length of each context with rows -/
  binds : Tab (List W64 × Nat)
  gens : List (Nat × Nat × Nat)
  deriving DecidableEq, Repr

/-- The row outcome record of a step (Table CTX-11): entries of context, OUT and ACCMASK. -/
structure Outc where
  entries : List (Nat × Nat × Nat)
  deriving DecidableEq, Repr

/-- A completion entry (Table CTX-12), as its four words, with the context it belongs to. -/
structure Compl where
  ctx : Option Nat
  words : List W64
  deriving DecidableEq, Repr

/-- What one boundary has to report of a context (R235, R437): its last transition's EVENT, its CODE where Table CTX-2
gives one, its FLAGS beyond those of its rows, and its RTAG and POS where its record has been freed. -/
structure CEv where
  event : Nat
  code : Nat := 0
  flags : Nat := 0
  rtag : W64 := 0
  pos : Nat := 0
  deriving DecidableEq, Repr

/-- A request read from a Request Ring that waits for its boundary (R227). `op` as in Table CTX-3. -/
structure RqWait where
  /-- its place in the order of R437, and its index in the ring -/
  order : Nat
  idx : Nat
  op : Nat
  ctx : Nat
  words : List W64
  wait : Nat
  deriving DecidableEq, Repr

/-! ## Layer Store (spec/06_layer_store.md) -/

/-- What a Layer Store item is (R114). -/
inductive ItemKind where
  | pooled (row : Nat)
  | basis (slot bank : Nat)
  | sect (slot adpt gsel : Nat)
  /-- a block whose item the boundary has made useless (R12) -/
  | unused
  deriving DecidableEq, Repr

/-- An item of a unit: its place in the share, its counted size in lines, its bytes when resident as one little-endian
number, the requests still owed. `st`: 0 fetching, 1 resident, 2 failed for good. `x` is the extent it waits for. -/
structure LsItem where
  kind : ItemKind
  line : Nat
  lines : Nat
  need : Nat
  st : Nat
  owed : Nat
  data : Nat
  /-- extents that its reads hold pins on, or whose fill it waits for -/
  xs : List Nat := []
  /-- kindled again under R12 -/
  again : Bool := false
  deriving DecidableEq, Repr

/-- A unit in the share (R112): its index in the step, its placement number, its layer and, in target mode,
its target. -/
structure LsUnit where
  step : Nat
  idx : Nat
  place : Nat
  bwd : Bool
  layer : Nat
  slot : Option Nat
  items : List LsItem
  /-- dirty lines of the region with the home address of each (R125) -/
  dirty : Tab Nat
  wb : Bool := false
  wbOwed : Nat := 0
  /-- the engine whose data a line that engines wrote keeps; 8 more once two have met there (R294) -/
  writers : Tab Nat := []
  /-- every Expand block and engine read of the unit has ended (R113) -/
  done : Bool := false
  deriving DecidableEq, Repr

/-! ## Stream and windows (spec/04_tiles.md, spec/05_pass_position.md) -/

/-- A position of the pass: the PP word's fields and the window (R85, R87). -/
structure PosKey where
  step : Nat
  bwd : Bool
  layer : Nat
  tslot : Nat
  win : Nat
  tick : Nat
  deriving DecidableEq, Repr

/-- An x panel: its number in the window and its rows as they crossed the port (Table PORT-3). -/
structure Panel where
  num : Nat
  rows : List (BitVec 2048)
  deriving DecidableEq, Repr

/-- Where a window stands (R63). -/
inductive Stage where
  | shrink
  | core
  | expand
  | scale
  | merged
  deriving DecidableEq, Repr

/-- A window in flight. Values are FP32 encodings keyed by row and column. `dead` is the FLAGS bit of the condition
that leaves its rows without terms; `out` its rows without terms at this target, `miss` those whose items had not
been kindled at its first PANEL record (R117). `shrunk`, `cored` and `expanded` are the units that have ended,
`gx` the sums of dX (R197), `chunks` the data that the Accumulator Port has returned, by buffer, row and chunk,
`scaled` the chunks that Scale has handed to Merge with their s and β, by row and chunk, `tiles` the logical tiles of
its group (R79, R81), and `writes` the chunks that the host has accepted, with their data. -/
structure Win where
  key : PosKey
  n : Nat
  stage : Stage := .shrink
  panels : List Panel := []
  seen : Nat := 0
  dead : Option Nat := none
  out : List Nat := []
  miss : List Nat := []
  shrunk : List Nat := []
  cored : List Nat := []
  expanded : List Nat := []
  acc : Tab Nat := []
  inter : Tab Nat := []
  inter2 : Tab Nat := []
  delta : Tab Nat := []
  gx : Tab Nat := []
  chunks : Tab (List Nat) := []
  scaled : Tab (List Nat × List Nat) := []
  tiles : List Nat := []
  writes : Tab (List Nat) := []
  requested : Bool := false
  answered : Bool := false
  /-- Core units (2u) and Expand blocks (2j + 1) that a restore runs again and whose census stands (R39, R267) -/
  counted : List Nat := []
  /-- weight blocks that have ended in a unit of several blocks that has not ended: Expand blocks (2j + 1), Shrink units of
  direction B (2u) -/
  prog : Tab Nat := []
  deriving DecidableEq, Repr

/-- A read of the Accumulator Port (Table PORT-5): its partition, window, buffer (0 ACC, 1 GRAD, 2 YVAL, 3 DX),
row and chunk. -/
structure XpRead where
  d : Nat
  key : PosKey
  buf : Nat
  row : Nat
  chunk : Nat
  deriving DecidableEq, Repr

/-- The Accumulator Port (R359): reads that wait for one of its places, and reads issued whose data has not
returned, oldest first. -/
structure Xp where
  want : List XpRead := []
  out : List XpRead := []
  deriving DecidableEq, Repr

/-- What holds a slot (R95, R115). -/
inductive HoldKind where
  /-- an epilogue request that waits for Merge -/
  | epilogue
  /-- a target that is not ready -/
  | kindle
  /-- from the effect point of a pre-emption to the RESTORE event -/
  | clamp
  deriving DecidableEq, Repr

/-- A hold in progress: its position, its cause (0 KINDLE, 1 REKINDLE, 2 MERGE), its periods so far. -/
structure Hold where
  kind : HoldKind
  key : PosKey
  cause : Nat
  periods : Nat
  ceil : Nat
  deriving DecidableEq, Repr

/-- The stream state of a partition: the last accepted record, the last accepted PANEL record and its PP word. -/
structure Stream where
  last : Option PosKey := none
  /-- the furthest position of an accepted record -/
  far : Option PosKey := none
  lastPanel : Option PosKey := none
  /-- the furthest position since the last restore, on which Kindling's events fire, and the last unit that the restore kindles
  (R127) -/
  kindAt : Option PosKey := none
  kindUpto : Nat := 0
  ppWord : W64 := 0
  /-- targets at which a ceiling event has happened (R100) -/
  ceilTgt : List (Bool × Nat × Nat) := []
  deriving DecidableEq, Repr

/-! ## Element Engines (spec/13_element_engine.md) -/

/-- A transfer in flight (R293): its slot, tag and segment, its direction, the register it fills, the format and
rows it moves, and where its bytes lie. -/
structure Xfer where
  slot : Nat
  tag : Nat
  segid : Nat
  store : Bool
  reg : Nat
  mxp : Bool
  fmt : Nat
  rows : Nat
  cols : Nat
  handle : Nat
  /-- byte offset, row stride and scale-plane offset in the object -/
  off : Nat
  stride : Nat
  scale : Nat
  pin : Nat
  deriving DecidableEq, Repr

/-- The segment that runs on an engine (R283): the word of Table CORE-4, the next instruction, SX as it stood at
the start, core writes that are held, the scratch it has written by line, and its timing (R296): the cycle at which
the next instruction may issue, the cycle at which each register's row group is written, the latency of its last
data instruction, and whether it waits on a full FIFO. -/
structure Seg where
  slot : Nat
  segid : Nat
  n : Nat
  /-- START: the index of its first instruction in program memory -/
  start : Nat := 0
  idx : Nat := 0
  bad : Bool := false
  sx0 : Tab W64 := []
  held : List (Nat × W64) := []
  scratch : Tab Nat := []
  now : Nat := 0
  ready : Tab Nat := []
  lat : Nat := 0
  /-- it issued an instruction whose stalls the spec does not fix (R109, R278, R293) -/
  loose : Bool := false
  /-- the lines of the share that it has stored to, bank × 2^22 + line (R293) -/
  stl : List Nat := []
  deriving DecidableEq, Repr

/-- An Element Engine (Table EE-1): LEN and SX by resident slot, tile registers by register and row, segment
queues (R308), FIFOs (R309), the segment in progress, transfers in flight and the Scale list (R295) as slot, window
and row. -/
structure Eng where
  len : Tab Nat := []
  sx : Tab W64 := []
  m : Tab Nat := []
  queue : Tab (List (W64 × W64)) := []
  segFifo : List W64 := []
  xferFifo : List W64 := []
  sigFifo : List W64 := []
  run : Option Seg := none
  xfers : List Xfer := []
  scl : List (Nat × Nat × Nat) := []
  stalled : Bool := false
  /-- words of tile registers that are poisoned (R399), by their index in the engine's registers -/
  bad : List Nat := []
  /-- the slot served last (R252) -/
  last : Nat := 7
  deriving DecidableEq, Repr

/-! ## Partitions (spec/12_partitions.md) -/

/-- Partition states (Table PART-4); a partition that is not listed is UNDEFINED. -/
inductive PState where
  | quiesced
  | running
  | clamping
  | clamped
  | restoring
  deriving DecidableEq, Repr

/-- `7.0017[d]`. -/
def PState.code : PState → Nat
  | .quiesced => 1
  | .running => 2
  | .clamping => 3
  | .clamped => 4
  | .restoring => 5

/-- The modes of a plan record (Table PART-2 word 1). -/
structure Modes where
  servePenra : Bool
  serveHost : Bool
  bwdFrozen : Bool
  trainAdpt : Bool
  trainTrait : Bool
  spec : Bool
  ember : Bool
  holdCeil : Bool
  deriving DecidableEq, Repr

/-- A pre-emption in progress (R261), then the save or the restore: 0 quiesced, 1 ordinary, 2 urgent. `armed` once the
first PANEL record or the timer has come, `stopping` from the end of the next weight block until Merge and the segments
have stopped, `passed` from the effect point on, `owed` the requests of the save or the restore still to be answered. -/
structure Preempt where
  kind : Nat
  armed : Bool := false
  stopping : Bool := false
  passed : Bool := false
  owed : Nat := 0
  /-- the effect point cut a step in progress -/
  inStep : Bool := false
  deriving DecidableEq, Repr

/-- What the Clamp keeps of a partition that is not resident (R264, R265) beside what its record holds: the values of the
slot's objects by area, item and element, the tile registers, LEN, SX, queues and transfers of its engines with slot 0 in
place of the slot, and the fields of the header. -/
structure Clamp where
  kind : Nat
  vals : List (Nat × Nat × Nat × W64)
  /-- the elements among them that nothing has written, which follow their defaults (R348) -/
  unwritten : List (Nat × Nat × Nat)
  engs : Tab Eng
  kmode : Bool
  unit : Nat
  ppWord : W64
  /-- the parts of Table PART-6 behind the header that were written: offset and bytes -/
  parts : List (Nat × Nat) := []
  deriving DecidableEq, Repr

/-! ## Training (spec/10_training.md) -/

/-- An attachment (R193): its 64 B descriptor, the boundaries until it takes effect, the buffer bit of R213, the
run count of R214, and whether a detach waits and for which instance. -/
structure Attach where
  desc : List W64
  wait : Nat := 0
  buf : Nat := 0
  run : Nat := 0
  /-- for each section of a sealed adapter the RUN under which its state was last written (R214) -/
  sruns : Tab Nat := []
  detach : Option CmdRef := none
  deriving DecidableEq, Repr

/-- An item of a touched list (R206, R218): the adapter tensor or the physical row that its key names. -/
structure Item where
  att : Nat
  trait : Bool
  group : Nat
  id : Nat
  layer : Nat
  slot : Nat
  tensor : Nat
  q : Bool
  row : Nat
  pen : Bool := false
  done : Bool := false
  dropped : Bool := false
  deriving DecidableEq, Repr

/-- A group's outcome of pass 1 (R206, R207): the squared norm, the norm, the decision (0 as it is, 1 clipped,
2 skipped), κ and the group's step count that its update uses. -/
structure GroupRes where
  group : Nat
  nu : Nat
  norm : Nat
  act : Nat
  kappa : Nat
  t : Nat
  deriving DecidableEq, Repr

/-- A touched list (R218): the step, its items in key order, the groups that pass 1 has decided, whether every
target's weight-gradient phase has ended, whether it has its trailer, and whether a sweep runs it (R219). -/
structure TList where
  step : Nat
  items : List Item := []
  groups : List GroupRes := []
  complete : Bool := false
  isSealed : Bool := false
  ended : Bool := false
  sweep : Bool := false
  census : Tab Nat := []
  /-- the run count of each attachment when the step began: the RUN of the messages that its pass 2 writes (R214) -/
  runs : Tab Nat := []
  deriving DecidableEq, Repr

/-- A step that has ended and whose weight-gradient phases run on (R200): its manifest, its targets with a phase that has
come (0) or ended (1), and its rows under R201. -/
structure LateStep where
  man : Man
  phases : List (Nat × Nat)
  noGrad : List Nat
  deriving DecidableEq, Repr

/-- The training record of a partition. `save`, `stash` and `grads` hold FP32 or BF16 encodings by a key that
names step half, target, row and term; `accs` the gradient accumulators of pooled rows (R199). -/
structure Train where
  atts : Tab Attach := []
  save : Tab (List Nat) := []
  stash : Tab (List Nat) := []
  grads : Tab (List Nat) := []
  accs : Tab (List Nat) := []
  noGrad : List Nat := []
  phases : List (Nat × Nat) := []
  late : Option LateStep := none
  lists : List TList := []
  groupStep : Tab Nat := []
  norms : Tab Nat := []
  lastStep : Nat := 0
  pen : List Nat := []
  penFull : Bool := false
  expHead : Nat := 0
  dropped : Option (Nat × Nat) := none
  sweepInst : Option CmdRef := none
  deriving DecidableEq, Repr

/-- A defined partition that is not UNDEFINED (spec/12_partitions.md), with everything Penra keeps for it. -/
structure Part where
  st : PState
  slot : Option Nat
  modes : Modes
  shape : Shape
  /-- the state it was clamped from is RUNNING -/
  wasRunning : Bool := false
  /-- the step in progress, or the number the next step takes (R436) -/
  step : Nat := 0
  inStep : Bool := false
  man : Option Man := none
  /-- the freeze point of the next step has passed -/
  frozen : Bool := false
  cand : Option Man := none
  hostNext : Option Man := none
  /-- the bindings in force at the freeze point: those that units of the next step are kindled with (R12) -/
  kbinds : Tab (List W64 × Nat) := []
  outc : Option Outc := none
  merged : Bool := false
  stream : Stream := {}
  /-- conditions of the rows of the step: host row to FLAGS bits (Table CTX-12) -/
  flags : Tab Nat := []
  wins : List Win := []
  units : List LsUnit := []
  /-- the granule map (R110): for each granule of the share its granule in bank 0 and in bank 1 -/
  granules : List (Nat × Nat) := []
  /-- lines of the share written by engines: bank and line -/
  share : Tab Nat := []
  place : Nat := 0
  nextUnit : Nat := 0
  holds : List Hold := []
  heldStep : Nat := 0
  adpts : Tab Adpt := []
  pairs : Tab Adpt := []
  traits : Traits := {}
  train : Train := {}
  /-- the step-rate estimator (R103) -/
  dhat : Option Nat := none
  rejects : Nat := 0
  tb : Option Nat := none
  bound : Nat := 0
  slack : W64 := 0x8000000000000000
  poolBound : Nat := 0
  rqTail : Nat := 0
  rqWait : List RqWait := []
  cqHead : Nat := 0
  backlog : List Compl := []
  /-- completions of the boundary that are due, by context -/
  events : Tab CEv := []
  arrseq : Nat := 0
  usedT1 : List Nat := []
  usedT2 : List Nat := []
  usedProv : List Nat := []
  /-- frames (0 T1, 1 T2) and provisional slots (2) freed since the last freeze point (R240) -/
  freed : List (Nat × Nat) := []
  /-- contexts that become UNFIT at the boundary that opens the step being built (R123) -/
  unfitNext : List Nat := []
  /-- rows asked by the candidates of the last freeze point: decode and prefill (R238) -/
  asked : Nat × Nat := (0, 0)
  preempt : Option Preempt := none
  clamp : Option Clamp := none
  /-- its context records while it is not resident (R266, R267) -/
  saved : Tab Ctx := []
  lrb : Tab Lrb := []
  lrbQueue : List Req := []
  blocked : Bool := false
  blockOrder : Nat := 0
  clampedBlocked : Bool := false
  storeFailed : Bool := false
  runnableOrder : Nat := 0
  restoredOrder : Nat := 0
  fwBank : Nat := 0
  deriving DecidableEq, Repr

/-- A slice set (R255, R256): slicing, its owner, freeze points within target in a row, and a change of
slicing that waits for the next boundary. -/
structure Slice where
  slicing : Bool := false
  owner : Option Nat := none
  within : Nat := 0
  change : Option Bool := none
  /-- members that have had a turn in the present round, and the slot of the last turn -/
  served : List Nat := []
  last : Nat := 7
  deriving DecidableEq, Repr

/-! ## Bring-up, OTP and resets (spec/18_bringup.md) -/

/-- A soft reload in progress (R389): its instance, whether its reload work has been done, the slots each
partition is restored to, and the generation before. -/
structure Reload where
  path : Path
  cseq : Nat
  worked : Bool
  slots : List (Nat × Nat)
  oldGen : Nat
  deriving DecidableEq, Repr

/-- Power, test and bring-up. `stage` is BOOT_STAGE. -/
structure Boot where
  prstLow : Bool := true
  testMode : Bool := false
  testHeld : Bool := false
  stage : Nat := 0
  stopped : Bool := false
  plls : List Nat := []
  tileMhz : Nat := 1500
  tileFails : List Nat := []
  reload : Option Reload := none
  mountDue : Bool := false
  deriving DecidableEq, Repr

/-- The OTP array (Table BOOT-5) and the generation in force; it survives every reset. -/
structure Otp where
  bytes : Tab Byte
  gen : Option Nat := none
  reject : Nat := 0
  clipped : Nat := 0
  deriving DecidableEq, Repr

/-! ## Control core (spec/14_control_core.md) -/

/-- FW_STATE (Table CORE-8). -/
inductive FwSt where
  | boot
  | running
  | standbyReady
  | changeover
  | restarting
  deriving DecidableEq, Repr

/-- `0.0033`. -/
def FwSt.code : FwSt → Nat
  | .boot => 0
  | .running => 1
  | .standbyReady => 2
  | .changeover => 3
  | .restarting => 4

/-- A changeover in progress (R305): the bank it runs toward, and the instance that asked for it. -/
structure Change where
  bank : Nat
  inst : Option (Nat × Path × Nat)
  deriving DecidableEq, Repr

/-- An Event Ring entry of Table CORE-6. -/
abbrev EvEntry := List W64

/-- The control core as far as the spec describes it from outside. -/
structure Core where
  st : FwSt := .boot
  /-- the state a restart returns to -/
  back : FwSt := .running
  bank : Nat := 0
  /-- VER of a verified image in bank 0 and bank 1 -/
  ver0 : Option Nat := none
  ver1 : Option Nat := none
  change : Option Change := none
  intr : Nat := 0
  wdogHalf : Bool := false
  apctl : W64 := 0
  apFault : Bool := false
  apData : W64 := 0
  /-- the byte of its line that the last aperture read began at -/
  apOff : Nat := 0
  evHead : Nat := 0
  backlog : List EvEntry := []
  evDropped : Nat := 0
  /-- an entry has been unread for 100 µs (R311) -/
  evTimer : Bool := false
  cpEnded : Bool := false
  /-- the watchdog has expired before -/
  expired : Bool := false
  deriving DecidableEq, Repr

/-! ## I3C sideband (spec/15_dictionary.md R326 to R328) -/

/-- The sideband target. `frameBad` marks a discarded write frame, `wasRead` that the last operation is a READ; `ibis` the
in-band interrupts raised and not yet taken by the controller, oldest first; `answer` the bytes of the last answer. The
limits of the frames begin at what an operation of one word takes (notes/assumptions/7.md). -/
structure I3c where
  dyn : Option Nat := none
  mwl : Nat := 24
  mrl : Nat := 20
  ibiOn : Bool := false
  ibis : List Nat := []
  frameBad : Bool := false
  wasRead : Bool := false
  answer : List Byte := []
  nack : Bool := false
  deriving DecidableEq, Repr

/-! ## Outputs and time -/

/-- A memory of what the outputs last carried: answers of the Page Port, the Control Port and the Accumulator
Port, the last SQ_EV event, the time of day. -/
structure Out where
  pgp : W64 := 0
  cpErr : Bool := false
  cpData : W64 := 0
  rdy : Option Nat := none
  rdyCount : Nat := 0
  sqEv : Option (Nat × Nat × Nat × W64) := none
  popped : W64 := 0
  deriving DecidableEq, Repr

/-- The time-of-day input: the last valid sample and whether the present one is valid (R370). -/
structure Tod where
  valid : Bool := false
  sec : Nat := 0
  ns : Nat := 0
  any : Bool := false
  deriving DecidableEq, Repr

/-! ## Flash (spec/08_flash.md) -/

/-- The geometry of the tier (R154, Table FLASH-2). -/
structure Geo where
  page : Nat
  spare : Nat
  pages : Nat
  blocks : Nat
  luns : Nat
  planes : Nat
  tr : Nat
  tbers : Nat
  retry : Nat
  rate : Nat
  deriving DecidableEq, Repr

/-- A physical block of the block table (R158). `st`: 0 free, 1 open, 2 closed, 3 erasing, 4 retired. `jr`: it holds journal pages. -/
structure Blk where
  erases : Nat := 0
  reads : Nat := 0
  st : Nat := 0
  next : Nat := 0
  jr : Bool := false
  deriving DecidableEq, Repr

/-- A flash read in progress (R159): its request, its place, its retry level. -/
structure FlRead where
  req : Req
  mu : Nat
  lun : Nat
  block : Nat
  level : Nat := 0
  deriving DecidableEq, Repr

/-- A program that waits or is in progress (R161): the map unit, its place, its sequence number, and what it is for: 0 publish,
1 collector, 2 a journal page, 3 wear levelling, 4 read disturb, 5 ECC relocation. A journal page has a number that its two copies
share, the channel of its other copy, and its records (R168): map unit, and 2 for a publish or 6 for a move of the collector. -/
structure FlProg where
  mu : Nat
  lun : Nat
  block : Nat
  page : Nat
  use : Nat
  bseq : Nat
  started : Bool := false
  jid : Nat := 0
  pair : Nat := 0
  recs : List (Nat × Nat) := []
  /-- the data of the unit that it programs -/
  data : List Byte := []
  deriving DecidableEq, Repr

/-- A unit of a publish (R165). `st`: 0 waiting, 5 assembly reads outstanding, 7 waiting for free blocks, 1 programming, 2 read back,
6 an image's unit that has passed its read-back, 3 journal, 4 durable record. -/
structure PubUnit where
  mu : Nat
  bytes : List Byte
  entry : W64 := 0
  st : Nat := 0
  tries : Nat := 0
  owed : Nat := 0
  bseq : Nat := 0
  deriving DecidableEq, Repr

/-- A publish in progress (R164 to R166). `failed`: it has ended with PUBLISH_FAIL, and the units before the failed one wait for their
boundary. -/
structure Publish where
  path : Path
  cseq : Nat
  d : Nat
  handle : Nat
  thawed : Bool
  first : Nat
  img : Bool
  src : Nat
  bseq : Nat
  units : List PubUnit
  xs : List Nat := []
  passed : Bool := false
  failed : Bool := false
  deriving DecidableEq, Repr

/-- A copy of a map unit on the flash, as the metadata of its codewords name it (R156, R169). -/
structure Copy where
  mu : Nat
  lun : Nat
  block : Nat
  page : Nat
  bseq : Nat
  bytes : List Byte
  deriving DecidableEq, Repr

/-- The flash tier. `dur` is the durable map on the flash itself; the map in use lies in T1 (R158). -/
structure Fl where
  found : Tab Nat := []
  ces : Tab (List Nat) := []
  geo : Option Geo := none
  /-- the transfer rate that each mounted chip enable allows, in MT/s (R155) -/
  ceRate : Tab Nat := []
  present : Bool := false
  formatted : Bool := false
  userMu : Nat := 0
  bseq : Nat := 0
  dur : Tab W64 := []
  blocks : Tab Blk := []
  /-- the erase count of the blocks of a LUN that are not listed -/
  base : Tab Nat := []
  /-- programmed copies whose blocks have not been erased -/
  copies : List Copy := []
  /-- blocks that carry the factory's bad-block mark, as enumeration finds them -/
  factory : List Nat := []
  journal : Nat := 0
  /-- the checkpoint area that holds the newer checkpoint (R168) -/
  ckArea : Nat := 0
  reads : List FlRead := []
  progs : List FlProg := []
  /-- erases queued: LUN, block, started -/
  erases : List (Nat × Nat × Bool) := []
  pubs : List Publish := []
  /-- fenced reads (R162): LUN, partition and step parity, codeword -/
  fences : List (Nat × Nat × Nat) := []
  /-- entries that collectors have moved, by map unit, not yet durable -/
  moving : Tab W64 := []
  /-- moves of the collector that wait for a free page: map unit and use (R159, R168) -/
  relocs : List (Nat × Nat) := []
  /-- journal records that wait for pages on two channels -/
  jwait : List (Nat × Nat) := []
  nextJ : Nat := 1
  /-- the MGMT period in which the program or erase of a LUN began, and the spans that ended in the last 10 ms (R161) -/
  since : Tab Nat := []
  spent : List (Nat × Nat × Nat) := []
  /-- the ONFI commands of the last work of each channel, in order (Table FLASH-1) -/
  ops : Tab (List Nat) := []
  lost : List Nat := []
  rebuild : Bool := false
  zq : Nat := 0
  capLow : Bool := false
  deriving DecidableEq, Repr

/-! ## Reliability (spec/19_reliability.md) -/

/-- What a logical tile runs (R75, R252): the partition, the window, the stage and the unit of its weight block in progress,
and the slot it served last. -/
structure TileRun where
  run : Option (Nat × PosKey × Stage × Nat) := none
  last : Nat := 7
  deriving DecidableEq, Repr

/-- Tile health and repair: TILE_STATE, TILE_MAP, substitutions that wait for a window boundary with the windows that were
current when each was asked for (logical tile, partition, window), error scores, known-answer results that failed, the
scrubber's place, REPLACE_REQ and poisoned lines; and what each logical tile runs. -/
structure Rel where
  tiles : Tab Nat := []
  map : Tab Nat := []
  runs : Tab TileRun := []
  /-- the slot whose item pass 2 of the training unit served last (R252) -/
  trained : Nat := 7
  subst : List (Nat × Nat) := []
  substAt : List (Nat × Nat × PosKey) := []
  score : Tab Nat := []
  katFail : List Nat := []
  scrub : Nat := 0
  replace : Bool := false
  poison : List (Nat × Nat) := []
  deriving DecidableEq, Repr

/-! ## Debug and replay (spec/20_debug_replay.md) -/

/-- A replay record that is open (R422): its start in the ring, what was taken at its opening boundary, its event
entries, its digests and whether entries were dropped. -/
structure RRec where
  step : Nat
  start : Nat
  fwver : Nat
  tb : Option Nat
  dhat : Nat
  objs : List W64
  man : List Byte
  entries : List (W64 × W64) := []
  digests : List (W64 × W64) := []
  dropped : Bool := false
  deriving DecidableEq, Repr

/-- A replay in progress (R428, R429). -/
structure Replay where
  path : Path
  cseq : Nat
  slot : Nat
  recAt : Nat
  capAt : Nat
  granules : Nat
  quads : Nat
  deriving DecidableEq, Repr

/-- Test and debug: TAP instruction and last data out, instrument results, trace buffer, replay records by
partition and the replay that runs. -/
structure Dbg where
  ir : Nat := 0
  dr : W64 := 0
  mbist : List (Nat × Bool) := []
  ring : List (Nat × Bool × Bool) := []
  trace : Tab (W64 × W64) := []
  wptr : Nat := 0
  last : Option W64 := none
  fresh : Bool := true
  rrHead : Tab Nat := []
  recs : Tab RRec := []
  replay : Option Replay := none
  deriving DecidableEq, Repr

end Sys2Proof.Machine
end

