-- ==== Sys2Proof/Syntax.lean ====
section
/-! DEFINITION. The commands and events of the block: one constructor for each row of spec/opcode_table.json,
with what the outside world supplies with it. A dictionary command's row names no instance: it is the acting of
the oldest accepted instance of its object (R323); an end of longer work names the instance. -/

namespace Sys2Proof

open Sys2Proof.Machine (Path CmdRef Shape)

/-- The commands and events of Penra, in the order of spec/opcode_table.json. Operands: `p` resident slot, `d`
defined partition, `q` engine or quad, `m` memory port, `ch` flash channel, `r` a command instance, `ok` an
outcome the outside world decides, `w` a 64-bit word. -/
inductive Instr where
  | resetSoft
  | softReloadWork
  | resetPart
  | bdlOpen
  | bdlCommit
  | bdlAbort
  | bundleExpired (b : Nat)
  | fwLoad
  | fwLoadEnd (r : CmdRef)
  | fwSwitch
  | fwRevert
  | objAlloc
  | objFree
  | objMove
  | objMoveCancel
  | moveCopyEnd (d handle xidx : Nat) (ok : Bool)
  | publishImage
  | publishThawed
  | publishReadBack (mu : Nat) (crcs : List Nat)
  | flFormat
  | adptLoad
  | adptLoadChecksEnd (r : CmdRef)
  | adptUnload
  | ctxRebind
  | tblDefine
  | tblDrop
  | poolDef
  | trowPut
  | trowPutCopyEnd (r : CmdRef) (ok : Bool)
  | trowFlip
  | foldBackEnd (d tid row : Nat) (ok : Bool)
  | trainAttach
  | trainDetach
  | trainSweep
  | trainDiscard
  | exportSnap
  | manSubmit
  | planLoad (shape : Shape)
  | planUnload
  | partStart
  | partQuiesce
  | partClamp
  | tileMapout
  | cntClear
  | replayRun
  | replayEnd
  | otpSeal
  | otpVoid
  | otpWo1Write (path : Path) (ok : Bool)
  | read (path : Path) (w : W64)
  | write (path : Path) (w : W64)
  | writeB (path : Path) (w : W64)
  | odstsRead (path : Path)
  | registerWrite (path : Path) (offset : Nat) (w : W64) (be : Nat)
  | rqDb (p : Nat) (w : W64) (be : Nat)
  | cqDb (p : Nat) (w : W64) (be : Nat)
  | expDb (p : Nat) (w : W64) (be : Nat)
  | evDb (w : W64) (be : Nat)
  | watchdogWrite (w : W64)
  | intStatusClear (w : W64)
  | segmentPush (q p : Nat) (w0 w1 : W64)
  | fifoPop (q : Nat) (which : Nat)
  | sxCoreWrite (q p n : Nat) (w : W64)
  | apertureAccess (write : Bool) (offset : Nat) (w : W64)
  | sidebandWriteFrame (bytes : List Byte)
  | sidebandReadFrame
  | entdaa (addr : Nat)
  | setdasa (saddr addr : Nat)
  | rstdaa
  | enec (events : Nat)
  | disec (events : Nat)
  | getpid
  | getbcr
  | getdcr
  | getstatus
  | setmwl (n : Nat)
  | getmwl
  | setmrl (n : Nat)
  | getmrl
  | rstact (action : Nat)
  | cccNack (code : Nat)
  | idcode
  | ijtag (sibs : Nat) (mbist : Option (Nat × Bool)) (sel : Option W64)
  | scan
  | bypass
  | testModeRise
  | testModeFall
  | hardReset
  | resetRelease
  | pllLock (pll : Nat)
  | bringupStageEnd (fails : List Nat) (flash : List (Nat × Nat × List Nat))
  | mapRebuildEnd
  | mpInitAck (m : Nat)
  | panelRecord (w0 w1 : W64) (payload : List (BitVec 2048))
  | posRecord (w0 w1 : W64)
  | outcomeRecord (w0 w1 : W64) (payload : List (BitVec 2048))
  | epilogueRequest (ereq : Nat)
  | xpReadData (data : List (BitVec 32))
  | xpWriteAccept
  | emberAfter (d c : Nat)
  | emberExpiry (d c : Nat)
  | emberPageCopyEnd (c page : Nat)
  | adoptionCopyEnd (c pos : Nat)
  | newReq (p : Nat)
  | append (p : Nat)
  | pause (p : Nat)
  | cancel (p : Nat)
  | mpReadResponse (m tag beat st : Nat)
  | mpWriteAck (m tag st : Nat)
  | replyLifetimeExpiry (m tag : Nat)
  | quarantineExpiry (m tag : Nat)
  | lrbExpiry (d entry : Nat)
  | slotLookup (w : W64)
  | nodeLookup (w : W64)
  | pageLookup (w : W64)
  | maskLookup (w : W64)
  | todSample (sec ns : Nat) (lock : Bool)
  | flashReadDone (ch : Nat) (ok : Bool) (errs crc : Nat) (lunLost : Bool)
  | flashProgramDone (ch ce lun block : Nat) (ok : Bool)
  | flashEraseDone (ch ce lun block : Nat) (ok : Bool)
  | checkpoint
  | gcReclaim (ch ce lun : Nat)
  | wearLevel
  | readDisturbRelocate (ch ce lun block : Nat)
  | fenceBreak (ch ce lun : Nat)
  | zqShort
  | lunLost (ch ce lun : Nat)
  | kindlingStart (p : Nat)
  | dirtyWriteBack (p place : Nat)
  | weightBlockEnd (p win unit : Nat) (fault : Bool)
  | spareSubstitution (l : Nat)
  | holdCeiling (p : Nat)
  | urgentTimer (d : Nat)
  | clampSaveEnd (d : Nat)
  | restoreStart
  | restoreEnd (d : Nat)
  | partitionBlocked (d : Nat)
  | weightGradientPhase (p tslot : Nat)
  | updatePass1 (p group : Nat)
  | updateItem (p : Nat)
  | segmentStart (q p : Nat)
  | endSeg (q : Nat) (w : W64)
  | setlen (q : Nat) (w : W64)
  | sig (q : Nat) (w : W64)
  | fence (q : Nat) (w : W64)
  | sxset (q : Nat) (w : W64)
  | sxget (q : Nat) (w : W64)
  | add (q : Nat) (w : W64)
  | sub (q : Nat) (w : W64)
  | mul (q : Nat) (w : W64)
  | div (q : Nat) (w : W64)
  | sqrt (q : Nat) (w : W64)
  | min (q : Nat) (w : W64)
  | max (q : Nat) (w : W64)
  | abs (q : Nat) (w : W64)
  | neg (q : Nat) (w : W64)
  | cmplt (q : Nat) (w : W64)
  | cmple (q : Nat) (w : W64)
  | cmpeq (q : Nat) (w : W64)
  | sel (q : Nat) (w : W64)
  | iadd (q : Nat) (w : W64)
  | isub (q : Nat) (w : W64)
  | imul (q : Nat) (w : W64)
  | and (q : Nat) (w : W64)
  | or (q : Nat) (w : W64)
  | xor (q : Nat) (w : W64)
  | shl (q : Nat) (w : W64)
  | shr (q : Nat) (w : W64)
  | sar (q : Nat) (w : W64)
  | imin (q : Nat) (w : W64)
  | imax (q : Nat) (w : W64)
  | mov (q : Nat) (w : W64)
  | cvt (q : Nat) (w : W64)
  | red (q : Nat) (w : W64)
  | lda (q : Nat) (w : W64)
  | ldl (q : Nat) (w : W64)
  | stl (q : Nat) (w : W64)
  | lds (q : Nat) (w : W64)
  | sts (q : Nat) (w : W64)
  | xld (q : Nat) (w : W64)
  | xst (q : Nat) (w : W64)
  | scl (q : Nat) (w : W64)
  | transferEnd (q xtag : Nat) (ok : Bool)
  | watchdogExpiry (within1s : Bool)
  | watchdogHalf
  | eventIrqTimer
  | scrubPeriod (finds : List (Nat × Nat × Bool))
  | errorScoreHalving
  | knownAnswerTest (tile : Nat) (pass : Bool)
  | sketchAgeing
  | flashMountEnd (readable : Bool) (flash : List (Nat × Nat × List Nat)) (samples : List (Nat × Nat))
  | fwRestartEnd
  | bucketRefill
  | mpRequestAccept (m : Nat)
  | fifoStallTimeout (q : Nat)
  deriving DecidableEq, Repr

end Sys2Proof
end

