-- ==== Sys2Proof/Machine/Crypto.lean ====
section
/-! DEFINITION. The ciphers the spec names by their standards: AES-256 (FIPS 197), GCM (NIST SP 800-38D, R53, R303),
CMAC (NIST SP 800-38B) and the counter-mode KDF of NIST SP 800-108 (R396). A block is its 16 bytes in order. -/

namespace Sys2Proof.Machine

/-- The S-box of FIPS 197 as one number: byte `x` of it is S(x). -/
def sboxBits : Nat := (((((((0x16bb54b00f2d99416842e6bf0d89a18cdf2855cee9871e9b948ed9691198f8e1) * 2 ^ 256 +
  0x9e1dc186b95735610ef6034866b53e708a8bbd4b1f74dde8c6b4a61c2e2578ba) * 2 ^ 256 +
  0x08ae7a65eaf4566ca94ed58d6d37c8e779e4959162acd3c25c2406490a3a32e0) * 2 ^ 256 +
  0xdb0b5ede14b8ee4688902a22dc4f816073195d643d7ea7c41744975fec130ccd) * 2 ^ 256 +
  0xd2f3ff1021dab6bcf5389d928f40a351a89f3c507f02f94585334d43fbaaefd0) * 2 ^ 256 +
  0xcf584c4a39becb6a5bb1fc20ed00d153842fe329b3d63b52a05a6e1b1a2c8309) * 2 ^ 256 +
  0x75b227ebe28012079a059618c323c7041531d871f1e5a534ccf73f362693fdb7) * 2 ^ 256 +
  0xc072a49cafa2d4adf04759fa7dc982ca76abd7fe2b670130c56f6bf27b777c63

def sbox (x : Nat) : Nat := (sboxBits >>> (8 * x)) % 256

/-- Multiplication by x in GF(2^8). -/
def xtime (a : Nat) : Nat := if a < 128 then 2 * a else (2 * a) % 256 ^^^ 0x1B

/-- The key schedule's round constant: `n` doublings of 1. -/
def rcon : Nat → Nat
  | 0 => 1
  | n + 1 => xtime (rcon n)

def xorBytes (a b : List Nat) : List Nat := List.zipWith (· ^^^ ·) a b

/-- The next 32 bytes of the AES-256 key schedule after `k`. -/
def keyNext (k : List Nat) (i : Nat) : List Nat :=
  let w (n : Nat) := (k.drop (4 * n)).take 4
  let l := w 7
  let rot := (l.drop 1 ++ l.take 1).map sbox
  let t := match rot with | a :: r => (a ^^^ rcon i) :: r | [] => []
  let n0 := xorBytes (w 0) t
  let n1 := xorBytes (w 1) n0
  let n2 := xorBytes (w 2) n1
  let n3 := xorBytes (w 3) n2
  let n4 := xorBytes (w 4) (n3.map sbox)
  let n5 := xorBytes (w 5) n4
  let n6 := xorBytes (w 6) n5
  let n7 := xorBytes (w 7) n6
  n0 ++ n1 ++ n2 ++ n3 ++ n4 ++ n5 ++ n6 ++ n7

/-- The expanded key: `n` further pieces of 32 bytes. -/
def keyExpand : Nat → Nat → List Nat → List Nat
  | 0, _, k => k
  | n + 1, i, k => k ++ keyExpand n (i + 1) (keyNext k i)

/-- ShiftRows on 16 bytes in column order. -/
def shiftRows (b : List Nat) : List Nat :=
  (List.range 16).map (fun i => b.getD ((i + 4 * (i % 4)) % 16) 0)

/-- MixColumns on one column. -/
def mixCol : List Nat → List Nat
  | [a, b, c, d] =>
    let t := a ^^^ b ^^^ c ^^^ d
    [a ^^^ t ^^^ xtime (a ^^^ b), b ^^^ t ^^^ xtime (b ^^^ c), c ^^^ t ^^^ xtime (c ^^^ d), d ^^^ t ^^^ xtime (d ^^^ a)]
  | l => l

def mixColumns (b : List Nat) : List Nat :=
  mixCol (b.take 4) ++ mixCol ((b.drop 4).take 4) ++ mixCol ((b.drop 8).take 4) ++ mixCol ((b.drop 12).take 4)

/-- The rounds 1 to 13, then the last round. -/
def aesRounds : Nat → List Nat → List Nat → List Nat
  | 0, ks, b => xorBytes (shiftRows (b.map sbox)) (ks.take 16)
  | n + 1, ks, b => aesRounds n (ks.drop 16) (xorBytes (mixColumns (shiftRows (b.map sbox))) (ks.take 16))

/-- AES-256 of one block under a 32-byte key. -/
def aes256 (key block : List Nat) : List Nat :=
  let ks := keyExpand 7 0 key
  aesRounds 13 (ks.drop 16) (xorBytes block (ks.take 16))

/-- Big-endian number of bytes and back. -/
def beNat (bs : List Nat) : Nat := bs.foldl (fun n b => n * 256 + b) 0

def beBytes : Nat → Nat → List Nat
  | 0, _ => []
  | n + 1, v => beBytes n (v / 256) ++ [v % 256]

/-- Multiplication in GF(2^128) with the bit order of GCM: `z` accumulates while the bits of `x` are taken
from the most significant. -/
def ghMul : Nat → Nat → Nat → Nat → Nat
  | 0, _, _, z => z
  | n + 1, x, v, z =>
    let z' := if bitOf x n then z ^^^ v else z
    let v' := if v % 2 = 1 then (v / 2) ^^^ (0xE1 * 2 ^ 120) else v / 2
    ghMul n x v' z'

/-- Cut bytes into blocks of 16, the last padded with zeros. -/
def blocks16Aux : Nat → List Nat → List (List Nat)
  | 0, _ => []
  | _, [] => []
  | n + 1, l => let b := l.take 16; (b ++ List.replicate (16 - b.length) 0) :: blocks16Aux n (l.drop 16)

def blocks16 (l : List Nat) : List (List Nat) := blocks16Aux (l.length / 16 + 1) l

def ghash (h : Nat) (bs : List (List Nat)) : Nat :=
  bs.foldl (fun y b => ghMul 128 (y ^^^ beNat b) h 0) 0

/-- The counter block `i` for a 96-bit nonce given as 12 bytes. -/
def ctrBlock (nonce : List Nat) (i : Nat) : List Nat := nonce ++ beBytes 4 (i % 2 ^ 32)

/-- Counter-mode bytes of `data`, whose first byte is payload byte `16 * (first - 2)` (R53). -/
def ctrCrypt (key nonce : List Nat) (first : Nat) (data : List Nat) : List Nat :=
  let n := data.length / 16 + 1
  let ks := (List.range n).flatMap (fun i => aes256 key (ctrBlock nonce (first + i)))
  List.zipWith (· ^^^ ·) data ks

/-- The GCM tag over additional data and ciphertext. -/
def gcmTag (key nonce aad ct : List Nat) : List Nat :=
  let h := beNat (aes256 key (List.replicate 16 0))
  let lens := beBytes 8 (8 * aad.length) ++ beBytes 8 (8 * ct.length)
  let y := ghash h (blocks16 aad ++ blocks16 ct ++ [lens])
  xorBytes (beBytes 16 y) (aes256 key (ctrBlock nonce 1))

/-- Doubling in GF(2^128) for the CMAC subkeys. -/
def cmacDbl (l : Nat) : Nat := if l < 2 ^ 127 then 2 * l else (2 * l) % 2 ^ 128 ^^^ 0x87

/-- AES-256-CMAC of a non-empty message of at most 16 bytes: one block (SP 800-38B). -/
def cmac1 (key msg : List Nat) : List Nat :=
  let l := beNat (aes256 key (List.replicate 16 0))
  let k1 := cmacDbl l
  if msg.length = 16 then aes256 key (xorBytes msg (beBytes 16 k1))
  else
    let padded := (msg ++ [0x80] ++ List.replicate 16 0).take 16
    aes256 key (xorBytes padded (beBytes 16 (cmacDbl k1)))

/-- One KDF block of R396. -/
def kdfBlock (root : List Nat) (i keyid : Nat) : List Nat :=
  cmac1 root ([i, 0x50, 0x4E, 0x52, 0x4B, 0x00] ++
    [keyid % 256, keyid / 2 ^ 8 % 256, keyid / 2 ^ 16 % 256, keyid / 2 ^ 24 % 256] ++ [0, 0, 1, 0])

/-- R396: the key of a KEYID from the device root key. -/
def deriveKey (root : List Nat) (keyid : Nat) : List Nat := kdfBlock root 1 keyid ++ kdfBlock root 2 keyid

end Sys2Proof.Machine
end

