-- ==== Sys2Proof/Machine/Num.lean ====
section
/-! DEFINITION. Number formats, rounding and the substitutions of "Number Formats, Rounding and Determinism"
(spec/02_numbers.md, R21 to R37): every value is an exact signed dyadic `±m · 2^e` between a read of its
encoding and one rounding. -/

namespace Sys2Proof.Machine

/-- A finite value `±m · 2^e`, with the sign of a zero kept. -/
structure Dy where
  neg : Bool
  m : Nat
  e : Int
  deriving DecidableEq, Repr

/-- +0. -/
def Dy.zero : Dy := { neg := false, m := 0, e := 0 }

/-- The counts of Table NUM-4: the census of an instruction before its fields saturate (Table EE-8). -/
structure Census where
  nan : Nat := 0
  inf : Nat := 0
  sat : Nat := 0
  clamp : Nat := 0
  scaleNan : Nat := 0
  deriving DecidableEq, Repr

/-- The sum of two censuses. -/
def Census.add (a b : Census) : Census :=
  { nan := a.nan + b.nan, inf := a.inf + b.inf, sat := a.sat + b.sat, clamp := a.clamp + b.clamp,
    scaleNan := a.scaleNan + b.scaleNan }

/-- A floating-point format of Table NUM-1: exponent and mantissa widths, bias, whether it has infinities,
how its NaNs are coded (0 none, 1 the IEEE way, 2 the one code S.1111.111 of E4M3), and its largest finite
value `maxM · 2^maxE`. -/
structure FloatFmt where
  ebits : Nat
  mbits : Nat
  bias : Int
  ieee : Bool
  e4m3Nan : Bool
  maxM : Nat
  maxE : Int
  deriving DecidableEq, Repr

def fp32 : FloatFmt := { ebits := 8, mbits := 23, bias := 127, ieee := true, e4m3Nan := false, maxM := 2 ^ 24 - 1, maxE := 104 }
def bf16 : FloatFmt := { ebits := 8, mbits := 7, bias := 127, ieee := true, e4m3Nan := false, maxM := 255, maxE := 120 }
def fp16 : FloatFmt := { ebits := 5, mbits := 10, bias := 15, ieee := true, e4m3Nan := false, maxM := 2047, maxE := 5 }
def e4m3 : FloatFmt := { ebits := 4, mbits := 3, bias := 7, ieee := false, e4m3Nan := true, maxM := 14, maxE := 5 }
def e5m2 : FloatFmt := { ebits := 5, mbits := 2, bias := 15, ieee := true, e4m3Nan := false, maxM := 7, maxE := 13 }
def e3m2 : FloatFmt := { ebits := 3, mbits := 2, bias := 3, ieee := false, e4m3Nan := false, maxM := 7, maxE := 2 }
def e2m3 : FloatFmt := { ebits := 2, mbits := 3, bias := 1, ieee := false, e4m3Nan := false, maxM := 15, maxE := -1 }
def e2m1 : FloatFmt := { ebits := 2, mbits := 1, bias := 1, ieee := false, e4m3Nan := false, maxM := 3, maxE := 1 }

/-- What an encoding holds. -/
inductive FVal where
  | nan
  | inf (neg : Bool)
  | fin (v : Dy)
  deriving DecidableEq, Repr

/-- Read an encoding (Table NUM-1). -/
def FloatFmt.read (f : FloatFmt) (w : Nat) : FVal :=
  let man := w % 2 ^ f.mbits
  let ex := (w >>> f.mbits) % 2 ^ f.ebits
  let neg := bitOf w (f.mbits + f.ebits)
  let top := 2 ^ f.ebits - 1
  if f.ieee && ex == top then (if man == 0 then .inf neg else .nan)
  else if f.e4m3Nan && ex == top && man == 2 ^ f.mbits - 1 then .nan
  else if ex == 0 then .fin { neg := neg, m := man, e := 1 - f.bias - (f.mbits : Int) }
  else .fin { neg := neg, m := 2 ^ f.mbits + man, e := (ex : Int) - f.bias - (f.mbits : Int) }

/-- A read with the substitutions of R37: NaN gives +0, an infinity the largest finite of the format. -/
def FloatFmt.readSub (f : FloatFmt) (w : Nat) : Dy × Census :=
  match f.read w with
  | .nan => (Dy.zero, { nan := 1 })
  | .inf n => ({ neg := n, m := f.maxM, e := f.maxE }, { inf := 1 })
  | .fin v => (v, {})

/-- Round-to-nearest-even, or stochastic rounding with the random word `u` of R36. -/
inductive Rnd where
  | rne
  | sr (u : Nat)
  deriving DecidableEq, Repr

/-- `m · 2^s` rounded to an integer: by R34, or by R35 with the dropped fraction taken to 32 bits. -/
def roundShift (r : Rnd) (m : Nat) (s : Int) : Nat :=
  if 0 ≤ s then m <<< s.toNat
  else
    let n := (-s).toNat
    let k := m >>> n
    let rem := m % 2 ^ n
    match r with
    | .rne =>
      let half := 2 ^ (n - 1)
      if rem > half then k + 1 else if rem == half then (if k % 2 == 1 then k + 1 else k) else k
    | .sr u => if u < (rem <<< 32) >>> n then k + 1 else k

/-- The exponent of the spacing of a format at `m · 2^e`, `m ≠ 0`. -/
def FloatFmt.quantum (f : FloatFmt) (m : Nat) (e : Int) : Int :=
  let l := (Nat.log2 m : Int) + e
  let emin := 1 - f.bias
  (if l < emin then emin else l) - (f.mbits : Int)

/-- `a · 2^ea` is above `b · 2^eb`. -/
def dyAbove (a : Nat) (ea : Int) (b : Nat) (eb : Int) : Bool :=
  if ea ≥ eb then decide (b < a <<< (ea - eb).toNat) else decide (b <<< (eb - ea).toNat < a)

/-- The encoding of `k · 2^q`, a value of the format. -/
def FloatFmt.pack (f : FloatFmt) (neg : Bool) (k : Nat) (q : Int) : Nat :=
  let s := if neg then 2 ^ (f.mbits + f.ebits) else 0
  if k < 2 ^ f.mbits then s + k
  else s + ((q + (f.mbits : Int) + f.bias).toNat <<< f.mbits) + (k - 2 ^ f.mbits)

/-- The encoding of the largest finite value with a sign. -/
def FloatFmt.maxCode (f : FloatFmt) (neg : Bool) : Nat := f.pack neg f.maxM f.maxE

/-- One rounding into a format; the flag says that the rounded result lay beyond the largest finite value
and was replaced by it (R37). -/
def FloatFmt.round (f : FloatFmt) (r : Rnd) (v : Dy) : Nat × Bool :=
  if v.m = 0 then (f.pack v.neg 0 0, false)
  else
    let q := f.quantum v.m v.e
    let k := roundShift r v.m (v.e - q)
    let (k, q) := if k = 2 ^ (f.mbits + 1) then (2 ^ f.mbits, q + 1) else (k, q)
    if dyAbove k q f.maxM f.maxE then (f.maxCode v.neg, true) else (f.pack v.neg k q, false)

/-- One rounding into FP32 with its census. -/
def rnd32 (v : Dy) : Nat × Census :=
  let (w, s) := fp32.round .rne v
  (w, { sat := if s then 1 else 0 })

/-- The exact sum; a zero sum is +0 unless both are −0 (IEEE 754-2019, round-to-nearest-even). -/
def Dy.add (a b : Dy) : Dy :=
  let e := if a.e ≤ b.e then a.e else b.e
  let am := a.m <<< (a.e - e).toNat
  let bm := b.m <<< (b.e - e).toNat
  if a.neg == b.neg then { neg := a.neg, m := am + bm, e := e }
  else if bm < am then { neg := a.neg, m := am - bm, e := e }
  else if am < bm then { neg := b.neg, m := bm - am, e := e }
  else { neg := false, m := 0, e := e }

/-- The exact product. -/
def Dy.mul (a b : Dy) : Dy := { neg := a.neg != b.neg, m := a.m * b.m, e := a.e + b.e }

/-- The negation. -/
def Dy.negate (a : Dy) : Dy := { a with neg := !a.neg }

/-- `a / b` for `b.m ≠ 0`, with 64 or more bits of quotient and a sticky last bit: enough for one correct
rounding into any format. -/
def Dy.div (a b : Dy) : Dy :=
  let s := 64 + Nat.log2 b.m
  let n := a.m <<< s
  { neg := a.neg != b.neg, m := 2 * (n / b.m) + (if n % b.m = 0 then 0 else 1), e := a.e - b.e - (s : Int) - 1 }

/-- One step of the digit-by-digit integer square root. -/
def isqrtAux : Nat → Nat → Nat → Nat
  | 0, _, r => r
  | b + 1, n, r =>
    let r' := r + 2 ^ b
    if r' * r' ≤ n then isqrtAux b n r' else isqrtAux b n r

/-- ⌊√n⌋. -/
def isqrt (n : Nat) : Nat := isqrtAux (Nat.log2 n / 2 + 1) n 0

/-- `√a` for `a ≥ 0`, with a sticky last bit. -/
def Dy.sqrt (a : Dy) : Dy :=
  let odd := a.e % 2 != 0
  let m0 := if odd then 2 * a.m else a.m
  let e0 := if odd then a.e - 1 else a.e
  let n := m0 <<< 128
  let r := isqrt n
  { neg := false, m := 2 * r + (if r * r = n then 0 else 1), e := e0 / 2 - 64 - 1 }

/-- `a < b` on values; −0 and +0 are equal. -/
def Dy.lt (a b : Dy) : Bool :=
  if a.m = 0 && b.m = 0 then false
  else if a.m = 0 then !b.neg
  else if b.m = 0 then a.neg
  else if a.neg != b.neg then a.neg
  else if a.neg then dyAbove a.m a.e b.m b.e
  else dyAbove b.m b.e a.m a.e

/-! ## FP32 operations on encodings, each with one rounding and the substitutions of R37 -/

/-- An encoding read as FP32. -/
def in32 (w : Nat) : Dy × Census := fp32.readSub w

def f32Add (a b : Nat) : Nat × Census :=
  let (x, c1) := in32 a; let (y, c2) := in32 b
  let (w, c3) := rnd32 (x.add y); (w, (c1.add c2).add c3)

def f32Sub (a b : Nat) : Nat × Census :=
  let (x, c1) := in32 a; let (y, c2) := in32 b
  let (w, c3) := rnd32 (x.add y.negate); (w, (c1.add c2).add c3)

def f32Mul (a b : Nat) : Nat × Census :=
  let (x, c1) := in32 a; let (y, c2) := in32 b
  let (w, c3) := rnd32 (x.mul y); (w, (c1.add c2).add c3)

/-- DIV of Table EE-6: a zero divisor gives the largest finite value with the product of the signs, counted
as a saturation. -/
def f32Div (a b : Nat) : Nat × Census :=
  let (x, c1) := in32 a; let (y, c2) := in32 b
  if y.m = 0 then (fp32.maxCode (x.neg != y.neg), (c1.add c2).add { sat := 1 })
  else let (w, c3) := rnd32 (x.div y); (w, (c1.add c2).add c3)

/-- SQRT of Table EE-6: a negative operand gives +0, counted as a NaN; √−0 is −0 (IEEE 754-2019). -/
def f32Sqrt (a : Nat) : Nat × Census :=
  let (x, c1) := in32 a
  if x.m = 0 then (fp32.pack x.neg 0 0, c1)
  else if x.neg then (0, c1.add { nan := 1 })
  else let (w, c3) := rnd32 x.sqrt; (w, c1.add c3)

/-- MIN and MAX compare with −0 below +0 (Table EE-6). -/
def ltTotal (x y : Dy) : Bool := if x.m = 0 && y.m = 0 then x.neg && !y.neg else x.lt y

def f32Min (a b : Nat) : Nat × Census :=
  let (x, c1) := in32 a; let (y, c2) := in32 b
  let (w, c3) := rnd32 (if ltTotal y x then y else x); (w, (c1.add c2).add c3)

def f32Max (a b : Nat) : Nat × Census :=
  let (x, c1) := in32 a; let (y, c2) := in32 b
  let (w, c3) := rnd32 (if ltTotal x y then y else x); (w, (c1.add c2).add c3)

def f32Abs (a : Nat) : Nat × Census :=
  let (x, c1) := in32 a; let (w, c3) := rnd32 { x with neg := false }; (w, c1.add c3)

def f32Neg (a : Nat) : Nat × Census :=
  let (x, c1) := in32 a; let (w, c3) := rnd32 x.negate; (w, c1.add c3)

/-- The encoding of 1.0 in FP32. -/
def one32 : Nat := 0x3F800000

/-- The comparisons of Table EE-6 give 1.0 or +0. -/
def f32Cmp (p : Dy → Dy → Bool) (a b : Nat) : Nat × Census :=
  let (x, c1) := in32 a; let (y, c2) := in32 b
  (if p x y then one32 else 0, c1.add c2)

def dyLe (x y : Dy) : Bool := !y.lt x
def dyEq (x y : Dy) : Bool := !x.lt y && !y.lt x

/-! ## INT32, saturating (R288) -/

/-- Saturate an integer to `n` bits of two's complement. -/
def satInt (n : Nat) (i : Int) : Nat × Census :=
  let hi : Int := 2 ^ (n - 1) - 1
  let lo : Int := -(2 ^ (n - 1))
  if hi < i then (hi.toNat, { sat := 1 })
  else if i < lo then ((lo % (2 ^ n : Int)).toNat, { sat := 1 })
  else ((i % (2 ^ n : Int)).toNat, {})

def i32Op (f : Int → Int → Int) (a b : Nat) : Nat × Census := satInt 32 (f (signed 32 a) (signed 32 b))

/-- A dyadic rounded to an integer, with its sign. -/
def Dy.toInt (r : Rnd) (v : Dy) : Int :=
  let k : Int := roundShift r v.m v.e
  if v.neg then -k else k

/-- The dyadic of an integer. -/
def Dy.ofInt (i : Int) : Dy := { neg := decide (i < 0), m := i.natAbs, e := 0 }

/-! ## The MX formats (R23 to R25) -/

/-- The element format of an MX format, with its `e_max`; `none` stands for MXINT8. -/
structure MxFmt where
  elem : Option FloatFmt
  emax : Int
  bits : Nat
  deriving DecidableEq, Repr

def mxfp8e4 : MxFmt := { elem := some e4m3, emax := 8, bits := 8 }
def mxfp8e5 : MxFmt := { elem := some e5m2, emax := 15, bits := 8 }
def mxfp6e3 : MxFmt := { elem := some e3m2, emax := 4, bits := 6 }
def mxfp6e2 : MxFmt := { elem := some e2m3, emax := 2, bits := 6 }
def mxfp4 : MxFmt := { elem := some e2m1, emax := 2, bits := 4 }
def mxint8 : MxFmt := { elem := none, emax := 0, bits := 8 }

/-- Read an MX element, before its block scale. -/
def MxFmt.readElem (f : MxFmt) (w : Nat) : Dy × Census :=
  match f.elem with
  | some g => g.readSub w
  | none => ({ Dy.ofInt (signed 8 w) with e := -6 }, {})

/-- Scale a value by 2^k. -/
def Dy.scale (v : Dy) (k : Int) : Dy := { v with e := v.e + k }

/-- The exponent ⌊log2 m⌋ of the largest magnitude of a block; `none` when every value is zero. -/
def topExp (vs : List Dy) : Option Int :=
  vs.foldl (fun a v =>
    if v.m = 0 then a
    else
      let l : Int := (Nat.log2 v.m : Int) + v.e
      match a with
      | none => some l
      | some b => some (if b < l then l else b)) none

/-- Round one quotient into an element; the flag is a block clamp (R25 step 5): the quotient lies beyond
the largest finite element. -/
def MxFmt.roundElem (f : MxFmt) (r : Rnd) (v : Dy) : Nat × Bool :=
  match f.elem with
  | some g =>
    if v.m ≠ 0 && dyAbove v.m v.e g.maxM g.maxE then (g.maxCode v.neg, true)
    else ((g.round r v).1, false)
  | none =>
    if v.m ≠ 0 && dyAbove v.m v.e 127 (-6) then (if v.neg then 0x81 else 0x7F, true)
    else
      let i := Dy.toInt r (v.scale 6)
      ((i % 256).toNat, false)

/-- R25: the scale byte and the elements of one block, each value with its own rounding. -/
def MxFmt.convBlock (f : MxFmt) (vs : List (Dy × Rnd)) : Nat × List Nat × Census :=
  match topExp (vs.map Prod.fst) with
  | none => (0x7F, vs.map (fun _ => 0), {})
  | some l =>
    let e0 := l - f.emax
    let e : Int := if e0 < -127 then -127 else if 127 < e0 then 127 else e0
    let es := vs.map (fun v => f.roundElem v.2 (v.1.scale (-e)))
    ((e + 127).toNat, es.map Prod.fst, { clamp := (es.filter Prod.snd).length })

/-! ## The register and operand format codes (Tables ADPT-4 and EE-2) -/

/-- The formats a tile register may hold. -/
inductive Fmt where
  | flt (f : FloatFmt)
  | mx (f : MxFmt)
  | int (bits : Nat)
  deriving DecidableEq, Repr

/-- Format code to format (Table EE-2; codes 0x0 to 0x9 are those of Table ADPT-4). -/
def fmtOf : Nat → Option Fmt
  | 0x0 => some (.flt bf16) | 0x1 => some (.flt fp16) | 0x2 => some (.flt e4m3) | 0x3 => some (.flt e5m2)
  | 0x4 => some (.mx mxfp8e4) | 0x5 => some (.mx mxfp8e5) | 0x6 => some (.mx mxfp6e3) | 0x7 => some (.mx mxfp6e2)
  | 0x8 => some (.mx mxfp4) | 0x9 => some (.mx mxint8) | 0xA => some (.flt fp32) | 0xB => some (.int 32)
  | 0xC => some (.int 8) | _ => none

/-- Bits of one element. -/
def Fmt.bits : Fmt → Nat
  | .flt f => 1 + f.ebits + f.mbits
  | .mx f => f.bits
  | .int n => n

/-- The format has block scales. -/
def Fmt.isMx : Fmt → Bool
  | .mx _ => true
  | _ => false

/-- Read one element of a format, without a block scale. -/
def Fmt.readElem : Fmt → Nat → Dy × Census
  | .flt f, w => f.readSub w
  | .mx f, w => f.readElem w
  | .int n, w => (Dy.ofInt (signed n w), {})

/-- Rate factor of R26, doubled so that it is a natural number. -/
def rate2 (code : Nat) : Nat := if code = 0x8 then 4 else if code = 0x0 || code = 0x1 then 1 else 2

/-! ## Sums (R27, R28) -/

/-- One level of the pairwise tree. -/
def pairLevel : List Nat → List Nat × Census
  | a :: b :: t =>
    let (r, c) := f32Add a b
    let (rs, c') := pairLevel t
    (r :: rs, c.add c')
  | l => (l, {})

/-- `levels` levels of the pairwise tree of R28. -/
def pairTree : Nat → List Nat → List Nat × Census
  | 0, l => (l, {})
  | n + 1, l =>
    let (l', c) := pairLevel l
    let (l'', c') := pairTree n l'
    (l'', c.add c')

/-- The smallest `j` with `2^j ≥ n`. -/
def log2up (n : Nat) : Nat := if n ≤ 1 then 0 else Nat.log2 (n - 1) + 1

/-- The list padded with zeros to `n` entries. -/
def padTo (n : Nat) (l : List Nat) : List Nat := l ++ List.replicate (n - l.length) 0

/-- The pairwise tree over FP32 encodings padded with +0 to a power of two (R28, R183). -/
def treeSum (l : List Nat) : Nat × Census :=
  let j := log2up l.length
  let (r, c) := pairTree j (padTo (2 ^ j) l)
  (r.headD 0, c)

/-- Cut a list into pieces of `n` (`fuel` bounds the number of pieces). -/
def chunksAux {α : Type} (n : Nat) : Nat → List α → List (List α)
  | 0, _ => []
  | _, [] => []
  | fuel + 1, l => l.take n :: chunksAux n fuel (l.drop n)

/-- Cut a list into pieces of `n > 0`, the last one shorter. -/
def chunks {α : Type} (n : Nat) (l : List α) : List (List α) := chunksAux n l.length l

/-- A panel sum of at most four block partials: (b0 + b1) + (b2 + b3) (R27 step 2). -/
def panelSum (bs : List Nat) : Nat × Census :=
  let b := padTo 4 bs
  let (x, c1) := f32Add (b.getD 0 0) (b.getD 1 0)
  let (y, c2) := f32Add (b.getD 2 0) (b.getD 3 0)
  let (z, c3) := f32Add x y
  (z, (c1.add c2).add c3)

/-- R206 pass 1 step 2: FP32 terms summed in blocks of 32 by R28 and in panels of 128 under R27. -/
def panelRule (l : List Nat) : Nat × Census :=
  (chunks 128 l).foldl (fun (acc, c) pan =>
    let blocks := (chunks 32 pan).map (fun b => treeSum (padTo 32 b))
    let (s, c1) := panelSum (blocks.map Prod.fst)
    let (a, c2) := f32Add acc s
    (a, blocks.foldl (fun k b => k.add b.2) ((c.add c1).add c2))) (0, {})

/-- One operand block of up to 32 elements: its values after substitution, its scale exponent, and whether
its format is BF16. -/
structure OpBlock where
  vals : List Dy
  scale : Int
  isBf16 : Bool
  deriving DecidableEq, Repr

/-- R27 step 1: the block partial. -/
def blockPartial (a b : OpBlock) : Nat × Census :=
  let prods := List.zipWith Dy.mul a.vals b.vals
  if a.isBf16 || b.isBf16 then
    let rs := prods.map (fun x => rnd32 (x.scale (a.scale + b.scale)))
    let (s, c) := treeSum (padTo 32 (rs.map Prod.fst))
    (s, rs.foldl (fun k r => k.add r.2) c)
  else
    rnd32 ((prods.foldl Dy.add Dy.zero).scale (a.scale + b.scale))

/-- R27 steps 2 and 3: the product of two operands given as their blocks in reduction order, added to an
accumulator that starts at `acc`. -/
def tileDot (acc : Nat) (a b : List OpBlock) : Nat × Census :=
  (chunks 4 (List.zip a b)).foldl (fun (s, c) pan =>
    let ps := pan.map (fun x => blockPartial x.1 x.2)
    let (p, c1) := panelSum (ps.map Prod.fst)
    let (s', c2) := f32Add s p
    (s', ps.foldl (fun k r => k.add r.2) ((c.add c1).add c2))) (acc, {})

/-! ## The random word of R36 -/

/-- One round of `sr_word`, modulo 2^64. -/
def srRound (v : Nat) : Nat :=
  let v := v ^^^ (v >>> 31)
  let v := (v * 0x9E3779B97F4A7C15) % 2 ^ 64
  v ^^^ (v >>> 29)

/-- `sr_word(seed, site, row, col)` (R36). -/
def srWord (seed site row col : Nat) : Nat :=
  let v := seed ^^^ ((site <<< 48) % 2 ^ 64) ^^^ ((row <<< 20) % 2 ^ 64) ^^^ col
  srRound (srRound (srRound v)) >>> 32

/-- The seed of a Penra-built step (R232): three rounds of R36 on SEED_BASE xor STEP, all 64 bits. -/
def stepSeed (base step : Nat) : Nat := srRound (srRound (srRound (base ^^^ step)))

/-! ## Numbers of bytes read from memory -/

/-- The little-endian number of a list of bytes (R4). -/
def leNat (bs : List Byte) : Nat := bs.foldr (fun b n => b.toNat + 256 * n) 0

/-- `n` bytes of a number, least significant first (R4). -/
def leBytes : Nat → Nat → List Byte
  | 0, _ => []
  | k + 1, n => BitVec.ofNat 8 n :: leBytes k (n / 256)

/-- The `w`-bit element `i` of a packed plane given as one little-endian number (R24). -/
def elemAt (plane w i : Nat) : Nat := (plane >>> (w * i)) % 2 ^ w

/-- Decode a column of `n` elements of a format from an element plane and a scale plane, both as
little-endian numbers that begin at the column, into blocks of 32 (R23, R24, R37). -/
def readBlocks (code n plane scales : Nat) : List OpBlock × Census :=
  match fmtOf code with
  | none => ([], {})
  | some f =>
    let m := if f.isMx then p32 n else n
    (List.range (ceilDiv m 32)).foldl (fun (bs, c) b =>
      let cnt := Nat.min 32 (m - 32 * b)
      let sc := (scales >>> (8 * b)) % 256
      let es := (List.range cnt).map (fun i => f.readElem (elemAt plane f.bits (32 * b + i)))
      let c1 := es.foldl (fun k x => k.add x.2) c
      if f.isMx && sc == 255 then
        (bs ++ [{ vals := es.map (fun _ => Dy.zero), scale := 0, isBf16 := false }], c.add { scaleNan := 1 })
      else
        (bs ++ [{ vals := es.map Prod.fst, scale := if f.isMx then (sc : Int) - 127 else 0, isBf16 := code == 0 }], c1))
      ([], {})

end Sys2Proof.Machine
end

