-- ==== Sys2Proof/Machine/Objects.lean ====
section
/-! DEFINITION. The object dictionary as data (R315 to R317, R319, R336 to R340, and the object tables of every
chapter): each row is one object with its index, type, right, effect class, table default and range. -/

namespace Sys2Proof.Machine

/-- How an object is indexed (R338, Table OBJ-2, Table OBJ-7). -/
inductive Ix where
  | one | p | d | m | c | t | s | b | g | tile | ltile | p64 | pm | dm | dc | dt | st
  | xt | ctx | tag | seg | basis | pgdir | trace | ovr
  deriving DecidableEq, Repr

/-- Element count (R338). -/
def Ix.count : Ix → Nat
  | .one => 1 | .p => 8 | .d => 32 | .m => 12 | .c => 16 | .t => 4 | .s => 7 | .b => 4 | .g => 4
  | .tile => 34 | .ltile => 32 | .p64 => 512 | .pm => 96 | .dm => 384 | .dc => 512 | .dt => 128 | .st => 48
  | .xt => 131072 | .ctx => 16384 | .tag => 8388608 | .seg => 2097152 | .basis => 32768
  | .pgdir => 4194304 | .trace => 4096 | .ovr => 40

/-- Object types (Table OD-1). -/
inductive OTy where
  | u (bits : Nat) | i (bits : Nat) | fp | recd (n : Nat) | cmd (n : Nat)
  deriving DecidableEq, Repr

/-- Words of a value (R316, R341). -/
def OTy.words : OTy → Nat
  | .u _ => 1 | .i _ => 1 | .fp => 1 | .recd n => n | .cmd n => n

/-- Rights (Table OD-2). -/
inductive Right where
  | ro | rw | rws | rwq | rwb | wo1 | cmd
  deriving DecidableEq, Repr

/-- Effect classes (Table OD-3). -/
inductive Cls where
  | imm | pp | step | quiesce | reset | bundle
  deriving DecidableEq, Repr

/-- The range column of an object table. `dyn` marks a range that depends on the state
(R110, R130, R151, R192, R247, R249, R260, R338): its test stands in Machine/Dict.lean. -/
inductive Rng where
  | any
  | upto (hi : Nat)
  | within (lo hi : Nat)
  | zeroOr (lo hi : Nat)
  | mult (hi k : Nat)
  | pow2 (lo hi : Nat)
  | oneOf (l : List Nat)
  | signedIn (lo hi : Int)
  | dyn
  deriving DecidableEq, Repr

/-- One object. -/
structure Obj where
  area : Nat
  item : Nat
  ix : Ix
  ty : OTy
  right : Right
  cls : Cls
  dflt : Nat
  rng : Rng
  deriving DecidableEq, Repr

/-- The number that names an object element: area, item, index (R315). -/
def okey (area item index : Nat) : Nat := area * 2 ^ 40 + item * 2 ^ 24 + index

/-- The number of an object without its index. -/
def onum (area item : Nat) : Nat := area * 2 ^ 16 + item

def none20 : Nat := 0xFFFFF

/-- Table OBJ-4, Table CORE-8 (area 0) and the area 1 objects of Tables OBJ-4, OD-12 and CORE-8. -/
def objs01 : List Obj := [
  ⟨0, 0x0000, .one, .u 32, .ro, .imm, 0x50454E52, .any⟩, ⟨0, 0x0001, .one, .u 16, .ro, .imm, 1, .any⟩,
  ⟨0, 0x0002, .one, .u 16, .ro, .imm, 0, .any⟩, ⟨0, 0x0003, .one, .u 64, .ro, .imm, 0, .any⟩,
  ⟨0, 0x0010, .one, .u 64, .ro, .imm, 0, .any⟩, ⟨0, 0x0011, .one, .u 64, .ro, .imm, 0, .any⟩,
  ⟨0, 0x0012, .one, .u 8, .ro, .imm, 0, .any⟩, ⟨0, 0x0013, .one, .u 8, .ro, .imm, 0, .any⟩,
  ⟨0, 0x0030, .one, .u 64, .ro, .imm, 0, .any⟩, ⟨0, 0x0031, .one, .u 64, .ro, .imm, 0, .any⟩,
  ⟨0, 0x0032, .one, .u 8, .ro, .imm, 0, .any⟩, ⟨0, 0x0033, .one, .u 8, .ro, .imm, 0, .any⟩,
  ⟨0, 0x0034, .one, .u 64, .ro, .imm, 0, .any⟩,
  ⟨1, 0x0001, .one, .cmd 1, .cmd, .imm, 0, .any⟩, ⟨1, 0x0002, .one, .cmd 1, .cmd, .imm, 0, .any⟩,
  ⟨1, 0x0003, .one, .u 8, .ro, .imm, 0, .any⟩,
  ⟨1, 0x0004, .one, .u 16, .rw, .reset, 1500, .within 500 1600⟩,
  ⟨1, 0x0005, .one, .u 16, .rw, .reset, 2000, .within 250 2500⟩,
  ⟨1, 0x0006, .one, .u 8, .rw, .reset, 0, .upto 1⟩]

def objs1 : List Obj := [
  ⟨1, 0x0010, .one, .cmd 1, .cmd, .imm, 0, .any⟩, ⟨1, 0x0011, .one, .cmd 1, .cmd, .bundle, 0, .any⟩,
  ⟨1, 0x0012, .one, .cmd 1, .cmd, .imm, 0, .any⟩,
  ⟨1, 0x0013, .one, .u 32, .rw, .imm, 1000, .within 10 60000⟩,
  ⟨1, 0x0014, .b, .u 16, .ro, .imm, 0, .any⟩,
  ⟨1, 0x0020, .one, .cmd 2, .cmd, .imm, 0, .any⟩, ⟨1, 0x0021, .one, .cmd 1, .cmd, .step, 0, .any⟩,
  ⟨1, 0x0022, .one, .cmd 1, .cmd, .step, 0, .any⟩,
  ⟨1, 0x0030, .one, .u 32, .rw, .imm, 10000, .within 1000 1000000⟩,
  ⟨1, 0x0040, .one, .u 64, .rw, .imm, 0, .mult (2 ^ 52 - 4096) 4096⟩,
  ⟨1, 0x0041, .one, .u 32, .rw, .imm, 0, .pow2 64 65536⟩,
  ⟨1, 0x0042, .one, .u 32, .ro, .imm, 0, .any⟩, ⟨1, 0x0043, .one, .u 32, .rw, .imm, 0, .dyn⟩,
  ⟨1, 0x0044, .one, .u 16, .rw, .imm, 1, .within 1 1024⟩]

/-- Table TIER-8. -/
def objs2a : List Obj := [
  ⟨2, 0x0001, .one, .u 8, .rw, .reset, 0, .upto 1⟩, ⟨2, 0x0002, .one, .u 8, .rw, .reset, 0, .upto 1⟩,
  ⟨2, 0x0003, .one, .u 8, .ro, .imm, 0, .any⟩,
  ⟨2, 0x0010, .one, .u 32, .rw, .reset, 3000, .within 500 1000000⟩,
  ⟨2, 0x0011, .one, .u 32, .rw, .reset, 4000, .within 500 1000000⟩,
  ⟨2, 0x0012, .one, .u 32, .rw, .reset, 448000, .within 1000 896000⟩,
  ⟨2, 0x0013, .one, .u 32, .rw, .reset, 224000, .within 1000 896000⟩,
  ⟨2, 0x0014, .t, .u 32, .rws, .step, 0, .dyn⟩,
  ⟨2, 0x0015, .one, .u 8, .rws, .step, 3, .upto 7⟩,
  ⟨2, 0x0020, .one, .cmd 4, .cmd, .step, 0, .any⟩, ⟨2, 0x0021, .one, .cmd 2, .cmd, .step, 0, .any⟩,
  ⟨2, 0x0022, .one, .cmd 6, .cmd, .step, 0, .any⟩,
  ⟨2, 0x0030, .m, .u 64, .rw, .reset, 0, .mult (2 ^ 52 - 4096) 4096⟩,
  ⟨2, 0x0031, .m, .u 64, .rw, .reset, 0, .mult (2 ^ 40) 4096⟩,
  ⟨2, 0x0032, .p, .u 64, .rwq, .quiesce, 0, .dyn⟩,
  ⟨2, 0x0040, .one, .u 8, .rws, .step, 64, .within 1 255⟩,
  ⟨2, 0x0041, .one, .u 8, .rws, .step, 4, .within 2 12⟩,
  ⟨2, 0x0046, .p, .u 64, .rwq, .quiesce, 0, .mult (2 ^ 52 - 4096) 4096⟩,
  ⟨2, 0x0047, .p, .u 32, .rwq, .quiesce, 0, .mult (2 ^ 30) 4096⟩,
  ⟨2, 0x0050, .one, .u 32, .ro, .imm, 0, .any⟩]

/-- Table FLASH-7. -/
def objs2b : List Obj := [
  ⟨2, 0x0024, .one, .cmd 5, .cmd, .step, 0, .any⟩, ⟨2, 0x0025, .one, .cmd 1, .cmd, .imm, 0, .any⟩,
  ⟨2, 0x0060, .one, .u 16, .rw, .reset, 0, .dyn⟩, ⟨2, 0x0061, .c, .u 8, .ro, .imm, 0, .any⟩,
  ⟨2, 0x0062, .one, .u 32, .ro, .imm, 0, .any⟩, ⟨2, 0x0063, .one, .u 32, .ro, .imm, 0, .any⟩,
  ⟨2, 0x0064, .one, .u 32, .ro, .imm, 0, .any⟩,
  ⟨2, 0x0065, .one, .u 64, .rw, .reset, 0, .mult (2 ^ 52 - 4096) 4096⟩,
  ⟨2, 0x0066, .one, .u 64, .rw, .reset, 0, .mult (2 ^ 36) 4096⟩,
  ⟨2, 0x0067, .one, .u 16, .rw, .imm, 125, .within 70 500⟩,
  ⟨2, 0x0068, .one, .u 8, .rw, .imm, 25, .within 5 100⟩,
  ⟨2, 0x0069, .one, .u 32, .rw, .imm, 50000, .within 1000 1000000⟩,
  ⟨2, 0x006A, .one, .u 32, .rw, .imm, 100000, .within 1000 10000000⟩,
  ⟨2, 0x006B, .one, .u 16, .rw, .imm, 1000, .within 16 60000⟩,
  ⟨2, 0x006C, .one, .u 8, .rw, .imm, 75, .within 25 100⟩,
  ⟨2, 0x006D, .one, .u 8, .rw, .imm, 8, .within 4 64⟩]

/-- Tables ADPT-5 and TRAIT-9. -/
def objs34 : List Obj := [
  ⟨3, 0x0010, .one, .cmd 2, .cmd, .step, 0, .any⟩, ⟨3, 0x0011, .one, .cmd 2, .cmd, .step, 0, .any⟩,
  ⟨3, 0x0012, .one, .cmd 6, .cmd, .step, 0, .any⟩,
  ⟨4, 0x0010, .one, .cmd 2, .cmd, .step, 0, .any⟩, ⟨4, 0x0011, .one, .cmd 1, .cmd, .step, 0, .any⟩,
  ⟨4, 0x0012, .one, .cmd 2, .cmd, .step, 0, .any⟩, ⟨4, 0x0020, .one, .cmd 3, .cmd, .imm, 0, .any⟩,
  ⟨4, 0x0021, .one, .cmd 1, .cmd, .step, 0, .any⟩,
  ⟨4, 0x0030, .p, .u 32, .rwq, .quiesce, none20, .dyn⟩, ⟨4, 0x0031, .p, .u 32, .rwq, .quiesce, none20, .dyn⟩,
  ⟨4, 0x0032, .p, .u 32, .rwq, .quiesce, 0, .dyn⟩,
  ⟨4, 0x0040, .p64, .u 16, .ro, .imm, 0, .any⟩, ⟨4, 0x0042, .p, .u 32, .ro, .imm, 0, .any⟩]

/-- Table TRAIN-11. -/
def objs5 : List Obj := [
  ⟨5, 0x0010, .one, .cmd 2, .cmd, .step, 0, .any⟩, ⟨5, 0x0011, .one, .cmd 1, .cmd, .step, 0, .any⟩,
  ⟨5, 0x0012, .one, .cmd 2, .cmd, .imm, 0, .any⟩, ⟨5, 0x0013, .one, .cmd 1, .cmd, .imm, 0, .any⟩,
  ⟨5, 0x0014, .one, .cmd 1, .cmd, .step, 0, .any⟩,
  ⟨5, 0x0020, .p, .u 32, .rwq, .quiesce, none20, .dyn⟩, ⟨5, 0x0021, .p, .u 32, .rwq, .quiesce, none20, .dyn⟩,
  ⟨5, 0x0022, .p, .u 32, .rwq, .quiesce, none20, .dyn⟩, ⟨5, 0x0023, .p, .u 32, .rwq, .quiesce, none20, .dyn⟩,
  ⟨5, 0x0024, .p, .u 32, .rwq, .quiesce, none20, .dyn⟩, ⟨5, 0x0025, .p, .u 32, .rws, .step, none20, .dyn⟩,
  ⟨5, 0x0026, .p, .u 8, .rwq, .quiesce, 0, .upto 1⟩,
  ⟨5, 0x0030, .p, .u 64, .rwq, .quiesce, 0, .mult (2 ^ 52 - 4096) 4096⟩,
  ⟨5, 0x0031, .p, .u 32, .rwq, .quiesce, 0, .mult (2 ^ 30) 4096⟩,
  ⟨5, 0x0032, .p, .u 32, .ro, .imm, 0, .any⟩, ⟨5, 0x0033, .p, .u 32, .rw, .imm, 0, .any⟩,
  ⟨5, 0x0034, .p, .u 8, .rws, .step, 1, .within 1 7⟩,
  ⟨5, 0x0040, .p64, .u 32, .ro, .imm, 0, .any⟩, ⟨5, 0x0041, .p64, .fp, .ro, .imm, 0, .any⟩,
  ⟨5, 0x0042, .p, .u 64, .ro, .imm, 0, .any⟩, ⟨5, 0x0043, .p, .u 16, .ro, .imm, 0, .any⟩]

/-- Table CTX-14. -/
def objs6 : List Obj := [
  ⟨6, 0x0010, .p, .u 16, .rwq, .quiesce, 0, .upto 16383⟩, ⟨6, 0x0011, .p, .u 16, .rwq, .quiesce, 0, .dyn⟩,
  ⟨6, 0x0020, .p, .u 64, .rwq, .quiesce, 0, .mult (2 ^ 52 - 4096) 4096⟩,
  ⟨6, 0x0021, .p, .u 32, .rwq, .quiesce, 0, .pow2 64 65536⟩,
  ⟨6, 0x0022, .p, .u 32, .rw, .imm, 0, .dyn⟩, ⟨6, 0x0023, .p, .u 32, .ro, .imm, 0, .any⟩,
  ⟨6, 0x0024, .p, .u 64, .rwq, .quiesce, 0, .mult (2 ^ 52 - 4096) 4096⟩,
  ⟨6, 0x0025, .p, .u 32, .rwq, .quiesce, 0, .pow2 64 1048576⟩,
  ⟨6, 0x0026, .p, .u 32, .ro, .imm, 0, .any⟩, ⟨6, 0x0027, .p, .u 32, .rw, .imm, 0, .dyn⟩,
  ⟨6, 0x0028, .p, .u 32, .rwq, .quiesce, none20, .dyn⟩,
  ⟨6, 0x0030, .p, .u 32, .rws, .step, 512, .within 1 262144⟩,
  ⟨6, 0x0031, .p, .u 16, .rws, .step, 64, .within 1 65535⟩,
  ⟨6, 0x0032, .p, .u 8, .rws, .step, 1, .upto 1⟩,
  ⟨6, 0x0033, .p, .u 16, .rws, .step, 16384, .within 1 16384⟩,
  ⟨6, 0x0034, .p, .u 32, .rws, .step, 262144, .within 256 262144⟩,
  ⟨6, 0x0035, .p, .u 8, .rws, .step, 0, .upto 1⟩,
  ⟨6, 0x0040, .p, .u 64, .rws, .step, 0, .zeroOr (10 ^ 6) (10 ^ 13)⟩,
  ⟨6, 0x0041, .p, .u 64, .rws, .step, 3600000000000, .within (10 ^ 9) (10 ^ 15)⟩]

def objs6b : List Obj := [
  ⟨6, 0x0050, .p, .u 32, .rwq, .quiesce, none20, .dyn⟩, ⟨6, 0x0051, .one, .cmd 2, .cmd, .imm, 0, .any⟩,
  ⟨6, 0x0052, .p, .u 64, .rwq, .quiesce, 0, .any⟩,
  ⟨6, 0x0060, .p, .u 8, .rwq, .quiesce, 32, .oneOf [16, 32, 64, 128]⟩,
  ⟨6, 0x0061, .p, .u 32, .rwq, .quiesce, 0, .dyn⟩,
  ⟨6, 0x0062, .p, .u 32, .rwq, .quiesce, none20, .dyn⟩, ⟨6, 0x0063, .p, .u 32, .rwq, .quiesce, none20, .dyn⟩,
  ⟨6, 0x0064, .p, .u 32, .rwq, .quiesce, none20, .dyn⟩, ⟨6, 0x0065, .p, .u 32, .rwq, .quiesce, 0, .dyn⟩]

/-- Tables PART-10, EE-12, TILE-9 and LS-5. -/
def objs7 : List Obj := [
  ⟨7, 0x0010, .one, .cmd 1, .cmd, .imm, 0, .any⟩, ⟨7, 0x0011, .one, .cmd 1, .cmd, .imm, 0, .any⟩,
  ⟨7, 0x0012, .one, .cmd 1, .cmd, .step, 0, .any⟩, ⟨7, 0x0013, .one, .cmd 1, .cmd, .step, 0, .any⟩,
  ⟨7, 0x0014, .one, .cmd 1, .cmd, .imm, 0, .any⟩,
  ⟨7, 0x0015, .d, .u 32, .rwq, .quiesce, none20, .dyn⟩, ⟨7, 0x0016, .d, .u 32, .rwq, .quiesce, none20, .dyn⟩,
  ⟨7, 0x0017, .d, .u 8, .ro, .imm, 0, .any⟩, ⟨7, 0x0018, .d, .u 8, .ro, .imm, 0xFF, .any⟩,
  ⟨7, 0x0020, .p, .u 8, .rwq, .quiesce, 0, .dyn⟩, ⟨7, 0x0021, .p, .u 8, .rwq, .quiesce, 0, .dyn⟩,
  ⟨7, 0x0022, .p, .u 8, .rwq, .quiesce, 7, .upto 7⟩,
  ⟨7, 0x0024, .p, .u 16, .rwq, .quiesce, 0xFFFF, .within 1 0xFFFF⟩,
  ⟨7, 0x0030, .s, .u 8, .ro, .imm, 0, .any⟩,
  ⟨7, 0x0031, .p, .u 32, .rws, .step, 0, .upto 100000000⟩,
  ⟨7, 0x0033, .p, .u 32, .rws, .step, 0, .upto 1000000000⟩,
  ⟨7, 0x0034, .one, .u 8, .rws, .step, 8, .within 1 255⟩]

def objs7b : List Obj := [
  ⟨7, 0x0040, .p, .u 8, .rws, .step, 0, .dyn⟩, ⟨7, 0x0041, .p, .u 8, .rwq, .quiesce, 0, .dyn⟩,
  ⟨7, 0x0042, .p, .u 8, .rwq, .quiesce, 0, .dyn⟩,
  ⟨7, 0x0050, .p, .u 16, .rwq, .quiesce, 0, .dyn⟩, ⟨7, 0x0051, .p, .u 8, .ro, .imm, 0, .any⟩,
  ⟨7, 0x0052, .p, .i 64, .ro, .imm, 2 ^ 63, .any⟩, ⟨7, 0x0053, .one, .u 16, .ro, .imm, 0, .any⟩,
  ⟨7, 0x0060, .one, .u 32, .rws, .step, 20000, .within 1000 10000000⟩,
  ⟨7, 0x0070, .pm, .u 32, .rws, .step, 0, .dyn⟩, ⟨7, 0x0071, .pm, .u 32, .rws, .step, 0, .dyn⟩,
  ⟨7, 0x0072, .pm, .u 32, .rws, .step, 65536, .dyn⟩,
  ⟨7, 0x0073, .p, .u 8, .rws, .step, 1, .upto 1⟩]

/-- Tables OBJ-6, OD-12 and PP-6. -/
def objs89C : List Obj := [
  ⟨8, 0x0001, .one, .u 16, .rw, .reset, 0, .dyn⟩, ⟨8, 0x0002, .one, .u 16, .ro, .imm, 0, .any⟩,
  ⟨8, 0x0010, .m, .u 16, .ro, .imm, 0, .any⟩, ⟨8, 0x0020, .one, .u 16, .rw, .imm, 0xFFFF, .any⟩,
  ⟨8, 0x0030, .p, .u 8, .rwq, .quiesce, 4, .oneOf [0, 1, 2, 3, 4, 5, 8]⟩,
  ⟨8, 0x0031, .p, .u 8, .rwq, .quiesce, 0, .upto 1⟩,
  ⟨9, 0x0010, .one, .u 8, .ro, .imm, 0, .any⟩, ⟨9, 0x0011, .one, .u 8, .ro, .imm, 0, .any⟩,
  ⟨9, 0x0012, .tile, .u 8, .ro, .imm, 0, .any⟩, ⟨9, 0x0013, .ltile, .u 8, .ro, .imm, 0, .any⟩,
  ⟨9, 0x0014, .one, .cmd 1, .cmd, .imm, 0, .any⟩, ⟨9, 0x0015, .one, .cmd 1, .cmd, .imm, 0, .any⟩,
  ⟨9, 0x0020, .one, .u 32, .rwb, .bundle, 16, .within 1 (2 ^ 32 - 1)⟩,
  ⟨9, 0x0021, .one, .u 32, .rwb, .bundle, 64, .within 1 (2 ^ 32 - 1)⟩,
  ⟨9, 0x0030, .one, .u 32, .rwb, .bundle, 1000, .within 1 1000000⟩,
  ⟨9, 0x0031, .one, .u 32, .rwb, .bundle, 256, .within 1 8000000⟩,
  ⟨12, 0x0001, .one, .recd 2, .ro, .imm, 0, .any⟩, ⟨12, 0x0002, .one, .u 8, .ro, .imm, 0, .any⟩]

def objsC : List Obj := [
  ⟨12, 0x0010, .p, .u 32, .rwq, .quiesce, 0, .zeroOr 1000 1000000000⟩,
  ⟨12, 0x0011, .p, .u 8, .rwq, .quiesce, 0, .upto 3⟩,
  ⟨12, 0x0012, .p, .u 32, .rwq, .quiesce, 0, .upto 1000000⟩,
  ⟨12, 0x0013, .p, .u 64, .ro, .imm, 0, .any⟩,
  ⟨12, 0x0020, .p, .u 32, .rws, .step, 0, .dyn⟩,
  ⟨12, 0x0030, .p, .u 64, .rwq, .quiesce, 100000000, .within 10000 100000000000⟩,
  ⟨12, 0x0031, .p, .u 64, .ro, .imm, 100000000, .any⟩,
  ⟨12, 0x0032, .p, .u 32, .rws, .step, 0, .upto 1000000000⟩,
  ⟨12, 0x0040, .one, .i 64, .rwb, .bundle, 0, .signedIn (-(2 ^ 47)) (2 ^ 47 - 1)⟩,
  ⟨12, 0x0041, .one, .i 32, .rwb, .bundle, 0, .signedIn (-999999999) 999999999⟩]

/-- Tables OBJ-7 and OBJ-8. -/
def objsAB : List Obj := [
  ⟨10, 0x0020, .xt, .recd 4, .ro, .imm, 0, .any⟩, ⟨10, 0x0021, .ctx, .recd 20, .ro, .imm, 0, .any⟩,
  ⟨10, 0x0022, .tag, .u 64, .ro, .imm, 0, .any⟩, ⟨10, 0x0023, .seg, .recd 4, .ro, .imm, 0, .any⟩,
  ⟨10, 0x0024, .basis, .recd 2, .ro, .imm, 0, .any⟩, ⟨10, 0x0025, .pgdir, .u 64, .ro, .imm, 0, .any⟩,
  ⟨10, 0x0030, .one, .u 16, .rw, .imm, 0, .any⟩, ⟨10, 0x0031, .one, .u 32, .rw, .imm, 0, .any⟩,
  ⟨10, 0x0032, .trace, .recd 2, .ro, .imm, 0, .any⟩, ⟨10, 0x0033, .one, .u 16, .ro, .imm, 0, .any⟩,
  ⟨10, 0x0040, .d, .u 64, .rwq, .quiesce, 0, .mult (2 ^ 52 - 4096) 4096⟩,
  ⟨10, 0x0041, .d, .u 32, .rwq, .quiesce, 0, .mult (2 ^ 30) 4096⟩,
  ⟨10, 0x0042, .d, .u 8, .rws, .step, 0, .upto 1⟩, ⟨10, 0x0043, .one, .cmd 4, .cmd, .imm, 0, .any⟩,
  ⟨10, 0x0044, .d, .u 32, .ro, .imm, 0, .any⟩,
  ⟨11, 0x0001, .one, .u 8, .ro, .imm, 0, .any⟩, ⟨11, 0x0002, .g, .u 8, .ro, .imm, 0, .any⟩,
  ⟨11, 0x0003, .one, .u 16, .ro, .imm, 0, .any⟩, ⟨11, 0x0004, .one, .u 8, .ro, .imm, 0, .any⟩,
  ⟨11, 0x0010, .one, .cmd 1, .cmd, .imm, 0, .any⟩,
  ⟨11, 0x0020, .one, .u 64, .wo1, .reset, 0, .any⟩, ⟨11, 0x0021, .one, .u 64, .wo1, .reset, 0, .any⟩,
  ⟨11, 0x0022, .one, .u 64, .wo1, .reset, 0, .any⟩, ⟨11, 0x0023, .ovr, .recd 2, .wo1, .reset, 0, .any⟩,
  ⟨11, 0x0024, .one, .u 8, .wo1, .reset, 0, .within 0x08 0x77⟩]

/-- Every object but the counters and the status objects. -/
def objTable : List Obj :=
  objs01 ++ objs1 ++ objs2a ++ objs2b ++ objs34 ++ objs5 ++ objs6 ++ objs6b ++ objs7 ++ objs7b ++ objs89C ++
    objsC ++ objsAB

/-- A counter of area 9 (Tables OBJ-10 to OBJ-13): UINT64, RO, IMM, default 0 (R350). -/
def counterIx (item : Nat) : Option Ix :=
  if 0x1000 ≤ item && item ≤ 0x1011 then some .one
  else if 0x2000 ≤ item && item ≤ 0x205B then some .d
  else if item == 0x2100 || item == 0x2101 || item == 0x2102 then some .dm
  else if item == 0x2103 then some .dc
  else if item == 0x2104 || item == 0x2105 then some .dt
  else if item == 0x3000 || item == 0x3001 then some .s
  else none

/-- Find a table row. -/
def objRow (area item : Nat) : Option Obj := objTable.find? (fun o => o.area == area && o.item == item)

/-- The object named by an area and an item: a table row, a counter, or the status object of a command
(R337, R340, R350). -/
def objAt (area item : Nat) : Option Obj :=
  match objRow area item with
  | some o => some o
  | none =>
    if area == 9 then
      match counterIx item with
      | some ix => some { area := 9, item := item, ix := ix, ty := .u 64, right := .ro, cls := .imm, dflt := 0, rng := .any }
      | none =>
        if 0x0800 ≤ item && item < 0x1000 then
          (objRow area (item - 0x0800)).bind (fun o =>
            if o.right = .cmd then some { area := area, item := item, ix := .st, ty := .recd 4, right := .ro, cls := .imm, dflt := 0, rng := .any } else none)
        else none
    else if 0x0800 ≤ item && item < 0x1000 then
      (objRow area (item - 0x0800)).bind (fun o =>
        if o.right = .cmd then some { area := area, item := item, ix := .st, ty := .recd 4, right := .ro, cls := .imm, dflt := 0, rng := .any } else none)
    else none

/-- Firmware serves the acceptance of commands and the objects of R339 (`7.0040` while RATIO_AUTO is 1
is added where the state is known). -/
def fwServes (o : Obj) : Bool :=
  o.right = .cmd || (o.area == 4 && o.item == 0x42) ||
    (o.area == 5 && (o.item == 0x40 || o.item == 0x41 || o.item == 0x42)) ||
    (o.area == 7 && o.item == 0x52) || (o.area == 12 && o.item == 0x13)

/-! ## Codes (Table OD-11) -/

namespace Code
def ok : Nat := 0x0000
def noObject : Nat := 0x0101
def noRight : Nat := 0x0102
def accessSize : Nat := 0x0103
def limitRange : Nat := 0x0104
def notQuiesced : Nat := 0x0105
def setNeedsBundle : Nat := 0x0106
def bundleConflict : Nat := 0x0107
def bundleNone : Nat := 0x0108
def bundleFull : Nat := 0x0109
def bundleScope : Nat := 0x010A
def cmdBusy : Nat := 0x010B
def opBad : Nat := 0x010C
def fwNotReady : Nat := 0x010D
def optionAbsent : Nat := 0x0201
def tierAbsent : Nat := 0x0202
def formatUnsupported : Nat := 0x0203
def shapeMismatch : Nat := 0x0204
def planBad : Nat := 0x0205
def partState : Nat := 0x0206
def slotFull : Nat := 0x0207
def lsOvercommit : Nat := 0x0208
def imageBad : Nat := 0x0301
def imageAuth : Nat := 0x0302
def genStale : Nat := 0x0303
def genPinned : Nat := 0x0304
def adapterBusy : Nat := 0x0305
def adapterBound : Nat := 0x0306
def adapterAbsent : Nat := 0x0307
def bindDuplicate : Nat := 0x0308
def basisAbsent : Nat := 0x0309
def poolAbsent : Nat := 0x030A
def fitLayer : Nat := 0x0401
def fitTarget : Nat := 0x0402
def segLimit : Nat := 0x0403
def traitLimit : Nat := 0x0404
def trainLimit : Nat := 0x0405
def panelRate : Nat := 0x0406
def treeSplit : Nat := 0x0407
def manBad : Nat := 0x0408
def cqFull : Nat := 0x0409
def objBusy : Nat := 0x0501
def t3Full : Nat := 0x0502
def publishFail : Nat := 0x0503
def shadowFull : Nat := 0x0504
def xferFail : Nat := 0x0505
def trainNeedsY : Nat := 0x0601
def penFull : Nat := 0x0602
def ctxState : Nat := 0x0701
def ctxExhausted : Nat := 0x0702
def specOff : Nat := 0x0703
def kvLimit : Nat := 0x0704
def kvLost : Nat := 0x0705
def late : Nat := 0x0801
def bypassed : Nat := 0x0802
def tileFault : Nat := 0x0803
def kindleFail : Nat := 0x0804
def ppSeq : Nat := 0x0805
def panelOverrun : Nat := 0x0806
def eeBad : Nat := 0x0901
def fwBusy : Nat := 0x0902
def fwFloor : Nat := 0x0903
def noSpare : Nat := 0x0A01
def otpSealed : Nat := 0x0A02
def otpExhausted : Nat := 0x0A03
def otpProgFail : Nat := 0x0A04
def replayBusy : Nat := 0x0A05
def replayMissing : Nat := 0x0A06
end Code

/-! ## Counter items (Tables OBJ-10 to OBJ-13) -/

namespace Cnt
def flashCeReject : Nat := 0x1000
def flashRetry : Nat := 0x1001
def flashUncorr : Nat := 0x1002
def flashRelocEcc : Nat := 0x1003
def flashRelocRd : Nat := 0x1004
def flashGcMu : Nat := 0x1005
def flashWlMu : Nat := 0x1006
def flashBadBlock : Nat := 0x1007
def flashFenceBreak : Nat := 0x1008
def fwWdog : Nat := 0x1009
def eeQfull : Nat := 0x100A
def dbBad : Nat := 0x100B
def evDrop : Nat := 0x100C
def i3cFrameBad : Nat := 0x100D
def eccCorr : Nat := 0x100E
def eccUncorr : Nat := 0x100F
def tileMapout : Nat := 0x1010
def scrubRounds : Nat := 0x1011
def numNan : Nat := 0x2000
def numInf : Nat := 0x2001
def numScaleNan : Nat := 0x2002
def numSat : Nat := 0x2003
def numMxClamp : Nat := 0x2004
def mergeHostNonfinite : Nat := 0x2005
def segDefer : Nat := 0x2006
def tileLoadWait : Nat := 0x2007
def tileSubst : Nat := 0x2008
def tileFaultRows : Nat := 0x2009
def tileCapacity : Nat := 0x200A
def ppSeq : Nat := 0x200B
def panelDefer : Nat := 0x200C
def panelOverrun : Nat := 0x200D
def holdNs : Nat := 0x200E
def holdEvents : Nat := 0x200F
def holdKindle : Nat := 0x2010
def holdRekindle : Nat := 0x2011
def holdMerge : Nat := 0x2012
def holdOverBound : Nat := 0x2013
def holdCeil : Nat := 0x2014
def bypassRows : Nat := 0x2015
def todInvalid : Nat := 0x2016
def todStep : Nat := 0x2017
def late : Nat := 0x2018
def holdKindleWb : Nat := 0x2019
def holdKindleRelease : Nat := 0x201A
def holdKindleFill : Nat := 0x201B
def fitDefer : Nat := 0x201C
def fitModeDefer : Nat := 0x201D
def kindleFail : Nat := 0x201E
def lsWbLines : Nat := 0x201F
def cacheHit : Nat := 0x2020
def cacheMiss : Nat := 0x2021
def cacheReject : Nat := 0x2022
def evictCancel : Nat := 0x2023
def xtFull : Nat := 0x2024
def rickFull : Nat := 0x2025
def migWait : Nat := 0x2026
def migDone : Nat := 0x2027
def migAbort : Nat := 0x2028
def thawWait : Nat := 0x2029
def thawFail : Nat := 0x202A
def tierLateReply : Nat := 0x202B
def mpStray : Nat := 0x202C
def pubDone : Nat := 0x202D
def pubWaitFree : Nat := 0x202E
def traitOcc : Nat := 0x202F
def traitRows : Nat := 0x2030
def traitInvalid : Nat := 0x2031
def traitMissing : Nat := 0x2032
def traitDefer : Nat := 0x2033
def poolLate : Nat := 0x2034
def traitPut : Nat := 0x2035
def traitFlip : Nat := 0x2036
def traitPutOverride : Nat := 0x2037
def bypassNograd : Nat := 0x2038
def trainSzero : Nat := 0x2039
def trainDefer : Nat := 0x203A
def trainSkip : Nat := 0x203B
def trainClip : Nat := 0x203C
def trainItems : Nat := 0x203D
def sweepItems : Nat := 0x203E
def trainAbandon : Nat := 0x203F
def penFullNs : Nat := 0x2040
def penDrop : Nat := 0x2041
def expDrop : Nat := 0x2042
def rowDefer : Nat := 0x2043
def kvDefer : Nat := 0x2044
def padRows : Nat := 0x2045
def cqBacklog : Nat := 0x2046
def reqLost : Nat := 0x2047
def pgpInvalid : Nat := 0x2048
def emberNospace : Nat := 0x2049
def treeBadpath : Nat := 0x204A
def treeAccept : Nat := 0x204B
def treeReject : Nat := 0x204C
def preemptOrd : Nat := 0x204D
def preemptUrg : Nat := 0x204E
def restore : Nat := 0x204F
def swapBlocked : Nat := 0x2050
def lcOver : Nat := 0x2051
def regWait : Nat := 0x2052
def regBorrow : Nat := 0x2053
def lrbDetach : Nat := 0x2054
def lrbWait : Nat := 0x2055
def lrbMatch : Nat := 0x2056
def lrbExpired : Nat := 0x2057
def eeBad : Nat := 0x2058
def eeLongseg : Nat := 0x2059
def eeXfail : Nat := 0x205A
def eeWconflict : Nat := 0x205B
def holdKindleT1 : Nat := 0x2100
def holdKindleT2 : Nat := 0x2101
def holdKindleTR : Nat := 0x2102
def holdKindleT3 : Nat := 0x2103
def tierReissue : Nat := 0x2104
def tierFail : Nat := 0x2105
def sliceOn : Nat := 0x3000
def sliceOff : Nat := 0x3001
end Cnt

/-! ## Event numbers with their severities (Table OBJ-14) -/

namespace Ev
def cmdResult : Nat := 0x0001
def bundleExpired : Nat := 0x0002
def extentPoison : Nat := 0x0100
def thawHigh : Nat := 0x0101
def writeFail : Nat := 0x0102
def flashCeReject : Nat := 0x0200
def flashUncorr : Nat := 0x0201
def flashUnformatted : Nat := 0x0202
def flashMapSmall : Nat := 0x0203
def flashCapLow : Nat := 0x0204
def publishDone : Nat := 0x0205
def trainSkip : Nat := 0x0300
def penFull : Nat := 0x0301
def lcOver : Nat := 0x0400
def fwSwitched : Nat := 0x0500
def fwWdog : Nat := 0x0501
def fwManBad : Nat := 0x0502
def evOverflow : Nat := 0x0503
def tileMapout : Nat := 0x0600
def noSpare : Nat := 0x0601
def eccUncorr : Nat := 0x0602
def replaceChange : Nat := 0x0603
def otpGenTaken : Nat := 0x0700
/-- SEV of an event; CMD_RESULT's depends on its code. -/
def sev (n code : Nat) : Nat :=
  if n == cmdResult then (if code == 0 then 0 else 1)
  else if n == extentPoison || n == writeFail || n == flashUncorr || n == flashMapSmall || n == fwWdog ||
    n == fwManBad || n == noSpare || n == eccUncorr || n == replaceChange then 2
  else if n == publishDone || n == fwSwitched || n == otpGenTaken then 0 else 1
end Ev

end Sys2Proof.Machine
end

