-- ==== Sys2Proof/Config.lean ====
section
/-! DEFINITION. What an implementation fixes and the free values: constants without a body, so that nothing can
evaluate them and a statement about them holds for every value (notes/assumptions/2.md). -/

namespace Sys2Proof.Config

/-- A fresh value that the spec leaves open: the n-th one drawn. State holds the counter. -/
opaque freeValue : Nat → BitVec 64

/-- A byte whose value the spec leaves open, by the draw and the position in it. -/
opaque freeByte : Nat → Nat → BitVec 8

/-- The four fixed hashes of R138: the column of row `r` of the sketch for an extent. -/
opaque sketchHash : Nat → Nat → Nat

/-- The fields of APCTL (R301), whose places the spec does not give: 0 the tier, 1 the partition, 2 the base offset. -/
opaque apctlField : Nat → BitVec 64 → BitVec 64

/-- The integrator's tie-off TAP_MFR (Table DBG-1). -/
opaque tapMfr : BitVec 11

/-- The provisioned identifier that GETPID answers with: the spec gives none. -/
opaque i3cPid : BitVec 48

/-- An entry of the block table (R158), whose 16 B the spec does not lay out: from a block's erase count, valid-codeword count, read
count since erase and state. -/
opaque blockEntry : Nat → Nat → Nat → Nat → BitVec 128

end Sys2Proof.Config
end

