-- ==== Sys2Proof/Machine/State.lean ====
section
/-! DEFINITION. The state of the block as plain data, its fault and refusal reasons, and the state a hard reset
leaves (R375, R387). -/

namespace Sys2Proof.Machine

/-- The faults of the model. Penra stops for none of its own: the type has the one constructor that a
machine of this interface needs and no meaning raises it. -/
inductive Fault where
  /-- raised by no meaning: what the manual reports, it reports by codes, events, counters and flags. Safe. -/
  | none
  deriving DecidableEq, Repr

/-- The refusals of the model. -/
inductive Refusal where
  /-- an arm that has no meaning yet: raised by Dispatch.lean only. Safe: the machine stops where the hardware goes on. -/
  | notModelled (mnemonic : String)
  deriving DecidableEq, Repr

/-- The state of Penra, of the host memory and flash it reads and writes, and the queue of commands that wait. -/
structure State where
  /-- the commands that wait, first in first out -/
  pending : List Sys2Proof.Instr := []
  /-- CFG_BUILT `0.0010` and SILICON_STEP `0.0002` -/
  built : W64
  silicon : Nat
  boot : Boot
  otp : Otp
  od : Od
  cnt : Tab W64
  core : Core
  mp : Mp
  tm : Tm
  /-- bytes of T1, T2, TR and flash by tier and address; unlisted bytes read 0 -/
  mem : Tab Byte
  parts : Tab Part
  ctxs : Tab Ctx
  /-- page directory entries by 64 × map block + entry (R239) -/
  pgdir : Tab Nat
  xp : Xp
  slices : Tab Slice
  fl : Fl
  ee : Tab Eng
  rel : Rel
  dbg : Dbg
  i3c : I3c
  tod : Tod
  out : Out
  /-- orderings the scheduler keeps: a running number for `blocked`, `runnable` and `restored` -/
  order : Nat
  /-- DESIGN CHOICE: the draws of free values so far (notes/assumptions/2.md) -/
  free : Nat
  deriving DecidableEq, Repr

/-! ## Reset (R375, R387, R392) -/

/-- Little-endian bytes of a number, for the reset contents of OTP. -/
def otpBytes : Nat → Nat → List Byte
  | 0, _ => []
  | n + 1, w => BitVec.ofNat 8 w :: otpBytes n (w / 256)

/-- List bytes of a sparse table from key `k`, leaving the zeros out. -/
def otpPut : Tab Byte → Nat → List Byte → Tab Byte
  | m, _, [] => m
  | m, k, b :: t => otpPut (m.set 0 k b) (k + 1) t

/-- The OTP of a part as it leaves the factory (R392): no serial number and a root key of zeros in the fixed area,
and generation 0 sealed, with the licence of the reference configuration and no tile disabled
(notes/assumptions/6.md). The two checksums are CRC-32 of R49 over these contents. -/
def factoryOtp : Tab Byte :=
  otpPut (otpPut (otpPut (otpPut (otpPut [] 0x3FC (otpBytes 4 0x67bbaf86)) 0x400 (otpBytes 8 0x20AC860000000000))
    0x6A0 (otpBytes 8 1)) 0x6A8 (otpBytes 4 0x5345414C)) 0x6AC (otpBytes 4 0xfae40d47)

/-- The machine right after reset: PRST_N still low, before bring-up begins (R375, R387). The configuration built
is P32-X (notes/assumptions/5.md). -/
def State.reset : State :=
  { pending := [], built := 0x20AC860000000000, silicon := 0, boot := {}, otp := { bytes := factoryOtp }, od := {}, cnt := [],
    core := {}, mp := {}, tm := {}, mem := [], parts := [], ctxs := [], pgdir := [], xp := {}, slices := [], fl := {}, ee := [],
    rel := {}, dbg := {}, i3c := {}, tod := {}, out := {}, order := 0, free := 0 }

end Sys2Proof.Machine
end

