-- ==== Sys2Proof/Machine/Ops.lean ====
section
/-! DEFINITION. The named operations every meaning uses: host memory, checksums, the enabled configuration, values
of the object dictionary in force, counters, the Event Ring, memory requests, partitions and command instances. -/

namespace Sys2Proof.Machine

abbrev Out3 := Host.Outcome State Fault Refusal

/-- A fold over a list with the state as accumulator. -/
def forEach {α : Type} (l : List α) (s : State) (f : State → α → State) : State := l.foldl f s

/-- Insert by a key, after the entries with the same key. -/
def insertBy {α : Type} (f : α → Nat) (x : α) : List α → List α
  | [] => [x]
  | y :: t => if f x < f y then x :: y :: t else y :: insertBy f x t

/-- Stable sort by a key. -/
def sortBy {α : Type} (f : α → Nat) (l : List α) : List α := l.foldl (fun acc x => insertBy f x acc) []

/-! ## Host memory and flash contents -/

/-- The key of a byte: tier (0 T1, 1 T2, 2 flash, 3 TR) and 52-bit address. -/
def memKey (tier addr : Nat) : Nat := tier * 2 ^ 52 + addr

/-- One byte. -/
def byteAt (m : Tab Byte) (k : Nat) : Byte := m.getD k 0

/-- `n` bytes from key `k`. -/
def bytesAt (m : Tab Byte) (k n : Nat) : List Byte := (List.range n).map (fun i => byteAt m (k + i))

/-- Store bytes from key `k`, in canonical form. -/
def storeBytes : Tab Byte → Nat → List Byte → Tab Byte
  | m, _, [] => m
  | m, k, b :: t => storeBytes (m.set 0 k b) (k + 1) t

/-- Memory in canonical form: keys strictly rising, no listed zero. -/
def memWf (m : Tab Byte) : Bool := m.wf 0

/-- The 64-bit word at key `k` (R4). -/
def wordAt (m : Tab Byte) (k : Nat) : W64 := w64 (leNat (bytesAt m k 8))

/-- `n` words from key `k`. -/
def wordsAt (m : Tab Byte) (k n : Nat) : List W64 := (List.range n).map (fun i => wordAt m (k + 8 * i))

/-- The bytes of words (R4). -/
def wordBytes (ws : List W64) : List Byte := ws.flatMap (fun w => leBytes 8 w.toNat)

/-- `T1` words at an address of State. -/
def t1Words (s : State) (addr n : Nat) : List W64 := wordsAt s.mem (memKey 0 addr) n

/-! ## CRC-32 (R49) -/

def crcBit (c : Nat) : Nat := if c % 2 = 1 then (c >>> 1) ^^^ 0xEDB88320 else c >>> 1

def crcByte (c : Nat) (b : Byte) : Nat :=
  crcBit (crcBit (crcBit (crcBit (crcBit (crcBit (crcBit (crcBit (c ^^^ b.toNat))))))))

/-- CRC-32 of R49: reflected 0xEDB8_8320, initial value and final XOR 0xFFFF_FFFF. -/
def crc32 (bs : List Byte) : Nat := (bs.foldl crcByte 0xFFFFFFFF) ^^^ 0xFFFFFFFF

/-! ## OTP and the enabled configuration (R1, R342, R392 to R395) -/

def otpNat (s : State) (off n : Nat) : Nat := leNat ((List.range n).map (fun i => s.otp.bytes.getD (off + i) 0))

/-- The base of generation `g` (R392). -/
def genBase (g : Nat) : Nat := 0x400 + 0x300 * g

def sealWord : Nat := 0x5345414C
def voidWord : Nat := 0x564F4944

/-- The licence names TILES below 8 or PORTS below 4 (R342). -/
def licInvalid (lic : Nat) : Bool := fld lic 63 56 < 8 || fld lic 51 48 < 4

/-- `B.0002[g]` (R392). -/
def genState (s : State) (g : Nat) : Nat :=
  let b := genBase g
  let sw := otpNat s (b + 0x2A8) 4
  if sw = voidWord then 4
  else if sw = sealWord then
    if crc32 ((List.range 0x2A8).map (fun i => s.otp.bytes.getD (b + i) 0)) = otpNat s (b + 0x2AC) 4 then
      (if licInvalid (otpNat s b 8) then 5 else 2)
    else 3
  else if otpNat s (b + 0x2A0) 8 ≠ 0 then 1
  else 0

/-- `B.0004`: the lowest generation in state 0 or 1, 0xFF for none. -/
def genNext (s : State) : Nat :=
  ((List.range 4).find? (fun g => genState s g ≤ 1)).getD 0xFF

/-- R395: the highest-numbered generation in state sealed. -/
def genSelect (s : State) : Option Nat := [3, 2, 1, 0].find? (fun g => genState s g == 2)

/-- A field of the generation `g` of OTP. -/
def genField (s : State) (g off n : Nat) : Nat := otpNat s (genBase g + off) n

/-- R342: the largest listed value that does not exceed `v`, and whether `v` was not listed. -/
def listed (l : List Nat) (v : Nat) : Nat × Bool :=
  let x := l.foldl (fun a y => if y ≤ v then y else a) 0
  (x, x != v)

/-- One licence field after R342 and the clip of R1: its value and its `0.0012` bit. -/
def clipField (l : List Nat) (lic built : Nat) : Nat × Bool :=
  let (v, c) := listed l lic
  if built < v then (built, true) else (v, c)

/-- The enabled configuration (R394) and `0.0012`, for a licence word. -/
def enabledOf (built : W64) (lic : Nat) : W64 × Nat :=
  let b := built.toNat
  let t := clipField [8, 16, 32] (fld lic 63 56) (fld b 63 56)
  let sp := clipField [0, 1, 2] (fld lic 55 54) (fld b 55 54)
  let ls := clipField [0, 1, 2] (fld lic 53 52) (fld b 53 52)
  let po := clipField [4, 8, 12] (fld lic 51 48) (fld b 51 48)
  let fl := clipField [0, 8, 16] (fld lic 47 43) (fld b 47 43)
  let tr := clipField [0, 1] (fld lic 42 42) (fld b 42 42)
  let ck := clipField [0, 1] (fld lic 41 41) (fld b 41 41)
  let bit (i : Nat) (x : Nat × Bool) := if x.2 then 2 ^ i else 0
  (w64 (t.1 * 2 ^ 56 + sp.1 * 2 ^ 54 + ls.1 * 2 ^ 52 + po.1 * 2 ^ 48 + fl.1 * 2 ^ 43 + tr.1 * 2 ^ 42 + ck.1 * 2 ^ 41),
   bit 0 t + bit 1 sp + bit 2 ls + bit 3 po + bit 4 fl + bit 5 tr + bit 6 ck)

/-- CFG_ENABLED `0.0011`; zero before a generation is in force. -/
def cfg (s : State) : W64 :=
  match s.otp.gen with
  | some g => (enabledOf s.built (genField s g 0 8)).1
  | none => 0

def cfgTiles (s : State) : Nat := wfld (cfg s) 63 56
def cfgSpares (s : State) : Nat := wfld (cfg s) 55 54
def cfgLs (s : State) : Nat := wfld (cfg s) 53 52
def cfgPorts (s : State) : Nat := wfld (cfg s) 51 48
def cfgFlash (s : State) : Nat := wfld (cfg s) 47 43
def cfgTrain (s : State) : Bool := wfld (cfg s) 42 42 == 1
def cfgCkeep (s : State) : Bool := wfld (cfg s) 41 41 == 1
def cfgQuads (s : State) : Nat := cfgTiles s / 4

/-- G of Table LS-1: usable granules per bank. -/
def granules (s : State) : Nat := if cfgLs s = 0 then 240 else if cfgLs s = 1 then 496 else 1008

/-! ## Partitions -/

def partOf (s : State) (d : Nat) : Option Part := s.parts.find? d

/-- Change partition `d` where it is defined. -/
def updPart (s : State) (d : Nat) (f : Part → Part) : State := { s with parts := s.parts.upd d f }

/-- The defined partition resident in slot `p`. -/
def slotPart (s : State) (p : Nat) : Option (Nat × Part) := List.find? (fun e => e.2.slot == some p) s.parts

def residents (s : State) : List (Nat × Part) := s.parts.filter (fun e => e.2.slot.isSome)

def runningParts (s : State) : List (Nat × Part) := s.parts.filter (fun e => e.2.st == .running)

/-- The urgent pre-emption of a partition has taken it to where only a row of Merge in progress goes on. -/
def stoppingNow (P : Part) : Bool := match P.preempt with | some q => q.stopping && !q.passed | none => false

/-- The lowest free resident slot. -/
def freeSlot (s : State) : Option Nat := (List.range 8).find? (fun p => (slotPart s p).isNone)

/-! ## Values of objects (R319 to R322, R347, R348) -/

/-- The latency of tier index `t` in ns (Table TIER-1), with the two declared latencies given. -/
def lambdaNs (t lat2 latR : Nat) : Nat := if t = 0 then 1100 else if t = 1 then lat2 else if t = 2 then 90000 else latR

/-- The override of an object element, if any (R347 step 1). -/
def ovrOf (s : State) (area item index : Nat) : Option W64 :=
  (s.od.ovrs.reverse.find? (fun e => e.area == area && e.item == item && (e.all || e.index == index))).bind
    (fun e => if e.ok then some e.value else none)

/-- An accepted value still waits for partition `d` (or, with none, for the units that serve all). -/
def PendVal.waits (v : PendVal) (d : Option Nat) : Bool :=
  match v.kind with
  | .reset => true
  | .parts l u _ =>
    match d with
    | some d => l.any (fun e => e.1 == d)
    | none => u

/-- The declared latency of T2 (`2.0010`) or TR (`2.0011`) in force. -/
def declaredNs (s : State) (item dv : Nat) : Nat :=
  (match s.od.pend.find? (fun (v : PendVal) => v.area == 2 && v.item == item && v.waits none) with
   | some v => v.old
   | none => (s.od.vals.find? (okey 2 item 0)).getD ((ovrOf s 2 item 0).getD (w64 dv))).toNat

/-- The table default of an object whose default the tables give as a formula or take from the plan or from
OTP; `q` is the count of quads of the slot. -/
def specialDefault (s : State) (area item index q : Nat) : Option Nat :=
  if area = 1 && item = 6 then some (otpNat s 0x328 1 % 2)
  else if area = 2 && item = 0x14 then
    some (8 * lambdaNs index (declaredNs s 0x10 3000) (declaredNs s 0x11 4000))
  else if area = 2 && item = 0x60 then some (2 ^ wfld s.built 47 43 - 1)
  else if area = 7 && item = 0x40 then some ((q + 1) / 2)
  else if area = 7 && item = 0x42 then some q
  else if area = 8 && item = 1 then some (2 ^ cfgPorts s - 1)
  else none

/-- Bits set in the low 8 bits. -/
def popcount8 (n : Nat) : Nat := ((List.range 8).filter (fun i => bitOf n i)).length

/-- The quads of the partition in slot `p`: Q of Table TILE-9. -/
def slotQuads (s : State) (p : Nat) : Nat := popcount8 ((s.od.vals.find? (okey 7 0x20 p)).getD 0).toNat

/-- The resolved default of an object element (R347). -/
def dfltOf (s : State) (area item index : Nat) : W64 :=
  match ovrOf s area item index with
  | some w => w
  | none =>
    match specialDefault s area item index (slotQuads s index) with
    | some n => w64 n
    | none => w64 (((objRow area item).map (·.dflt)).getD 0)

/-- The last accepted value (R321). -/
def lastVal (s : State) (area item index : Nat) : W64 :=
  (s.od.vals.find? (okey area item index)).getD (dfltOf s area item index)

/-- The value in force for partition `d`, or for the units that serve every partition (R319, R320). -/
def inForce (s : State) (area item index : Nat) (d : Option Nat) : W64 :=
  match s.od.pend.find? (fun v => v.area == area && v.item == item && v.index == index && v.waits d) with
  | some v => v.old
  | none => lastVal s area item index

/-- The value in force of a device-wide object for the units that serve every partition. -/
def valU (s : State) (area item : Nat) : Nat := (inForce s area item 0 none).toNat

/-- The value of a device-wide object in force for the work done for partition `d` (R320). -/
def valOf (s : State) (area item d : Nat) : Nat := (inForce s area item 0 (some d)).toNat

/-- The value in force of an element of a device-wide array. -/
def valX (s : State) (area item index : Nat) : Nat := (inForce s area item index none).toNat

/-- The value in force of a slot's object for the partition `d` in slot `p`. -/
def valP (s : State) (area item p d : Nat) : Nat := (inForce s area item p (some d)).toNat

/-- The value of a slot's object for partition `d`; `dv` where `d` is not resident. -/
def valD (s : State) (area item d dv : Nat) : Nat :=
  match (partOf s d).bind (·.slot) with
  | some p => valP s area item p d
  | none => dv

/-- The value of a slot's object that the Clamp keeps. -/
def clampVal (P : Part) (area item i dv : Nat) : Nat :=
  ((P.clamp.bind (fun c => c.vals.find? (fun v => v.1 == area && v.2.1 == item && v.2.2.1 == i))).map (fun v => v.2.2.2.toNat)).getD dv

/-- The value of a slot's object for partition `d`, resident or CLAMPED; `dv` where it is neither. -/
def valK (s : State) (area item d dv : Nat) : Nat :=
  match partOf s d with
  | some P => (match P.slot with | some p => valP s area item p d | none => clampVal P area item 0 dv)
  | none => dv

/-- Set a value in force and accepted at once. -/
def setVal (s : State) (area item index : Nat) (w : W64) : State :=
  { s with od := { s.od with vals := s.od.vals.put (okey area item index) w } }

/-- Ports that may carry requests: enabled in `8.0001` and up (R366). -/
def portsEnabled (s : State) : List Nat :=
  (List.range 12).filter (fun m => bitOf (valU s 8 1) m && decide (m < cfgPorts s))

def portsUp (s : State) : List Nat := (portsEnabled s).filter (fun m => s.mp.up.contains m)

/-! ## Counters (R350, R351) -/

def cntKey (item index : Nat) : Nat := item * 2 ^ 24 + index

/-- Add `n` to a counter, modulo 2^64. -/
def bumpAt (s : State) (item index n : Nat) : State :=
  { s with cnt := s.cnt.set 0 (cntKey item index) (w64 ((s.cnt.getD (cntKey item index) 0).toNat + n)) }

/-- Add to a device counter. -/
def bump (s : State) (item : Nat) (n : Nat) : State := bumpAt s item 0 n

/-- Add to a counter of partition `d`; an undefined partition has none. -/
def bumpD (s : State) (item d : Nat) (n : Nat) : State := if (partOf s d).isSome then bumpAt s item d n else s

/-- Add to an array counter of partition `d`: `per` elements each. -/
def bumpArr (s : State) (item d per i n : Nat) : State :=
  if (partOf s d).isSome then bumpAt s item (per * d + i) n else s

/-- Charge a census of Table NUM-4 to a partition. -/
def bumpCensus (s : State) (d : Nat) (c : Census) : State :=
  bumpD (bumpD (bumpD (bumpD (bumpD s Cnt.numNan d c.nan) Cnt.numInf d c.inf) Cnt.numScaleNan d c.scaleNan)
    Cnt.numSat d c.sat) Cnt.numMxClamp d c.clamp

/-! ## Free values -/

/-- Draw a free value: the value the spec leaves open, and the state that has drawn it. -/
def draw (s : State) : W64 × State := (Config.freeValue s.free, { s with free := s.free + 1 })

/-! ## Time (R102, R329, R370) -/

/-- The time of day in ns with TIME_ADJ applied; none while the input is not valid. -/
def nowNs (s : State) : Option Nat :=
  if s.tod.valid then
    let adj := signed 64 (inForce s 12 0x40 0 none).toNat * 1000000000 + signed 64 (inForce s 12 0x41 0 none).toNat
    some (((s.tod.sec * 1000000000 + s.tod.ns : Nat) : Int) + adj).toNat
  else none

/-! ## Memory requests (R133, R364) -/

/-- Add a request to the requests that wait for issue. -/
def addReq (s : State) (d : Nat) (write : Bool) (tier port qos addr bytes : Nat) (use : Use) (free : Bool)
    (span : Option (Nat × Nat) := none) : State :=
  let r : Req :=
    { id := s.mp.nextId, part := d, write := write, tier := tier, port := port, qos := qos, addr := addr,
      bytes := bytes, use := use, free := free, span := span }
  { s with mp := { s.mp with nextId := s.mp.nextId + 1, waiting := s.mp.waiting ++ [r] } }

/-- The request pieces of `n` bytes from `off`: 64 B to 4 KiB, none across a 4 KiB boundary (R133). -/
def pieces : Nat → Nat → Nat → List (Nat × Nat)
  | 0, _, _ => []
  | fuel + 1, off, n =>
    if n = 0 then []
    else
      let k := Nat.min n (4096 - off % 4096)
      (off, k) :: pieces fuel (off + k) (n - k)

def pieceList (off n : Nat) : List (Nat × Nat) := pieces (n / 4096 + 2) off n

/-- The requests that cover `n` bytes from `off`: whole 64 B lines, in pieces (R133). -/
def reqPieces (off n : Nat) : List (Nat × Nat) := if n = 0 then [] else pieceList (off - off % 64) (a64 (off % 64 + n))

/-- The port that carries a request to a bare T1 address: the lowest port that is up (notes/assumptions/9.md). -/
def bareport (s : State) : Nat := (portsUp s).headD 0

/-- Store bytes at a T1 address as a write of a structure that lies in no extent (R434). -/
def storeT1 (s : State) (d qos addr : Nat) (bs : List Byte) (use : Use) (free : Bool) : State :=
  forEach (reqPieces addr bs.length) { s with mem := storeBytes s.mem (memKey 0 addr) bs } (fun s p =>
    let a := Nat.max addr p.1
    addReq s d true 0 (bareport s) qos p.1 p.2 use free (some (a, Nat.min (addr + bs.length) (p.1 + p.2) - a)))

/-- The same for a structure of no special traffic: QoS 1, charged. -/
def writeT1 (s : State) (d addr : Nat) (bs : List Byte) : State := storeT1 s d 1 addr bs .misc false

/-! ## Events (R311, Table CORE-6) -/

def evEntries (s : State) : Nat := (lastVal s 1 0x41 0).toNat
def evBase (s : State) : Nat := (lastVal s 1 0x40 0).toNat
def evTail (s : State) : Nat := (lastVal s 1 0x43 0).toNat

/-- The Event Ring can take one more entry; no block issues a memory request before stage 6 of bring-up ends (R385). -/
def evRoom (s : State) : Bool :=
  evEntries s ≠ 0 && (s.core.evHead + 1) % evEntries s ≠ evTail s && decide (6 < s.boot.stage)

/-- Write an entry into the Event Ring and advance EV_HEAD. The request is of no partition: 32 stands for the device. -/
def evWrite (s : State) (e : EvEntry) : State :=
  let s := writeT1 s 32 (evBase s + 32 * s.core.evHead) (wordBytes e)
  { s with core := { s.core with evHead := (s.core.evHead + 1) % evEntries s } }

/-- An entry of Table CORE-6. -/
def evEntry (s : State) (num : Nat) (d : Option Nat) (code arg0 arg1 : Nat) : EvEntry :=
  let step := ((d.bind (partOf s)).map (·.step)).getD 0
  let w0 := num * 2 ^ 48 + (match d with | some d => d * 2 ^ 43 + 2 ^ 42 | none => 0) + Ev.sev num code * 2 ^ 40 + step % 2 ^ 40
  [w64 w0, w64 (code * 2 ^ 48 + arg0 % 2 ^ 48), w64 arg1, w64 ((nowNs s).getD 0)]

/-- The entry that reports dropped events. -/
def overflowEntry (s : State) : EvEntry := evEntry s Ev.evOverflow none 0 s.core.evDropped 0

/-- Put an entry into the ring, or into the backlog, or drop it (R311). -/
def evPut (s : State) (e : EvEntry) : State :=
  if s.core.backlog.isEmpty && evRoom s then evWrite s e
  else if s.core.backlog.length < 1024 then { s with core := { s.core with backlog := s.core.backlog ++ [e] } }
  else bump { s with core := { s.core with evDropped := s.core.evDropped + 1 } } Cnt.evDrop 1

/-- The first entry written after a drop is EV_OVERFLOW. -/
def evFlushDrop (s : State) : State :=
  if s.core.evDropped ≠ 0 && (s.core.backlog.length < 1024) then
    evPut { s with core := { s.core with evDropped := 0 } } (overflowEntry s)
  else s

/-- Raise an in-band interrupt on the sideband while IBIs are enabled (R328). -/
def raiseIbi (s : State) (b : Nat) : State :=
  if s.i3c.ibiOn then { s with i3c := { s.i3c with ibis := s.i3c.ibis ++ [b] } } else s

/-- Latch interrupt source `i` of the control core, 25 to 49 (Table CORE-2). -/
def latch (s : State) (i : Nat) : State := { s with core := { s.core with intr := s.core.intr ||| 2 ^ i } }

/-- A severity 2 event stops the trace buffer where `A.0031` [1] asks for it (R421). -/
def traceStop (s : State) : State :=
  let c := (lastVal s 10 0x31 0).toNat
  if bitOf c 0 && bitOf c 1 then setVal s 10 0x31 0 (w64 (c - 1)) else s

/-- Post an event (R311, R352). -/
def post (s : State) (num : Nat) (d : Option Nat) (code arg0 arg1 : Nat) : State :=
  let s1 := evFlushDrop s
  let s2 := evPut s1 (evEntry s1 num d code arg0 arg1)
  if Ev.sev num code = 2 then traceStop (raiseIbi s2 0xA2) else s2

/-- Drain the backlog into the ring, oldest first, as far as there is room. -/
def evDrainAux : List EvEntry → State → State
  | [], s => { s with core := { s.core with backlog := [] } }
  | e :: t, s => if evRoom s then evDrainAux t (evWrite s e) else { s with core := { s.core with backlog := e :: t } }

/-- Drain the backlog; source 44 where it was full and has room again (Table CORE-2). -/
def evDrain (s : State) : State :=
  let full := decide (1024 ≤ s.core.backlog.length)
  let s1 := evDrainAux s.core.backlog { s with core := { s.core with backlog := [] } }
  if full && s1.core.backlog.length < 1024 then latch s1 44 else s1

/-! ## Command instances (R323, R340) -/

/-- The status record's place. -/
def statKey (i : Inst) : Nat := okey i.area (i.item + 0x0800) (16 * i.path.num + i.cseq)

/-- Two references to one instance. -/
def Inst.same (a b : Inst) : Bool := a.area == b.area && a.item == b.item && a.path == b.path && a.cseq == b.cseq

def dropInst (s : State) (i : Inst) : State :=
  { s with od := { s.od with insts := s.od.insts.filter (fun j => !i.same j) } }

def putStat (s : State) (i : Inst) (r : StatRec) : State :=
  { s with od := { s.od with stats := s.od.stats.put (statKey i) r } }

/-- Replace an instance by what it has become, in its place in the order of acceptance. -/
def setInst (s : State) (i : Inst) : State :=
  putStat { s with od := { s.od with insts := s.od.insts.map (fun j => if i.same j then i else j) } } i
    { state := (match i.st with | .pending => 2 | _ => 1), tag := i.tag }

/-- The instance ends: its status record, CMD_RESULT, and its place in the queue freed (R323, R352). -/
def finish (s : State) (i : Inst) (d : Option Nat) (code : Nat) (r0 r1 : W64) : State :=
  let step := ((d.bind (partOf s)).map (·.step)).getD 0
  let s1 := putStat (dropInst s i) i
    { code := code, state := if code = 0 then 3 else 4, tag := i.tag, step := step, r0 := r0, r1 := r1 }
  post s1 Ev.cmdResult d code (i.obj + i.cseq * 2 ^ 20 + i.path.num * 2 ^ 24) r0.toNat

/-- The instance ends with a refusal. -/
def refuse (s : State) (i : Inst) (d : Option Nat) (code : Nat) : State := finish s i d code 0 0

/-- The oldest instance of an object whose row has not acted. -/
def oldest (s : State) (area item : Nat) : Option Inst :=
  s.od.insts.find? (fun i => i.area == area && i.item == item && i.st == .issued)

/-- A named instance of an object. -/
def instAt (s : State) (area item : Nat) (r : CmdRef) : Option Inst :=
  s.od.insts.find? (fun i => i.area == area && i.item == item && i.path == r.path && i.cseq == r.cseq)

/-- Argument word `n` of an instance. -/
def Inst.arg (i : Inst) (n : Nat) : Nat := (i.args.getD n 0).toNat

/-- The freeze point of the next step has passed for partition `d` with a step in progress: the boundaries a
STEP-class acceptance waits for (Table OD-3); 0 means at once. -/
def boundaries (P : Part) : Nat := if P.st = .running && P.inStep then (if P.frozen then 2 else 1) else 0

/-- Ports held low or in test: nothing reaches the block. -/
def held (s : State) : Bool := s.boot.prstLow || s.boot.testMode || s.boot.testHeld

/-- Serving-ready (R381). -/
def ready (s : State) : Bool := s.boot.stage == 11

/-! ## Replay record entries (R424) -/

/-- The place of an event: word 0 of Table DBG-5 for a kind at a target. -/
def evWord (kind : Nat) (k : PosKey) (row : Option Nat) : W64 :=
  w64 (kind * 2 ^ 59 + (if k.bwd then 2 ^ 58 else 0) + k.layer % 256 * 2 ^ 50 + k.tslot % 16 * 2 ^ 46 + k.win % 1024 * 2 ^ 36 +
    (match row with | some r => r % 2 ^ 18 * 2 ^ 18 | none => 2 ^ 17))

/-- Add an entry to the open record of a partition; past 256 KiB of entries the record is incomplete (R422). -/
def recEntry (s : State) (d : Nat) (w0 w1 : W64) : State :=
  match s.dbg.recs.find? d with
  | none => s
  | some r =>
    let r1 := if r.entries.length < 16384 then { r with entries := r.entries ++ [(w0, w1)] } else { r with dropped := true }
    { s with dbg := { s.dbg with recs := s.dbg.recs.put d r1 } }

def recEvent (s : State) (d kind : Nat) (k : PosKey) (row : Option Nat) (arg : Nat) : State := recEntry s d (evWord kind k row) (w64 arg)

end Sys2Proof.Machine
end

