-- ==== Sys2Proof/Machine/DictOps.lean ====
section
/-! DEFINITION. The checks and effects of dictionary writes: rights (R317), owners and the enabled configuration
(R315, R338), ranges, effect classes (R319 to R321), the issue of commands (R323, R341) and bundles (R329 to R334). -/

namespace Sys2Proof.Machine

/-! ## Rights (R317, Table OD-2) -/

/-- The four uses of an object a path may ask for. -/
inductive Access where
  | read
  | write
  | writeB
  | issue
  deriving DecidableEq, Repr

/-- Areas in which the sideband may write. -/
def sidebandArea (a : Nat) : Bool := a == 9 || a == 11 || a == 12

/-- Table OD-2 with R313: 0 or the code of the refusal. -/
def mayAccess (path : Path) (o : Obj) (a : Access) : Nat :=
  match a, o.right with
  | .read, .cmd => Code.noRight
  | .read, _ => Code.ok
  | .issue, .cmd =>
    match path with
    | .cp => Code.ok
    | .i3c => if o.area == 1 || o.area == 9 || o.area == 11 then Code.ok else Code.noRight
    | .fw => if o.area == 2 && o.item == 0x22 then Code.ok else Code.noRight
  | .issue, _ => Code.noRight
  | .writeB, .rwb => (match path with | .cp => Code.ok | .i3c => if sidebandArea o.area then Code.ok else Code.noRight | .fw => Code.noRight)
  | .writeB, .rws => (match path with | .cp => Code.ok | .i3c => if sidebandArea o.area then Code.ok else Code.noRight | .fw => Code.noRight)
  | .writeB, .rw => (match path with | .cp => Code.bundleScope | .i3c => if sidebandArea o.area then Code.bundleScope else Code.noRight | .fw => Code.noRight)
  | .writeB, .rwq => (match path with | .cp => Code.bundleScope | _ => Code.noRight)
  | .writeB, .wo1 => (match path with | .fw => Code.noRight | _ => Code.bundleScope)
  | .writeB, _ => Code.noRight
  | .write, .ro => Code.noRight
  | .write, .cmd => Code.noRight
  | .write, .wo1 => (match path with | .fw => Code.noRight | _ => Code.ok)
  | .write, .rwb =>
    (match path with
     | .cp => Code.setNeedsBundle
     | .i3c => if sidebandArea o.area then Code.setNeedsBundle else Code.noRight
     | .fw => Code.noRight)
  | .write, .rwq => (match path with | .cp => Code.ok | _ => Code.noRight)
  | .write, _ =>
    (match path with
     | .cp => Code.ok
     | .i3c => if sidebandArea o.area then Code.ok else Code.noRight
     | .fw => if o.area == 7 && o.item == 0x40 then Code.ok else Code.noRight)

/-! ## Owners and resources (R315, R338) -/

/-- Whom an array element belongs to. -/
inductive Owner where
  | device
  | slot (p : Nat)
  | defined (d : Nat)
  deriving DecidableEq, Repr

def ownerOf (ix : Ix) (index : Nat) : Owner :=
  match ix with
  | .p => .slot index
  | .p64 => .slot (index / 64)
  | .pm => .slot (index / 12)
  | .tag => .slot (index / 2 ^ 20)
  | .seg => .slot (index / 2 ^ 18)
  | .basis => .slot (index / 4096)
  | .d => .defined index
  | .dm => .defined (index / 12)
  | .dc => .defined (index / 16)
  | .dt => .defined (index / 4)
  | _ => .device

/-- The owner is there: a slot that holds a resident partition, a defined partition (R315). -/
def ownerThere (s : State) : Owner → Bool
  | .device => true
  | .slot p => (slotPart s p).isSome
  | .defined d => (partOf s d).isSome

/-- The defined partition an element belongs to. -/
def ownerPart (s : State) : Owner → Option (Nat × Part)
  | .device => none
  | .slot p => slotPart s p
  | .defined d => (partOf s d).map (fun P => (d, P))

/-- The element names a resource outside the enabled configuration (R338). -/
def outside (s : State) (ix : Ix) (index : Nat) : Bool :=
  match ix with
  | .m => decide (cfgPorts s ≤ index)
  | .pm => decide (cfgPorts s ≤ index % 12)
  | .dm => decide (cfgPorts s ≤ index % 12)
  | .c => decide (cfgFlash s ≤ index)
  | .dc => decide (cfgFlash s ≤ index % 16)
  | .ltile => decide (cfgTiles s ≤ index)
  | _ => false

/-! ## Ranges -/

/-- The unused upper bits of a scalar are zero; a signed scalar is sign-extended (R316). -/
def widthOk (ty : OTy) (w : W64) : Bool :=
  match ty with
  | .u b => decide (w.toNat < 2 ^ b)
  | .i b => decide (signed 64 w.toNat = signed b w.toNat)
  | .fp => decide (w.toNat < 2 ^ 32) && wfld w 30 23 != 255
  | _ => true

def isPow2 (n : Nat) : Bool := n ≠ 0 && 2 ^ Nat.log2 n == n

def rngOk (r : Rng) (w : W64) : Bool :=
  let n := w.toNat
  match r with
  | .any => true
  | .upto hi => decide (n ≤ hi)
  | .within lo hi => decide (lo ≤ n) && decide (n ≤ hi)
  | .zeroOr lo hi => n == 0 || (decide (lo ≤ n) && decide (n ≤ hi))
  | .mult hi k => decide (n ≤ hi) && n % k == 0
  | .pow2 lo hi => n == 0 || (isPow2 n && decide (lo ≤ n) && decide (n ≤ hi))
  | .oneOf l => l.contains n
  | .signedIn lo hi => decide (lo ≤ signed 64 n) && decide (signed 64 n ≤ hi)
  | .dyn => true

/-- The object behind a handle of partition `d`. -/
def objKey (d h : Nat) : Nat := d * 2 ^ 20 + h
def objOf (s : State) (d h : Nat) : Option Objt := s.tm.objs.find? (objKey d h)

/-- The base of an object in T1, where it has one. -/
def t1Base (s : State) (d h : Nat) : Option Nat := (objOf s d h).bind (fun o => if o.home = 1 then some o.base else none)

/-- A handle object: "none", or an object of the partition with home `home` and at least `bytes` (R131, R435). -/
def handleOk (s : State) (d h home bytes : Nat) : Bool :=
  h == none20 || (match objOf s d h with | some o => o.home == home && decide (bytes ≤ o.bytes) | none => false)

/-- The sum of `CACHE_BYTES` over the ports. -/
def cacheTotal (s : State) : Nat := sumBy (List.range (cfgPorts s)) (fun m => valX s 2 0x31 m)

/-- The sum of a slot object over the resident slots, with `v` in place of slot `p`'s value. -/
def slotSum (s : State) (area item p v : Nat) : Nat :=
  sumBy (residents s) (fun e =>
    match e.2.slot with
    | some p' => if p' = p then v else (lastVal s area item p').toNat
    | none => 0)

/-- The context ranges of two partitions share a context. -/
def rangesMeet (b c b' c' : Nat) : Bool := c ≠ 0 && c' ≠ 0 && decide (b < b' + c') && decide (b' < b + c)

/-- A context range is disjoint from every resident range but that of slot `p` (R224). -/
def ctxRangeFree (s : State) (p base count : Nat) : Bool :=
  (List.range 8).all (fun p' => p' == p || (slotPart s p').isNone ||
    !rangesMeet base count (lastVal s 6 0x10 p').toNat (lastVal s 6 0x11 p').toNat)

/-- R260: the sum of the rates on port `m` over the resident latency-critical partitions, with `v` for slot `p`. -/
def rateSum (s : State) (item p m v : Nat) : Nat :=
  sumBy (List.range 8) (fun p' =>
    if (slotPart s p').isSome && decide ((lastVal s 7 0x21 p').toNat < 4) then
      (if p' = p then v else (lastVal s 7 item (12 * p' + m)).toNat) else 0)

/-- Whether rates for class `cls` of slot `p` keep both sums of R260 on every port. -/
def ratesOkWithClass (s : State) (p cls : Nat) : Bool :=
  decide (cls ≥ 4) || (List.range 12).all (fun m =>
    let extra (item : Nat) := if (lastVal s 7 0x21 p).toNat < 4 then 0 else (lastVal s 7 item (12 * p + m)).toNat
    decide (rateSum s 0x70 p m (lastVal s 7 0x70 (12 * p + m)).toNat + extra 0x70 ≤ 896000) &&
    decide (rateSum s 0x71 p m (lastVal s 7 0x71 (12 * p + m)).toNat + extra 0x71 ≤ 448000))

def kib (n : Nat) : Nat := n * 1024
def mib (n : Nat) : Nat := n * 1048576

/-- The ranges that depend on the state, for a value that its own row of the object tables leaves to it
(R110, R130, R132, R151, R224, R247, R249, R260, R314, R315): 0 or the code. The share of a slot against the
bindings in force (R110) is tested where footprints are known. -/
def dynRange (s : State) (o : Obj) (index n : Nat) : Nat :=
  let bad (b : Bool) := if b then Code.ok else Code.limitRange
  let d := match ownerPart s (ownerOf o.ix index) with | some (d, _) => d | none => 0
  match o.area, o.item with
  | 1, 0x43 => bad (decide (n < evEntries s))
  | 2, 0x14 => bad (decide (lambdaNs index (valU s 2 0x10) (valU s 2 0x11) ≤ n) && decide (n ≤ 100000000))
  -- the sum of CACHE_BYTES stays no lower than the floors that it must hold
  | 2, 0x31 => bad (decide (slotSum s 2 0x32 8 0 ≤ sumBy (List.range (cfgPorts s)) (fun m => if m = index then n else (lastVal s 2 0x31 m).toNat)))
  | 2, 0x32 => bad (decide (slotSum s 2 0x32 index n ≤ cacheTotal s))
  | 2, 0x60 => bad (decide (n < 2 ^ wfld s.built 47 43))
  | 4, 0x30 => bad (handleOk s d n 1 0)
  | 4, 0x31 => bad (handleOk s d n 1 0)
  | 4, 0x32 => bad (decide (n ≤ 65536) && decide (slotSum s 4 0x32 index n ≤ 65536))
  | 5, 0x20 => bad (handleOk s d n 1 0)
  | 5, 0x21 => bad (handleOk s d n 1 0)
  | 5, 0x22 => bad (handleOk s d n 1 0)
  | 5, 0x23 => bad (handleOk s d n 1 (kib 256))
  | 5, 0x24 => bad (handleOk s d n 1 0)
  | 5, 0x25 => bad (handleOk s d n 1 (kib 128))
  | 6, 0x11 => bad (decide (n + (lastVal s 6 0x10 index).toNat ≤ 16384) &&
      ctxRangeFree s index (lastVal s 6 0x10 index).toNat n)
  | 6, 0x10 => bad (decide (n ≤ 16383) && ctxRangeFree s index n (lastVal s 6 0x11 index).toNat)
  | 6, 0x22 => bad (decide (n < (lastVal s 6 0x21 index).toNat))
  | 6, 0x27 => bad (decide (n < (lastVal s 6 0x25 index).toNat))
  | 6, 0x28 => bad (handleOk s d n 1 (4096 * (lastVal s 6 0x11 index).toNat))
  | 6, 0x50 => bad (handleOk s d n 1 (2 * mib 17))
  | 6, 0x61 => bad (decide (n ≤ 2 ^ 26) && n % (64 * (lastVal s 6 0x60 index).toNat) == 0)
  | 6, 0x62 => bad (handleOk s d n 1 0)
  | 6, 0x63 => bad (handleOk s d n 2 0)
  | 6, 0x64 => bad (handleOk s d n 1 0)
  | 6, 0x65 => bad (decide (n ≤ 65536) && decide (slotSum s 6 0x65 index n ≤ 65536))
  | 7, 0x15 => bad (handleOk s d n 1 (mib 10))
  | 7, 0x16 => bad (handleOk s d n 1 (kib 4160))
  | 7, 0x20 => bad (n ≠ 0 && decide (n < 2 ^ cfgQuads s))
  | 7, 0x21 => bad (decide (n ≤ 4) && ratesOkWithClass s index n)
  | 7, 0x40 => bad (decide ((lastVal s 7 0x41 index).toNat ≤ n) && decide (n ≤ (lastVal s 7 0x42 index).toNat))
  | 7, 0x41 => bad (decide (n ≤ slotQuads s index))
  | 7, 0x42 => bad (decide ((lastVal s 7 0x41 index).toNat ≤ n) && decide (n ≤ slotQuads s index))
  | 7, 0x50 => if decide (granules s < n) then Code.limitRange
      else if slotSum s 7 0x50 index n ≤ granules s then Code.ok else Code.lsOvercommit
  | 7, 0x70 => bad (n == 0 || (decide (1000 ≤ n) && decide (n ≤ 896000) &&
      (decide (4 ≤ (lastVal s 7 0x21 (index / 12)).toNat) || decide (rateSum s 0x70 (index / 12) (index % 12) n ≤ 896000))))
  | 7, 0x71 => bad (n == 0 || (decide (1000 ≤ n) && decide (n ≤ 448000) &&
      (decide (4 ≤ (lastVal s 7 0x21 (index / 12)).toNat) || decide (rateSum s 0x71 (index / 12) (index % 12) n ≤ 448000))))
  | 7, 0x72 => bad (decide (4096 ≤ n) && decide (n ≤ 16777216) && n % 4096 == 0)
  | 8, 1 => bad (decide (n < 2 ^ cfgPorts s))
  | 12, 0x20 => bad (n == 0 || (decide (1000 ≤ n) && decide (n ≤ 100000000) &&
      (match slotPart s index with | some (_, P) => P.modes.holdCeil | none => false)))
  | _, _ => Code.ok

/-- A change of the Event Ring's place or size while the ring is on (R311). -/
def evGeometryBusy (s : State) (o : Obj) (n : Nat) : Bool :=
  o.area == 1 && evEntries s ≠ 0 && (o.item == 0x40 || (o.item == 0x41 && n ≠ 0))

/-- The checks of a direct write after its right (R315, R316, R250, R338, R343): 0 or the code. -/
def admitWrite (s : State) (o : Obj) (index len : Nat) (w : W64) : Nat :=
  let ow := ownerOf o.ix index
  if len + 1 ≠ o.ty.words then Code.accessSize
  else if !ownerThere s ow then Code.partState
  else if o.right = .rwq &&
      (match ow, ownerPart s ow with
       | .slot _, some (_, P) => P.st != .quiesced
       | .defined _, some (_, P) => P.st != .quiesced && P.st != .clamped
       | _, _ => false) then Code.notQuiesced
  else if outside s o.ix index then Code.limitRange
  else if !widthOk o.ty w then Code.limitRange
  else if !rngOk o.rng w then (if o.area == 8 && (o.item == 0x30 || o.item == 0x31) then Code.formatUnsupported else Code.limitRange)
  else if dynRange s o index w.toNat ≠ 0 then dynRange s o index w.toNat
  else if evGeometryBusy s o w.toNat then Code.objBusy
  else Code.ok

/-! ## Acceptance and effect classes (R319, R320) -/

/-- The boundaries each RUNNING partition with a step in progress has to pass. -/
def stepWaits (s : State) : List (Nat × Nat) :=
  (runningParts s).filterMap (fun e => if boundaries e.2 = 0 then none else some (e.1, boundaries e.2))

/-- RUNNING partitions whose freeze point of the next step has passed. -/
def frozenParts (s : State) : List Nat :=
  (runningParts s).filterMap (fun e => if boundaries e.2 = 2 then some e.1 else none)

/-- The waits of an accepted value of a STEP object (Table OD-3, R320); none where it is in force at once. -/
def stepKind (s : State) (ow : Owner) : Option PendKind :=
  match ow with
  | .device =>
    let l := stepWaits s
    if l.isEmpty then none else some (.parts l true (frozenParts s))
  | ow =>
    match ownerPart s ow with
    | some (d, P) => if boundaries P = 0 then none else some (.parts [(d, boundaries P)] false [])
    | none => none

/-- Accept a value: set the last accepted value and note where the one before is still in force. -/
def acceptVal (s : State) (o : Obj) (index : Nat) (w : W64) : State :=
  let old := lastVal s o.area o.item index
  let k := okey o.area o.item index
  let kind : Option PendKind :=
    match o.cls with
    | .reset => some .reset
    | .step => stepKind s (ownerOf o.ix index)
    | _ => none
  let s1 := { s with od := { s.od with vals := s.od.vals.put k w } }
  match kind with
  | none => s1
  | some kd => { s1 with od := { s1.od with pend := s1.od.pend ++ [{ area := o.area, item := o.item, index := index, old := old, kind := kd }] } }

/-- An accepted value of the object is not yet in force for some partition, or lies in a committed bundle
(R321 and the example of R334). -/
def pendFlag (s : State) (o : Obj) (index : Nat) : Bool :=
  s.od.pend.any (fun v => v.area == o.area && v.item == o.item && v.index == index) ||
    s.od.bundles.any (fun e => e.2.st == .committed &&
      e.2.writes.any (fun x => x.1 == o.area && x.2.1 == o.item && x.2.2.1 == index))

/-- A boundary of partition `d` for one waiting value. -/
def PendVal.atBoundary (v : PendVal) (d : Nat) : Option PendVal :=
  match v.kind with
  | .reset => some v
  | .parts l u fr =>
    let l' := l.filterMap (fun e => if e.1 == d then (if e.2 ≤ 1 then none else some (e.1, e.2 - 1)) else some e)
    let u' := u && fr.contains d
    if l'.isEmpty && !u' then none
    else some { v with kind := .parts l' u' (fr.filter (· != d)) }

/-- Every value that waits for partition `d` alone comes into force (R436: no step in progress). -/
def PendVal.released (v : PendVal) (d : Nat) : Option PendVal :=
  match v.kind with
  | .reset => some v
  | .parts l u fr =>
    let l' := l.filter (fun e => e.1 != d)
    let u' := u && !l'.isEmpty
    if l'.isEmpty && !u' then none else some { v with kind := .parts l' u' (fr.filter (· != d)) }

/-- Direct STEP writes due at the boundary of `d` come into force (R320, R333). -/
def stepWritesDue (s : State) (d : Nat) : State :=
  { s with od := { s.od with pend := s.od.pend.filterMap (fun v => v.atBoundary d) } }

/-- STEP writes that waited for `d` come into force because it has no step in progress. -/
def stepWritesReleased (s : State) (d : Nat) : State :=
  { s with od := { s.od with pend := s.od.pend.filterMap (fun v => v.released d) } }

/-- RESET-class values come into force (R319, R390 order 4). -/
def resetWritesDue (s : State) : State :=
  { s with od := { s.od with pend := s.od.pend.filter (fun v => v.kind != .reset) } }

/-! ## Issue of commands (R323, R341) -/

/-- Argument ranges tested at acceptance (R341, Table OBJ-3): a command without arguments carries a zero word;
the constants of FL_FORMAT and OTP_SEAL. -/
def argsOk (o : Obj) (args : List W64) : Bool :=
  let a (i : Nat) := (args.getD i 0).toNat
  match o.area, o.item with
  | 1, 0x01 => a 0 == 0
  | 1, 0x21 => a 0 == 0
  | 1, 0x22 => a 0 == 0
  | 1, 0x20 => a 0 % 64 == 0
  | 2, 0x25 => fld (a 0) 31 0 == 0x464F524D
  | 11, 0x10 => fld (a 0) 31 0 == sealWord || fld (a 0) 31 0 == voidWord
  | _, _ => true

/-- Live instances of an object on a path. -/
def liveInsts (s : State) (area item : Nat) (path : Path) : List Inst :=
  s.od.insts.filter (fun i => i.area == area && i.item == item && i.path == path)

/-- The CSEQ of the next instance (R323): after the last given, passing over instances still live. -/
def nextCseq (s : State) (area item : Nat) (path : Path) : Nat :=
  let live := liveInsts s area item path
  let from0 := (s.od.lastCseq.find? (okey area item path.num)).map (· + 1) |>.getD 0
  let l := (List.range 16).map (fun j => (from0 + j) % 16)
  (l.find? (fun c => !live.any (fun i => i.cseq == c))).getD 0

/-- Issue an instance: 0 or the code, the CSEQ, and the state. -/
def issueCmd (s : State) (path : Path) (o : Obj) (args : List W64) (tag : Nat) : Nat × Nat × State :=
  let c := mayAccess path o .issue
  if c ≠ 0 then (c, 0, s)
  else if args.length ≠ o.ty.words then (Code.accessSize, 0, s)
  else if !argsOk o args then (Code.limitRange, 0, s)
  else if 16 ≤ (liveInsts s o.area o.item path).length then (Code.cmdBusy, 0, s)
  else
    let q := nextCseq s o.area o.item path
    let i : Inst := { area := o.area, item := o.item, path := path, cseq := q, tag := tag, args := args }
    let s1 := { s with od := { s.od with
                  insts := s.od.insts ++ [i], lastCseq := s.od.lastCseq.put (okey o.area o.item path.num) q } }
    (Code.ok, q, putStat s1 i { state := 1, tag := tag })

/-! ## Bundles (R329 to R334) -/

def bundleOf (s : State) (b : Nat) : Bundle := (s.od.bundles.find? b).getD {}

def setBundle (s : State) (b : Nat) (x : Bundle) : State :=
  { s with od := { s.od with bundles := s.od.bundles.set {} b x } }

/-- The rules of Table OD-10 that relate two members, over the values `f` gives them. -/
def setsHold (f : Nat → Nat → W64) : Bool :=
  let adjS := signed 64 (f 12 0x40).toNat
  let adjN := signed 64 (f 12 0x41).toNat
  let time := decide (-999999999 ≤ adjN) && decide (adjN ≤ 999999999) &&
    (adjN == 0 || adjS == 0 || decide ((0 < adjN) = (0 < adjS)))
  let warn := (f 9 0x20).toNat
  let mapo := (f 9 0x21).toNat
  let per := (f 9 0x30).toNat
  let lines := (f 9 0x31).toNat
  time && decide (1 ≤ warn) && decide (warn ≤ mapo) && decide (1 ≤ lines) && decide (lines ≤ 8 * per)

/-- The values in force of the consistency sets. -/
def setValue (s : State) (a i : Nat) : W64 := inForce s a i 0 none

/-- The value a bundle gives an object, the last write of it prevailing. -/
def Bundle.value (b : Bundle) (a i x : Nat) : Option W64 :=
  ((b.writes.reverse.find? (fun w => w.1 == a && w.2.1 == i && w.2.2.1 == x))).map (·.2.2.2)

/-- R332: every rule of the sets the bundle touches holds over the values in force with its writes applied. -/
def bundleOk (s : State) (b : Bundle) : Bool :=
  setsHold (fun a i => (b.value a i 0).getD (setValue s a i))

/-- The BDL_COMMIT instance that waits for bundle `b`. -/
def commitInst (s : State) (b : Nat) : Option Inst :=
  s.od.insts.find? (fun i => i.area == 1 && i.item == 0x11 && i.st == .pending && i.aux == b)

/-- The writes of a bundle come into force. -/
def bundleWrites (s : State) (x : Bundle) : State :=
  forEach x.writes s (fun s w =>
    let k := okey w.1 w.2.1 w.2.2.1
    { s with od := { s.od with
      vals := s.od.vals.put k w.2.2.2
      pend := s.od.pend.filter (fun v => !(v.area == w.1 && v.item == w.2.1 && v.index == w.2.2.1 && v.kind != .reset)) } })

/-- Apply a committed bundle: all its writes or none (R332). A value already waiting for a boundary is
overtaken by the bundle's (R333). -/
def bundleApply (s : State) (b : Nat) : State :=
  let x := bundleOf s b
  let ok := bundleOk s x
  let s1 := if ok then bundleWrites s x else s
  let s2 := setBundle s1 b {}
  match commitInst s2 b with
  | some i => finish s2 i (if x.scope < 8 then (slotPart s2 x.scope).map (·.1) else none) (if ok then Code.ok else Code.bundleConflict) 0 0
  | none => s2

/-- Committed bundles in commit order. -/
def committedOrder (s : State) : List Nat :=
  let l := s.od.bundles.filter (fun e => e.2.st == .committed)
  let orders := l.map (fun e => e.2.order)
  let n := maxBy orders id + 1
  (List.range n).filterMap (fun o => (l.find? (fun e => e.2.order == o)).map (·.1))

/-- The state as the build of the next step reads the objects: with the values that come into force at the boundary that
opens it (Table OD-4). -/
def stepView (s : State) (p d : Nat) : State :=
  forEach (committedOrder s) (stepWritesDue s d) (fun v b =>
    let x := bundleOf v b
    if ((x.scope = p && decide (x.wait ≤ 1)) || (x.scope = 0xFF && !x.frozen.contains d)) && bundleOk v x then bundleWrites v x else v)

/-- Table ARCH-3 order 2 for bundles at a boundary of partition `d` in slot `p` (R332, R333). -/
def bundlesDue (s : State) (p d : Nat) : State :=
  forEach (committedOrder s) s (fun s b =>
    let x := bundleOf s b
    if x.scope = p then
      (if x.wait ≤ 1 then bundleApply s b else setBundle s b { x with wait := x.wait - 1 })
    else if x.scope = 0xFF then
      (if x.frozen.contains d then setBundle s b { x with frozen := x.frozen.filter (· != d) }
       else bundleApply s b)
    else s)

/-- A bundle that waits for a slot whose partition has no step in progress is applied (R436), and so is one of device scope once no
RUNNING partition has one. -/
def bundlesReleased (s : State) (p : Nat) : State :=
  forEach (committedOrder s) s (fun s b =>
    if (bundleOf s b).scope = p || ((bundleOf s b).scope = 0xFF && (stepWaits s).isEmpty) then bundleApply s b else s)

/-- Discard a bundle (R334); a BDL_COMMIT that waits for it ends with BUNDLE_NONE. -/
def bundleDiscard (s : State) (b : Nat) : State :=
  let s1 := setBundle s b {}
  match commitInst s1 b with
  | some i => refuse s1 i none Code.bundleNone
  | none => s1

/-- The open bundle a path may write, commit or abort. -/
def ownBundle (s : State) (path : Path) (b : Nat) : Option Bundle :=
  let x := bundleOf s b
  if x.st = .isOpen && x.path = path then some x else none

/-- What may stand in a bundle (R331). -/
def bundleAllows (x : Bundle) (o : Obj) (index : Nat) : Bool :=
  match o.right with
  | .rwb => x.scope == 0xFF
  | .rws =>
    (match ownerOf o.ix index with
     | .device => x.scope == 0xFF
     | .slot p => x.scope == p
     | .defined _ => false)
  | _ => false

/-- R331: add a write to an open bundle; 0 or the code. -/
def bundleWrite (s : State) (path : Path) (bid : Nat) (o : Obj) (index len : Nat) (w : W64) : Nat × State :=
  match ownBundle s path bid with
  | none => (Code.bundleNone, s)
  | some x =>
    let c := mayAccess path o .writeB
    if c ≠ 0 then (c, s)
    else if !bundleAllows x o index then (Code.bundleScope, s)
    else
      let c2 := admitWrite s o index len w
      if c2 ≠ 0 then (c2, s)
      else
        let same (e : Nat × Nat × Nat × W64) : Bool := e.1 == o.area && e.2.1 == o.item && e.2.2.1 == index
        let rest := x.writes.filter (fun e => !same e)
        if 64 ≤ rest.length then (Code.bundleFull, s)
        else (Code.ok, setBundle s bid { x with writes := rest ++ [(o.area, o.item, index, w)] })

end Sys2Proof.Machine
end

