-- ==== Sys2Proof/Machine/Images.lean ====
section
/-! DEFINITION. Adapter images, their checks, bindings and footprints (R48 to R60), pool specifications and trait
tables as records (R172 to R178), and the working sets of the fit checks (R120, R121). -/

namespace Sys2Proof.Machine

/-! ## Sizes (R60) -/

/-- P of R60: the bytes of a tensor of `c` columns of reduction length `m` in a format. -/
def planeBytes (code c m : Nat) : Nat :=
  match fmtOf code with
  | none => 0
  | some f =>
    if f.isMx then a64 (c * p32 m * f.bits / 8) + a64 (c * p32 m / 32) else a64 (c * m * f.bits / 8)

/-- The bytes of `s` or `β` (R52). -/
def vecBytes (bf16 : Bool) (n : Nat) : Nat := a64 (n * (if bf16 then 2 else 4))

/-- The size of a section of a customer image or of a basis-bank image (R60). -/
def sectBytes (bank : Bool) (e : Sect) : Nat :=
  if bank then planeBytes e.kfmt e.k e.din + planeBytes e.kfmt e.dout e.k
  else
    (if e.hasF then planeBytes e.ffmt e.r e.din + planeBytes e.ffmt e.dout e.r else 0) +
    (if e.hasK then planeBytes e.kfmt e.k e.k else 0) +
    (if e.hasS then vecBytes e.sBf16 e.dout else 0) +
    (if e.bias then vecBytes e.sBf16 e.dout else 0)

/-! ## The image (R49 to R53) -/

/-- A section table entry from its four words (Table ADPT-3). -/
def sectOf (w : List W64) : Sect :=
  let f (n hi lo : Nat) := fld (w.getD n 0).toNat hi lo
  { layer := f 0 63 56, slot := f 0 55 52, hasF := f 0 51 51 == 1, hasK := f 0 50 50 == 1, hasS := f 0 49 49 == 1,
    bias := f 0 48 48 == 1, sBf16 := f 0 47 47 == 1, isBf16 := f 0 46 46 == 1, din := 64 * f 0 43 34,
    dout := 64 * f 0 33 24, r := 4 * (f 0 23 18 + 1), k := 8 * (f 0 17 15 + 1), bank := f 0 14 7,
    alphaF := f 1 63 32, alphaK := f 1 31 0, poff := f 2 47 0, plen := 64 * f 3 63 40, ffmt := f 3 39 36, kfmt := f 3 35 32 }

/-- The reserved fields of an entry are zero. -/
def sectReserved (w : List W64) : Bool :=
  fld (w.getD 0 0).toNat 45 44 == 0 && fld (w.getD 0 0).toNat 6 0 == 0 && fld (w.getD 2 0).toNat 63 48 == 0

def finite32 (w : Nat) : Bool := fld w 30 23 != 255

/-- What the header of an image says (Table ADPT-2). -/
structure ImgHdr where
  id : Nat
  gen : Nat
  nsect : Nat
  isSealed : Bool
  stream : Bool
  bank : Bool
  len : Nat
  nonce : Nat
  keyid : Nat
  deriving DecidableEq, Repr

def imgHdr (w : List W64) : ImgHdr :=
  let f (n hi lo : Nat) := fld (w.getD n 0).toNat hi lo
  { id := f 1 63 40, gen := f 1 39 24, nsect := f 1 23 8, isSealed := f 1 7 7 == 1, stream := f 1 6 6 == 1, bank := f 1 5 5 == 1,
    len := f 2 63 0, nonce := f 4 63 32 * 2 ^ 64 + f 3 63 0, keyid := f 4 31 0 }

/-- The key of a basis pair (R55). -/
def pairKey (layer slot bank : Nat) : Nat := layer * 4096 + slot * 256 + bank

/-- Strict ascending order of the table (R54 check 1). -/
def sectOrder (bank : Bool) : List Sect → Bool
  | a :: b :: t =>
    let k (e : Sect) := if bank then pairKey e.layer e.slot e.bank else e.layer * 16 + e.slot
    decide (k a < k b) && sectOrder bank (b :: t)
  | _ => true

/-- The format codes a section uses (R54 check 1). -/
def usedFmts (e : Sect) : List Nat := (if e.hasF then [e.ffmt] else []) ++ (if e.hasK then [e.kfmt] else [])

/-- Check 1 on one section. R50 gives the sections of a basis-bank image class K alone; the list of check 1 does not name an
image that breaks this, and `IMAGE_BAD` for it is a DESIGN CHOICE (notes/assumptions/121.md). -/
def sectWellFormed (h : ImgHdr) (payload : Nat) (w : List W64) : Bool :=
  let e := sectOf w
  let room := if h.isSealed then h.len - 64 else h.len
  sectReserved w && finite32 e.alphaF && finite32 e.alphaK && (e.hasF || e.hasK || e.hasS) && (e.hasS || !e.bias) &&
    (if h.bank then e.hasK && !e.hasF && !e.hasS else true) &&
    e.poff % 64 == 0 && decide (payload ≤ e.poff) && decide (e.poff + e.plen ≤ room) &&
    ((usedFmts e).any (fun c => decide (9 < c)) || e.plen == sectBytes h.bank e)

/-- Check 1 of Table ADPT-6 on the header words and the section words. -/
def imgCheck1 (hw : List W64) (hbytes : List Byte) (sects : List (List W64)) : Bool :=
  let h := imgHdr hw
  let f (n hi lo : Nat) := fld (hw.getD n 0).toNat hi lo
  f 0 63 32 == 0x50454E41 && f 0 31 16 == 1 && f 0 15 0 == 64 && f 7 63 32 == crc32 (hbytes.take 60) &&
    h.len % 64 == 0 && decide (1 ≤ h.nsect) && decide (h.nsect ≤ 4096) &&
    f 1 4 0 == 0 && f 5 31 0 == 0 && f 6 63 0 == 0 && f 7 31 0 == 0 &&
    h.gen != 0xFFFF && (h.bank == (h.id == 0xFFFFFF)) &&
    (h.isSealed || (h.nonce == 0 && h.keyid == 0)) && (!h.isSealed || fld h.nonce 95 94 == 0) &&
    sectOrder h.bank (sects.map sectOf) && sects.all (sectWellFormed h (a64 (64 + 32 * h.nsect)))

/-- Where the bytes of an image lie: the key of byte `off` of a T1 address or of a T3 object (R157: map unit
`mu` of the flash tier holds 64 KiB of user data). -/
def imgKey (s : State) (d src base off : Nat) : Nat :=
  if src = 0 then memKey 0 (base + off)
  else memKey 2 (65536 * ((objOf s d base).map (·.mu) |>.getD 0) + off)

def imgBytes (s : State) (d src base off n : Nat) : List Byte := bytesAt s.mem (imgKey s d src base off) n

def imgWords (s : State) (d src base off n : Nat) : List W64 := wordsAt s.mem (imgKey s d src base off) n

/-- The device root key (Table BOOT-5). -/
def rootKey (s : State) : List Nat := (List.range 32).map (fun i => (s.otp.bytes.getD (0x308 + i) 0).toNat)

/-- The 12 bytes of a nonce, least significant first (notes/assumptions/10.md). -/
def nonceBytes (n : Nat) : List Nat := (leBytes 12 n).map (·.toNat)

def byteNats (l : List Byte) : List Nat := l.map (·.toNat)

/-- Check 2 of Table ADPT-6: the tag of a sealed image, or every PCRC. -/
def imgCheck2 (s : State) (d src base : Nat) (h : ImgHdr) (sects : List (List W64)) : Nat :=
  if h.isSealed then
    let p := a64 (64 + 32 * h.nsect)
    let aad := byteNats (imgBytes s d src base 0 (64 + 32 * h.nsect))
    let ct := byteNats (imgBytes s d src base p (h.len - 64 - p))
    let tag := byteNats (imgBytes s d src base (h.len - 64) 16)
    if h.keyid ≠ 0 && gcmTag (deriveKey (rootKey s) h.keyid) (nonceBytes h.nonce) aad ct == tag then Code.ok
    else Code.imageAuth
  else if sects.all (fun w => crc32 (imgBytes s d src base (sectOf w).poff (sectOf w).plen) == fld (w.getD 3 0).toNat 31 0) then Code.ok
  else Code.imageBad

/-- Check 6 of Table ADPT-6: the image alone against the bank or half a bank. -/
def imgFits (s : State) (h : ImgHdr) (sects : List Sect) : Nat :=
  let g := granules s
  let tot (p : Sect → Bool) := sumBy (sects.filter p) (sectBytes h.bank)
  if h.stream then
    if sects.all (fun e => decide (tot (fun x => x.layer == e.layer && x.slot == e.slot) ≤ g / 2 * 65536)) then Code.ok
    else Code.fitTarget
  else if sects.all (fun e => decide (tot (fun x => x.layer == e.layer) ≤ g * 65536)) then Code.ok
  else Code.fitLayer

/-- The generation after `g` (R55). -/
def nextGen (g : Nat) : Nat := if g = 0xFFFE then 0 else g + 1

/-! ## Bindings (R57 to R59) -/

/-- A binding's valid slots: slot, adapter ID and generation. -/
def bindSlots (b : List W64) : List (Nat × Nat × Nat) :=
  (List.range 4).filterMap (fun n =>
    let w := (b.getD n 0).toNat
    if bitOf w 0 then some (n, fld w 63 40, fld w 39 24) else none)

/-- The pool specification a binding names. -/
def bindPool (b : List W64) : Option Nat :=
  let w := (b.getD 4 0).toNat
  if bitOf w 0 then some (fld w 63 56) else none

/-- Every binding of a partition that is in force or pending: of its contexts, of requests that wait, of the
manifests of the step and of the next, and of CTX_REBIND instances that wait. -/
def bindingsOf (s : State) (d : Nat) (P : Part) : List (List W64) :=
  ((s.ctxs.filter (fun e => e.2.part == d)).map (·.2.bind)) ++
    (P.rqWait.filterMap (fun r => if r.op = 1 then some ((r.words.drop 6).take 5) else none)) ++
    ((P.man.toList ++ P.cand.toList ++ P.hostNext.toList).flatMap (fun m => m.descs.map (·.bind) ++ m.binds.map (·.2.1))) ++
    ((s.od.insts.filter (fun i => i.area == 3 && i.item == 0x12 && i.st == .pending && i.part == d)).map (fun i => (i.args.drop 1).take 5))

/-- A binding pins generation `g` of adapter `id`. -/
def pins (b : List W64) (id g : Nat) : Bool := (bindSlots b).any (fun x => x.2.1 == id && x.2.2 == g && x.2.2 != 0xFFFF)

/-- The generation rule of R55 for one ID or pair: 0 or the code. -/
def genRule (a : Adpt) (gen : Nat) (pinned : Nat → Bool) : Nat :=
  if (match a.cur with | some c => gen != nextGen c.gen | none => false) then Code.genStale
  else if (match a.prev with | some p => pinned p.gen | none => false) then Code.genPinned
  else if a.next.isSome || a.unload.isSome then Code.adapterBusy
  else Code.ok

/-- The checks of Table ADPT-6 in order, for an image at `base` of source `src`. -/
def adptChecks (s : State) (d : Nat) (P : Part) (src base : Nat) : Nat :=
  let hw := imgWords s d src base 0 8
  let h := imgHdr hw
  let n := Nat.min h.nsect 4096
  let sw := (List.range n).map (fun i => imgWords s d src base (64 + 32 * i) 4)
  let sects := sw.map sectOf
  if !imgCheck1 hw (imgBytes s d src base 0 64) sw then Code.imageBad
  else if imgCheck2 s d src base h sw ≠ 0 then imgCheck2 s d src base h sw
  else if !sects.all (fun e => decide (256 ≤ e.din) && decide (e.din ≤ 32768) && decide (256 ≤ e.dout) && decide (e.dout ≤ 32768)) then Code.limitRange
  else if sects.any (fun e => decide (9 < e.ffmt) || decide (9 < e.kfmt)) then Code.formatUnsupported
  else if !sects.all (fun e => P.shape.tgts.contains { layer := e.layer, slot := e.slot, din := e.din, dout := e.dout }) then Code.shapeMismatch
  else if imgFits s h sects ≠ 0 then imgFits s h sects
  else if h.bank then
    let cs := sects.map (fun e => genRule (P.pairs.getD (pairKey e.layer e.slot e.bank) {}) h.gen (fun _ => false))
    (cs.find? (fun c => c != 0)).getD 0
  else genRule (P.adpts.getD h.id {}) h.gen (fun g => (bindingsOf s d P).any (fun b => pins b h.id g))

/-- The generation an image gives. -/
def imgGen (s : State) (d src base : Nat) : ImgHdr × AGen :=
  let h := imgHdr (imgWords s d src base 0 8)
  let sects := (List.range (Nat.min h.nsect 4096)).map (fun i => sectOf (imgWords s d src base (64 + 32 * i) 4))
  (h, { gen := h.gen, stream := h.stream, sealed := h.isSealed, src := src, base := base, nonce := h.nonce, keyid := h.keyid, nsect := h.nsect, sects := sects })

/-- The state of an ID or pair after the installations and unloads of the `n`-th boundary from now (R58). -/
def Adpt.after (a : Adpt) (n : Nat) : Option AGen × Option AGen :=
  match a.next with
  | some (g, w) => if w ≤ n then (some g, a.cur) else (a.cur, a.prev)
  | none =>
    match a.unload with
    | some w => if w ≤ n then (none, none) else (a.cur, a.prev)
    | none => (a.cur, a.prev)

/-- The section of a generation at a target. -/
def AGen.at (g : AGen) (layer slot : Nat) : Option Sect := g.sects.find? (fun e => e.layer == layer && e.slot == slot)

/-- The generation that a slot word selects, and GSEL (R64): `0xFFFF` follows the current one. -/
def pickGen (cp : Option AGen × Option AGen) (gen : Nat) : Option (AGen × Nat) :=
  match cp with
  | (some c, p) =>
    if gen = 0xFFFF || gen = c.gen then some (c, 0)
    else match p with
      | some q => if gen = q.gen then some (q, 1) else none
      | none => none
  | _ => none

/-! ## Pool specifications and tables as records (Tables TRAIT-1, TRAIT-4) -/

def psidOf (w : List W64) : Nat := fld (w.getD 0 0).toNat 63 56
def poolMean (w : List W64) : Bool := fld (w.getD 0 0).toNat 55 55 == 1
def poolW (w : List W64) : Nat := 64 * fld (w.getD 0 0).toNat 54 45
def poolNseg (w : List W64) : Nat := fld (w.getD 0 0).toNat 44 41
def poolSteers (w : List W64) (slot : Nat) : Bool := bitOf (fld (w.getD 0 0).toNat 40 25) slot
def poolTmask (w : List W64) : Nat := (w.getD 1 0).toNat
/-- LMAP of layer ℓ: the segment that steers it, 0xF for none. -/
def poolLmap (w : List W64) (layer : Nat) : Nat :=
  fld (w.getD (2 + layer / 16) 0).toNat (4 * (layer % 16) + 3) (4 * (layer % 16))
/-- The specification steers a target. -/
def poolAt (w : List W64) (layer slot : Nat) : Bool := poolLmap w layer != 15 && poolSteers w slot

def tblTid (w : List W64) : Nat := fld (w.getD 0 0).toNat 63 58
def tblComp (w : List W64) : Nat := fld (w.getD 0 0).toNat 57 56
def tblRfmt (w : List W64) : Nat := fld (w.getD 0 0).toNat 55 54
def tblNseg (w : List W64) : Nat := fld (w.getD 0 0).toNat 53 50
def tblW64 (w : List W64) : Nat := fld (w.getD 0 0).toNat 49 40
def tblOsb (w : List W64) : Nat := 64 * fld (w.getD 0 0).toNat 39 32
def tblLrows (w : List W64) : Nat := (w.getD 1 0).toNat
def tblHandle (w : List W64) (q : Bool) : Nat := fld (w.getD (if q then 4 else 2) 0).toNat 63 44
def tblSeed (w : List W64) (q : Bool) : Nat := fld (w.getD (if q then 5 else 3) 0).toNat 63 32
def tblRows (w : List W64) (q : Bool) : Nat := fld (w.getD (if q then 5 else 3) 0).toNat 31 0 + 1
/-- Elements of a row. -/
def tblElems (w : List W64) : Nat := tblNseg w * 64 * tblW64 w
/-- Format code of a row (Table TRAIT-2 to Table EE-2). -/
def rowFmt (r : Nat) : Nat := if r = 0 then 0xA else if r = 1 then 0 else if r = 2 then 4 else 8
/-- Row bytes (R173). -/
def tblRowBytes (w : List W64) : Nat :=
  let n := tblElems w
  match tblRfmt w with
  | 0 => a64 (4 * n)
  | 1 => a64 (2 * n)
  | 2 => a64 (a64 n + n / 32)
  | _ => a64 (a64 (n / 2) + n / 32)
def tblStride (w : List W64) : Nat := tblRowBytes w + tblOsb w

/-! ## Working sets (R60, R120, R121) -/

/-- The counted size of a customer section at a target (R120). -/
def countedSect (a : Adpt) (gen layer slot : Nat) : Nat :=
  let sz (g : AGen) := ((g.at layer slot).map (sectBytes false)).getD 0
  if gen = 0xFFFF then Nat.max ((a.cur.map sz).getD 0) ((a.next.map (fun x => sz x.1)).getD 0)
  else match pickGen (a.cur, a.prev) gen with
    | some (g, _) => sz g
    | none => (a.next.map (fun x => sz x.1)).getD 0

/-- The counted size of a basis pair (R120). -/
def countedPair (a : Adpt) : Nat :=
  let sz (g : AGen) := sumBy g.sects (sectBytes true)
  Nat.max ((a.cur.map sz).getD 0) ((a.next.map (fun x => sz x.1)).getD 0)

/-- The generation that a slot word selects once every checked generation is installed (R58). A word that follows takes the one
that awaits installation; a pinned word keeps its own. -/
def genKey (a : Adpt) (gen : Nat) : Nat :=
  if gen = 0xFFFF then
    match a.next, a.cur with
    | some (g, _), _ => g.gen
    | none, some g => g.gen
    | none, none => gen
  else gen

/-- The sections a slot word may select at a target, for the pairs they name. -/
def sectsAt (a : Adpt) (gen layer slot : Nat) : List Sect :=
  let l := if gen = 0xFFFF then a.cur.toList ++ (a.next.map (·.1)).toList
    else match pickGen (a.cur, a.prev) gen with
      | some (g, _) => [g]
      | none => (a.next.map (·.1)).toList
  l.filterMap (fun g => g.at layer slot)

/-- The pool specification in force, or accepted for a boundary. -/
def poolOf (P : Part) (psid : Nat) : Option (List W64) :=
  (P.traits.pools.find? psid).bind (fun x => match x.next with | some (w, _) => some w | none => x.cur)

/-- Distinct elements, keeping the first of each. -/
def dedup {α : Type} [DecidableEq α] (l : List α) : List α := l.foldl (fun acc x => if acc.contains x then acc else acc ++ [x]) []

/-- The working set at one target of rows given by their bindings, without the pooled terms (R60). A section of one adapter and
generation counts once, with the largest size that R120 gives any word that selects it. -/
def targetSet (P : Part) (bs : List (List W64)) (layer slot : Nat) : Nat :=
  let ids := dedup (bs.flatMap (fun b => (bindSlots b).map (fun x => (x.2.1, x.2.2))))
  let key (x : Nat × Nat) : Nat × Nat := (x.1, genKey (P.adpts.getD x.1 {}) x.2)
  let sect := sumBy (dedup (ids.map key)) (fun k =>
    maxBy (ids.filter (fun x => key x == k)) (fun x => countedSect (P.adpts.getD x.1 {}) x.2 layer slot))
  let banks := dedup (ids.flatMap (fun x =>
    ((sectsAt (P.adpts.getD x.1 {}) x.2 layer slot).filter (·.hasK)).map (·.bank)))
  sect + sumBy banks (fun b => countedPair (P.pairs.getD (pairKey layer slot b) {}))

/-- The pooled bytes of one row, counted once where it steers any of the slots given (R60), with the accumulator of a
partition that trains trait rows (R204). -/
def pooledBytes (P : Part) (b : List W64) (layer : Nat) (slots : List Nat) : Nat :=
  match (bindPool b).bind (poolOf P) with
  | some w => if slots.any (fun t => poolAt w layer t) then a64 (2 * poolW w) + (if P.modes.trainTrait then a64 (4 * poolW w) else 0) else 0
  | none => 0

def layersOf (P : Part) : List Nat := dedup (P.shape.tgts.map (·.layer))
def slotsOf (P : Part) (layer : Nat) : List Nat := (P.shape.tgts.filter (fun t => t.layer == layer)).map (·.slot)

/-- The working set of a layer (R60): `rows` are the bindings of the rows, one for each row. -/
def layerSet (P : Part) (rows : List (List W64)) (layer : Nat) : Nat :=
  sumBy (slotsOf P layer) (fun t => targetSet P rows layer t) + sumBy rows (fun b => pooledBytes P b layer (slotsOf P layer))

/-- The working set of a target in target mode. -/
def targetSetAll (P : Part) (rows : List (List W64)) (layer slot : Nat) : Nat :=
  targetSet P rows layer slot + sumBy rows (fun b => pooledBytes P b layer [slot])

/-- Share size S and half share H of slot `p` (R110). -/
def shareBytes (s : State) (p : Nat) : Nat := (lastVal s 7 0x50 p).toNat * 65536
def halfBytes (s : State) (p : Nat) : Nat := (lastVal s 7 0x50 p).toNat / 2 * 65536

/-- `7.0053`: granules per bank held by no share. -/
def granulesFree (s : State) : Nat := granules s - sumBy (residents s) (fun e => e.2.granules.length)

/-- The granules of a bank that no other share holds, lowest first. -/
def freeGranules (s : State) (d : Nat) (bank : Nat × Nat → Nat) : List Nat :=
  let held := (residents s).flatMap (fun e => if e.1 = d then [] else e.2.granules.map bank)
  (List.range (granules s)).filter (fun g => !held.contains g)

/-- Give a resident partition the granules of its share (R110, R127): those that it has, then the lowest free ones of each bank.
Which granules they are the spec leaves open (DESIGN CHOICE, notes/assumptions/103.md). -/
def mapShare (s : State) (d : Nat) : State :=
  match (partOf s d).bind (fun P => P.slot.map (fun p => (P, p))) with
  | none => s
  | some (P, p) =>
    let n := (lastVal s 7 0x50 p).toNat
    let keep := P.granules.take n
    let take (f : Nat × Nat → Nat) : List Nat := (freeGranules s d f).filter (fun g => !(keep.map f).contains g)
    updPart s d (fun P => { P with granules := keep ++ (List.zip (take Prod.fst) (take Prod.snd)).take (n - keep.length) })

/-- The partition and the share line that hold a line of a bank; none for the bank reserve and for free granules (R107, R110). -/
def shareLineOf (s : State) (bank line : Nat) : Option (Nat × Nat) :=
  (residents s).findSome? (fun e =>
    (e.2.granules.findIdx? (fun g => (if bank = 0 then g.1 else g.2) == line / 1024)).map (fun i => (e.1, 1024 * i + line % 1024)))

/-- Every unit of the mode holds the rows. -/
def unitsFit (P : Part) (rows : List (List W64)) (target : Bool) (size : Nat) : Bool :=
  if target then P.shape.tgts.all (fun t => decide (targetSetAll P rows t.layer t.slot ≤ size))
  else (layersOf P).all (fun l => decide (layerSet P rows l ≤ size))

/-- A binding has a slot whose image carries STREAM = 1 (R111), in the state after the installations that wait (R58). -/
def bindStreams (P : Part) (b : List W64) : Bool :=
  (bindSlots b).any (fun x =>
    let a := P.adpts.getD x.2.1 {}
    match a.next, pickGen (a.cur, a.prev) x.2.2 with
    | some (g, _), some (c, _) => if x.2.2 = 0xFFFF then g.stream else c.stream
    | some (g, _), none => g.stream
    | none, some (c, _) => c.stream
    | none, none => false)

/-- R121: a binding against a share size and a half share: 0 or the code. -/
def rowFits (P : Part) (b : List W64) (share half : Nat) : Nat :=
  if bindStreams P b then (if unitsFit P [b] true half then Code.ok else Code.fitTarget)
  else if unitsFit P [b] false share then Code.ok else Code.fitLayer

/-- The bind checks of Table ADPT-8 and the pooled width of Table ADPT-1, against the state after the `n`-th boundary from now (R58, R192). -/
def bindChecks (s : State) (p : Nat) (P : Part) (b : List W64) (n : Nat) : Nat :=
  let sl := bindSlots b
  let ad (id : Nat) := P.adpts.getD id {}
  let gens := sl.map (fun x => (x, pickGen ((ad x.2.1).after n) x.2.2))
  let ks := gens.flatMap (fun g =>
    match g.2 with | some (a, _) => a.sects.filter (·.hasK) | none => [])
  let pair (e : Sect) := ((P.pairs.getD (pairKey e.layer e.slot e.bank) {}).after n).1
  let spec := (bindPool b).map (fun ps => (P.traits.pools.find? ps).bind (fun x =>
    match x.next with | some (w, k) => if k ≤ n then some w else x.cur | none => x.cur))
  if !sl.all (fun x => ((ad x.2.1).after n).1.isSome || ((ad x.2.1).next).isSome) then Code.adapterAbsent
  else if (dedup (sl.map (·.2.1))).length ≠ sl.length then Code.bindDuplicate
  else if !gens.all (fun g => g.2.isSome || g.1.2.2 == 0xFFFF) then Code.genStale
  else if !ks.all (fun e => (pair e).isSome) then Code.basisAbsent
  else if !ks.all (fun e => match pair e with | some g => g.sects.all (fun q => q.k == e.k) | none => false) then Code.shapeMismatch
  else if (match spec with
    | some none => true
    | some (some _) => (lastVal s 4 0x30 p).toNat == none20
    | none => false) then Code.poolAbsent
  else if (match spec with
    | some (some w) => poolW w == 0 || decide (32768 < poolW w) ||
        P.shape.tgts.any (fun t => poolAt w t.layer t.slot && t.dout % poolW w != 0)
    | _ => false) then Code.shapeMismatch
  else rowFits P b (shareBytes s p) (halfBytes s p)

end Sys2Proof.Machine
end

