-- ==== Sys2Proof/Machine/TierOps.lean ====
section
/-! DEFINITION. Objects, extents and the T1 adapter cache (R131 to R147): where a byte of an object lies, what a
read and a write of an extent do, admission, victims, fills, thaws, Ricks and moves. -/

namespace Sys2Proof.Machine

/-! ## Extents (R131) -/

/-- The number that names an extent. -/
def xKey (d h xi : Nat) : Nat := d * 2 ^ 52 + h * 2 ^ 32 + xi
def xPart (x : Nat) : Nat := x / 2 ^ 52
def xHandle (x : Nat) : Nat := x / 2 ^ 32 % 2 ^ 20
def xIdx (x : Nat) : Nat := x % 2 ^ 32
def xObj (s : State) (x : Nat) : Option Objt := objOf s (xPart x) (xHandle x)

/-- Offset and bytes of extent `xi`. -/
def Objt.extent (o : Objt) (xi : Nat) : Nat × Nat :=
  if o.stride ≠ 0 then (xi * o.stride, o.stride)
  else match o.cuts[xi]? with
    | some c => c
    | none => if o.cuts.isEmpty then (65536 * xi, Nat.min 65536 (o.bytes - 65536 * xi)) else (0, 0)

/-- The extent that holds byte `off`, and the offset in it. -/
def Objt.at (o : Objt) (off : Nat) : Nat × Nat :=
  if o.stride ≠ 0 then (off / o.stride, off % o.stride)
  else if o.cuts.isEmpty then (off / 65536, off % 65536)
  else
    let l := (List.range o.cuts.length).filter (fun i =>
      match o.cuts[i]? with | some c => decide (c.1 ≤ off) && decide (off < c.1 + c.2) | none => false)
    match l.head? with
    | some i => (i, off - ((o.cuts[i]?).map (·.1)).getD 0)
    | none => (o.cuts.length, off)

/-- How many extents an object has. -/
def Objt.extents (o : Objt) : Nat :=
  if o.stride ≠ 0 then ceilDiv o.bytes o.stride else if o.cuts.isEmpty then ceilDiv o.bytes 65536 else o.cuts.length

/-- The home of byte `off` of an extent: tier (0 T1, 1 T2, 2 T3, 3 TR), port or first channel, key. -/
def homeAt (s : State) (x off : Nat) : Nat × Nat × Nat :=
  match xObj s x with
  | none => (0, 0, 0)
  | some o =>
    let o0 := (o.extent (xIdx x)).1 + off
    match s.tm.moved.find? x with
    | some (t, p, a) => (t, p, memKey t (a + off))
    | none =>
      let en := portsEnabled s
      let port := if o.spread then en.getD ((xHandle x + o0 / 4096) % Nat.max en.length 1) 0 else o.port
      match o.home with
      | 1 => (0, port, memKey 0 (o.base + o0))
      | 2 => (1, port, memKey 1 (o.base + o0))
      | 3 => (2, 0, memKey 2 (65536 * o.mu + o0))
      | _ => (3, port, memKey 3 (o.base + o0))

/-- The home tier of an extent as Table TIER-2 codes it. -/
def homeCode (s : State) (x : Nat) : Nat :=
  match s.tm.moved.find? x with
  | some (t, _, _) => t + 1
  | none => ((xObj s x).map (·.home)).getD 1

def xEnt (s : State) (x : Nat) : Option XEnt := s.tm.xt.find? x
def setXt (s : State) (x : Nat) (e : XEnt) : State := { s with tm := { s.tm with xt := s.tm.xt.put x e } }
def delXt (s : State) (x : Nat) : State := { s with tm := { s.tm with xt := s.tm.xt.del x } }
def updXt (s : State) (x : Nat) (f : XEnt → XEnt) : State := { s with tm := { s.tm with xt := s.tm.xt.upd x f } }

/-- The extent has a cached T1 copy that reads may use (R140): an entry for a home outside T1, RESIDENT, MOVING, or
DRAINING but not final. -/
def cachedCopy (s : State) (x : Nat) : Option XEnt :=
  match xEnt s x with
  | some e =>
    if e.size = 0 || homeCode s x = 1 then none
    else match e.st with
      | .resident => some e
      | .moving => some e
      | .draining => if e.final then none else some e
      | .filling => none
  | none => none

/-- The key of byte `off` of an extent as a read finds it. -/
def readKey (s : State) (x off : Nat) : Nat :=
  match cachedCopy s x with
  | some e => memKey 0 (e.addr + off)
  | none => (homeAt s x off).2.2

/-- `n` bytes of an object from `off`, as reads find them. -/
def objBytes (s : State) (d h off n : Nat) : List Byte :=
  match objOf s d h with
  | none => List.replicate n 0
  | some o => (List.range n).map (fun i =>
      let (xi, o1) := o.at (off + i)
      byteAt s.mem (readKey s (xKey d h xi) o1))

/-- The bytes of an extent. -/
def extBytes (s : State) (x : Nat) : List Byte :=
  match xObj s x with
  | none => []
  | some o => (List.range (o.extent (xIdx x)).2).map (fun i => byteAt s.mem (readKey s x i))

/-! ## The adapter cache (R138, R139) -/

/-- Cached bytes and Rick members on port `m`: address and size. -/
def cacheUse (s : State) (m : Nat) : List (Nat × Nat) :=
  (s.tm.xt.filterMap (fun e => if e.2.size ≠ 0 && e.2.port = m && homeCode s e.1 ≠ 1 && decide (valX s 2 0x30 m ≤ e.2.addr) &&
    decide (e.2.addr < valX s 2 0x30 m + valX s 2 0x31 m) then some (e.2.addr, a64 e.2.size) else none)) ++
    (s.tm.old.filterMap (fun o => if o.2.1 = m then some (o.2.2.1, a64 o.2.2.2) else none)) ++
    (s.tm.ricks.vals.flatMap (fun r => r.members.filterMap (fun x => if x.1 = m then some (x.2, a64 (((xEnt s r.x).map (·.size)).getD 0)) else none))) ++
    (s.tm.lost.filterMap (fun l => if l.1 = m then some (l.2.1, a64 l.2.2) else none))

/-- The first free place of `n` bytes from `a` up to `hi` beside the used ranges (`fuel` bounds the tries). -/
def firstFit : Nat → List (Nat × Nat) → Nat → Nat → Nat → Option Nat
  | 0, _, _, _, _ => none
  | fuel + 1, used, a, hi, n =>
    if hi < a + n then none
    else match used.find? (fun u => decide (u.1 < a + n) && decide (a < u.1 + u.2)) with
      | none => some a
      | some u => firstFit fuel used (u.1 + u.2) hi n

/-- A place for `n` bytes in the cache of port `m`. -/
def cachePlace (s : State) (m n : Nat) : Option Nat :=
  let base := valX s 2 0x30 m
  let used := cacheUse s m
  if n = 0 then none else firstFit (used.length + 1) used base (base + valX s 2 0x31 m) (a64 n)

/-- Free cache bytes of port `m`. -/
def cacheFree (s : State) (m : Nat) : Nat := valX s 2 0x31 m - sumBy (cacheUse s m) (·.2)

/-- Ports in falling order of free cache bytes, ties to the lowest port. -/
def portsByFree (s : State) : List Nat :=
  (portsEnabled s).foldl (fun acc m =>
    acc.takeWhile (fun k => decide (cacheFree s m ≤ cacheFree s k)) ++ [m] ++ acc.dropWhile (fun k => decide (cacheFree s m ≤ cacheFree s k))) []

/-- A place anywhere in the cache: the first port of that order with room (notes/assumptions/19.md). -/
def anyPlace (s : State) (n : Nat) : Option (Nat × Nat) :=
  (portsByFree s).findSome? (fun m => (cachePlace s m n).map (fun a => (m, a)))

/-- Cached bytes of a partition. -/
def cachedBytes (s : State) (d : Nat) : Nat :=
  sumBy (s.tm.xt.filter (fun e => xPart e.1 == d && homeCode s e.1 != 1)) (fun e => e.2.size)

def cacheFloor (s : State) (d : Nat) : Nat := valD s 2 0x32 d 0

/-- An entry that may be a victim (R136, R138). -/
def victimOk (s : State) (x : Nat) (e : XEnt) : Bool :=
  e.st == .resident && e.size != 0 && homeCode s x != 1 && !e.dirty && !e.thawed && e.pinKin == 0 && e.pinGth == 0 &&
    e.pinTrn == 0 && e.pinPub == 0 && decide (cacheFloor s (xPart x) < cachedBytes s (xPart x))

/-- R138: the lowest FREQ, then the earliest last use, then the lowest extent. -/
def victim (s : State) : Option (Nat × XEnt) :=
  (s.tm.xt.filter (fun e => victimOk s e.1 e.2)).foldl (fun a e =>
    match a with
    | none => some e
    | some b =>
      if e.2.freq < b.2.freq || (e.2.freq = b.2.freq && e.2.lastUse < b.2.lastUse) then some e else some b) none

/-- The column of row `r` of the sketch. -/
def sketchCol (r x : Nat) : Nat := r * 16384 + Config.sketchHash r x % 16384

/-- The sketch estimate of an extent. -/
def sketchEst (s : State) (x : Nat) : Nat :=
  [1, 2, 3].foldl (fun a r => Nat.min a (s.tm.sketch.getD (sketchCol r x) 0)) (s.tm.sketch.getD (sketchCol 0 x) 0)

/-- R139. -/
def admitted (s : State) (x n : Nat) : Bool :=
  (anyPlace s n).isSome ||
    (match victim s with | some v => decide (v.2.freq < sketchEst s x) | none => false)

/-- A Rick of an extent dissolves: its other members are freed. -/
def dissolveRick (s : State) (x : Nat) : State :=
  let s1 := { s with tm := { s.tm with ricks := s.tm.ricks.filter (fun r => r.2.x != x) } }
  updXt s1 x (fun e => { e with ridx := 0xFFF, rvalid := 0 })

/-- Evict victims until `n` bytes fit (`fuel` bounds the victims). -/
def makeRoom : Nat → State → Nat → State
  | 0, s, _ => s
  | fuel + 1, s, n =>
    if (anyPlace s n).isSome then s
    else match victim s with
      | some v => makeRoom fuel (delXt (dissolveRick s v.1) v.1) n
      | none => s

/-- The lowest free index of the Extent Table. -/
def freeXt (s : State) : Option Nat :=
  let used := s.tm.xt.map (fun e => e.2.idx)
  (List.range 131072).find? (fun i => !used.contains i)

/-- The requests that cover `n` bytes from `off` of an extent: offset in the extent and bytes; none crosses a 4 KiB boundary of
the object (R133). -/
def extPieces (s : State) (x off n : Nat) : List (Nat × Nat) :=
  match xObj s x with
  | none => []
  | some o => let o0 := (o.extent (xIdx x)).1; (reqPieces (o0 + off) n).map (fun p => (p.1 - o0, p.2))

/-- Bytes of an extent. -/
def extSize (s : State) (x : Nat) : Nat := ((xObj s x).map (fun o => (o.extent (xIdx x)).2)).getD 0

/-- Requests that read part of an extent from its home. -/
def readHomeAt (s : State) (d x off n qos : Nat) (use : Use) : State :=
  forEach (extPieces s x off n) s (fun s p => let h := homeAt s x p.1; addReq s d false h.1 h.2.1 qos (h.2.2 % 2 ^ 52) p.2 use false)

/-- Requests that read an extent from its home. -/
def readHome (s : State) (d x qos : Nat) (use : Use) : State := readHomeAt s d x 0 (extSize s x) qos use

/-- A write to the home of an extent has failed for good: its reads fail without being issued (R148). -/
def poisonedX (s : State) (x : Nat) : Bool := s.tm.poisoned.contains x

/-- Begin the fill of a T1 copy where an entry and a place are to be had; the flag says that it began. -/
def startFill (s : State) (x : Nat) (thaw : Bool) : State × Bool :=
  match xObj s x, freeXt s with
  | some o, some idx =>
    if poisonedX s x then (s, false)
    else
      let n := (o.extent (xIdx x)).2
      let s1 := makeRoom (s.tm.xt.length + 1) s n
      match anyPlace s1 n with
      | some (m, a) =>
        let e : XEnt := { idx := idx, st := .filling, home := homeCode s x, size := n, port := m, addr := a,
                          owed := (extPieces s x 0 n).length, thawing := thaw, epoch := s.tm.epochs.getD x 0 }
        (readHome (setXt s1 x e) (xPart x) x 2 (.fill x), true)
      | none => (s1, false)
  | _, none => (bumpD s Cnt.xtFull (xPart x) 1, false)
  | none, _ => (s, false)

/-- Note that the step in progress uses an extent (R138). -/
def noteUse (s : State) (x : Nat) : State :=
  if s.tm.used.contains (xPart x, x) then s else { s with tm := { s.tm with used := s.tm.used ++ [(xPart x, x)] } }

/-- The T1 copy is wanted by lookahead promotion (R140): filled where it has none and is admitted. An extent that is not
admitted is counted here, and again at a read of it in the step that finds it not admitted: CNT_CACHE_REJECT counts each test
of R139 that fails (log entry 109). -/
def promote (s : State) (x : Nat) : State :=
  match xObj s x with
  | none => s
  | some o =>
    if !o.cache || homeCode s x = 1 || (xEnt s x).isSome || poisonedX s x then s
    else if admitted s x (o.extent (xIdx x)).2 then (startFill s x false).1
    else bumpD s Cnt.cacheReject (xPart x) 1

def unpinned (e : XEnt) : Bool := e.pinKin == 0 && e.pinGth == 0 && e.pinTrn == 0 && e.pinPub == 0

/-- An entry whose drain can end is freed (Table TIER-4). A dirty image is written back to its home at QoS 3; T3 is written by the
publish path alone (Table TIER-1), so the image of a T3 home that a final drain gives up is not. -/
def drainEnd (s : State) (x : Nat) : State :=
  match xEnt s x with
  | some e =>
    if e.st == .draining && unpinned e then
      (if e.dirty && homeCode s x != 3 then
        let l := extPieces s x 0 e.size
        forEach l (setXt { s with mem := storeBytes s.mem (homeAt s x 0).2.2 (bytesAt s.mem (memKey 0 e.addr) e.size) } x { e with dirty := false, owed := l.length })
          (fun s p => let h := homeAt s x p.1; addReq s (xPart x) true h.1 h.2.1 3 (h.2.2 % 2 ^ 52) p.2 (.evict x) false)
      else if e.owed = 0 then delXt s x else s)
    else s
  | none => s

/-- A piece of a write-back has been acknowledged. -/
def evictAck (s : State) (x : Nat) : State :=
  match xEnt s x with
  | some e => if e.owed = 0 then s else drainEnd (setXt s x { e with owed := e.owed - 1 }) x
  | none => s

/-- A pin cancels a drain that is not final (Table TIER-4, R137). -/
def cancelDrain (s : State) (x : Nat) : State :=
  match xEnt s x with
  | some e => if e.st == .draining && !e.final then bumpD (setXt s x { e with st := .resident }) Cnt.evictCancel (xPart x) 1 else s
  | none => s

def pinUp (n : Nat) : Nat := if n = 0xFFFF then n else n + 1

/-- The pins of a class on an extent: 0 KIN, 1 GTH, 2 TRN, 3 PUB. -/
def XEnt.pins (e : XEnt) (cls : Nat) : Nat := if cls = 0 then e.pinKin else if cls = 1 then e.pinGth else if cls = 2 then e.pinTrn else e.pinPub

/-- No new pin of a class may be taken: the counter stands at 0xFFFF (R136). -/
def pinFull (s : State) (x cls : Nat) : Bool := match xEnt s x with | some e => e.pins cls == 0xFFFF | none => false

/-- The entry of an extent whose T1 image is its home: RESIDENT at that home (R134). -/
def homeEntry (s : State) (x : Nat) (o : Objt) (idx : Nat) : XEnt :=
  { idx := idx, st := .resident, home := 1, size := (o.extent (xIdx x)).2, port := (homeAt s x 0).2.1, addr := (homeAt s x 0).2.2 % 2 ^ 52,
    epoch := s.tm.epochs.getD x 0 }

/-- A pin on a T1 home needs an entry to hold it (R136): one is made where none stands (log entry 105). -/
def pinEntry (s : State) (x : Nat) : State :=
  match xEnt s x, xObj s x with
  | none, some o =>
    if homeCode s x ≠ 1 then s
    else match freeXt s with
      | some idx => setXt s x (homeEntry s x o idx)
      | none => bumpD s Cnt.xtFull (xPart x) 1
  | _, _ => s

/-- An entry of a T1 home that says no more than R134 says of an extent without one is not kept (log entry 105). -/
def homeEntryIdle (s : State) (x : Nat) : State :=
  match xEnt s x with
  | some e => if homeCode s x = 1 && e.st == .resident && unpinned e && e.freq = 0 && e.ridx = 0xFFF then delXt s x else s
  | none => s

/-- Take and drop a pin: class 0 KIN, 1 GTH, 2 TRN, 3 PUB (R136). -/
def pin (s : State) (x cls : Nat) : State :=
  updXt (cancelDrain (pinEntry s x) x) x (fun e =>
    if cls = 0 then { e with pinKin := pinUp e.pinKin } else if cls = 1 then { e with pinGth := pinUp e.pinGth }
    else if cls = 2 then { e with pinTrn := pinUp e.pinTrn } else { e with pinPub := pinUp e.pinPub })

/-- An old place of an extent with no pin left is free (Table TIER-4). -/
def oldFree (s : State) (x : Nat) : State :=
  if (xEnt s x).any (fun e => !unpinned e) then s else { s with tm := { s.tm with old := s.tm.old.filter (fun o => o.1 != x) } }

def unpin (s : State) (x cls : Nat) : State :=
  homeEntryIdle (oldFree (drainEnd (updXt s x (fun e =>
    if cls = 0 then { e with pinKin := e.pinKin - 1 } else if cls = 1 then { e with pinGth := e.pinGth - 1 }
    else if cls = 2 then { e with pinTrn := e.pinTrn - 1 } else { e with pinPub := e.pinPub - 1 })) x) x) x

/-! ## Reads of an extent (R140, R142) -/

/-- Bytes outstanding for a partition on a port. -/
def bytesOut (s : State) (d m : Nat) : Nat := sumBy (s.mp.out.filter (fun (q : Req) => q.port == m && q.part == d)) (fun q => q.bytes)

/-- The Rick member that a read of an extent goes to, where the primary is not it: of the places with current data the one whose
port has the fewest bytes outstanding for the partition, ties to the lowest port (R142). -/
def rickPlace (s : State) (d x : Nat) : Option (Nat × Nat) :=
  match xEnt s x with
  | none => none
  | some e =>
    let members : List (Nat × Nat) := (s.tm.ricks.vals.filter (fun (r : Rick) => r.x == x)).flatMap (fun r => r.members)
    let best := (members.filter (fun mb => bitOf e.rvalid mb.1)).foldl (fun (b mb : Nat × Nat) =>
      if bytesOut s d mb.1 < bytesOut s d b.1 || (bytesOut s d mb.1 = bytesOut s d b.1 && mb.1 < b.1) then mb else b) (e.port, e.addr)
    if best = (e.port, e.addr) then none else some best

/-- The T1 image of an extent is RESIDENT, MOVING, or DRAINING but not final: reads take it (R134, R140). -/
def hasImage (s : State) (x : Nat) : Bool := homeCode s x = 1 || (cachedCopy s x).isSome

/-- Where a read of byte `off` of an extent that has a T1 image goes: tier, port, address. -/
def imagePlace (s : State) (x : Nat) (rick : Option (Nat × Nat)) (off : Nat) : Nat × Nat × Nat :=
  match rick with
  | some r => (0, r.1, r.2 + off)
  | none =>
    match cachedCopy s x with
    | some e => (0, e.port, e.addr + off)
    | none => let h := homeAt s x off; (h.1, h.2.1, h.2.2 % 2 ^ 52)

/-- Requests that read part of an extent's T1 image, or of its Rick. -/
def readImage (s : State) (d x off n qos : Nat) (use : Use) : State :=
  let rick := rickPlace s d x
  forEach (extPieces s x off n) s (fun s p => let h := imagePlace s x rick p.1; addReq s d false h.1 h.2.1 qos h.2.2 p.2 use false)

/-- How a read is served: its requests, whether it holds a pin, whether it waits on the extent's fill, whether it has failed for
good unissued (R148), whether it waits for a pin (R136). -/
structure Served where
  s : State
  reqs : Nat := 0
  pinned : Bool := false
  fill : Bool := false
  fail : Bool := false
  wait : Bool := false

/-- A Kindling or Gather read of part of an extent (R140): from the T1 image or a Rick member, behind a fill that runs, behind one that
the read itself begins, or from the home. -/
def serveRead (s : State) (d x off n cls qos : Nat) (use : Use) : Served :=
  let s0 := noteUse s x
  if poisonedX s0 x then { s := s0, fail := true }
  else if pinFull s0 x cls then { s := s0, wait := true }
  else
    let k := (extPieces s0 x off n).length
    let home (s : State) : Served := { s := readHomeAt s d x off n qos use, reqs := k }
    if hasImage s0 x then
      let s1 := pin (if homeCode s0 x = 1 then s0 else bumpD s0 Cnt.cacheHit d 1) x cls
      { s := readImage s1 d x off n qos use, reqs := k, pinned := (xEnt s1 x).isSome }
    else
      let s1 := bumpD s0 Cnt.cacheMiss d 1
      match xEnt s1 x with
      | some e => if e.st == .filling then { s := pin s1 x cls, pinned := true, fill := true } else home s1
      | none =>
        if (xObj s1 x).any (fun o => o.cache) && (homeCode s1 x = 2 || homeCode s1 x = 3) then
          (if admitted s1 x (extSize s1 x) then
            let (s2, ok) := startFill s1 x false
            if ok then { s := pin s2 x cls, pinned := true, fill := true } else home s2
           else home (bumpD s1 Cnt.cacheReject d 1))
        else home s1

/-! ## Thaw (R147) -/

/-- Thawed bytes of a partition. -/
def thawedBytes (s : State) (d : Nat) : Nat := sumBy (s.tm.xt.filter (fun e => xPart e.1 == d && e.2.thawed)) (fun e => e.2.size)

/-- THAW_HIGH where thawed bytes exceed three quarters of the floor; once until they fall again. -/
def thawHighCheck (s : State) (d : Nat) : State :=
  let hi := decide (3 * cacheFloor s d < 4 * thawedBytes s d)
  if hi && !s.tm.thawHigh.contains d then
    post { s with tm := { s.tm with thawHigh := d :: s.tm.thawHigh } } Ev.thawHigh (some d) 0 (thawedBytes s d) (cacheFloor s d)
  else if !hi then { s with tm := { s.tm with thawHigh := s.tm.thawHigh.filter (· != d) } }
  else s

/-- Take an extent for a thaw (R147 steps 1 and 2): a resident image is THAWED, a victim drain is cancelled, a fill is joined, and an
absent image is filled. None where the thaw must wait: no entry or no victim, a final drain (Table TIER-5), a move's entry without
an image, or a pin counter at its top. -/
def thawTake (s : State) (x : Nat) : Option State :=
  if pinFull s x 2 then none
  else match xEnt s x with
    | some e =>
      if (e.st == .draining && e.final) || e.size = 0 then none
      else if e.st == .filling then some (updXt (pin s x 2) x (fun e => { e with thawing := true }))
      else some (thawHighCheck (updXt (pin s x 2) x (fun e => { e with thawed := true })) (xPart x))
    | none =>
      let (s1, ok) := startFill s x true
      if ok then some (pin s1 x 2) else none

/-- Ask for a thaw of a T3-homed extent; one that cannot begin waits, and one of a poisoned extent fails (R147, R148). -/
def thaw (s : State) (x : Nat) : State :=
  if poisonedX s x then bumpD s Cnt.thawFail (xPart x) 1
  else match thawTake s x with
    | some s1 => s1
    | none =>
      let s1 := if (xEnt s x).isNone && (freeXt s).isNone then bumpD s Cnt.xtFull (xPart x) 1 else s
      { s1 with tm := { s1.tm with thawWait := s1.tm.thawWait ++ [x] } }

/-- Thaws that wait try again; one whose extent has left T3 meanwhile has nothing left to wait for. -/
def thawRetry (s : State) : State :=
  forEach s.tm.thawWait s (fun s x =>
    let gone (s : State) : State := { s with tm := { s.tm with thawWait := s.tm.thawWait.erase x } }
    if poisonedX s x then bumpD (gone s) Cnt.thawFail (xPart x) 1
    else if homeCode s x ≠ 3 then gone s
    else match thawTake s x with
      | some s1 => gone s1
      | none => s)

/-- The fill of an extent has ended: the image becomes RESIDENT, and a thaw that joined it is complete. -/
def fillEnd (s : State) (x : Nat) : State :=
  match xEnt s x with
  | some e =>
    let bytes := bytesAt s.mem (homeAt s x 0).2.2 e.size
    let s1 := setXt { s with mem := storeBytes s.mem (memKey 0 e.addr) bytes } x
      { e with st := .resident, owed := 0, thawed := e.thawed || e.thawing, thawing := false }
    if e.thawing then thawHighCheck s1 (xPart x) else s1
  | none => s

/-- The fill has failed for good: back to ABSENT; a thaw that joined it fails (R147). -/
def fillFail (s : State) (x : Nat) : State :=
  match xEnt s x with
  | some e => (if e.thawing then bumpD (delXt s x) Cnt.thawFail (xPart x) 1 else delXt s x)
  | none => s

/-! ## Moves (R144 to R146) -/

def setMove (s : State) (m : Move) : State :=
  { s with tm := { s.tm with moves := s.tm.moves.map (fun k => if k.x == m.x then m else k) } }

def moveOf (s : State) (x : Nat) : Option Move := s.tm.moves.find? (fun m => m.x == x)

/-- A request with a given use has not ended: it waits, is outstanding, is read from flash or lies in a Late Reply Bin. -/
def useBusy (s : State) (u : Use) : Bool :=
  (s.mp.waiting ++ s.mp.out ++ s.fl.reads.map (·.req)).any (fun r => r.use == u) ||
    s.parts.any (fun e => e.2.lrb.any (fun x => x.2.req.use == u) || e.2.lrbQueue.any (fun r => r.use == u))

/-- Requests of some uses go on without a user. -/
def usersLost (s : State) (f : Use → Bool) : State :=
  let strip (r : Req) : Req := if f r.use then { r with use := .misc } else r
  { s with
    mp := { s.mp with waiting := s.mp.waiting.map strip, out := s.mp.out.map strip }
    fl := { s.fl with reads := s.fl.reads.map (fun x => { x with req := strip x.req }) } }

/-- The offset in its extent that a read of the extent's T1 image, home or Rick brings. -/
def readOffset (s : State) (x : Nat) (r : Req) : Nat :=
  let members := (s.tm.ricks.vals.filter (fun (k : Rick) => k.x == x)).flatMap (·.members)
  match members.find? (fun m => m.1 == r.port && decide (m.2 ≤ r.addr) && decide (r.addr < m.2 + a64 (extSize s x)) && r.tier == 0) with
  | some m => r.addr - m.2
  | none => r.addr - (imagePlace s x none 0).2.2

/-- A move's copy begins: the old place is read at QoS 2 (R144 step 2). -/
def moveCopyBegin (s : State) (m : Move) : State :=
  forEach (extPieces s m.x 0 m.size) s (fun s p => let h := imagePlace s m.x none p.1; addReq s m.d false h.1 h.2.1 2 h.2.2 p.2 (.move m.x) false)

/-- Open the records of waiting moves of partition `d` as far as the Move Table has room. Only a RESIDENT extent begins to move
(Table TIER-4): one that is FILLING or DRAINING waits for a later boundary. -/
def movesStart (s : State) (d : Nat) : State :=
  forEach (s.tm.moves.filter (fun m => m.d == d && !m.opened)) s (fun s m =>
    if 256 ≤ (s.tm.moves.filter (·.opened)).length then s
    else
      let s1 := setMove s { m with opened := true }
      match xEnt s1 m.x with
      | some e => if e.st = .resident then moveCopyBegin (setXt s1 m.x { e with st := .moving }) m else s
      | none =>
        match freeXt s1, xObj s m.x with
        | some idx, some o =>
          let e : XEnt := if homeCode s m.x = 1 then homeEntry s m.x o idx
            else { idx := idx, st := .moving, home := homeCode s m.x, size := 0, epoch := s.tm.epochs.getD m.x 0 }
          moveCopyBegin (setXt s1 m.x { e with st := .moving }) m
        | _, _ => bumpD s Cnt.xtFull d 1)

/-- A move is over: its record, the records of its log, and what is still to be issued for it, are given up. -/
def moveGone (s : State) (m : Move) : State :=
  usersLost { s with
    tm := { s.tm with
      moves := s.tm.moves.filter (fun k => k.x != m.x)
      flog := s.tm.flog.upd m.d (fun l => l.filter (fun r => r.x != m.x)) }
    mp := { s.mp with waiting := s.mp.waiting.filter (fun r => r.use != .move m.x) } } (fun u => u == .move m.x || u == .flog m.x)

/-- A move aborts (R146): the extent is RESIDENT at its old place, and an entry that only showed the move is deleted. A move that
still waits for a record and is cancelled counts as an abort (log entry 108). -/
def moveAbort (s : State) (x : Nat) : State :=
  match moveOf s x with
  | some m =>
    let s1 := moveGone s m
    let s2 := match xEnt s1 x with
      | some e => if !m.opened then s1 else if e.size = 0 then delXt s1 x else homeEntryIdle (setXt s1 x { e with st := .resident }) x
      | none => s1
    latch (bumpD s2 Cnt.migAbort m.d 1) 46
  | none => s

/-- The Extent Table after a switch (Table TIER-4): HOME and, where the T1 image has moved, ADDR name the new place, and the old place
drains finally: a T1 home that has moved to T2 as the entry itself, the lines of a copy as an old place of the cache. -/
def afterSwitch (s0 : State) (x old : Nat) : State :=
  match xEnt s0 x with
  | none => s0
  | some e0 =>
    let new := homeCode s0 x
    let s := if new = 1 || old = 1 then dissolveRick s0 x else s0
    let e : XEnt := { ((xEnt s x).getD e0) with st := .resident, epoch := s.tm.epochs.getD x 0, home := new, dirty := false, thawed := false }
    if new = 1 then
      let s1 := if old ≠ 1 && e.size ≠ 0 && !unpinned e then { s with tm := { s.tm with old := s.tm.old ++ [(x, e.port, e.addr, e.size)] } } else s
      homeEntryIdle (setXt s1 x { e with size := extSize s x, port := (homeAt s x 0).2.1, addr := (homeAt s x 0).2.2 % 2 ^ 52 }) x
    else if old = 1 then drainEnd (setXt s x { e with st := .draining, final := true }) x
    else if e.size = 0 then delXt s x
    else setXt s x e

/-- The switches of partition `d` due at its boundary (Table ARCH-3 order 3): the copy has ended, every log record has been
applied, and no write to the extent is outstanding (R144 step 6). -/
def movesSwitch (s : State) (d : Nat) : State :=
  forEach (s.tm.moves.filter (fun m => m.d == d && m.opened && m.copied && m.log.isEmpty)) s (fun s m =>
    if useBusy s (.upd m.x) || useBusy s (.flog m.x) || useBusy s (.move m.x) then s
    else
      let ep := (s.tm.epochs.getD m.x 0 + 1) % 65536
      let old := homeCode s m.x
      let s1 := moveGone s m
      let s2 := { s1 with tm := { s1.tm with
        moved := s1.tm.moved.put m.x (m.tier, m.port, m.addr)
        epochs := s1.tm.epochs.set 0 m.x ep } }
      latch (bumpD (afterSwitch s2 m.x old) Cnt.migDone d 1) 46)

/-- The header of a forward-log record (Table TIER-6). -/
def flogHeader (x off lines epoch : Nat) : List W64 :=
  [w64 (xIdx x * 2 ^ 32 + xHandle x * 2 ^ 12 + (lines - 1) % 64 * 2 ^ 6), w64 off, w64 (epoch * 2 ^ 48), 0, 0, 0, 0, 0]

/-- Bytes of an extent from `off`, as reads find them. -/
def extBytesAt (s : State) (x off n : Nat) : List Byte := (List.range n).map (fun i => byteAt s.mem (readKey s x (off + i)))

/-- One forward-log record for a piece of a write to a moving extent (R144 step 4, R145): it takes the first place in the log with
room (log entry 110); with none the move aborts (R146). -/
def flogPut (s : State) (x : Nat) (q : Nat × Nat) : State :=
  match moveOf s x with
  | none => s
  | some m =>
    let n := 64 + q.2
    let l := s.tm.flog.getD m.d []
    match firstFit (l.length + 1) (l.map (fun r => (r.off, r.bytes))) 0 (valD s 2 0x47 m.d 0) n with
    | none => moveAbort s x
    | some a =>
      let data := wordBytes (flogHeader x q.1 (q.2 / 64) (s.tm.epochs.getD x 0)) ++ extBytesAt s x q.1 q.2
      let s1 := setMove { s with tm := { s.tm with flog := s.tm.flog.put m.d (l ++ [{ x := x, off := a, bytes := n }]) } } { m with log := m.log ++ [q] }
      storeT1 s1 m.d 2 (valD s 2 0x46 m.d 0 + a) data (.flog x) false

/-- The records of a moving extent whose copy has ended are applied to the new place, once they stand in the log (R144 step 5). -/
def moveReplay (s : State) (x : Nat) : State :=
  match moveOf s x with
  | none => s
  | some m =>
    if !m.copied || m.log.isEmpty || useBusy s (.flog x) then s
    else forEach m.log (setMove s { m with log := [] }) (fun s q =>
      addReq { s with mem := storeBytes s.mem (memKey m.tier (m.addr + q.1)) (extBytesAt s x q.1 q.2) } m.d true m.tier m.port 2 (m.addr + q.1) q.2 (.move x) false)

/-- A read of a move's copy has its data: it is written to the new place at QoS 2. -/
def moveCopyRead (s : State) (x : Nat) (r : Req) : State :=
  match moveOf s x with
  | none => s
  | some m => addReq s m.d true m.tier m.port 2 (m.addr + readOffset s x r) r.bytes (.move x) false

/-! ## Writes (R137, R143, R144) -/

/-- A Rick member gets the bytes that the primary holds: a write at QoS 2. -/
def rickPut (s : State) (x m off n : Nat) : State :=
  match ((s.tm.ricks.vals.filter (fun (r : Rick) => r.x == x)).flatMap (·.members)).find? (fun k => k.1 == m) with
  | none => s
  | some k => addReq { s with mem := storeBytes s.mem (memKey 0 (k.2 + off)) (extBytesAt s x off n) } (xPart x) true 0 k.1 2 (k.2 + off) n (.rick x m) false

/-- The primary has acknowledged a write: it is copied to each other member in ascending port order (R143 step 2). -/
def rickCopies (s : State) (x : Nat) (r : Req) : State :=
  let ms := sortBy (fun (m : Nat × Nat) => m.1) ((s.tm.ricks.vals.filter (fun (k : Rick) => k.x == x)).flatMap (·.members))
  let off := r.addr - (imagePlace s x none 0).2.2
  forEach ms s (fun s m => rickPut s x m.1 off r.bytes)

/-- A write of `bs` at `off` of an extent at a QoS: to its T1 image where it has one, else to its home, in the requests of R133. With
its issue the other members of a Rick lose RVALID (R143 step 1); a moving extent's write also goes to the forward log. T3 is
written by the publish path alone (Table TIER-1): without a T1 image a T3 home is not written. -/
def extWriteQ (s : State) (qos x off : Nat) (bs : List Byte) : State :=
  if !hasImage s x && homeCode s x = 3 then s
  else
    let img := cachedCopy s x
    let s0 := { s with mem := storeBytes s.mem (readKey s x off) bs }
    let s1 := updXt s0 x (fun e => { e with
      dirty := e.dirty || img.isSome
      rvalid := if e.ridx = 0xFFF then e.rvalid else (if bitOf e.rvalid e.port then 2 ^ e.port else 0) })
    let l := extPieces s x off bs.length
    let s2 := forEach l s1 (fun s p => let h := imagePlace s x none p.1; addReq s (xPart x) true h.1 h.2.1 qos h.2.2 p.2 (.upd x) false)
    match moveOf s2 x with
    | some m => if m.opened then forEach l s2 (fun s q => flogPut s x q) else s2
    | none => s2

/-- A write to an object, extent by extent (`fuel` bounds the extents). -/
def objWriteAux : Nat → State → Nat → Nat → Nat → Nat → List Byte → State
  | 0, s, _, _, _, _, _ => s
  | fuel + 1, s, qos, d, h, off, bs =>
    if bs.isEmpty then s
    else match objOf s d h with
      | none => s
      | some o =>
        let (xi, o1) := o.at off
        let room := (o.extent xi).2 - o1
        if room = 0 then s
        else
          let k := Nat.min room bs.length
          objWriteAux fuel (extWriteQ s qos (xKey d h xi) o1 (bs.take k)) qos d h (off + k) (bs.drop k)

/-- A write to an object at a QoS. -/
def objWriteQ (s : State) (qos d h off : Nat) (bs : List Byte) : State := objWriteAux (bs.length + 1) s qos d h off bs

/-- A write to an object at QoS 1: training writes and the structures of R133's best-effort traffic. -/
def objWrite (s : State) (d h off : Nat) (bs : List Byte) : State := objWriteQ s 1 d h off bs

/-! ## Step boundary: use, FREQ and Ricks (R138, R141) -/

/-- A used extent of a RICK object whose T1 image is its home takes an entry, in which its FREQ is counted. -/
def rickEntry (s : State) (x : Nat) : State := if (xObj s x).any (·.rick) then pinEntry s x else s

/-- R138 step 1 for one extent used in the step. -/
def countUse (s0 : State) (x step : Nat) : State :=
  let s := rickEntry s0 x
  let s1 := updXt s x (fun e => { e with freq := Nat.min 255 (e.freq + 1), lastUse := step })
  let sk := [0, 1, 2, 3].foldl (fun t r => t.set 0 (sketchCol r x) (Nat.min 15 (t.getD (sketchCol r x) 0 + 1))) s1.tm.sketch
  { s1 with tm := { s1.tm with sketch := sk, sketchIncs := s1.tm.sketchIncs + 4 } }

/-- The uses of the step of partition `d`. -/
def usesDue (s : State) (d step : Nat) : State :=
  let l := (s.tm.used.filter (fun u => u.1 == d)).map (·.2)
  let s1 := forEach l s (fun s x => countUse s x step)
  { s1 with tm := { s1.tm with used := s1.tm.used.filter (fun u => u.1 != d) } }

/-- Every sketch counter and every FREQ halved (R138 step 2). -/
def sketchAge (s : State) : State :=
  { s with tm := { s.tm with
      sketch := s.tm.sketch.filterMap (fun e => if e.2 / 2 = 0 then none else some (e.1, e.2 / 2)),
      xt := s.tm.xt.map (fun e => (e.1, { e.2 with freq := e.2.freq / 2 })), sketchIncs := s.tm.sketchIncs - 131072 } }

/-- A Rick forms on the ports with the most free cache lines (R141): each member is filled at QoS 2 from the primary. -/
def formRick (s : State) (x : Nat) (e : XEnt) : State :=
  let want := Nat.min (valU s 2 0x41) (portsEnabled s).length
  let cand := (portsByFree s).filter (fun m => m != e.port)
  let placed := cand.foldl (fun acc m => if acc.length + 1 < want then (match cachePlace s m e.size with | some a => acc ++ [(m, a)] | none => acc) else acc) []
  if placed.isEmpty then s
  else if 4095 ≤ s.tm.ricks.length then bumpD s Cnt.rickFull (xPart x) 1
  else
    let ri := s.tm.ricks.freeFrom 0
    let s1 := setXt { s with tm := { s.tm with ricks := s.tm.ricks.put ri { x := x, members := placed } } } x { e with ridx := ri, rvalid := 2 ^ e.port }
    forEach placed s1 (fun s mb => forEach (extPieces s x 0 e.size) s (fun s q =>
      let h := imagePlace s x none q.1
      addReq s (xPart x) false h.1 h.2.1 2 h.2.2 q.2 (.rick x mb.1) false))

/-- Ricks form and dissolve at the boundary of `d`. -/
def ricksDue (s : State) (d : Nat) : State :=
  forEach (s.tm.xt.filter (fun e => xPart e.1 == d)) s (fun s xe =>
    match xEnt s xe.1, xObj s xe.1 with
    | some e, some o =>
      if e.ridx = 0xFFF then
        (if o.rick && e.st == .resident && decide (e.size ≤ 65536) && decide (valU s 2 0x40 ≤ e.freq) && e.size != 0 then formRick s xe.1 e else s)
      else if 2 * e.freq < valU s 2 0x40 then
        (let s1 := dissolveRick s xe.1
         -- a THAWED image is the working home of its row and stays (R147)
         if homeCode s xe.1 ≠ 1 then (if e.st = .resident && !e.thawed then drainEnd (updXt s1 xe.1 (fun e => { e with st := .draining })) xe.1 else s1)
         else homeEntryIdle s1 xe.1)
      else s
    | _, _ => s)

/-- A write to the home of an extent has failed for good (R148). -/
def poisonExtent (s : State) (x : Nat) : State :=
  let s1 := match xEnt s x with
    | some e => setXt s x { e with poison := true }
    | none => s
  post { s1 with tm := { s1.tm with poisoned := if s1.tm.poisoned.contains x then s1.tm.poisoned else x :: s1.tm.poisoned } }
    Ev.extentPoison (some (xPart x)) 0 (xHandle x) (xIdx x)

end Sys2Proof.Machine
end

