-- ==== Sys2Proof/Machine/LsOps.lean ====
section
/-! DEFINITION. The units of a step, the terms of a row, the items of a unit and their places (R111 to R114). -/

namespace Sys2Proof.Machine

/-! ## Positions (R85, R87) -/

/-- Positions in pass order as one number. -/
def PosKey.ord (k : PosKey) : Nat :=
  ((((k.step * 2 + (if k.bwd then 1 else 0)) * 256 + (if k.bwd then 255 - k.layer else k.layer)) * 16 + k.tslot) * 1024 + k.win) * 2048 + k.tick

/-- The partition runs the backward pass. -/
def hasBwd (P : Part) : Bool := P.modes.bwdFrozen || P.modes.trainAdpt || P.modes.trainTrait

def training (P : Part) : Bool := P.modes.trainAdpt || P.modes.trainTrait

/-- Distinct numbers in ascending order. -/
def ascending (l : List Nat) : List Nat :=
  (dedup l).foldl (fun acc x => acc.takeWhile (fun y => decide (y < x)) ++ [x] ++ acc.dropWhile (fun y => decide (y < x))) []

/-! ## Rows and their terms -/

/-- What host row `i` is bound to; none for a pad row: the frozen binding of its context, or its descriptor. -/
def rowDesc (m : Man) (i : Nat) : Option Desc :=
  match m.rows[i]? with
  | some r =>
    if r.kind = 3 then none
    else match r.ctx with
      | some c => (m.binds.find? c).map (fun b => { bind := b.1, bag := 0, cref := 0, nbag := b.2 })
      | none => m.descs[r.desc]?
  | none => none

def rowBind (m : Man) (i : Nat) : List W64 := ((rowDesc m i).map (·.bind)).getD []

/-- The section that each valid slot of a binding has at a target: slot, adapter ID, GSEL, generation, section. -/
def termSects (P : Part) (b : List W64) (layer slot : Nat) : List (Nat × Nat × Nat × AGen × Sect) :=
  (bindSlots b).filterMap (fun x =>
    let a := P.adpts.getD x.2.1 {}
    match pickGen (a.cur, a.prev) x.2.2 with
    | some (g, gs) => (g.at layer slot).map (fun e => (x.1, x.2.1, gs, g, e))
    | none => none)

/-- The pool specification of a binding that is in force and steers a target. -/
def poolTerm (P : Part) (b : List W64) (layer slot : Nat) : Option (List W64) :=
  match (bindPool b).bind (fun ps => (P.traits.pools.find? ps).bind (·.cur)) with
  | some w => if poolAt w layer slot then some w else none
  | none => none

/-- Rows of a manifest. -/
def manRows (m : Man) : List Nat := List.range m.rows.length

/-! ## Units (R111, R112) -/

/-- The units of a step in pass order: direction, layer, and the target in target mode. -/
def stepUnits (P : Part) (target : Bool) : List (Bool × Nat × Option Nat) :=
  let layers := ascending (layersOf P)
  let one (bwd : Bool) (l : Nat) : List (Bool × Nat × Option Nat) :=
    if target then (ascending (slotsOf P l)).map (fun t => (bwd, l, some t)) else [(bwd, l, none)]
  layers.flatMap (one false) ++ (if hasBwd P then layers.reverse.flatMap (one true) else [])

/-- The slots of a unit in ascending order. -/
def unitSlots (P : Part) (u : Bool × Nat × Option Nat) : List Nat :=
  match u.2.2 with
  | some t => [t]
  | none => ascending (slotsOf P u.2.1)

/-- The first position of a unit. -/
def unitFirst (step : Nat) (u : Bool × Nat × Option Nat) : PosKey :=
  { step := step, bwd := u.1, layer := u.2.1, tslot := (match u.2.2 with | some t => t | none => 0), win := 0, tick := 0 }

/-- A manifest of the next step as its units are kindled: with the bindings in force at the freeze point (R12). -/
def kindledMan (P : Part) (m : Man) : Man := { m with binds := P.kbinds }

/-- The manifest whose units are kindled next, and the index of the unit in it. -/
def nextKindle (P : Part) : Option (Man × Nat) :=
  let nxt := (match P.hostNext with | some m => some m | none => P.cand).map (kindledMan P)
  match P.man with
  | some m =>
    let n := (stepUnits P m.target).length
    if P.nextUnit < n then some (m, P.nextUnit)
    else if P.frozen then nxt.map (fun k => (k, P.nextUnit - n)) else none
  | none => nxt.map (fun k => (k, P.nextUnit))

/-- The position at which Kindling of unit `j` of step `m` begins has been reached (Table PP-3); after a restore, from the first
position after it (R127). -/
def unitDue (P : Part) (m : Man) (j : Nat) : Bool :=
  if j = 0 || (P.man.any (fun x => x.step == m.step) && decide (j ≤ P.stream.kindUpto)) then true
  else match (stepUnits P m.target)[j - 1]?, P.stream.kindAt with
    | some u, some k => decide ((unitFirst m.step u).ord ≤ k.ord)
    | _, _ => false

/-- The region of placement number `u`: bank, first line, lines (R112). -/
def region (s : State) (p u : Nat) (target : Bool) : Nat × Nat × Nat :=
  let half := halfBytes s p / 64
  if target then (u % 2, if u / 2 % 2 = 0 then 0 else half, half) else (u % 2, 0, shareBytes s p / 64)

/-- Two regions share a line. -/
def regionsMeet (a b : Nat × Nat × Nat) : Bool := a.1 == b.1 && decide (a.2.1 < b.2.1 + b.2.2) && decide (b.2.1 < a.2.1 + a.2.2)

/-- A unit's region may be reused (R113): its work has ended and its dirty lines have been written back. -/
def unitReleased (u : LsUnit) : Bool := u.done && u.dirty.isEmpty && u.wbOwed == 0

/-- Units still held in the share. -/
def dropReleased (P : Part) : Part := { P with units := P.units.filter (fun u => !unitReleased u) }

def unitRegion (s : State) (p : Nat) (u : LsUnit) : Nat × Nat × Nat := region s p u.place u.slot.isSome

/-! ## Items (R114) -/

/-- The items of a unit in issue order: kind and counted lines. -/
def unitItems (P : Part) (m : Man) (u : Bool × Nat × Option Nat) : List (ItemKind × Nat) :=
  let layer := u.2.1
  let slots := unitSlots P u
  let rows := (manRows m).filter (fun i => (rowDesc m i).isSome)
  let extra (w : Nat) : Nat := if P.modes.trainTrait then a64 (4 * w) else 0
  let pooled := rows.filterMap (fun i =>
    (slots.findSome? (fun t => poolTerm P (rowBind m i) layer t)).map (fun w => (ItemKind.pooled i, (a64 (2 * poolW w) + extra (poolW w)) / 64)))
  let binds := dedup (rows.map (rowBind m))
  let at1 (t : Nat) : List (ItemKind × Nat) :=
    let terms := binds.flatMap (fun b => termSects P b layer t)
    let banks := ascending ((terms.filter (fun x => x.2.2.2.2.hasK)).map (fun x => x.2.2.2.2.bank))
    let sects := ascending (terms.map (fun x => x.2.1 * 2 + x.2.2.1))
    let gens (id : Nat) : List Nat := dedup (binds.flatMap (fun b => (bindSlots b).filterMap (fun x => if x.2.1 = id then some x.2.2 else none)))
    banks.map (fun b => (ItemKind.basis t b, countedPair (P.pairs.getD (pairKey layer t b) {}) / 64)) ++
      sects.map (fun k =>
        let id := k / 2
        let a := P.adpts.getD id {}
        let mine := (gens id).filter (fun g => match pickGen (a.cur, a.prev) g with | some (_, gs) => gs == k % 2 | none => false)
        (ItemKind.sect t id (k % 2), maxBy mine (fun g => countedSect a g layer t) / 64))
  pooled ++ slots.flatMap at1

/-- The generation and section that an item is read from. -/
def itemSource (P : Part) (layer : Nat) (k : ItemKind) : Option (AGen × Sect) :=
  match k with
  | .pooled _ => none
  | .unused => none
  | .basis t b => ((P.pairs.getD (pairKey layer t b) {}).cur).bind (fun g => (g.at layer t).map (fun e => (g, e)))
  | .sect t id gs =>
    let a := P.adpts.getD id {}
    (if gs = 0 then a.cur else a.prev).bind (fun g => (g.at layer t).map (fun e => (g, e)))

/-- The payload of a section, decrypted where the image is sealed (R53). -/
def sectPayload (s : State) (d : Nat) (g : AGen) (e : Sect) : List Byte :=
  let raw :=
    if g.src = 0 then bytesAt s.mem (memKey 0 (g.base + e.poff)) e.plen else objBytes s d g.base e.poff e.plen
  if g.sealed then
    (ctrCrypt (deriveKey (rootKey s) g.keyid) (nonceBytes g.nonce) (2 + (e.poff - a64 (64 + 32 * g.nsect)) / 16) (byteNats raw)).map (BitVec.ofNat 8)
  else raw

/-- The index of a section in its image. -/
def sectIndex (g : AGen) (e : Sect) : Nat := g.first + (g.sects.findIdx? (fun x => x == e)).getD 0

def setUnits (s : State) (d : Nat) (f : LsUnit → LsUnit) : State := updPart s d (fun P => { P with units := P.units.map f })

def setItem (s : State) (d place i : Nat) (f : LsItem → LsItem) : State :=
  setUnits s d (fun u => if u.place = place then { u with items := (List.zip (List.range u.items.length) u.items).map (fun x => if x.1 = i then f x.2 else x.2) } else u)

end Sys2Proof.Machine
end

