-- ==== Sys2Proof/Machine/BagOps.lean ====
section
/-! DEFINITION. Trait tables and bags (R172 to R184, R438): rows of a table, the bags of a step, the index list, and
where the pooled vectors lie in the pool buffer. -/

namespace Sys2Proof.Machine

/-- Change the trait state of a partition. -/
def updTraits (s : State) (d : Nat) (f : Traits → Traits) : State := updPart s d (fun P => { P with traits := f P.traits })

/-! ## Rows (R173, R175, R176) -/

/-- `trait_hash` of R175. -/
def traitHashRound (v : Nat) : Nat :=
  let v := v ^^^ (v >>> 33)
  let v := (v * 0xFF51AFD7ED558CCD) % 2 ^ 64
  v ^^^ (v >>> 29)

def traitHash (x seed : Nat) : Nat := traitHashRound (traitHashRound ((seed * 2 ^ 32 % 2 ^ 64) ^^^ x)) / 2 ^ 32

/-- The physical rows of a logical index: pairs of table (false P, true Q) and row (R175). -/
def physRows (w : List W64) (x : Nat) : List (Bool × Nat) :=
  let h (q : Bool) : Nat := traitHash x (tblSeed w q) * tblRows w q / 2 ^ 32
  match tblComp w with
  | 0 => [(false, x)]
  | 1 => [(false, h false)]
  | _ => [(false, h false), (true, h true)]

/-- A defined table that is usable (R174). -/
def tblOf (P : Part) (tid : Nat) : Option Tbl :=
  match P.traits.tbls.find? tid with
  | some t => if t.wait = 0 then some t else none
  | none => none

/-- A redirect entry is in force for a step: its flip was applied at or before the boundary that opens the step, and no later flip
had replaced it there (R188, R189). -/
def Redir.forStep (r : Redir) (step : Nat) : Bool :=
  decide (2 ≤ r.st) && decide (r.since ≤ step) && (match r.upto with | some n => decide (step < n) | none => true)

/-- The redirect entry that the reads of a row for a step follow (R189). -/
def redirOf (P : Part) (step tid : Nat) (q : Bool) (row : Nat) : Option Redir :=
  P.traits.redirs.find? (fun r => r.tid == tid && r.q == q && r.row == row && r.forStep step)

/-- The slot stride of the shadow area: the largest stride of the partition's tables (R187). -/
def shadowStride (P : Part) : Nat := maxBy P.traits.tbls (fun t => tblStride t.2.desc)

/-- The shadow area of a partition: its handle and its slots (R187). -/
def shadowArea (s : State) (d : Nat) (P : Part) : Nat × Nat :=
  let h := valD s 4 0x31 d none20
  let bytes := ((objOf s d h).map (·.bytes)).getD 0
  (h, if shadowStride P = 0 then 0 else Nat.min (valD s 4 0x32 d 0) (bytes / shadowStride P))

/-- The bytes of a physical row with its optimizer state, as reads of a step find them (R189): in its slot while it is redirected,
where a row whose PUT brought no state has its state zeroed (R190), else at its home. -/
def rowBytes (s : State) (d : Nat) (P : Part) (step tid : Nat) (q : Bool) (row : Nat) : List Byte :=
  match P.traits.tbls.find? tid with
  | none => []
  | some t =>
    match redirOf P step tid q row with
    | some r =>
      let raw := objBytes s d (shadowArea s d P).1 (r.slot * shadowStride P) (tblStride t.desc)
      if r.opt then raw else raw.take (tblRowBytes t.desc) ++ List.replicate (tblStride t.desc - tblRowBytes t.desc) 0
    | none => objBytes s d (tblHandle t.desc q) (row * tblStride t.desc) (tblStride t.desc)

/-- Write a physical row where the training of a step writes it: its slot while it is redirected, with its state, and the fold-back of
the row starts again (R190); else its home. -/
def rowWrite (s : State) (d : Nat) (P : Part) (step tid : Nat) (q : Bool) (row : Nat) (bs : List Byte) : State :=
  match P.traits.tbls.find? tid with
  | none => s
  | some t =>
    match redirOf P step tid q row with
    | some r =>
      updTraits (objWrite s d (shadowArea s d P).1 (r.slot * shadowStride P) bs) d (fun tr => { tr with
        redirs := tr.redirs.map (fun k => if k == r then { k with st := 2, opt := true } else k) })
    | none => objWrite s d (tblHandle t.desc q) (row * tblStride t.desc) bs

/-- Element `j` of a physical row given as one number, in FP32 (R176 step 1). -/
def rowElem (w : List W64) (row j : Nat) : Nat × Census :=
  let n := tblElems w
  match tblRfmt w with
  | 0 => let (v, c) := in32 (elemAt row 32 j); ((rnd32 v).1, c)
  | 1 => let (v, c) := bf16.readSub (elemAt row 16 j); ((rnd32 v).1, c)
  | k =>
    let bits := if k = 2 then 8 else 4
    let f := if k = 2 then mxfp8e4 else mxfp4
    let sc := elemAt row 8 (a64 (n * bits / 8) + j / 32)
    if sc = 255 then (0, if j % 32 = 0 then { scaleNan := 1 } else {})
    else let (v, c) := f.readElem (elemAt row bits j); let (e, k) := rnd32 (v.scale ((sc : Int) - 127)); (e, c.add k)

/-! ## Bags (R177, R179) -/

/-- A bag of the step: its owner, the T1 address of its entries and their count, and the rows that share it. -/
structure Bag where
  ctx : Option Nat
  desc : Nat
  addr : Nat
  n : Nat
  spec : List W64
  pos : Nat
  row : Nat
  deriving DecidableEq, Repr

/-- The address of a context's bag in its context store (R224). -/
def ctxSlotAddr (s : State) (d c : Nat) : Nat :=
  let h := valD s 6 0x28 d none20
  ((objOf s d h).map (·.base)).getD 0 + 4096 * (c - valD s 6 0x10 d 0)

/-- Order of bags: by context (none last), position and row of the first row (R65, R179). -/
def bagLt (a b : Bag) : Bool :=
  let c (x : Bag) : Nat := match x.ctx with | some c => c | none => 16384
  if c a ≠ c b then decide (c a < c b) else if a.pos ≠ b.pos then decide (a.pos < b.pos) else decide (a.row < b.row)

def insertBag (b : Bag) : List Bag → List Bag
  | [] => [b]
  | x :: t => if bagLt b x then b :: x :: t else x :: insertBag b t

/-- The pool specification that a number names for a step (R178): for a step that has not begun, one that takes effect at the coming
boundary. -/
def poolSpec (P : Part) (step ps : Nat) : Option (List W64) :=
  (P.traits.pools.find? ps).bind (fun x =>
    if P.inStep && step = P.step then x.cur else match x.next with | some w => if w.2 ≤ 1 then some w.1 else x.cur | none => x.cur)

/-- The bags of a step in trait order. -/
def bagsOf (s : State) (d : Nat) (P : Part) (m : Man) : List Bag :=
  let all := (manRows m).filterMap (fun i =>
    match m.rows[i]?, rowDesc m i with
    | some r, some ds =>
      match (bindPool ds.bind).bind (poolSpec P m.step) with
      | some w => some { ctx := r.ctx, desc := r.desc, addr := (match r.ctx with | some c => ctxSlotAddr s d c | none => ds.bag),
                         n := ds.nbag, spec := w, pos := r.pos, row := i : Bag }
      | none => none
    | _, _ => none)
  let sorted := all.foldl (fun l b => insertBag b l) []
  let same (a b : Bag) : Bool := (match a.ctx, b.ctx with | some x, some y => x == y | none, none => a.desc == b.desc | _, _ => false)
  sorted.foldl (fun acc b => if acc.any (same b) then acc else acc ++ [b]) []

/-- Entries of a bag: table and logical index. -/
def bagEntries (s : State) (b : Bag) : List (Nat × Nat) :=
  (t1Words s b.addr b.n).map (fun w => (wfld w 63 58, wfld w 31 0))

/-- The table an entry reads; none where it is invalid (R182). -/
def entryTbl (P : Part) (b : Bag) (e : Nat × Nat) : Option (List W64) :=
  match tblOf P e.1 with
  | some t => if bitOf (poolTmask b.spec) e.1 && decide (e.2 < tblLrows t.desc) then some t.desc else none
  | none => none

/-- The segments that a specification's LMAP uses, ascending. -/
def usedSegs (w : List W64) : List Nat :=
  ascending ((List.range 256).filterMap (fun l => if poolLmap w l = 15 then none else some (poolLmap w l)))

/-- The physical rows that the valid entries of a step's bags map to, each as one number: TID, P or Q, row. -/
def rowsNamed (s : State) (d : Nat) (P : Part) (m : Man) : List Nat :=
  (bagsOf s d P m).flatMap (fun b => (bagEntries s b).flatMap (fun e =>
    match entryTbl P b e with
    | some w => (physRows w e.2).map (fun r => e.1 * 2 ^ 33 + (if r.1 then 2 ^ 32 else 0) + r.2)
    | none => []))

/-- The index list of a step: distinct (TID, P or Q, physical row) in ascending order (R181). -/
def indexList (s : State) (d : Nat) (P : Part) (m : Man) : List (Nat × Nat × Nat) :=
  (ascending (rowsNamed s d P m)).map (fun k => (k / 2 ^ 33, k / 2 ^ 32 % 2, k % 2 ^ 32))

/-- The occurrence count of each entry of the index list (R181). -/
def indexOcc (s : State) (d : Nat) (P : Part) (m : Man) : List Nat :=
  let rows := rowsNamed s d P m
  (ascending rows).map (fun k => (rows.filter (· == k)).length)

/-! ## The pool buffer (R438) -/

/-- Bytes of a bag's blocks in the pool buffer. -/
def bagBytes (w : List W64) : Nat := (usedSegs w).length * a64 (2 * poolW w)

/-- Where the block of a bag for a segment lies in the pool buffer of step `n` (R438). -/
def poolOffset (half step : Nat) (bags : List Bag) (i seg : Nat) : Nat :=
  let before := sumBy (bags.take i) (fun b => bagBytes b.spec)
  let k := match bags[i]? with
    | some b => ((usedSegs b.spec).filter (fun g => decide (g < seg))).length * a64 (2 * poolW b.spec)
    | none => 0
  step % 2 * half + before + k

/-- The pool buffer's handle and half size. -/
def poolBuffer (s : State) (d : Nat) : Nat × Nat :=
  let h := valD s 4 0x30 d none20
  (h, ((objOf s d h).map (fun o => o.bytes / 2)).getD 0)

/-- The bag of a row: its index in trait order. -/
def bagOfRow (bags : List Bag) (m : Man) (i : Nat) : Option Nat :=
  match m.rows[i]? with
  | some r => bags.findIdx? (fun b => match b.ctx, r.ctx with | some x, some y => x == y | none, none => b.desc == r.desc | _, _ => false)
  | none => none

/-- The manifest of a step that the partition holds. -/
def manOfStep (P : Part) (step : Nat) : Option Man :=
  (P.man.toList ++ P.hostNext.toList ++ P.cand.toList).find? (fun m => m.step == step)

/-- The block of a row for a layer, as bytes of the pool buffer. -/
def pooledBlock (s : State) (d : Nat) (P : Part) (m : Man) (i layer : Nat) : List Byte :=
  let bags := bagsOf s d P m
  match bagOfRow bags m i with
  | some k =>
    match bags[k]? with
    | some b =>
      let (h, half) := poolBuffer s d
      objBytes s d h (poolOffset half m.step bags k (poolLmap b.spec layer)) (2 * poolW b.spec)
    | none => []
  | none => []

end Sys2Proof.Machine
end

