-- ==== Sys2Proof/Machine/KindleOps.lean ====
section
/-! DEFINITION. Kindling (R111 to R118, R125): the fetch of each item, readiness, and the release of a region. -/

namespace Sys2Proof.Machine

/-- QoS of Kindling and Gather (R133). -/
def fetchQos (s : State) (d : Nat) : Nat := if valD s 7 0x21 d 4 < 4 then 0 else 1

/-- A section of an attached adapter whose re-charring has not ended: lists of earlier steps still run (R213). -/
def charringWaits (P : Part) (k : ItemKind) : Bool :=
  match k with
  | .sect _ id _ =>
    P.train.atts.any (fun e => wfld (e.2.desc.getD 0 0) 63 62 == 0 && wfld (e.2.desc.getD 0 0) 61 38 == id) &&
      P.train.lists.any (fun l => decide (l.step < P.step))
  | _ => false

/-- The pool vectors of the step are in the pool buffer. -/
def poolDone (P : Part) (step : Nat) : Bool :=
  match P.traits.phase with
  | some f => if f.step = step then f.done else P.traits.waiting ≠ some step
  | none => true

/-- The bytes that an item brings: a section's payload, or the block of its row in the pool buffer (R438). -/
def itemBytes (s : State) (d : Nat) (P : Part) (step layer : Nat) (k : ItemKind) : List Byte :=
  match k with
  | .pooled i => (match manOfStep P step with | some m => pooledBlock s d P m i layer | none => [])
  | _ => (match itemSource P layer k with | some (g, e) => sectPayload s d g e | none => [])

/-- An item has been fetched, or has failed for good (R118). -/
def itemEnd (s : State) (d place i : Nat) (ok : Bool) : State :=
  match partOf s d with
  | none => s
  | some P =>
    match P.units.find? (fun u => u.place == place) with
    | none => s
    | some u =>
      match u.items[i]? with
      | none => s
      | some it =>
        let bytes := if ok then itemBytes s d P u.step u.layer it.kind else []
        forEach it.xs (setItem s d place i (fun it => { it with st := if ok then 1 else 2, owed := 0, data := leNat bytes, xs := [] }))
          (fun s x => unpin s x 0)

/-- A read of an item is under way: what it has issued, and the extent it holds or waits for. -/
def itemServed (d place i x : Nat) (r : Served) : State :=
  setItem r.s d place i (fun it => { it with owed := it.owed + r.reqs, xs := if r.pinned then it.xs ++ [x] else it.xs })

/-- Bytes of an object by the extents that they lie in: extent index, offset in it, bytes (`fuel` bounds the extents). -/
def objParts : Nat → Objt → Nat → Nat → List (Nat × Nat × Nat)
  | 0, _, _, _ => []
  | fuel + 1, o, off, n =>
    if n = 0 then []
    else
      let (xi, o1) := o.at off
      let k := Nat.min n ((o.extent xi).2 - o1)
      if k = 0 then [] else (xi, o1, k) :: objParts fuel o (off + k) (n - k)

/-- Where the block of row `i` for a layer lies in the pool buffer: extents, offsets in them, bytes. -/
def pooledParts (s : State) (d : Nat) (P : Part) (m : Man) (i layer : Nat) : List (Nat × Nat × Nat) :=
  let bags := bagsOf s d P m
  match (bagOfRow bags m i).bind (fun k => bags[k]?.map (fun b => (k, b))), objOf s d (poolBuffer s d).1 with
  | some (k, b), some o =>
    (objParts 3 o (poolOffset (poolBuffer s d).2 m.step bags k (poolLmap b.spec layer)) (a64 (2 * poolW b.spec))).map (fun q =>
      (xKey d (poolBuffer s d).1 q.1, q.2))
  | _, _ => []

/-- The Kindling read of a pooled block: a waiting request until pooling has ended, then a read of the pool buffer (R184). -/
def fetchPooled (s : State) (d place idx r layer : Nat) : State :=
  match (partOf s d).bind (fun P => (P.units.find? (fun u => u.place == place)).bind (fun u => (manOfStep P u.step).map (fun m => (P, m)))) with
  | none => s
  | some (P, m) =>
    if !poolDone P m.step then s
    else
      let l := pooledParts s d P m r layer
      if l.any (fun q => pinFull s q.1 0) then s
      else if l.any (fun q => poisonedX s q.1) then itemEnd s d place idx false
      else if l.isEmpty then itemEnd s d place idx true
      else forEach l s (fun s q => itemServed d place idx q.1 (serveRead s d q.1 q.2.1 q.2.2 0 (fetchQos s d) (.kindle d place idx)))

/-- Issue the reads of one item (R140, R142): of a T1 image that no object holds, at its addresses; of an extent, as R140 serves it. An
item whose extent's pin counter stands at its top waits (R136). -/
def fetchItem (s : State) (d place i layer : Nat) (k : ItemKind) : State :=
  match k with
  | .pooled r => fetchPooled s d place i r layer
  | _ =>
    match (partOf s d).bind (fun P => if charringWaits P k then none else itemSource P layer k) with
    | none => s
    | some (g, e) =>
      let use := Use.kindle d place i
      let qos := fetchQos s d
      if g.src = 0 then
        let l := reqPieces (g.base + e.poff) e.plen
        forEach l (setItem s d place i (fun it => { it with owed := l.length })) (fun s p => addReq s d false 0 (bareport s) qos p.1 p.2 use false)
      else
        let x := xKey d g.base (1 + sectIndex g e)
        let r := serveRead s d x 0 e.plen 0 qos use
        if r.wait then r.s else if r.fail then itemEnd r.s d place i false else itemServed d place i x r

/-- Items of a unit that wait for a read to be issued are asked for again: one that waited for its pooling, its re-charring or a
pin. -/
def itemsResume (s : State) (d : Nat) : State :=
  match partOf s d with
  | none => s
  | some P =>
    forEach P.units s (fun s u =>
      forEach (List.zip (List.range u.items.length) u.items) s (fun s x =>
        if x.2.st = 0 && x.2.owed = 0 && x.2.xs.isEmpty then fetchItem s d u.place x.1 u.layer x.2.kind else s))

/-- Items laid out from a line on. -/
def layItems (line : Nat) (kinds : List (ItemKind × Nat)) (f : ItemKind → Nat → Nat → LsItem) : List LsItem :=
  (kinds.foldl (fun (a : List LsItem × Nat) k => (a.1 ++ [f k.1 a.2 k.2], a.2 + k.2)) ([], line)).1

/-- An item of a layer that is to be kindled into its block. -/
def newItem (P : Part) (layer : Nat) (again : Bool) (k : ItemKind) (line lines : Nat) : LsItem :=
  { kind := k
    line := line
    lines := lines
    need := match itemSource P layer k with | some (_, e) => e.plen | none => 64 * lines
    st := 0
    owed := 0
    data := 0
    again := again }

/-- Kindling of the next unit of the partition in slot `p` begins where it is due and its region is free (R113). -/
def kindleNext (s : State) (p : Nat) : State :=
  match slotPart s p with
  | none => s
  | some (d, P0) =>
    let P := dropReleased P0
    if P.st != .running then s
    else match nextKindle P with
      | none => s
      | some (m, j) =>
        match (stepUnits P m.target)[j]? with
        | none => s
        | some u =>
          let reg := region s p P.place m.target
          if !unitDue P m j || P.units.any (fun v => regionsMeet reg (unitRegion s p v)) then s
          else
            let kinds := unitItems P m u
            let place := P.place
            let items := layItems reg.2.1 kinds (newItem P u.2.1 false)
            let unit : LsUnit := { step := m.step, idx := j, place := place, bwd := u.1, layer := u.2.1, slot := u.2.2, items := items, dirty := [] }
            let s1 := updPart s d (fun _ => { P with
              units := P.units ++ [unit]
              place := place + 1
              nextUnit := P.nextUnit + 1
              share := P.share.filter (fun l => !(decide (reg.1 * 2 ^ 22 + reg.2.1 ≤ l.1) && decide (l.1 < reg.1 * 2 ^ 22 + reg.2.1 + reg.2.2))) })
            forEach (List.zip (List.range kinds.length) kinds) s1 (fun s k =>
              fetchItem s d place k.1 u.2.1 k.2.1)

/-! ## Readiness (R115) -/

/-- The unit of a target in the share. -/
def unitOf (P : Part) (step : Nat) (bwd : Bool) (layer slot : Nat) : Option LsUnit :=
  P.units.find? (fun u => u.step == step && u.bwd == bwd && u.layer == layer && (match u.slot with | some t => t == slot | none => true))

/-- Items that a target needs. -/
def itemFor (slot : Nat) (it : LsItem) : Bool :=
  match it.kind with
  | .pooled _ => true
  | .basis t _ => t == slot
  | .sect t _ _ => t == slot
  | .unused => false

/-- In direction B of a partition that trains adapters the stash half of a unit is free once the weight-gradient phases
of the unit two before it have ended (R203). -/
def stashFree (P : Part) (u : LsUnit) : Bool :=
  if !u.bwd || !P.modes.trainAdpt || u.idx < 2 then true
  else match P.man.bind (fun m => (stepUnits P m.target)[u.idx - 2]?) with
    | some v => !v.1 || (unitSlots P v).all (fun t => P.train.phases.contains (v.2.1 * 16 + t, 1))
    | none => true

/-- A target is ready: its unit is in the share and no item it needs is still to come. In direction B of a
partition that trains, the weight-gradient phases of unit j − 2 must have ended (R203). -/
def targetReady (P : Part) (step : Nat) (bwd : Bool) (layer slot : Nat) : Bool :=
  match unitOf P step bwd layer slot with
  | some u => u.items.all (fun it => !itemFor slot it || it.st != 0) && stashFree P u
  | none => false

/-- Items kindled again under R12 are all that the target still waits for. -/
def waitsAgain (P : Part) (step : Nat) (bwd : Bool) (layer slot : Nat) : Bool :=
  match unitOf P step bwd layer slot with
  | some u =>
    let l := u.items.filter (fun it => itemFor slot it && it.st == 0)
    !l.isEmpty && l.all (·.again)
  | none => false

/-! ## Write-back (R125) -/

/-- Write the dirty lines of a unit back to their homes in ascending line order, once its last backward use has ended. -/
def writeBack (s : State) (d place : Nat) : State :=
  match (partOf s d).bind (fun P => P.units.find? (fun u => u.place == place)) with
  | none => s
  | some u =>
    if u.wb || u.dirty.isEmpty || !u.done then s
    else
      let s1 := setUnits s d (fun v => if v.place = place then { v with wb := true, wbOwed := u.dirty.length } else v)
      let s2 := forEach u.dirty s1 (fun s l =>
        let ln := ((partOf s d).map (fun P => P.share.getD (u.place % 2 * 2 ^ 22 + l.1) 0)).getD 0
        addReq { s with mem := storeBytes s.mem (memKey 0 l.2) (leBytes 64 ln) } d true 0 (bareport s) 1 l.2 64 (.dirty d place) false)
      bumpD s2 Cnt.lsWbLines d u.dirty.length

/-- A dirty line has been written back; with the last one the region may be released. -/
def dirtyAck (s : State) (d place : Nat) : State :=
  updPart s d (fun P => dropReleased { P with units := P.units.map (fun u =>
    if u.place = place then (if u.wbOwed ≤ 1 then { u with wbOwed := 0, dirty := [] } else { u with wbOwed := u.wbOwed - 1 }) else u) })

end Sys2Proof.Machine
end

