-- ==== Sys2Proof/Machine/TraitOps.lean ====
section
/-! DEFINITION. The pool phase (R181 to R190, R438): the pooled vectors, redirect entries, flips and fold-back. -/

namespace Sys2Proof.Machine

/-! ## Pooling (R183, R438) -/

/-- A missing row of the phase. -/
def isMissing (ph : PoolPhase) (tid : Nat) (r : Bool × Nat) : Bool := ph.missing.contains (tid, (if r.1 then 1 else 0), r.2)

/-- Kept entries of a bag with their tables. -/
def keptEntries (s : State) (P : Part) (ph : PoolPhase) (b : Bag) : List (Option (List W64 × Nat × Nat)) :=
  (bagEntries s b).map (fun e =>
    match entryTbl P b e with
    | some w => if (physRows w e.2).any (isMissing ph e.1) then none else some (w, e.1, e.2)
    | none => none)

/-- A physical row as a step read it: from the pages that its reads were issued to (R166), else as reads of the step find it. -/
def rowAt (s : State) (d : Nat) (P : Part) (step tid : Nat) (q : Bool) (row : Nat) : List Byte :=
  match ((P.traits.phase.toList ++ P.traits.prev.toList).find? (fun f => f.step == step)).bind (fun f =>
      f.old.find? (fun x => x.1 == (tid, (if q then 1 else 0), row))) with
  | some x => x.2
  | none => rowBytes s d P step tid q row

/-- The trait value of an entry at element `j` of the row (R176). -/
def traitVal (s : State) (d : Nat) (P : Part) (step : Nat) (e : List W64 × Nat × Nat) (j : Nat) : Nat × Census :=
  let vals := (physRows e.1 e.2.2).map (fun r => rowElem e.1 (leNat (rowAt s d P step e.2.1 r.1 r.2)) j)
  match vals, tblComp e.1 with
  | [a], _ => a
  | [a, b], 2 => let (v, c) := f32Add a.1 b.1; (v, (a.2.add b.2).add c)
  | [a, b], _ => let (v, c) := f32Mul a.1 b.1; (v, (a.2.add b.2).add c)
  | _, _ => (0, {})

/-- The pooled vector of a bag for a segment, as BF16 encodings (R183). -/
def pooledVec (s : State) (d : Nat) (P : Part) (ph : PoolPhase) (b : Bag) (seg : Nat) : List Nat × Census :=
  let es := keptEntries s P ph b
  let nk := (es.filter (·.isSome)).length
  let w := poolW b.spec
  let cols := (List.range w).map (fun j =>
    let vs := es.map (fun e => match e with | some e => traitVal s d P ph.step e (seg * w + j) | none => (0, {}))
    let (t, c) := treeSum (vs.map Prod.fst)
    let q : Nat × Census := if poolMean b.spec then (if nk = 0 then (0, {}) else f32Div t (fp32.round .rne (Dy.ofInt nk)).1) else (t, {})
    let r := bf16.round .rne (in32 q.1).1
    (r.1, (vs.foldl (fun k x => k.add x.2) (c.add q.2)).add { sat := if r.2 then 1 else 0 }))
  (cols.map Prod.fst, cols.foldl (fun k x => k.add x.2) {})

/-- Kindling's reads of the pooled blocks issue once the phase has ended (R184); units that waited for it are counted. -/
def pooledResident (s : State) (d : Nat) : State :=
  match partOf s d with
  | none => s
  | some P =>
    match P.traits.phase with
    | none => s
    | some ph =>
      let late := (P.units.filter (fun u => u.step == ph.step && u.items.any (fun it => match it.kind with | .pooled _ => it.st == 0 | _ => false))).length
      itemsResume (bumpD s Cnt.poolLate d late) d

/-- A redirect entry that a flip replaces is still read: a step before the flip has a list or phases that have not ended. -/
def redirNeeded (P : Part) (r : Redir) : Bool :=
  match r.upto with
  | some n => P.train.lists.any (fun l => decide (l.step < n) && !l.ended) || P.train.late.any (fun l => decide (l.man.step < n))
  | none => true

/-- The redirect entries of a table once its flip stands from step `n`: the staged rows come into force, and an entry that one of them
replaces is in force for earlier steps only. -/
def redirsFlipped (redirs : List Redir) (tid n : Nat) : List Redir :=
  redirs.map (fun r =>
    if r.tid != tid then r
    else if r.st = 1 then { r with st := 2, since := n }
    else if decide (2 ≤ r.st) && r.upto.isNone && redirs.any (fun x => x.tid == r.tid && x.q == r.q && x.row == r.row && x.st == 1) then { r with upto := some n }
    else r)

/-- The partition as a pool phase of a step that has not begun reads it: the flips due at the boundary that opens the
step count as applied (R188, R189). -/
def poolView (P : Part) (step : Nat) : Part :=
  if P.inStep && step = P.step then P
  else
    let due := (P.traits.flips.filter (fun f => f.committed && decide (f.wait ≤ 1))).map (·.tid)
    { P with traits := { P.traits with redirs := due.foldl (fun l tid => redirsFlipped l tid step) P.traits.redirs } }

/-- Entries of the bags of a phase with a missing row: the host row of the bag and the entry's place in it (R182). -/
def missingEntries (s : State) (d : Nat) (P : Part) (ph : PoolPhase) (m : Man) : List (Nat × Nat) :=
  (bagsOf s d P m).flatMap (fun b =>
    (List.zip (List.range b.n) (bagEntries s b)).filterMap (fun e =>
      match entryTbl P b e.2 with
      | some w => if (physRows w e.2.2).any (isMissing ph e.2.1) then some (b.row, e.1) else none
      | none => none))

/-- They are events of the step that pools them: TRAIT_MISSING (R424). -/
def recMissing (s : State) (d : Nat) (P : Part) (ph : PoolPhase) (m : Man) : State :=
  forEach (missingEntries s d P ph m) s (fun s e =>
    recEvent s d 11 { step := m.step, bwd := false, layer := 0, tslot := 0, win := e.1 / 256, tick := 0 } (some e.1) e.2)

/-- The phase has every row: pool each bag and write the vectors to the pool buffer. -/
def poolFinish (s : State) (d : Nat) : State :=
  match partOf s d with
  | none => s
  | some P =>
    match P.traits.phase with
    | none => s
    | some ph =>
      if ph.done || !ph.begun || ph.owed ≠ 0 then s
      else match manOfStep P ph.step with
        | none => s
        | some m =>
          let bags := bagsOf s d P m
          let Pv := poolView P ph.step
          let (h, half) := poolBuffer s d
          let s0 := bumpD s Cnt.traitMissing d (missingEntries s d P ph m).length
          let s1 := if P.inStep && ph.step = P.step then recMissing s0 d P ph m else s0
          let s2 := forEach (List.zip (List.range bags.length) bags) s1 (fun s ib =>
            forEach (usedSegs ib.2.spec) s (fun s g =>
              let (v, c) := pooledVec s d Pv ph ib.2 g
              bumpCensus (objWrite s d h (poolOffset half m.step bags ib.1 g) (v.flatMap (leBytes 2))) d c))
          let s3 := updTraits s2 d (fun t => { t with phase := some { ph with done := true }, lastNs := 5 * (s2.mp.mgmt - ph.since) / 2 })
          pooledResident s3 d

/-- Every update of the steps before has been acknowledged (R186). -/
def updatesEnded (P : Part) : Bool := P.train.lists.all (·.ended)

/-- A row of the index list may not be read yet (R186): in a partition that trains trait rows, an earlier step's update of it has not
been acknowledged. The rows of a flip applied at the boundary that opens the step read their slots without waiting. -/
def rowWaits (s : State) (d : Nat) (P : Part) (ph : PoolPhase) (k : Nat × Nat × Nat) : Bool :=
  P.modes.trainTrait && !((redirOf (poolView P ph.step) ph.step k.1 (k.2.1 == 1) k.2.2).any (fun r => r.since == ph.step)) &&
    (P.train.lists.any (fun l => decide (l.step < ph.step) && l.items.any (fun it =>
        it.trait && it.id == k.1 && it.q == (k.2.1 == 1) && it.row == k.2.2 && !it.done && !it.dropped)) ||
      ((P.traits.tbls.find? k.1).any (fun t => useBusy s (.upd (xKey d (tblHandle t.desc (k.2.1 == 1)) k.2.2)))))

def updPoolPart (s : State) (d u : Nat) (f : PoolPart → PoolPart) : State :=
  updTraits s d (fun t => { t with phase := t.phase.map (fun ph =>
    { ph with parts := (List.zip (List.range ph.parts.length) ph.parts).map (fun x => if x.1 = u then f x.2 else x.2) }) })

/-- A part of the fetch has ended: its pin is dropped, and its row is missing where its read has failed for good (R182). -/
def poolPartEnd (s : State) (d u : Nat) (ok : Bool) : State :=
  match (partOf s d).bind (fun P => P.traits.phase.bind (fun ph => ph.parts[u]?.map (fun x => (ph, x)))) with
  | none => s
  | some (ph, x) =>
    if x.st = 3 then s
    else
      let s1 := updTraits (updPoolPart s d u (fun x => { x with st := 3, owed := 0, pinned := false })) d (fun t => { t with phase := t.phase.map (fun g =>
        { g with owed := g.owed - 1, missing := if ok then g.missing else (match ph.rows[x.row]? with | some k => k :: g.missing | none => g.missing) }) })
      if x.pinned then unpin s1 x.x 1 else s1

/-- Issue the reads of the index list that may issue, in list order (R181, R186). -/
def poolIssue (s : State) (d : Nat) : State :=
  match partOf s d with
  | none => s
  | some P =>
    match P.traits.phase with
    | none => s
    | some ph =>
      if ph.done then s
      else poolFinish (forEach (List.zip (List.range ph.parts.length) ph.parts) s (fun s x =>
        if x.2.st ≠ 0 || (match ph.rows[x.2.row]? with | some k => rowWaits s d P ph k | none => false) then s
        else
          let r := serveRead s d x.2.x x.2.off x.2.n 1 (fetchQos s d) (.pool d x.1)
          if r.wait then r.s
          else if r.fail || (r.reqs = 0 && !r.fill) then poolPartEnd r.s d x.1 (!r.fail)
          else updPoolPart r.s d x.1 (fun y => { y with st := if r.fill then 2 else 1, owed := r.reqs, pinned := r.pinned }))) d

/-- Where the row of an index list entry is read for a step: handle, offset, bytes, slot (R189). -/
def rowPlace (s : State) (d : Nat) (P : Part) (step : Nat) (k : Nat × Nat × Nat) : Option (Nat × Nat × Nat × Option Nat) :=
  (P.traits.tbls.find? k.1).map (fun t =>
    match redirOf P step k.1 (k.2.1 == 1) k.2.2 with
    | some r => ((shadowArea s d P).1, r.slot * shadowStride P, tblRowBytes t.desc, some r.slot)
    | none => (tblHandle t.desc (k.2.1 == 1), k.2.2 * tblStride t.desc, tblRowBytes t.desc, none))

/-- The fetch of the index list: its reads by the extents that they lie in (R181). -/
def poolFetch (s : State) (d : Nat) : State :=
  match partOf s d with
  | none => s
  | some P =>
    match P.traits.phase with
    | none => s
    | some ph =>
      if ph.begun then s
      else match manOfStep P ph.step with
        | none => s
        | some m =>
          let l := indexList s d P m
          let bags := bagsOf s d P m
          let occ := sumBy bags (·.n)
          let inv := sumBy bags (fun b => ((bagEntries s b).filter (fun e => (entryTbl P b e).isNone)).length)
          let s1 := bumpD (bumpD (bumpD s Cnt.traitOcc d occ) Cnt.traitRows d l.length) Cnt.traitInvalid d inv
          let parts : List PoolPart := (List.zip (List.range l.length) l).flatMap (fun ik =>
            match rowPlace s d (poolView P ph.step) ph.step ik.2 with
            | some (h, off, n, slot) =>
              (match objOf s d h with
               | some o => (objParts 131074 o off n).map (fun q => { row := ik.1, x := xKey d h q.1, off := q.2.1, n := q.2.2, slot := slot : PoolPart })
               | none => [])
            | none => [])
          poolIssue (updTraits s1 d (fun t => { t with phase := some { ph with
            begun := true, rows := l, occ := indexOcc s d P m, parts := parts, owed := parts.length, since := s.mp.mgmt } })) d

/-- The pool phase of a step begins (R181); while one of an earlier step runs, it waits. -/
def poolBegin (s : State) (d : Nat) (m : Man) : State :=
  match partOf s d with
  | none => s
  | some P =>
    let keep (t : Traits) : Option PoolPhase := match t.phase with | some f => if f.step = m.step then t.prev else some f | none => none
    if P.traits.phase.any (fun f => !f.done && f.step ≠ m.step) then
      (if (bagsOf s d P m).isEmpty then s else updTraits s d (fun t => { t with waiting := some m.step }))
    else if (bagsOf s d P m).isEmpty then updTraits s d (fun t => { t with phase := none, prev := keep t })
    else
      poolFetch (updTraits s d (fun t => { t with prev := keep t, phase := some { step := m.step, rows := [], owed := 0, missing := [], begun := false, done := false, since := s.mp.mgmt } })) d

/-- A pool phase that waited begins once the one before it has ended. -/
def poolNext (s : State) (d : Nat) : State :=
  match partOf s d with
  | none => s
  | some P =>
    if P.traits.phase.any (fun f => !f.done) then s
    else match P.traits.waiting with
      | none => s
      | some n =>
        let s1 := updTraits s d (fun t => { t with waiting := none })
        match manOfStep P n with
        | some m => poolBegin s1 d m
        | none => s1

/-- What follows a read of the phase: the phase may be complete, and another may have waited for it. -/
def poolSettle (s : State) (d : Nat) : State := poolNext (poolFinish s d) d

/-- Resume what waited for the updates of a step or for a pin: kindling (R213) and the pool phase (R136, R186). -/
def updatesResume (s : State) (d : Nat) : State :=
  match partOf s d with
  | none => s
  | some P =>
    if P.st != .running then s else poolNext (poolIssue (itemsResume s d) d) d

/-- One gather request of the phase has ended (R182). -/
def poolReqEnd (s : State) (d u : Nat) (ok : Bool) : State :=
  match (partOf s d).bind (fun P => P.traits.phase.bind (fun ph => ph.parts[u]?)) with
  | none => s
  | some x =>
    if x.st ≠ 1 then s
    else if x.owed ≤ 1 || !ok then poolSettle (poolPartEnd s d u ok) d
    else updPoolPart s d u (fun y => { y with owed := y.owed - 1 })

/-- Parts of the phase of partition `d` that wait for the fill of an extent. -/
def poolWaiters (P : Part) (x : Nat) : List Nat :=
  match P.traits.phase with
  | some ph => (List.zip (List.range ph.parts.length) ph.parts).filterMap (fun q => if q.2.x = x && q.2.st = 2 then some q.1 else none)
  | none => []

/-! ## Flips and fold-back (R188, R190) -/

/-- Flips of partition `d` whose PUTs have all completed are committed. -/
def flipsCommit (s : State) (d : Nat) : State :=
  match partOf s d with
  | none => s
  | some P => updTraits s d (fun t => { t with flips := t.flips.map (fun f =>
    if f.committed || t.puts.any (fun u => u.tid == f.tid && u.flip) then f
    else { f with committed := true, wait := Nat.max 1 (boundaries P) }) })

/-- Apply one flip: its staged rows come into force, the generation rises, and each row begins to fold back. -/
def flipApply (s : State) (d : Nat) (f : Flip) : State :=
  match partOf s d with
  | none => s
  | some P =>
    let g := nextGen (((P.traits.tbls.find? f.tid).map (·.gen)).getD 0)
    let n := P.step + (if P.inStep then 1 else 0)
    let s1 := updTraits s d (fun t => { t with
      tbls := t.tbls.upd f.tid (fun b => { b with gen := g })
      redirs := (redirsFlipped t.redirs f.tid n).filter (redirNeeded P)
      flips := t.flips.filter (fun x => x.tid != f.tid) })
    let s2 := bumpD s1 Cnt.traitFlip d 1
    match s2.od.insts.find? (fun i => i.area == 4 && i.item == 0x21 && i.path == f.path && i.cseq == f.cseq) with
    | some i => finish s2 i (some d) Code.ok (w64 g) 0
    | none => s2

/-- Flips due at the boundary of `d` (Table ARCH-3 order 3). -/
def flipsDue (s : State) (d : Nat) : State :=
  match partOf s d with
  | none => s
  | some P =>
    forEach P.traits.flips s (fun s f =>
      if !f.committed then s
      else if f.wait ≤ 1 then flipApply s d f
      else updTraits s d (fun t => { t with flips := t.flips.map (fun x => if x.tid = f.tid then { x with wait := x.wait - 1 } else x) }))

/-- Retiring entries are removed at the partition's freeze point (R190), and with them those that no step reads any more. -/
def redirsRetire (s : State) (d : Nat) : State :=
  match partOf s d with
  | none => s
  | some P => updTraits s d (fun t => { t with redirs := t.redirs.filter (fun r => !(r.st == 3 && r.upto.isNone) && redirNeeded P r) })

end Sys2Proof.Machine
end

