-- ==== Sys2Proof/Machine/WinOps.lean ====
section
/-! DEFINITION. A row window at a target (R61 to R84): tags and segments, tile groups, the units of Shrink, Core and
Expand with their values (R27 to R30, R42, R43, R46, R196), Scale's operands (R45, R295) and the chunks that Merge
writes (R31, R47, R197). -/

namespace Sys2Proof.Machine

/-! ## Sorting -/

/-- The runs of equal keys of a list. -/
def runsBy {α : Type} (f : α → Nat) : List α → List (List α)
  | [] => []
  | x :: t =>
    match runsBy f t with
    | [] => [[x]]
    | r :: rs => (match r with
      | y :: _ => if f x = f y then (x :: r) :: rs else [x] :: r :: rs
      | [] => [x] :: rs)

/-! ## Tags and segments (R64 to R68) -/

/-- A tag at a target for one part of an adapter: class 0 F, 1 K; `bkey` as in Table TILE-4. -/
structure Tag where
  row : Nat
  slot : Nat
  id : Nat
  gsel : Nat
  cls : Nat
  bkey : Nat
  ctx : Nat
  pos : Nat
  gen : AGen
  sect : Sect
  deriving DecidableEq, Repr

/-- The Segment Sorter's key of a row (R65). -/
def rowSortKey (m : Man) (i : Nat) : Nat :=
  match m.rows[i]? with
  | some r => (((match r.ctx with | some c => c | none => 16384) * 2 ^ 24) + r.pos) * 2 ^ 18 + i
  | none => i

/-- Column count of a tag's part. -/
def Tag.cols (t : Tag) : Nat := if t.cls = 0 then t.sect.r else t.sect.k

/-- The order of R65 at a target. -/
def tagOrd (m : Man) (t : Tag) : Nat :=
  ((t.bkey * 2 ^ 24 + t.id) * 2 + t.gsel) * 2 ^ 57 + rowSortKey m t.row

/-- The tags of some rows at a target, in target tag order. -/
def targetTags (P : Part) (m : Man) (layer slot : Nat) (rows : List Nat) : List Tag :=
  let all := rows.flatMap (fun i =>
    (termSects P (rowBind m i) layer slot).flatMap (fun x =>
      let mk (cls bkey : Nat) : Tag :=
        { row := i, slot := x.1, id := x.2.1, gsel := x.2.2.1, cls := cls, bkey := bkey,
          ctx := (((m.rows[i]?).bind (·.ctx)).getD 16384), pos := ((m.rows[i]?).map (·.pos)).getD 0, gen := x.2.2.2.1, sect := x.2.2.2.2 }
      (if x.2.2.2.2.hasF then [mk 0 0x100] else []) ++ (if x.2.2.2.2.hasK then [mk 1 x.2.2.2.2.bank] else [])))
  sortBy (tagOrd m) all

/-- A segment descriptor's name: class, basis key, adapter, generation select. -/
def segKey (t : Tag) : Nat := (t.bkey * 2 ^ 24 + t.id) * 2 + t.gsel

/-- The descriptors of a target with their tags, in list order. -/
def segments (tags : List Tag) : List (List Tag) := runsBy segKey tags

/-- Adapter segments of a set of rows: distinct (ADPT_ID, GSEL) (R69). -/
def segCount (P : Part) (bs : List (List W64)) : Nat :=
  (dedup (bs.flatMap (fun b => (bindSlots b).filterMap (fun x =>
    let a := P.adpts.getD x.2.1 {}
    (pickGen (a.cur, a.prev) x.2.2).map (fun g => x.2.1 * 2 + g.2))))).length

/-! ## Tile groups (R79, R80) -/

/-- The quads of a slot, ascending. -/
def quadsOf (s : State) (p d : Nat) : List Nat := (List.range 8).filter (fun q => bitOf (valP s 7 0x20 p d) q)

/-- Logical tiles of a quad that have a physical tile. -/
def quadTiles (s : State) (q : Nat) : List Nat := ((List.range 4).map (fun i => 4 * q + i)).filter (fun l => s.rel.map.getD l 0xFF != 0xFF)

/-- The tiles of the group that runs a window whose rows are all decode rows, or not. -/
def groupTiles (s : State) (p d : Nat) (decode : Bool) : List Nat :=
  let qs := quadsOf s p d
  let n := valP s 7 0x40 p d
  let dec := qs.take n
  let pre := qs.drop n
  let mine := if decode then (if dec.isEmpty then pre else dec) else (if pre.isEmpty then dec else pre)
  mine.flatMap (quadTiles s)

/-- A window lies wholly in the decode region (R230). -/
def decodeWindow (m : Man) (win n : Nat) : Bool := decide (256 * win + n ≤ m.ndec)

/-! ## A window with its data -/

/-- What the tiles work with for a window. -/
structure WinCtx where
  P : Part
  m : Man
  w : Win
  tgt : Tgt
  u : LsUnit
  tags : List Tag
  deriving DecidableEq, Repr

def tgtOf (P : Part) (layer slot : Nat) : Option Tgt := P.shape.tgts.find? (fun t => t.layer == layer && t.slot == slot)

/-- Host rows of a window. -/
def winRows (w : Win) : List Nat := (List.range w.n).map (fun r => 256 * w.key.win + r)

def winCtx (P : Part) (w : Win) : Option WinCtx :=
  match P.man, tgtOf P w.key.layer w.key.tslot, unitOf P w.key.step w.key.bwd w.key.layer w.key.tslot with
  | some m, some t, some u =>
    some { P := P, m := m, w := w, tgt := t, u := u, tags := targetTags P m w.key.layer w.key.tslot (winRows w) }
  | _, _, _ => none

/-- The bytes of an item in the share as one number: its fetched bytes under the lines that engines have written. -/
def itemNat (P : Part) (u : LsUnit) (it : LsItem) : Nat :=
  let bank := u.place % 2
  let mine := P.share.filter (fun e => decide (bank * 2 ^ 22 + it.line ≤ e.1) && decide (e.1 < bank * 2 ^ 22 + it.line + it.lines))
  if mine.isEmpty then it.data
  else
    sumBy (List.range it.lines) (fun l =>
      ((List.find? (fun (e : Nat × Nat) => e.1 == bank * 2 ^ 22 + it.line + l) mine).map (·.2)).getD (elemAt it.data 512 l) % 2 ^ 512 * 2 ^ (512 * l))

def itemOf (c : WinCtx) (k : ItemKind) : Option LsItem := c.u.items.find? (fun it => it.kind == k)

/-- The payload of a tag's section, and of the basis pair of a class K tag with the pair's own section (R68). -/
def sectNat (c : WinCtx) (t : Tag) : Nat :=
  ((itemOf c (.sect c.w.key.tslot t.id t.gsel)).map (itemNat c.P c.u)).getD 0

def pairSect (c : WinCtx) (t : Tag) : Option Sect :=
  ((c.P.pairs.getD (pairKey c.w.key.layer c.w.key.tslot t.bkey) {}).cur).bind (fun g => g.at c.w.key.layer c.w.key.tslot)

def pairNat (c : WinCtx) (t : Tag) : Nat :=
  ((itemOf c (.basis c.w.key.tslot t.bkey)).map (itemNat c.P c.u)).getD 0

/-! ## Tensors (R23, R24, R52) -/

/-- Elements of a stored column: the reduction length, padded in the MX formats. -/
def storedLen (code m : Nat) : Nat := match fmtOf code with | some f => if f.isMx then p32 m else m | none => m

def elemBits (code : Nat) : Nat := match fmtOf code with | some f => f.bits | none => 0

/-- Column `c` of a tensor of `n` columns of reduction length `m` that begins at byte `off`. -/
def tensorCol (code m payload off n c : Nat) : List OpBlock × Census :=
  let k := storedLen code m
  let b := elemBits code
  readBlocks code m (payload >>> (8 * off + c * k * b)) (payload >>> (8 * (off + a64 (n * k * b / 8)) + 8 * (c * (k / 32))))

/-- Element `i` of column `c` of a tensor, with its block scale. -/
def tensorElem (code m payload off n c i : Nat) : Dy × Census :=
  let k := storedLen code m
  let b := elemBits code
  match fmtOf code with
  | none => (Dy.zero, {})
  | some f =>
    let (v, cs) := f.readElem (elemAt (payload >>> (8 * off)) b (c * k + i))
    if f.isMx then
      let sc := (payload >>> (8 * (off + a64 (n * k * b / 8)) + 8 * (c * (k / 32) + i / 32))) % 256
      if sc = 255 then (Dy.zero, if i % 32 = 0 then { scaleNan := 1 } else {}) else (v.scale ((sc : Int) - 127), cs)
    else (v, cs)

/-- Row `i` of a tensor over its columns, as blocks of 32 in column order: the transposed operand of R196. -/
def tensorRow (code m payload off n i : Nat) : List OpBlock × Census :=
  let es := (List.range n).map (fun c => tensorElem code m payload off n c i)
  ((chunks 32 (es.map Prod.fst)).map (fun vs => { vals := vs, scale := 0, isBf16 := code == 0 }), es.foldl (fun k e => k.add e.2) {})

/-- Offsets of B, C, s and β in a section (R52). -/
def offB (e : Sect) : Nat := if e.hasF then planeBytes e.ffmt e.r e.din else 0
def offC (e : Sect) : Nat := offB e + (if e.hasF then planeBytes e.ffmt e.dout e.r else 0)
def offS (e : Sect) : Nat := offC e + (if e.hasK then planeBytes e.kfmt e.k e.k else 0)
def offBeta (e : Sect) : Nat := offS e + vecBytes e.sBf16 e.dout

/-- The operand column of a tag at a stage: forward A, U, C, B, V; backward Bᵀ, Vᵀ, Cᵀ, Aᵀ, Uᵀ (Table TRAIN-3). -/
def opCol (c : WinCtx) (t : Tag) (stage : Stage) (col : Nat) : List OpBlock × Census :=
  let e := t.sect
  let pe := (pairSect c t).getD e
  let x := sectNat c t
  let y := pairNat c t
  let offV := planeBytes pe.kfmt pe.k e.din
  match c.w.key.bwd, stage, t.cls with
  | false, .shrink, 0 => tensorCol e.ffmt e.din x 0 e.r col
  | false, .shrink, _ => tensorCol pe.kfmt e.din y 0 e.k col
  | false, .core, _ => tensorCol e.kfmt e.k x (offC e) e.k col
  | false, _, 0 => tensorCol e.ffmt e.r x (offB e) e.dout col
  | false, _, _ => tensorCol pe.kfmt e.k y offV e.dout col
  | true, .shrink, 0 => tensorRow e.ffmt e.r x (offB e) e.dout col
  | true, .shrink, _ => tensorRow pe.kfmt e.k y offV e.dout col
  | true, .core, _ => tensorRow e.kfmt e.k x (offC e) e.k col
  | true, _, 0 => tensorRow e.ffmt e.din x 0 e.r col
  | true, _, _ => tensorRow pe.kfmt e.din y 0 e.k col

/-! ## Interstage conversion (R29, R196) -/

/-- Convert FP32 values to BF16, or to MXFP8 in blocks of 32 with the elements given; the results as FP32. -/
def convInter (toBf16 : Bool) (f : MxFmt) (vs : List Nat) : List Nat × Census :=
  if toBf16 then
    let rs := vs.map (fun v => bf16.round .rne (in32 v).1)
    (rs.map (fun r => r.1 * 65536), rs.foldl (fun k r => k.add { sat := if r.2 then 1 else 0 }) {})
  else
    (chunks 32 vs).foldl (fun (acc, k) b =>
      let (sc, es, c) := f.convBlock (b.map (fun v => ((in32 v).1, Rnd.rne)))
      (acc ++ es.map (fun x => (rnd32 ((f.readElem x).1.scale ((sc : Int) - 127))).1), k.add c)) ([], {})

/-- Values as an operand in blocks of 32. -/
def valBlocks (isBf16 : Bool) (vs : List Nat) : List OpBlock :=
  (chunks 32 vs).map (fun b => { vals := b.map (fun v => (in32 v).1), scale := 0, isBf16 := isBf16 })

/-! ## Keys of the accumulators -/

def accKey (row slot cls col : Nat) : Nat := row * 2 ^ 14 + slot * 2 ^ 12 + cls * 2 ^ 10 + col
def outKey (row col : Nat) : Nat := row * 2 ^ 15 + col

/-- The results of a tag that stand under its key. -/
def tagVals (tab : Tab Nat) (t : Tag) : List Nat :=
  (List.range t.cols).map (fun i => tab.getD (accKey (t.row % 256) t.slot t.cls i) 0)

/-! ## Scale's operands (R45, R46, R295) -/

/-- The valid slots of a row that hold a stored s at the target, ascending. -/
def storedS (c : WinCtx) (i : Nat) : List Tag :=
  (termSects c.P (rowBind c.m i) c.w.key.layer c.w.key.tslot).filterMap (fun x =>
    if x.2.2.2.2.hasS then
      some { row := i, slot := x.1, id := x.2.1, gsel := x.2.2.1, cls := 2, bkey := 0, ctx := 0, pos := 0, gen := x.2.2.2.1, sect := x.2.2.2.2 }
    else none)

/-- The pooled vector of a row in the share, with its width. -/
def rowPool (c : WinCtx) (i : Nat) : Option (Nat × Nat) :=
  (poolTerm c.P (rowBind c.m i) c.w.key.layer c.w.key.tslot).map (fun w =>
    (((itemOf c (.pooled i)).map (itemNat c.P c.u)).getD 0, poolW w))

/-- Element `j` of a stored s or β, widened to FP32 after substitution. -/
def vecElem (bf : Bool) (payload off j : Nat) : Nat × Census :=
  let (v, k) := if bf then bf16.readSub (elemAt (payload >>> (8 * off)) 16 j) else in32 (elemAt (payload >>> (8 * off)) 32 j)
  ((rnd32 v).1, k)

/-- The pooled scale at column `j` for the group width `g`: RNE32(1 + p[⌊j / g⌋]) (R45). -/
def poolScaleG (g : Nat) (pw : Nat × Nat) (j : Nat) : Nat × Census :=
  let (v, k) := bf16.readSub (elemAt pw.1 16 (j / Nat.max g 1))
  let (r, k2) := f32Add one32 (rnd32 v).1
  (r, k.add k2)

/-- The pooled scale at column `j`, with the group width that the target gives. -/
def poolScale (c : WinCtx) (pw : Nat × Nat) (j : Nat) : Nat × Census := poolScaleG (c.tgt.dout / pw.2) pw j

/-- The product of stored vectors in ascending slot and last a pooled one; none without any. -/
def scaleFold (l : List (Nat × Census)) : Option (Nat × Census) :=
  match l with
  | [] => none
  | x :: t => some (t.foldl (fun a y => let (r, k) := f32Mul a.1 y.1; (r, (a.2.add y.2).add k)) x)

/-- The sum of biases in ascending slot; none without any. -/
def biasFold (l : List (Nat × Census)) : Option (Nat × Census) :=
  match l with
  | [] => none
  | x :: t => some (t.foldl (fun a y => let (r, k) := f32Add a.1 y.1; (r, (a.2.add y.2).add k)) x)

/-- The stored s of a row at column `j`, in ascending slot. -/
def storedAt (c : WinCtx) (i j : Nat) : List (Nat × Census) :=
  (storedS c i).map (fun t => vecElem t.sect.sBf16 (sectNat c t) (offS t.sect) j)

/-- The biases of a row at column `j`: each lies after its s of `n` elements. -/
def biasAt (c : WinCtx) (i j n : Nat) : List (Nat × Census) :=
  ((storedS c i).filter (fun t => t.sect.bias)).map (fun t =>
    vecElem t.sect.sBf16 (sectNat c t) (offS t.sect + vecBytes t.sect.sBf16 n) j)

/-- The combined scale of a row at column `j`; none without class S terms. -/
def rowScale (c : WinCtx) (i j : Nat) : Option (Nat × Census) :=
  scaleFold (storedAt c i j ++ (match rowPool c i with | some pw => [poolScale c pw j] | none => []))

/-- The combined bias of a row at column `j`; none without one. -/
def rowBias (c : WinCtx) (i j : Nat) : Option (Nat × Census) := biasFold (biasAt c i j c.tgt.dout)

/-- A row has an F or K term; a class S term; any term (R47). -/
def hasFK (c : WinCtx) (i : Nat) : Bool := c.tags.any (fun t => t.row == i)
def hasS (c : WinCtx) (i : Nat) : Bool := !(storedS c i).isEmpty || (rowPool c i).isSome
def hasTerms (c : WinCtx) (i : Nat) : Bool := hasFK c i || hasS c i

/-! ## Gradients in direction B (R195, R196) -/

/-- Where the window keeps a chunk that the Accumulator Port returned. -/
def chunkKey (buf row chunk : Nat) : Nat := (buf * 256 + row) * 64 + chunk

/-- The buffer that a chunk's key names. -/
def bufOfKey (k : Nat) : Nat := k / 16384

/-- Column `j` of a row of G or y. -/
def gradAt (w : Win) (buf i j : Nat) : Nat := (w.chunks.getD (chunkKey buf (i % 256) (j / 512)) []).getD (j % 512) 0

/-- g_a of R196. -/
def gAt (c : WinCtx) (i j : Nat) : Nat × Census :=
  let g := gradAt c.w 1 i j
  match rowScale c i j with
  | some (sc, _) => f32Mul g sc
  | none => ((rnd32 (in32 g).1).1, (in32 g).2)

/-- ĝ of a tag: RNE32(α × g_a). -/
def ghat (c : WinCtx) (t : Tag) : List Nat × Census :=
  (List.range c.tgt.dout).foldl (fun (l, k) j =>
    let (v, k2) := f32Mul (if t.cls = 0 then t.sect.alphaF else t.sect.alphaK) (gAt c t.row j).1
    (l ++ [v], k.add k2)) ([], {})

/-! ## Pieces and units (R71 to R73) -/

/-- A Shrink or Core unit: its tags and its columns. -/
structure WUnit where
  tags : List Tag
  col0 : Nat
  ncol : Nat
  deriving DecidableEq, Repr

/-- The Shrink pieces of a window in piece order: one for each basis index of class K, one for each class F descriptor. -/
def shrinkPieces (c : WinCtx) : List (List Tag) :=
  runsBy (fun t => if t.cls = 1 then t.bkey else segKey t) c.tags

/-- The Shrink units in the order dealt. -/
def shrinkUnits (c : WinCtx) : List WUnit :=
  (shrinkPieces c).flatMap (fun p =>
    let cols := (p.head?.map (·.cols)).getD 0
    (List.range (ceilDiv cols 64)).flatMap (fun ch =>
      (chunks 32 p).map (fun part => { tags := part, col0 := 64 * ch, ncol := Nat.min 64 (cols - 64 * ch) })))

/-- The Core units: each class K descriptor in row parts of 32. -/
def coreUnits (c : WinCtx) : List WUnit :=
  ((segments c.tags).filter (fun g => g.any (fun t => t.cls == 1))).flatMap (fun g =>
    (chunks 32 g).map (fun part => { tags := part, col0 := 0, ncol := (part.head?.map (·.cols)).getD 0 }))

/-- Output and reduction widths of a window. -/
def outDim (c : WinCtx) : Nat := if c.w.key.bwd then c.tgt.din else c.tgt.dout
def redDim (c : WinCtx) : Nat := if c.w.key.bwd then c.tgt.dout else c.tgt.din

/-- The row part size of Expand (R73). -/
def partRows (dim n ng : Nat) : Nat :=
  ([128, 64, 32].find? (fun np => decide (ng ≤ ceilDiv dim 512 * ceilDiv n np))).getD 32

/-- Expand blocks of a window for an output width: chunk and part of block `j`. -/
def expandParts (w : Win) (dim : Nat) : Nat := ceilDiv w.n (partRows dim w.n w.tiles.length)
def expandCount (w : Win) (dim : Nat) : Nat := ceilDiv dim 512 * expandParts w dim

/-- The logical tile that holds block `j` (R73). -/
def blockTile (w : Win) (j : Nat) : Nat := w.tiles.getD (j % Nat.max w.tiles.length 1) 0

/-- Rows of block `j`. -/
def blockRows (w : Win) (dim j : Nat) : List Nat :=
  let np := partRows dim w.n w.tiles.length
  let part := j % Nat.max (expandParts w dim) 1
  (winRows w).filter (fun i => i % 256 / np == part)

/-- Cycles C and L of a unit of rows `n` on a block of `bytes` (R77). -/
def unitC (rate n : Nat) : Nat := ceilDiv (2 * n) (Nat.max rate 1)
def unitL (bytes : Nat) : Nat := ceilDiv bytes 256

/-- Bytes of a weight block of reduction length `d` by `w` columns as stored, with the padding of R23 and the scales. -/
def blockBytes (code d w : Nat) : Nat :=
  w * storedLen code d * elemBits code / 8 + (match fmtOf code with | some f => if f.isMx then w * storedLen code d / 32 else 0 | none => 0)

/-- The same for the operand of a window: in direction B the stored tensor is read transposed (R196). -/
def winBlockBytes (c : WinCtx) (code d w : Nat) : Nat := if c.w.key.bwd then blockBytes code w d else blockBytes code d w

/-- The format of the stored operand of a tag's Shrink or Expand block. -/
def tagFmt (c : WinCtx) (t : Tag) : Nat := if t.cls = 0 then t.sect.ffmt else ((pairSect c t).map (·.kfmt)).getD t.sect.kfmt

/-- C and L of a Shrink unit on a block of reduction length `depth`: x forward, the converted gradient in direction B. -/
def shrinkCost (s : State) (p d : Nat) (c : WinCtx) (u : WUnit) (depth : Nat) : Nat × Nat :=
  let code := ((u.tags.head?).map (tagFmt c)).getD 0
  let xr := if c.w.key.bwd then (if u.tags.any (fun t => t.sect.isBf16) then 1 else 2) else rate2 (valP s 8 0x30 p d)
  (unitC (Nat.min (rate2 code) xr) u.tags.length, unitL (winBlockBytes c code depth u.ncol))

/-- The reduction length of block `k` of 128 of a window's Shrink: a narrow input, or its last block, is narrower. -/
def blockDepth (c : WinCtx) (k : Nat) : Nat := Nat.min 128 (redDim c - 128 * k)

/-- C and L of a Core unit. -/
def coreCost (u : WUnit) : Nat × Nat :=
  match u.tags.head? with
  | some t => (unitC (Nat.min (rate2 t.sect.kfmt) (if t.sect.isBf16 then 1 else 2)) u.tags.length, unitL (planeBytes t.sect.kfmt t.sect.k t.sect.k))
  | none => (0, 0)

/-- The weight blocks that a tile runs for one Expand block, with C and L of each: each piece's sub-blocks and depth passes (R73). -/
def expandBlocksOf (c : WinCtx) (j : Nat) : List (Nat × Nat) :=
  let rows := (blockRows c.w (outDim c) j).filter (hasFK c)
  let wide := Nat.min 512 (outDim c - 512 * (j / Nat.max (expandParts c.w (outDim c)) 1))
  [0, 1, 2, 3, 4, 5, 6, 7].flatMap (fun pass =>
    let tags := c.tags.filter (fun t => rows.contains t.row && t.slot == pass / 2 && t.cls == pass % 2)
    (runsBy (fun t => if t.cls = 1 then t.bkey else segKey t) tags).flatMap (fun piece =>
      match piece.head? with
      | none => []
      | some t =>
        let m := t.cols
        let (dp, wd) := if m ≤ 16 then (16, 512) else if m ≤ 32 then (32, 256) else (64, 128)
        let code := tagFmt c t
        let rate := piece.foldl (fun a x => Nat.min a (Nat.min (rate2 code) (if x.sect.isBf16 then 1 else 2))) 4
        (List.range (ceilDiv wide wd)).flatMap (fun b => (List.range (ceilDiv m dp)).map (fun k =>
          (unitC rate piece.length, unitL (winBlockBytes c code (Nat.min dp (m - dp * k)) (Nat.min wd (wide - wd * b))))))))

/-- The tile that gets each unit: the one with the fewest cycles so far, ties to the lowest (R71). -/
def dealAux (tiles : List Nat) : List Nat → Tab Nat → List Nat
  | [], _ => []
  | cost :: rest, load =>
    let best := tiles.foldl (fun (b : Option Nat) t => match b with
      | none => some t
      | some x => if load.getD t 0 < load.getD x 0 then some t else some x) none
    match best with
    | none => []
    | some t => t :: dealAux tiles rest (load.put t (load.getD t 0 + cost))

def deal (tiles : List Nat) (costs : List Nat) : List Nat := dealAux tiles costs []

/-! ## Values of the stages -/

/-- One x panel of a row as an operand (Table PORT-3). -/
def xBlocks (code : Nat) (row : BitVec 2048) : List OpBlock × Census :=
  readBlocks code 128 row.toNat (row.toNat >>> (8 * 252))

/-- Put a list of results of a tag into a table. -/
def putVals (tab : Tab Nat) (t : Tag) (col0 : Nat) (vs : List Nat) : Tab Nat :=
  (List.zip (List.range vs.length) vs).foldl (fun tb x => tb.put (accKey (t.row % 256) t.slot t.cls (col0 + x.1)) x.2) tab

/-- Shrink of one panel for a unit, forward: panel `k` of x against A or U, added to the accumulators (R27). The
substitutions in a row's panel are counted once, with its first term and column (R37). -/
def shrinkPanel (c : WinCtx) (code k : Nat) (u : WUnit) : Tab Nat × Census :=
  match c.w.panels.find? (fun p => p.num == k) with
  | none => (c.w.acc, {})
  | some pan =>
    u.tags.foldl (fun (tab, cs) t =>
      let (x, xc) := xBlocks code (pan.rows.getD (t.row % 256) 0)
      let first := decide (u.col0 = 0) && (match c.tags.find? (fun y => y.row == t.row) with | some y => y.slot == t.slot && y.cls == t.cls | none => false)
      let rs := (List.range u.ncol).map (fun i =>
        let col := u.col0 + i
        let (w, wc) := opCol c t .shrink col
        let blocks := (w.drop (4 * k)).take 4
        let (r, rc) := tileDot (tab.getD (accKey (t.row % 256) t.slot t.cls col) 0) x blocks
        (r, rc, if k = 0 && (u.tags.head?.map (·.row)) == some t.row then wc else {}))
      (putVals tab t u.col0 (rs.map Prod.fst), rs.foldl (fun q r => (q.add r.2.1).add r.2.2) (if first then cs.add xc else cs))) (c.w.acc, {})

/-- The first backward product of a tag in a unit: conv_G(ĝ) against Bᵀ or V_bᵀ (R196). The substitutions of ĝ and of its
conversion are counted with the tag's first column, those of the stored operand with the unit's first tag (R37). -/
def gradTag (c : WinCtx) (u : WUnit) (t : Tag) : List Nat × Census :=
  let (g, k1) := ghat c t
  let (gc, k2) := convInter t.sect.isBf16 mxfp8e5 g
  let x := valBlocks t.sect.isBf16 gc
  let rs := (List.range u.ncol).map (fun i =>
    let (op, wc) := opCol c t .shrink (u.col0 + i)
    let (r, k) := tileDot 0 x op
    (r, if (u.tags.head?.map (·.row)) == some t.row then k.add wc else k))
  (rs.map Prod.fst, rs.foldl (fun q r => q.add r.2) (if u.col0 = 0 then k1.add k2 else {}))

/-- The first backward products of a unit. -/
def gradShrink (c : WinCtx) (u : WUnit) : Tab Nat × Census :=
  u.tags.foldl (fun (tab, cs) t => let (vs, k) := gradTag c u t; (putVals tab t u.col0 vs, cs.add k)) (c.w.acc, {})

/-- The interstage element format: E4M3 forward, E5M2 for gradients. -/
def interFmt (c : WinCtx) : MxFmt := if c.w.key.bwd then mxfp8e5 else mxfp8e4

/-- Convert every Shrink result of the window to the interstage format. -/
def interAll (c : WinCtx) : Tab Nat × Census :=
  c.tags.foldl (fun (tab, cs) t =>
    let (v, k) := convInter t.sect.isBf16 (interFmt c) (tagVals c.w.acc t)
    (putVals tab t 0 v, cs.add k)) ([], {})

/-- A Core unit: C, or Cᵀ in direction B, and the conversion of its result. -/
def coreUnit (c : WinCtx) (u : WUnit) : Tab Nat × Census :=
  u.tags.foldl (fun (tab, cs) t =>
    let x := valBlocks t.sect.isBf16 (tagVals c.w.inter t)
    let rs := (List.range u.ncol).map (fun i =>
      let (op, wc) := opCol c t .core i
      let (r, k) := tileDot 0 x op
      (r, if (u.tags.head?.map (·.row)) == some t.row then k.add wc else k))
    let (v, k) := convInter t.sect.isBf16 (interFmt c) (rs.map Prod.fst)
    (putVals tab t 0 v, rs.foldl (fun q r => q.add r.2) (cs.add k))) (c.w.inter2, {})

/-- The F and K terms of a row in the order of R46. -/
def rowTags (c : WinCtx) (i : Nat) : List Tag := sortBy (fun t => t.slot * 2 + t.cls) (c.tags.filter (fun t => t.row == i))

/-- A tag is the first of the window that uses its stored operand: where the substitutions of the operand are counted. -/
def firstOf (c : WinCtx) (t : Tag) : Bool :=
  match c.tags.find? (fun x => x.cls == t.cls && (if t.cls = 1 then x.bkey == t.bkey else segKey x == segKey t)) with
  | some x => x.row == t.row
  | none => false

/-- δ of a row at an output column forward; the sum of dX in direction B (R30, R197). -/
def expandElem (c : WinCtx) (i j : Nat) : Nat × Census :=
  let parts := (rowTags c i).map (fun t =>
    let x := valBlocks t.sect.isBf16 (tagVals (if t.cls = 0 then c.w.inter else c.w.inter2) t)
    let (op, wc) := opCol c t .expand j
    let (e, k0) := tileDot 0 x op
    let k := if firstOf c t then k0.add wc else k0
    if c.w.key.bwd then (e, k)
    else let (r, k2) := f32Mul (if t.cls = 0 then t.sect.alphaF else t.sect.alphaK) e; (r, k.add k2))
  match parts with
  | [] => (0, {})
  | x :: t => t.foldl (fun a y => let (r, k) := f32Add a.1 y.1; (r, (a.2.add y.2).add k)) x

/-- Expand block `j`: its rows with F or K terms, its columns. -/
def expandBlock (c : WinCtx) (j : Nat) : Tab Nat × Census :=
  let dim := outDim c
  let ch := j / Nat.max (expandParts c.w dim) 1
  let tab0 := if c.w.key.bwd then c.w.gx else c.w.delta
  ((blockRows c.w dim j).filter (fun i => hasFK c i && !c.w.out.contains (i % 256))).foldl (fun (tab, cs) i =>
    (List.range (Nat.min 512 (dim - 512 * ch))).foldl (fun (tab, cs) q =>
      let (v, k) := expandElem c i (512 * ch + q)
      (tab.put (outKey (i % 256) (512 * ch + q)) v, cs.add k)) (tab, cs)) (tab0, {})

/-! ## Merge (R31, R32, R47, R76, R197) -/

/-- The rows of a window that still have terms. -/
def liveRows (c : WinCtx) : List Nat :=
  if c.w.dead.isSome then [] else (winRows c.w).filter (fun i => !c.w.out.contains (i % 256) && hasTerms c i)

/-- The chunks that Merge writes, in order: buffer, host row, chunk. -/
def mergeList (c : WinCtx) : List (Nat × Nat × Nat) :=
  (liveRows c).flatMap (fun i =>
    if c.w.key.bwd then
      (if hasS c i then (List.range (ceilDiv c.tgt.dout 512)).map (fun k => (1, i, k)) else []) ++
        (if hasFK c i then (List.range (ceilDiv c.tgt.din 512)).map (fun k => (3, i, k)) else [])
    else (List.range (ceilDiv c.tgt.dout 512)).map (fun k => (0, i, k)))

/-- The blocks that cover a row have ended, so that its result at the target is complete; a row that has lost its terms waits
for none. -/
def rowReady (c : WinCtx) (i : Nat) : Bool :=
  c.w.out.contains (i % 256) || !hasFK c i || (List.range (expandCount c.w (outDim c))).all (fun j =>
    !(blockRows c.w (outDim c) j).contains i || c.w.expanded.contains j)

/-- The rows of the tree that a row belongs to in the window (R101). -/
def treeRows (c : WinCtx) (i : Nat) : List Nat :=
  match c.m.rows[i]? with
  | some r =>
    if r.kind = 2 then (winRows c.w).filter (fun k => match c.m.rows[k]? with | some x => x.kind == 2 && x.ctx == r.ctx && (r.ctx.isSome || x.desc == r.desc) | none => false)
    else [i]
  | none => [i]

/-- The write that Merge has next can be made: its operands are there and Scale has handed them on. A row begins once every
chunk of it has been read, so that it never waits for a place of the port in the middle (R96). -/
def writeReady (c : WinCtx) (x : Nat × Nat × Nat) : Bool :=
  (treeRows c x.2.1).all (fun k => rowReady c k) &&
    (c.w.scaled.find? (chunkKey x.1 (x.2.1 % 256) x.2.2)).isSome &&
    (mergeList c).all (fun y => y.2.1 != x.2.1 || (c.w.chunks.find? (chunkKey y.1 (y.2.1 % 256) y.2.2)).isSome)

/-- FP32 encodings that are NaN or infinite. -/
def nonFinite (v : Nat) : Bool := fld v 30 23 == 255

/-- The data of a write, the census of its arithmetic and the host values left unchanged (R32). -/
def mergeChunk (c : WinCtx) (g16 : Bool) (x : Nat × Nat × Nat) : List Nat × Census × Nat :=
  let key := chunkKey x.1 (x.2.1 % 256) x.2.2
  let host := c.w.chunks.getD key []
  let (sv, bv) := c.w.scaled.getD key ([], [])
  let one (q : Nat) : Nat × Census × Nat :=
    let a := host.getD q 0
    let j := 512 * x.2.2 + q
    if x.1 = 1 then
      let (r, k) := gAt c x.2.1 j
      if g16 then let b := bf16.round .rne (in32 r).1; (b.1, k.add { sat := if b.2 then 1 else 0 }, 0) else (r, k, 0)
    else if nonFinite a then (a, {}, 1)
    else if x.1 = 3 then let (r, k) := f32Add a (c.w.gx.getD (outKey (x.2.1 % 256) j) 0); (r, k, 0)
    else
      let (t, k1) := if hasFK c x.2.1 then f32Add a (c.w.delta.getD (outKey (x.2.1 % 256) j) 0) else (a, {})
      let (t2, k2) := match sv[q]? with | some sc => f32Mul t sc | none => (t, {})
      let (t3, k3) := match bv[q]? with | some b => f32Add t2 b | none => (t2, {})
      (t3, (k1.add k2).add k3, 0)
  let dim := if x.1 = 3 then c.tgt.din else c.tgt.dout
  let l := (List.range (Nat.min 512 (dim - 512 * x.2.2))).map one
  (l.map (·.1), l.foldl (fun k r => k.add r.2.1) {}, sumBy l (·.2.2))

end Sys2Proof.Machine
end

