-- ==== Sys2Proof/Machine/CtxOps.lean ====
section
/-! DEFINITION. Contexts (R224 to R227, R239 to R246): records, KV pages and provisional slots, templates and Verify
Masks, Embers and wakes, the transitions of Table CTX-2, and the Completion Ring (R235 to R237). -/

namespace Sys2Proof.Machine

/-! ## Records -/

def ctxOf (s : State) (c : Nat) : Option Ctx := s.ctxs.find? c
def setCtx (s : State) (c : Nat) (x : Ctx) : State := { s with ctxs := s.ctxs.put c x }
def updCtx (s : State) (c : Nat) (f : Ctx → Ctx) : State := { s with ctxs := s.ctxs.upd c f }

/-- The contexts of a partition, ascending. -/
def ctxsOf (s : State) (d : Nat) : List (Nat × Ctx) := s.ctxs.filter (fun e => e.2.part == d)

/-- The context range of a partition: first context and count. -/
def ctxRange (s : State) (d : Nat) : Nat × Nat :=
  let b := valD s 6 0x10 d 0
  (b, Nat.min (valD s 6 0x11 d 0) (16384 - b))

/-- The next place in the orders the scheduler keeps. -/
def takeOrder (s : State) : Nat × State := (s.order, { s with order := s.order + 1 })

/-- t_b as the Context Keeper takes it: a free value where the time-of-day input is not valid. -/
def takeTime (s : State) : Nat × State :=
  match nowNs s with
  | some t => (t, s)
  | none => let (v, s1) := draw s; (v.toNat, s1)

/-! ## Templates (R244, R245) -/

/-- The bytes of a template as numbers. -/
def tplBytes (s : State) (addr : Nat) : List Nat := (bytesAt s.mem (memKey 0 addr) 64).map (·.toNat)

/-- Nodes of a template: up to the first end byte at 1 or above. -/
def tplNodes (t : List Nat) : Nat := (((List.range 64).find? (fun i => decide (1 ≤ i) && t.getD i 0 == 0xFF))).getD 64

/-- Depth of node `i` (`fuel` bounds the climb). -/
def tplDepthAux (t : List Nat) : Nat → Nat → Nat
  | 0, _ => 0
  | fuel + 1, i => if i = 0 then 0 else 1 + tplDepthAux t fuel (t.getD i 0)

def tplDepth (t : List Nat) (i : Nat) : Nat := tplDepthAux t 64 i

/-- R244. -/
def tplOk (t : List Nat) : Bool :=
  let n := tplNodes t
  (List.range 64).all (fun i => if i = 0 then true else if i < n then decide (t.getD i 0 < i) else if i = n then true else t.getD i 0 == 0) &&
    (List.range n).all (fun i => decide (tplDepth t i ≤ 15))

/-- The template of a context in its context store. -/
def ctxTpl (s : State) (d c : Nat) : List Nat := tplBytes s (ctxSlotAddr s d c + 2048)

/-- The Verify Mask of node `i`: itself and its ancestors. -/
def maskAux (t : List Nat) : Nat → Nat → Nat
  | 0, i => 2 ^ i
  | fuel + 1, i => if i = 0 then 1 else 2 ^ i ||| maskAux t fuel (t.getD i 0)

def verifyMask (t : List Nat) (i : Nat) : Nat := maskAux t 64 i

/-! ## Pages (R239, R240) -/

def pageTokens (s : State) (d : Nat) : Nat := valK s 6 0x60 d 32
def pageBytes (s : State) (d : Nat) : Nat := valK s 6 0x61 d 0
def kvSlotBytes (s : State) (d : Nat) : Nat := pageBytes s d / Nat.max (pageTokens s d) 1

/-- The pool objects: `k` 0 T1 pages, 1 T2 pages, 2 provisional slots. -/
def poolHandle (s : State) (d k : Nat) : Nat := valK s 6 (if k = 0 then 0x62 else if k = 1 then 0x63 else 0x64) d none20
def frameBytes (s : State) (d k : Nat) : Nat := if k = 2 then kvSlotBytes s d else pageBytes s d

/-- Frames that lie wholly within a pool's object. -/
def frames (s : State) (d k : Nat) : Nat :=
  let n := frameBytes s d k
  if n = 0 then 0 else (((objOf s d (poolHandle s d k)).map (·.bytes)).getD 0) / n

def usedFrames (P : Part) (k : Nat) : List Nat := if k = 0 then P.usedT1 else if k = 1 then P.usedT2 else P.usedProv

def setUsed (P : Part) (k : Nat) (l : List Nat) : Part :=
  if k = 0 then { P with usedT1 := l } else if k = 1 then { P with usedT2 := l } else { P with usedProv := l }

/-- Free frames of a pool. -/
def freeFrames (s : State) (d k : Nat) (P : Part) : Nat := frames s d k - (usedFrames P k).length

/-- The lowest free frame. -/
def nextFrame (s : State) (d k : Nat) (P : Part) : Option Nat :=
  (List.range (frames s d k)).find? (fun f => !(usedFrames P k).contains f)

/-- New pages of a context whose rows end at position `last`. -/
def newPages (s : State) (d : Nat) (x : Ctx) (last : Nat) : Nat := last / Nat.max (pageTokens s d) 1 + 1 - x.npage

/-- T1 frames that the rows of the step already built will take at the boundary (R240: that allocation never fails). -/
def owedPages (s : State) (d : Nat) (P : Part) : Nat :=
  match (if P.modes.serveHost then P.hostNext else P.cand) with
  | none => 0
  | some m =>
    sumBy (ascending (m.rows.filterMap (·.ctx))) (fun c => match ctxOf s c with
      | some x => if x.st == .ready then newPages s d x (maxBy (m.rows.filter (fun r => r.ctx == some c)) (·.pos)) else 0
      | none => 0)

/-- The lowest free T1 frame that the step already built leaves for a wake. -/
def wakeFrame (s : State) (d : Nat) (P : Part) : Option Nat :=
  if owedPages s d P < freeFrames s d 0 P then nextFrame s d 0 P else none

def takeFrame (s : State) (d k f : Nat) : State := updPart s d (fun P => setUsed P k (f :: usedFrames P k))

/-- A frame is freed; it is taken again from the next freeze point on (R240). -/
def freeFrame (s : State) (d k f : Nat) : State := updPart s d (fun P => { P with freed := (k, f) :: P.freed })

/-- Frames freed become available (R240). -/
def framesRelease (s : State) (d : Nat) : State :=
  updPart s d (fun P =>
    let P1 := P.freed.foldl (fun P e => setUsed P e.1 ((usedFrames P e.1).filter (· != e.2))) P
    { P1 with freed := [] })

/-- Port and address of a frame. -/
def framePlace (s : State) (d k f : Nat) : Nat × Nat :=
  let h := poolHandle s d k
  match objOf s d h with
  | none => (0, 0)
  | some o =>
    let (xi, o1) := o.at (f * frameBytes s d k)
    let p := homeAt s (xKey d h xi) o1
    (p.2.1, p.2.2 % 2 ^ 52)

/-- A page directory entry (Table CTX-13). -/
def dirWord (tier port addr : Nat) : Nat := 2 ^ 63 + tier * 2 ^ 61 + port * 2 ^ 57 + addr / 64

/-- The directory index of page `i` of a context. -/
def dirIndex (x : Ctx) (i : Nat) : Option Nat := (x.map[i / 64]?).map (fun b => 64 * b + i % 64)

def pageWord (s : State) (x : Ctx) (i : Nat) : Nat := ((dirIndex x i).map (fun k => s.pgdir.getD k 0)).getD 0

/-- The frame behind a directory entry: 0 T1, 1 T2, and its number. -/
def wordFrame (s : State) (d w : Nat) : Nat × Nat :=
  let k := fld w 62 61
  let base := ((objOf s d (poolHandle s d k)).map (·.base)).getD 0
  (k, (64 * fld w 45 0 - base) / Nat.max (pageBytes s d) 1)

/-- Map blocks in use, those of contexts whose partition is CLAMPED among them. -/
def usedBlocks (s : State) : List Nat := s.ctxs.flatMap (fun e => e.2.map) ++ s.parts.flatMap (fun e => e.2.saved.flatMap (fun x => x.2.map))

/-- Page directory entries of a partition in use. -/
def partEntries (s : State) (d : Nat) : Nat := sumBy (ctxsOf s d) (fun e => e.2.npage)

/-- Allocate the next page of a context. -/
def allocPage (s : State) (d c : Nat) : State :=
  match ctxOf s c, partOf s d with
  | some x, some P =>
    match nextFrame s d 0 P with
    | none => s
    | some f =>
      let newBlock := if x.npage % 64 = 0 && x.map.length ≤ x.npage / 64 then
        (List.range 65536).find? (fun b => !(usedBlocks s).contains b) else none
      let map := x.map ++ newBlock.toList
      let (port, addr) := framePlace s d 0 f
      let x1 := { x with map := map, npage := x.npage + 1 }
      match dirIndex x1 x.npage with
      | some k => takeFrame { (setCtx s c x1) with pgdir := s.pgdir.set 0 k (dirWord 0 port addr) } d 0 f
      | none => s
  | _, _ => s

/-- Allocate pages up to and with page `upto` (`fuel` bounds the pages). -/
def allocTo : Nat → State → Nat → Nat → Nat → State
  | 0, s, _, _, _ => s
  | fuel + 1, s, d, c, upto =>
    match ctxOf s c with
    | some x => if x.npage ≤ upto && x.npage < 2048 then allocTo fuel (allocPage s d c) d c upto else s
    | none => s

/-- Free every page, provisional slot and adopted slot of a context. -/
def freePages (s : State) (c : Nat) : State :=
  match ctxOf s c with
  | none => s
  | some x =>
    let d := x.part
    let s1 := forEach (List.range x.npage) s (fun s i =>
      let w := pageWord s x i
      let s' := if bitOf w 63 then (let (k, f) := wordFrame s d w; freeFrame s d k f) else s
      match dirIndex x i with
      | some k => { s' with pgdir := s'.pgdir.set 0 k 0 }
      | none => s')
    let s2 := forEach (x.tree.vals ++ x.adopts.map (·.pslot)) s1 (fun s f => freeFrame s d 2 f)
    let s3 := forEach x.copies s2 (fun s p => freeFrame s d p.tier p.frame)
    updCtx s3 c (fun x => { x with map := [], npage := 0, tree := [], adopts := [], copies := [] })

/-- A pending instance that named a context that is freed has nothing left to act on at its boundary. -/
def freeCtx (s : State) (c : Nat) : State :=
  let s1 := freePages s c
  { s1 with ctxs := s1.ctxs.del c }

/-! ## What a boundary reports (R235 to R237, R437) -/

/-- Note a transition of a context: the last EVENT, the CODE, and FLAGS beyond those of its rows. -/
def noteEvent (s : State) (d c event code flags : Nat) : State :=
  let (rtag, pos) := match ctxOf s c with | some x => (x.rtag, x.pos) | none => (0, 0)
  updPart s d (fun P =>
    let old := (P.events.find? c).getD { event := event }
    { P with events := P.events.put c { event := event, code := code, flags := old.flags ||| flags, rtag := rtag, pos := pos } })

/-- FLAGS alone. -/
def noteFlags (s : State) (d c flags : Nat) : State :=
  let (rtag, pos) := match ctxOf s c with | some x => (x.rtag, x.pos) | none => (0, 0)
  updPart s d (fun P =>
    let old := (P.events.find? c).getD { event := 0, rtag := rtag, pos := pos }
    { P with events := P.events.put c { old with flags := old.flags ||| flags } })

/-- The words of a completion (Table CTX-12). -/
def complWords (rtag : W64) (step : Nat) (ctx : Option Nat) (num event code flags nrows pos nflag : Nat) : List W64 :=
  [rtag, w64 (step % 2 ^ 40 * 2 ^ 24 + num * 2 ^ 10 + (if ctx.isSome then 2 ^ 9 else 0) + event * 2 ^ 5),
   w64 (code * 2 ^ 48 + flags * 2 ^ 32 + nrows * 2 ^ 13), w64 (pos % 2 ^ 24 * 2 ^ 40 + nflag * 2 ^ 21)]

/-- The principal code of FLAGS (R236); `target` chooses between the two fit codes. -/
def principal (flags : Nat) (target : Bool) : Nat :=
  if bitOf flags 6 then (if target then Code.fitTarget else Code.fitLayer)
  else if bitOf flags 3 then Code.kindleFail
  else if bitOf flags 2 then Code.tileFault
  else if bitOf flags 5 then Code.panelOverrun
  else if bitOf flags 4 then Code.ppSeq
  else if bitOf flags 1 then Code.bypassed
  else if bitOf flags 0 then Code.late
  else 0

/-- The Completion Ring can take an entry. -/
def cqRoom (s : State) (d : Nat) (P : Part) : Bool :=
  let n := valD s 6 0x25 d 0
  n ≠ 0 && (P.cqHead + 1) % n ≠ valD s 6 0x27 d 0

/-- Write an entry into the Completion Ring. -/
def cqWrite (s : State) (d : Nat) (e : List W64) : State :=
  match partOf s d with
  | none => s
  | some P =>
    let s1 := writeT1 s d (valD s 6 0x24 d 0 + 32 * P.cqHead) (wordBytes e)
    updPart s1 d (fun P => { P with cqHead := (P.cqHead + 1) % Nat.max (valD s 6 0x25 d 0) 1 })

/-- Hand an entry to the ring, the backlog, or the drop of R237. -/
def cqPut (s : State) (d : Nat) (e : Compl) : State :=
  match partOf s d with
  | none => s
  | some P =>
    if P.backlog.isEmpty && cqRoom s d P then cqWrite s d e.words
    else if P.backlog.length < 32768 then
      bumpD (updPart s d (fun P => { P with backlog := P.backlog ++ [e] })) Cnt.cqBacklog d 1
    else bumpD s Cnt.reqLost d 1

/-- Drain the backlog, oldest first, as far as there is room. -/
def cqDrainAux (d : Nat) : List Compl → State → State
  | [], s => updPart s d (fun P => { P with backlog := [] })
  | e :: t, s =>
    match partOf s d with
    | none => s
    | some P => if cqRoom s d P then cqDrainAux d t (cqWrite s d e.words) else updPart s d (fun P => { P with backlog := e :: t })

def cqDrain (s : State) (d : Nat) : State :=
  match partOf s d with
  | none => s
  | some P => cqDrainAux d P.backlog s

/-- Rows of a context in a manifest, as host rows. -/
def ctxRows (m : Man) (c : Nat) : List Nat := (manRows m).filter (fun i => ((m.rows[i]?).bind (·.ctx)) == some c)

/-- The completion of one context (R235, R236): `m` the manifest of the step just ended, if any. -/
def completeCtx (s : State) (d step : Nat) (m : Option Man) (c : Nat) : State :=
  match partOf s d with
  | none => s
  | some P =>
    let rows := match m with | some m => ctxRows m c | none => []
    let fl (i : Nat) : Nat := P.flags.getD i 0
    let ev := (P.events.find? c).getD { event := 0 }
    let flags := rows.foldl (fun a i => a ||| fl i) ev.flags
    let x := ctxOf s c
    let target := match x with | some x => bindStreams P x.bind | none => false
    let rtag := match x with | some x => x.rtag | none => ev.rtag
    let pos := match x with | some x => x.pos | none => ev.pos
    let code := if ev.event = 6 then ev.code else if ev.event = 1 && ev.code ≠ 0 then ev.code else if ev.event = 8 then ev.code else principal flags target
    let rows := if ev.event = 8 then [] else rows
    let words := complWords rtag step (some c) c ev.event code flags rows.length pos ((rows.filter (fun i => fl i != 0)).length)
    if ev.event = 0 && flags = 0 && valD s 6 0x35 d 0 = 1 then s else cqPut s d { ctx := some c, words := words }

/-- The completion of the rows of one CREF. -/
def completeCref (s : State) (d step : Nat) (m : Man) (cref : Nat) : State :=
  match partOf s d with
  | none => s
  | some P =>
    let rows := (manRows m).filter (fun i =>
      match m.rows[i]? with
      | some r => r.kind != 3 && r.ctx.isNone && ((m.descs[r.desc]?).map (·.cref)) == some cref
      | none => false)
    let fl (i : Nat) : Nat := P.flags.getD i 0
    let flags := rows.foldl (fun a i => a ||| fl i) 0
    let words := complWords (w64 cref) step none 0 0 (principal flags false) flags rows.length 0 ((rows.filter (fun i => fl i != 0)).length)
    if flags = 0 && valD s 6 0x35 d 0 = 1 then s else cqPut s d { ctx := none, words := words }

/-- Every completion of a boundary, or of a request applied while no step is in progress: the backlog drains first,
then contexts ascending, then CREFs ascending (R235, R237). -/
def completions (s : State) (d step : Nat) (m : Option Man) : State :=
  match partOf s d with
  | none => s
  | some P =>
    let withRows := match m with | some m => m.rows.filterMap (fun r => r.ctx) | none => []
    let cs := ascending (withRows ++ P.events.keys)
    let crefs := match m with
      | some m => ascending (m.rows.filterMap (fun r => if r.kind = 3 || r.ctx.isSome then none else (m.descs[r.desc]?).map (·.cref)))
      | none => []
    let s1 := forEach cs (cqDrain s d) (fun s c => completeCtx s d step m c)
    let s2 := match m with | some m => forEach crefs s1 (fun s r => completeCref s d step m r) | none => s1
    updPart s2 d (fun P => { P with events := [] })

/-- A REFUSED completion (R227, R237). -/
def refuseEntry (s : State) (d code idx : Nat) (rtag : W64) (ctx : Option Nat) (num : Nat) : State :=
  match partOf s d with
  | none => s
  | some P => cqPut s d { ctx := ctx, words := complWords rtag P.step ctx num 7 code 0 0 idx 0 }

/-! ## Transitions (Table CTX-2) -/

/-- No step is in progress (R436). -/
def idle (P : Part) : Bool := !P.inStep

/-- A context is freed with its completion. -/
def endCtx (s : State) (d c event code flags : Nat) : State := freeCtx (noteEvent s d c event code flags) c

/-- PAUSED. -/
def pauseCtx (s : State) (d c : Nat) (emberNow : Bool) : State :=
  let (t, s1) := takeTime s
  noteEvent (updCtx s1 c (fun x => { x with st := .paused, tmark := t, emberDue := emberNow })) d c 2 0 0

/-- The last position of the rows that a context next asks for (R228): of its chunk, of its row, or of its tree. -/
def nextLast (s : State) (d c : Nat) (x : Ctx) : Nat :=
  if !x.phase then x.pos + Nat.min x.pend (valD s 6 0x30 d 512) - 1
  else if x.spec then x.pos + maxBy (List.range (x.tnodes + 1)) (tplDepth (ctxTpl s d c))
  else x.pos

/-- The rows that a context next asks for lie within 2,048 pages. -/
def kvRoom (s : State) (d c : Nat) (x : Ctx) : Bool := decide (nextLast s d c x / Nat.max (pageTokens s d) 1 < 2048)

/-- A READY context whose next position needs more than 2,048 pages ends with `KV_LIMIT` (Table CTX-2); the position is taken as the
last that it next asks for (DEDUCED, notes/assumptions/126.md). -/
def kvEnd (s : State) (d c : Nat) : State :=
  match ctxOf s c with
  | some x => if x.st == .ready && !kvRoom s d c x then endCtx s d c 1 Code.kvLimit 0 else s
  | none => s

/-- The APPEND of a PAUSED context: READY again. -/
def appendCtx (s : State) (c ntok : Nat) (dl : Option W64) : State :=
  match ctxOf s c with
  | none => s
  | some x =>
    let (a, s1) := match partOf s x.part with
      | some P => (P.arrseq, updPart s x.part (fun P => { P with arrseq := P.arrseq + 1 }))
      | none => (0, s)
    updCtx s1 c (fun x => { x with st := .ready, phase := false, pend := ntok, arrseq := a, deferred := 0, dlValid := false,
                                   deadline := dl.getD x.deadline, emberDue := false })

/-- R242: a PAUSED context becomes an Ember where no adoption entry and no open tree stand in the way. -/
def emberEnter (s : State) (d c : Nat) : State :=
  match ctxOf s c, partOf s d with
  | some x, some _ =>
    if x.st != .paused || !x.adopts.isEmpty || !x.tree.isEmpty then s
    else
      let (t, s1) := takeTime s
      let s2 := updCtx s1 c (fun x => { x with st := .ember, tmark := t + valD s 6 0x41 d 0, embering := true, emberDue := false })
      forEach (List.range x.npage) s2 (fun s i =>
        match partOf s d with
        | none => s
        | some P =>
          match nextFrame s d 1 P with
          | none => bumpD s Cnt.emberNospace d 1
          | some f => updCtx (takeFrame s d 1 f) c (fun x => { x with copies := x.copies ++ [{ page := i, tier := 1, frame := f, copied := false }] }))
  | _, _ => s

/-- R243: an Ember wakes; its pages in T2 are copied back to the T1 pool, as far as it has frames. It keeps its ARRSEQ. -/
def wakeCtx (s : State) (d c ntok : Nat) (dl : Option W64) : State :=
  match ctxOf s c with
  | none => s
  | some x =>
    let s0 := forEach x.copies s (fun s p => freeFrame s d p.tier p.frame)
    let s2 := updCtx s0 c (fun x => { x with st := .waking, pend := ntok, deadline := dl.getD x.deadline, copies := [], embering := false, emberDue := false })
    forEach (List.range x.npage) s2 (fun s i =>
      if fld (pageWord s x i) 62 61 = 1 then
        (match partOf s d with
         | none => s
         | some P =>
           match wakeFrame s d P with
           | none => s
           | some f => updCtx (takeFrame s d 0 f) c (fun x => { x with copies := x.copies ++ [{ page := i, tier := 0, frame := f, copied := false }] }))
      else s)

/-- Page copies that have ended switch (R242, R243): the entry names the new frame and the old one is freed. -/
def pagesSwitch (s : State) (d c : Nat) : State :=
  match ctxOf s c with
  | none => s
  | some x =>
    forEach (x.copies.filter (·.copied)) s (fun s p =>
      match ctxOf s c with
      | none => s
      | some x =>
        match dirIndex x p.page with
        | none => s
        | some k =>
          let (ok, of') := wordFrame s d (s.pgdir.getD k 0)
          let (port, addr) := framePlace s d p.tier p.frame
          updCtx (freeFrame { s with pgdir := s.pgdir.set 0 k (dirWord p.tier port addr) } d ok of') c
            (fun x => { x with copies := x.copies.filter (fun q => q.page != p.page) }))

/-- A waking context whose pages are not yet asked for gets frames as they come free. -/
def wakeMore (s : State) (d c : Nat) : State :=
  match ctxOf s c with
  | none => s
  | some x =>
    if x.st != .waking then s
    else forEach (List.range x.npage) s (fun s i =>
      match ctxOf s c, partOf s d with
      | some x, some P =>
        if fld (pageWord s x i) 62 61 = 1 && !x.copies.any (fun q => q.page == i) then
          (match wakeFrame s d P with
           | some f => updCtx (takeFrame s d 0 f) c (fun x => { x with copies := x.copies ++ [{ page := i, tier := 0, frame := f, copied := false }] })
           | none => s)
        else s
      | _, _ => s)

/-- The ends of Embers' and wakes' page moves at a boundary. -/
def pagesDue (s : State) (d c : Nat) : State :=
  let s1 := wakeMore (pagesSwitch s d c) d c
  match ctxOf s1 c with
  | none => s1
  | some x =>
    if x.st == .ember && x.embering && x.copies.isEmpty then noteEvent (updCtx s1 c (fun x => { x with embering := false })) d c 3 0 0
    else if x.st == .waking && (List.range x.npage).all (fun i => fld (pageWord s1 x i) 62 61 == 0) then
      noteEvent (updCtx s1 c (fun x => { x with st := .ready, phase := false, deferred := 0, dlValid := false, copies := [] })) d c 4 0 0
    else s1

/-- Apply a request of the ring to the state the boundary has left (R225, R437); the words are those of Table CTX-3. -/
def applyRequest (s : State) (d op c : Nat) (w : List W64) : State :=
  match ctxOf s c with
  | none => s
  | some x =>
    let w0 := (w.getD 0 0).toNat
    let ntok := fld (w.getD 3 0).toNat 63 40
    let dl : Option W64 := if bitOf w0 40 then some (w.getD 2 0) else none
    match op, x.st with
    | 2, .paused => appendCtx s c ntok dl
    | 2, .ember => wakeCtx s d c ntok dl
    | 3, .ready => pauseCtx s d c (bitOf w0 41)
    | 4, _ => endCtx s d c 6 0 0
    | _, _ => s

/-- A CTX_REBIND takes effect: the binding is replaced, and an UNFIT context is READY again (R59, Table CTX-2). -/
def applyRebind (s : State) (d : Nat) (i : Inst) : State :=
  let c := i.arg 0 % 2 ^ 14
  match ctxOf s c with
  | none => refuse s i (some d) Code.ctxState
  | some x =>
    let b := (i.args.drop 1).take 5
    let s1 :=
      if x.st == .unfit then
        (let a := ((partOf s d).map (·.arrseq)).getD 0
         updCtx (updPart s d (fun P => { P with arrseq := P.arrseq + 1 })) c
           (fun x => { x with bind := b, st := .ready, arrseq := a, deferred := 0, dlValid := false }))
      else updCtx s c (fun x => { x with bind := b })
    finish s1 i (some d) Code.ok 0 0

/-- Requests and rebindings due at the boundary of `d`, in the order in which they were read or accepted (R437 step 2);
those that wait for a later boundary come one nearer. -/
def requestsDue (s : State) (d : Nat) : State :=
  match partOf s d with
  | none => s
  | some P =>
    let reqs := P.rqWait.filter (fun r => decide (r.wait ≤ 1))
    let insts := s.od.insts.filter (fun i => i.area == 3 && i.item == 0x12 && i.st == .pending && i.part == d && decide (i.wait ≤ 1))
    let s1 := updPart s d (fun P => { P with rqWait := (P.rqWait.filter (fun r => decide (1 < r.wait))).map (fun r => { r with wait := r.wait - 1 }) })
    let s2 := { s1 with od := { s1.od with insts := s1.od.insts.map (fun i =>
      if i.area = 3 && i.item = 0x12 && i.st = .pending && i.part = d && decide (1 < i.wait) then { i with wait := i.wait - 1 } else i) } }
    let l : List (Nat × Option RqWait × Option Inst) :=
      reqs.map (fun r => (r.order, some r, none)) ++ insts.map (fun i => (i.aux, none, some i))
    forEach (sortBy (fun x => x.1) l) s2 (fun s x =>
      match x.2.1, x.2.2 with
      | some r, _ => applyRequest s d r.op r.ctx r.words
      | _, some i => applyRebind s d i
      | _, _ => s)

/-! ## Trees (R245) -/

/-- Drop the nodes whose parent is not in the set, in ascending node order. -/
def dropOrphans (t : List Nat) (n set : Nat) : Nat :=
  (List.range n).foldl (fun a i => if bitOf set i && (i == 0 || bitOf a (t.getD i 0)) then a ||| 2 ^ i else a) 0

/-- Of accepted nodes that share a parent keep the lowest, dropping the others with their descendants. -/
def keepPath (t : List Nat) (n set : Nat) : Nat :=
  (List.range n).foldl (fun a i =>
    if bitOf set i && (i == 0 || (bitOf a (t.getD i 0) && !(List.range i).any (fun j => j != 0 && bitOf a j && t.getD j 0 == t.getD i 0)))
    then a ||| 2 ^ i else a) 0

/-- The nodes of a set, ascending. -/
def nodesOf (n set : Nat) : List Nat := (List.range n).filter (fun i => bitOf set i)

/-- R245 at the boundary that ends a step: the path, its adoption, the rejected slots and the position. -/
def treeAccept (s : State) (d c mask : Nat) : State :=
  match ctxOf s c with
  | none => s
  | some x =>
    let t := ctxTpl s d c
    let n := x.tnodes + 1
    let m0 := mask % 2 ^ n
    let m1 := m0 ||| 1
    let m2 := keepPath t n (dropOrphans t n m1)
    let path := nodesOf n m2
    let s0 := if m2 = m0 then s else bumpD s Cnt.treeBadpath d 1
    let s1 := bumpD (bumpD s0 Cnt.treeAccept d path.length) Cnt.treeReject d (n - path.length)
    let s2 := forEach x.tree s1 (fun s e => if path.contains e.1 then s else freeFrame s d 2 e.2)
    let ad := (List.zip (List.range path.length) path).filterMap (fun k => (x.tree.find? k.2).map (fun f => ({ pos := x.pos + k.1, pslot := f, copied := false, age := 0 } : Adopt)))
    updCtx s2 c (fun x => { x with tree := [], adopts := x.adopts ++ ad, pos := x.pos + path.length })

/-- Adoption entries whose copy has ended are removed, and their slots freed. -/
def adoptsFree (s : State) (d c : Nat) : State :=
  match ctxOf s c with
  | none => s
  | some x =>
    updCtx (forEach (x.adopts.filter (·.copied)) s (fun s a => freeFrame s d 2 a.pslot)) c
      (fun x => { x with adopts := x.adopts.filter (fun a => !a.copied) })

/-- At a boundary the entries that stay have seen one more. -/
def adoptsDue (s : State) (d c : Nat) : State :=
  updCtx (adoptsFree s d c) c (fun x => { x with adopts := x.adopts.map (fun a => { a with age := a.age + 1 }) })

end Sys2Proof.Machine
end

