-- ==== Sys2Proof/Machine/TrainOps.lean ====
section
/-! DEFINITION. Training (R193 to R222): attachments and their refusals, log state and its layout, the operands kept
for the weight gradients, the reductions, the two passes of the update, re-charring, the touched list, the Holding Pen
and the Export Ring. -/

namespace Sys2Proof.Machine

/-! ## Attachment descriptors (Table TRAIN-1) -/

def attWord (w : List W64) (i hi lo : Nat) : Nat := fld (w.getD i 0).toNat hi lo
def attKind (w : List W64) : Nat := attWord w 0 63 62
def attId (w : List W64) : Nat := attWord w 0 61 38
def attPq (w : List W64) : Bool := attWord w 0 37 37 == 1
def attGroup (w : List W64) : Nat := attWord w 0 36 31
def attOpt (w : List W64) : Nat := attWord w 0 30 29
def attM2Bf16 (w : List W64) : Bool := attWord w 0 28 28 == 1
/-- Bit `t` of the trained tensors: A, B, C, s, β as 0 to 4. -/
def attTrains (w : List W64) (t : Nat) : Bool := bitOf (attWord w 0 27 23) (4 - t)
def attInit (w : List W64) : Bool := attWord w 0 22 22 == 1
def attLog (w : List W64) : Nat := attWord w 1 63 44
def attChar (w : List W64) (b : Nat) : Nat := if b = 0 then attWord w 1 43 24 else attWord w 1 23 4
def attSalt (w : List W64) : Nat := attWord w 2 63 40

/-- The attachment of an adapter, or of a physical table, that is in effect. -/
def attOf (P : Part) (kind id : Nat) (q : Bool) : Option (Nat × Attach) :=
  List.find? (fun (e : Nat × Attach) => attKind e.2.desc == kind && attId e.2.desc == id && (kind == 0 || attPq e.2.desc == q)) P.train.atts

/-- An adapter is attached or about to be (R194). -/
def adapterAttached (P : Part) (id : Nat) : Bool := (attOf P 0 id false).isSome

/-- A binding that pins a generation of an attached adapter (R194). -/
def pinsAttached (P : Part) (b : List W64) : Bool := (bindSlots b).any (fun x => x.2.2 != 0xFFFF && adapterAttached P x.2.1)

/-! ## Tensors of a section -/

/-- The section holds tensor `t`. -/
def sectHas (e : Sect) (t : Nat) : Bool := if t < 2 then e.hasF else if t = 2 then e.hasK else if t = 3 then e.hasS else e.bias

/-- Columns and reduction length of a tensor; a vector is one column. -/
def tensorDims (e : Sect) (t : Nat) : Nat × Nat :=
  if t = 0 then (e.r, e.din) else if t = 1 then (e.dout, e.r) else if t = 2 then (e.k, e.k) else (1, e.dout)

def tensorElems (e : Sect) (t : Nat) : Nat := (tensorDims e t).1 * (tensorDims e t).2

/-- Format code of a tensor's char (R212). -/
def charFmt (e : Sect) (t : Nat) : Nat := if t < 2 then e.ffmt else if t = 2 then e.kfmt else if e.sBf16 then 0 else 0xA

/-- Where a tensor lies in its section. -/
def charOff (e : Sect) (t : Nat) : Nat := if t = 0 then 0 else if t = 1 then offB e else if t = 2 then offC e else if t = 3 then offS e else offBeta e

/-- The trained tensors of a section under an attachment, in the order A, B, C, s, β. -/
def trainedOf (w : List W64) (e : Sect) : List Nat := [0, 1, 2, 3, 4].filter (fun t => attTrains w t && sectHas e t)

/-- The variant a tensor uses: a vector uses FULL in a FACT group (R209). -/
def optOf (w : List W64) (t : Nat) : Nat := if attOpt w = 2 && (3 ≤ t || attKind w = 1) then 1 else attOpt w

/-- The planes of one item's state after its log plane of `n` elements: bytes of M1, and of M2 or of φ and ψ. -/
def momentBytes (w : List W64) (t n c m : Nat) : Nat × Nat × Nat :=
  match optOf w t with
  | 1 => (a64 (4 * n), a64 ((if attM2Bf16 w then 2 else 4) * n), 0)
  | 2 => (a64 (4 * n), a64 (4 * m), a64 (4 * c))
  | _ => (a64 (4 * n), 0, 0)

/-- Bytes of a tensor's planes in the log object. -/
def tensorState (w : List W64) (e : Sect) (t : Nat) : Nat :=
  let (c, m) := tensorDims e t
  let (b1, b2, b3) := momentBytes w t (c * m) c m
  a64 (4 * (c * m)) + b1 + b2 + b3

/-- Bytes of a section's state with its header (R210). -/
def sectState (w : List W64) (e : Sect) : Nat := 64 + sumBy (trainedOf w e) (tensorState w e)

/-- Where the state of section `i` begins in the log object. -/
def sectStateOff (w : List W64) (sects : List Sect) (i : Nat) : Nat := sumBy (sects.take i) (sectState w)

/-- Where the planes of tensor `t` begin after the section's header. -/
def tensorStateOff (w : List W64) (e : Sect) (t : Nat) : Nat := 64 + sumBy ((trainedOf w e).filter (fun x => decide (x < t))) (tensorState w e)

/-- Bytes of a trait row's side state: the log plane unless the row is its own log, and its moments. -/
def rowState (w d : List W64) : Nat :=
  let n := tblElems d
  let (b1, b2, _) := momentBytes w 0 n 1 n
  (if tblRfmt d = 0 then 0 else a64 (4 * n)) + b1 + b2

/-! ## Attaching (R193, R194) -/

/-- The object behind a handle is a T1 object of at least `n` bytes. -/
def t1Object (s : State) (d h n : Nat) : Bool := match objOf s d h with | some o => o.home == 1 && decide (n ≤ o.bytes) | none => false

/-- Image bytes of a generation, with its tag block where it is sealed. -/
def imageBytes (g : AGen) : Nat :=
  maxBy g.sects (fun e => e.poff + e.plen) + (if g.sealed then 64 else 0)

/-- Table TRAIN-2: 0 or the code. -/
def attachCode (s : State) (d p : Nat) (P : Part) (w : List W64) (bytes : List Byte) : Nat :=
  let a := P.adpts.getD (attId w) {}
  let sects := (a.cur.map (·.sects)).getD []
  let sealed' := (a.cur.map (·.sealed)).getD false
  let td := (P.traits.tbls.find? (attId w)).map (·.desc)
  if attWord w 7 63 32 ≠ crc32 (bytes.take 60) || attWord w 0 21 0 ≠ 0 || attWord w 1 3 0 ≠ 0 || attWord w 2 39 0 ≠ 0 ||
      ([3, 4, 5, 6].any (fun i => (w.getD i 0) != 0)) || attWord w 7 31 0 ≠ 0 || 1 < attKind w || attOpt w = 3 ||
      (attKind w = 1 && 64 ≤ attId w) then Code.imageBad
  else if !cfgTrain s then Code.optionAbsent
  else if !(if attKind w = 0 then P.modes.trainAdpt else P.modes.trainTrait) || 4096 ≤ P.train.atts.length then Code.limitRange
  else if attKind w = 0 && !(t1Object s d (attLog w) (sumBy sects (sectState w)) &&
      t1Object s d (attChar w 0) ((a.cur.map imageBytes).getD 0) && t1Object s d (attChar w 1) ((a.cur.map imageBytes).getD 0)) then Code.limitRange
  else if attKind w = 1 && !(match td with
      | some t => t1Object s d (attLog w) (rowState w t * tblRows t (attPq w)) && (64 ≤ tblOsb t)
      | none => t1Object s d (attLog w) 0) then Code.limitRange
  else if (if attKind w = 0 then a.cur.isNone else td.isNone) then Code.adapterAbsent
  else if attKind w = 0 && (bindingsOf s d P).any (fun b => (bindSlots b).any (fun x => x.2.1 == attId w && x.2.2 != 0xFFFF)) then Code.genPinned
  else if (attOf P (attKind w) (attId w) (attPq w)).isSome || (attKind w = 0 && a.next.isSome) then Code.adapterBusy
  else if attKind w = 0 && [0, 1, 2, 3, 4].any (fun t => attTrains w t && !sects.any (fun e => sectHas e t)) then Code.shapeMismatch
  else if valP s 5 0x26 p d = 0 && (attKind w = 1 || attTrains w 3 || attTrains w 4) then Code.trainNeedsY
  else if attKind w = 0 && (sealed' != (attSalt w != 0)) then Code.limitRange
  else Code.ok

/-! ## Encoding and decoding planes -/

/-- Pack elements of `b` bits, lowest first. -/
def packElems (b : Nat) (l : List Nat) : Nat := l.foldr (fun x n => x + n * 2 ^ b) 0

/-- One column in a char format by round-to-nearest-even: elements, scales, census (R25, R212). -/
def encodeCol (code : Nat) (vs : List Nat) : List Nat × List Nat × Census :=
  match fmtOf code with
  | some (.flt f) =>
    let rs := vs.map (fun v => f.round .rne (in32 v).1)
    (rs.map Prod.fst, [], rs.foldl (fun k r => k.add { sat := if r.2 then 1 else 0 }) {})
  | some (.mx f) =>
    (chunks 32 (padTo (p32 vs.length) vs)).foldl (fun (es, ss, k) b =>
      let (sc, e, c) := f.convBlock (b.map (fun v => ((in32 v).1, Rnd.rne)))
      (es ++ e, ss ++ [sc], k.add c)) ([], [], {})
  | _ => (vs, [], {})

/-- The stored bytes of a tensor of columns of length `m`: element plane, then scale plane (R24). -/
def encodeTensor (code m : Nat) (vs : List Nat) : List Byte × Census :=
  let cols := (chunks m vs).map (encodeCol code)
  let b := elemBits code
  let es := cols.flatMap (·.1)
  let sc := cols.flatMap (fun c => c.2.1)
  let plane := leBytes (a64 (es.length * b / 8)) (packElems b es)
  (plane ++ (if sc.isEmpty then [] else leBytes (a64 sc.length) (packElems 8 sc)), cols.foldl (fun k c => k.add c.2.2) {})

/-- The values of a stored tensor widened to FP32. -/
def decodeTensor (code c m : Nat) (payload : Nat) : List Nat :=
  (List.range c).flatMap (fun j => (List.range m).map (fun i => (rnd32 (tensorElem code m payload 0 c j i).1).1))

/-- FP32 planes. -/
def plane32 (vs : List Nat) : List Byte := leBytes (a64 (4 * vs.length)) (packElems 32 vs)
def read32 (bs : List Byte) (n : Nat) : List Nat := let w := leNat bs; (List.range n).map (fun i => elemAt w 32 i)

/-! ## Sealed state (R214) -/

/-- The nonce of a message that Penra writes. -/
def penNonce (kind salt run step sect : Nat) : Nat := kind * 2 ^ 94 + salt * 2 ^ 70 + run * 2 ^ 54 + step % 2 ^ 40 * 2 ^ 14 + sect * 4

/-- Encrypt or decrypt bytes at offset `off` of a message. -/
def sealCrypt (s : State) (keyid nonce off : Nat) (bs : List Byte) : List Byte :=
  (ctrCrypt (deriveKey (rootKey s) keyid) (nonceBytes nonce) (2 + off / 16) (byteNats bs)).map (BitVec.ofNat 8)

/-- The stored bytes of a section's state, header first. -/
def sectRaw (s : State) (d : Nat) (a : Attach) (g : AGen) (i : Nat) (e : Sect) : List Byte :=
  objBytes s d (attLog a.desc) (sectStateOff a.desc g.sects i) (sectState a.desc e)

/-- The nonce of a stored section state: the step is in its header, the run is kept (notes/assumptions/123.md). -/
def sectNonce (a : Attach) (i : Nat) (raw : List Byte) : Nat :=
  penNonce 2 (attSalt a.desc) (a.sruns.getD i 0) (fld (leNat (raw.take 8)) 63 24) i

/-- The state of a section as plaintext, header first. -/
def sectStateBytes (s : State) (d : Nat) (a : Attach) (g : AGen) (i : Nat) (e : Sect) : List Byte :=
  let raw := sectRaw s d a g i e
  if g.sealed then raw.take 64 ++ sealCrypt s g.keyid (sectNonce a i raw) 0 (raw.drop 64) else raw

/-- The tag of a message's ciphertext. -/
def sealTag (s : State) (keyid nonce : Nat) (aad ct : List Byte) : List Byte :=
  (gcmTag (deriveKey (rootKey s) keyid) (nonceBytes nonce) (byteNats aad) (byteNats ct)).map (BitVec.ofNat 8)

/-- The tag in a section's header verifies; an unsealed section has none (R214). -/
def sectStateOk (s : State) (d : Nat) (a : Attach) (g : AGen) (i : Nat) (e : Sect) : Bool :=
  let raw := sectRaw s d a g i e
  !g.sealed || sealTag s g.keyid (sectNonce a i raw) [] (raw.drop 64) == (raw.drop 48).take 16

/-- The run under which a section's state is written is kept with the attachment. -/
def setSectRun (s : State) (d n i run : Nat) : State :=
  updPart s d (fun P => { P with train := { P.train with atts := P.train.atts.upd n (fun a => { a with sruns := a.sruns.put i run }) } })

/-- Write the whole state of a section: sealed under its own nonce, with its tag in the header. `n` is the attachment's number. -/
def sectStateWrite (s : State) (d n : Nat) (a : Attach) (g : AGen) (i step : Nat) (plain : List Byte) : State :=
  let off := sectStateOff a.desc g.sects i
  if g.sealed then
    let nonce := penNonce 2 (attSalt a.desc) a.run step i
    let ct := sealCrypt s g.keyid nonce 0 (plain.drop 64)
    setSectRun (objWrite s d (attLog a.desc) off ((plain.take 48) ++ sealTag s g.keyid nonce [] ct ++ ct)) d n i a.run
  else objWrite s d (attLog a.desc) off plain

/-- Replace bytes at an offset. -/
def spliceBytes (l : List Byte) (off : Nat) (x : List Byte) : List Byte := l.take off ++ x ++ l.drop (off + x.length)

/-- A state header (Table TRAIN-7). -/
def stateHeader (lastStep cnt : Nat) : List Byte := leBytes 8 (lastStep % 2 ^ 40 * 2 ^ 24) ++ leBytes 8 (cnt % 2 ^ 32 * 2 ^ 32) ++ leBytes 48 0
def headerStep (h : List Byte) : Nat := fld (leNat (h.take 8)) 63 24
def headerCnt (h : List Byte) : Nat := fld (leNat ((h.drop 8).take 8)) 63 32

/-- INIT = 1: log planes from the current char, moments and headers zero (R194). A row that is redirected to a shadow slot is read and
its header zeroed there (R190). `k` is the attachment's number. -/
def attachInit (s : State) (d k : Nat) (P : Part) (a : Attach) : State :=
  if attKind a.desc = 0 then
    match (P.adpts.getD (attId a.desc) {}).cur with
    | none => s
    | some g =>
      forEach (List.zip (List.range g.sects.length) g.sects) s (fun s ie =>
        let pay := leNat (sectPayload s d g ie.2)
        let planes := (trainedOf a.desc ie.2).flatMap (fun t =>
          let (c, m) := tensorDims ie.2 t
          let v := decodeTensor (charFmt ie.2 t) c m (pay >>> (8 * charOff ie.2 t))
          plane32 v ++ List.replicate (tensorState a.desc ie.2 t - a64 (4 * (c * m))) 0)
        sectStateWrite s d k a g ie.1 0 (stateHeader 0 0 ++ planes))
  else
    match P.traits.tbls.find? (attId a.desc) with
    | none => s
    | some t =>
      let n := tblElems t.desc
      let q := attPq a.desc
      forEach (List.range (tblRows t.desc q)) s (fun s i =>
        let row := rowBytes s d P (2 ^ 40) (attId a.desc) q i
        let v := (List.range n).map (fun j => (rowElem t.desc (leNat row) j).1)
        let side := (if tblRfmt t.desc = 0 then [] else plane32 v) ++ List.replicate (rowState a.desc t.desc - (if tblRfmt t.desc = 0 then 0 else a64 (4 * n))) 0
        rowWrite (objWrite s d (attLog a.desc) (i * rowState a.desc t.desc) side) d P (2 ^ 40) (attId a.desc) q i
          (spliceBytes row (tblRowBytes t.desc) (stateHeader 0 0)))

def updTrain (s : State) (d : Nat) (f : Train → Train) : State := updPart s d (fun P => { P with train := f P.train })

/-! ## What a step's rows need (R203) -/

/-- Bytes of an interstage vector of `n` elements. -/
def interBytes (bf : Bool) (n : Nat) : Nat := if bf then a64 (2 * n) else a64 n + a64 (n / 32 + 1)

/-- The trained terms of a row at a target: binding slot, section, trained tensors. -/
def trainedTerms (P : Part) (b : List W64) (layer slot : Nat) : List (Nat × Sect × List Nat) :=
  (termSects P b layer slot).filterMap (fun x =>
    (attOf P 0 x.2.1 false).map (fun a => (x.1, x.2.2.2.2, trainedOf a.2.desc x.2.2.2.2)))

/-- An operand that the passes keep of a term: binding slot, class, and which of the term's two. -/
def termCode (slot cls what : Nat) : Nat := slot * 4 + cls * 2 + what

/-- What the forward pass keeps of a row at a target, with its bytes (R200): h′ of each trained term. -/
def saveVecs (P : Part) (b : List W64) (layer slot : Nat) : List (Nat × Nat) :=
  (trainedTerms P b layer slot).flatMap (fun x =>
    (if x.2.2.any (· < 2) then [(termCode x.1 0 0, interBytes x.2.1.isBf16 x.2.1.r)] else []) ++
      (if x.2.2.contains 2 then [(termCode x.1 1 0, interBytes x.2.1.isBf16 x.2.1.k)] else []))

/-- What the backward pass keeps of a row at a target, with its bytes (R200): x (32), t, ĝ or t₂ of each trained term, and G and y
(33, 34) for a trained s or β. -/
def stashVecs (P : Part) (b : List W64) (layer slot : Nat) : List (Nat × Nat) :=
  let l := trainedTerms P b layer slot
  let bf (n : Nat) : Nat := a64 (2 * n)
  (match l.find? (fun x => x.2.2.contains 0) with | some x => [(32, bf x.2.1.din)] | none => []) ++
    l.flatMap (fun x =>
      (if x.2.2.contains 0 then [(termCode x.1 0 1, bf x.2.1.r)] else []) ++
        (if x.2.2.contains 1 then [(termCode x.1 0 0, bf x.2.1.dout)] else []) ++
        (if x.2.2.contains 2 then [(termCode x.1 1 1, bf x.2.1.k)] else [])) ++
    (match l.find? (fun x => x.2.2.any (fun t => decide (3 ≤ t))) with
     | some x => [(33, bf x.2.1.dout), (34, bf x.2.1.dout)]
     | none => [])

/-- Where a kept vector of row `i` at target `t` lies in its half: targets in order, rows in host row order, vectors in the order that
`f` lists them (DESIGN CHOICE, notes/assumptions/122.md). -/
def vecPlace (f : Tgt → Nat → List (Nat × Nat)) (rows : List Nat) (ts : List Tgt) (t : Tgt) (i what : Nat) : Nat :=
  let size (t : Tgt) (i : Nat) : Nat := sumBy (f t i) (·.2)
  sumBy (ts.takeWhile (fun x => x != t)) (fun x => sumBy rows (size x)) + sumBy (rows.takeWhile (fun x => x != i)) (size t) +
    sumBy ((f t i).takeWhile (fun v => v.1 != what)) (·.2)

/-- The start of half `n mod 2` of one of the training objects (R203). -/
def halfOff (s : State) (d item n : Nat) : Nat := n % 2 * (((objOf s d (valD s 5 item d none20)).map (fun o => o.bytes / 2)).getD 0)

/-- The items of a step: every trained tensor of every attached section, and every touched row of an attached table,
in key order (R206). -/
def itemOrd (it : Item) : Nat :=
  it.group * 2 ^ 60 + (if it.trait then 2 ^ 59 + (it.id * 2 + (if it.q then 1 else 0)) * 2 ^ 32 + it.row
    else ((it.id * 256 + it.layer) * 16 + it.slot) * 8 + it.tensor)

def stepItems (P : Part) (rows : List (Nat × Nat × Nat)) : List Item :=
  sortBy itemOrd (P.train.atts.flatMap (fun e =>
    if e.2.wait ≠ 0 then []
    else if attKind e.2.desc = 0 then
      (((P.adpts.getD (attId e.2.desc) {}).cur.map (·.sects)).getD []).flatMap (fun x =>
        (trainedOf e.2.desc x).map (fun t =>
          ({ att := e.1, trait := false, group := attGroup e.2.desc, id := attId e.2.desc, layer := x.layer, slot := x.slot, tensor := t, q := false, row := 0 } : Item)))
    else rows.filterMap (fun r =>
      if r.1 = attId e.2.desc && (r.2.1 == 1) == attPq e.2.desc then
        some ({ att := e.1, trait := true, group := attGroup e.2.desc, id := r.1, layer := 0, slot := 0, tensor := 0, q := attPq e.2.desc, row := r.2.2 } : Item)
      else none)))

/-- The gradient elements of an item. -/
def itemElems (P : Part) (it : Item) : Nat :=
  if it.trait then ((P.traits.tbls.find? it.id).map (fun t => tblElems t.desc)).getD 0
  else ((((P.adpts.getD it.id {}).cur).bind (fun g => g.at it.layer it.slot)).map (fun e => tensorElems e it.tensor)).getD 0

/-- Where the gradient of an item lies in its step's half of the gradient buffer: the items in key order, the accumulators of pooled
rows after them (DESIGN CHOICE, notes/assumptions/122.md). -/
def gradOff (P : Part) (items : List Item) (it : Item) : Nat :=
  sumBy (items.filter (fun x => decide (itemOrd x < itemOrd it))) (fun x => a64 (4 * itemElems P x))

/-- Bytes of the accumulator of a row's pooled term in a unit; 0 without one. -/
def accBytes (P : Part) (m : Man) (u : Bool × Nat × Option Nat) (i : Nat) : Nat :=
  match (unitSlots P u).findSome? (fun t => poolTerm P (rowBind m i) u.2.1 t) with | some w => a64 (4 * poolW w) | none => 0

/-- Where a row's accumulator for unit `idx` of the step lies: after the items, by unit and row. -/
def accOff (P : Part) (m : Man) (items : List Item) (idx i : Nat) : Nat :=
  let us := stepUnits P m.target
  sumBy items (fun x => a64 (4 * itemElems P x)) + sumBy (us.take idx) (fun u => sumBy (manRows m) (accBytes P m u)) +
    (match us[idx]? with | some u => sumBy ((manRows m).takeWhile (fun x => x != i)) (accBytes P m u) | none => 0)

/-- R203 over a manifest: the halves of the save object, the stash, the gradient buffer and the touched list hold the step. -/
def trainFits (s : State) (d : Nat) (P : Part) (m : Man) : Bool :=
  if !training P then true
  else
    let half (item : Nat) : Nat := halfOff s d item 1
    let binds := (manRows m).map (rowBind m)
    let at' (f : List W64 → Nat → Nat → List (Nat × Nat)) (t : Tgt) : Nat := sumBy binds (fun b => sumBy (f b t.layer t.slot) (·.2))
    let save := sumBy P.shape.tgts (at' (saveVecs P))
    let unitStash := (stepUnits P m.target).map (fun u => sumBy ((unitSlots P u).filterMap (fun t => tgtOf P u.2.1 t)) (at' (stashVecs P)))
    let items := stepItems P (if P.modes.trainTrait then indexList s d P m else [])
    let accs := if P.modes.trainTrait then sumBy (stepUnits P m.target) (fun u => sumBy (manRows m) (accBytes P m u)) else 0
    let grad := sumBy items (fun it => a64 (4 * itemElems P it)) + accs
    (!P.modes.trainAdpt || (decide (save ≤ half 0x20) && unitStash.all (fun n => decide (n ≤ half 0x21)))) &&
      decide (grad ≤ half 0x22) && decide (16 * items.length + 1024 ≤ half 0x24)

/-! ## What the passes keep (R200) -/

/-- The key of a saved or stashed operand of a row: `what` as a small number. -/
def trainKey (half layer slot row what : Nat) : Nat := ((((half * 256 + layer) * 16 + slot) * 2 ^ 18 + row) * 64) + what

/-- A tag's part is trained. -/
def tagTrained (P : Part) (t : Tag) : Bool :=
  match attOf P 0 t.id false with
  | some a => if t.cls = 0 then attTrains a.2.desc 0 || attTrains a.2.desc 1 else attTrains a.2.desc 2
  | none => false

/-- BF16 of an FP32 value, as FP32, with its census. -/
def toBfC (v : Nat) : Nat × Census :=
  let r := bf16.round .rne (in32 v).1
  (r.1 * 65536, { sat := if r.2 then 1 else 0 })

def toBf (v : Nat) : Nat := (toBfC v).1

/-- Values with the sum of their censuses. -/
def allC (l : List (Nat × Census)) : List Nat × Census := (l.map Prod.fst, l.foldl (fun k x => k.add x.2) {})

/-- The x row of a window widened to FP32 (R200). -/
def xRow (c : WinCtx) (code i : Nat) : List Nat :=
  (List.range (ceilDiv c.tgt.din 128)).flatMap (fun k =>
    match c.w.panels.find? (fun p => p.num == k) with
    | some pan => ((xBlocks code (pan.rows.getD (i % 256) 0)).1).flatMap (fun b => b.vals.map (fun v => (rnd32 (v.scale b.scale)).1))
    | none => List.replicate 128 0)

/-- A row of G or y, in FP32. -/
def gradRow (c : WinCtx) (buf i : Nat) : List Nat := (List.range c.tgt.dout).map (fun j => (rnd32 (in32 (gradAt c.w buf i j)).1).1)

/-! ## Weight gradients (R198 to R201) -/

/-- The R27 reduction of pairs of FP32 values held as BF16, in panels of 128 tags. -/
def bfDot (xs ys : List Nat) : Nat × Census := tileDot 0 (valBlocks true xs) (valBlocks true ys)

/-- The tags of an adapter part at a target over the whole step, in Segment Sorter order. -/
def stepTags (P : Part) (m : Man) (layer slot id cls : Nat) : List Tag :=
  (targetTags P m layer slot (manRows m)).filter (fun t => t.id == id && t.cls == cls)

/-- A kept operand of a row; +0 for a row under R201. -/
def keptOp (T : Train) (tab : Tab (List Nat)) (key row i : Nat) : Nat := if T.noGrad.contains row then 0 else (tab.getD key []).getD i 0

/-- The gradient of s or β at column `j` of one row, for stored vectors (R198): none where s is 0. -/
def sGradAt (c : WinCtx) (T : Train) (t : Tag) (j : Nat) : Nat × Census × Nat :=
  let h := c.w.key.step % 2
  let k (what : Nat) : Nat := trainKey h c.w.key.layer c.w.key.tslot t.row what
  let g := keptOp T T.stash (k 33) t.row j
  let y := keptOp T T.stash (k 34) t.row j
  let (sv, _) := vecElem t.sect.sBf16 (sectNat c t) (offS t.sect) j
  if sv % 2 ^ 31 = 0 then (0, {}, 1)
  else
    let (b, k1) := match rowBias c t.row j with | some (b, _) => f32Sub y b | none => (y, {})
    let (u, k2) := f32Div b sv
    let (r, k3) := f32Mul g u
    (if T.noGrad.contains t.row then 0 else r, (k1.add k2).add k3, 0)

/-- The gradient of one trained tensor of an adapter at a target, in storage order, with its census and the count of
R198's zeros. -/
def tensorGrad (c : WinCtx) (T : Train) (id tensor : Nat) : List Nat × Census × Nat :=
  let h := c.w.key.step % 2
  let layer := c.w.key.layer
  let slot := c.w.key.tslot
  let k (t : Tag) (what : Nat) : Nat := trainKey h layer slot t.row what
  match ((c.P.adpts.getD id {}).cur).bind (fun g => g.at layer slot) with
  | none => ([], {}, 0)
  | some e =>
    let (cols, m) := tensorDims e tensor
    if tensor < 3 then
      let tags := stepTags c.P c.m layer slot id (if tensor = 2 then 1 else 0)
      let opA (t : Tag) (i : Nat) : Nat :=
        if tensor = 0 then keptOp T T.stash (k t 32) t.row i else toBf (keptOp T T.save (k t (termCode t.slot t.cls 0)) t.row i)
      let opB (t : Tag) (j : Nat) : Nat :=
        keptOp T T.stash (k t (termCode t.slot t.cls (if tensor = 1 then 0 else 1))) t.row j
      let rs := (List.range cols).flatMap (fun j => (List.range m).map (fun i => bfDot (tags.map (fun t => opA t i)) (tags.map (fun t => opB t j))))
      (rs.map Prod.fst, rs.foldl (fun (q : Census) r => q.add r.2) {}, 0)
    else
      let rows := (manRows c.m).flatMap (fun i => (storedS c i).filter (fun t => t.id == id))
      let tags := sortBy (fun t => rowSortKey c.m t.row) rows
      let rs := (List.range m).map (fun j =>
        let vs := tags.map (fun t =>
          if tensor = 4 then (keptOp T T.stash (k t 33) t.row j, ({} : Census), 0) else sGradAt c T t j)
        let (v, q) := panelRule (vs.map (·.1))
        (v, vs.foldl (fun (a : Census) (x : Nat × Census × Nat) => a.add x.2.1) q, sumBy vs (·.2.2)))
      (rs.map (·.1), rs.foldl (fun (q : Census) r => q.add r.2.1) {}, sumBy rs (·.2.2))

/-- The key of an item's gradient in the gradient buffer of a step's half. -/
def gradKey (step : Nat) (it : Item) : Nat := step % 2 * 2 ^ 70 + itemOrd it

/-- The list of a step. -/
def listOf (T : Train) (step : Nat) : Option TList := T.lists.find? (fun l => l.step == step && !l.sweep)
def setList (T : Train) (l : TList) : Train := { T with lists := T.lists.map (fun x => if x.step = l.step && x.sweep == l.sweep then l else x) }

/-- Number of substitutions of Table NUM-4 in a census. -/
def censusTotal (c : Census) : Nat := c.nan + c.inf + c.scaleNan + c.sat + c.clamp

/-- Add substitutions to the census of some groups of a step's list (R207). -/
def censusTo (s : State) (d step : Nat) (gs : List Nat) (n : Nat) : State :=
  if n = 0 || gs.isEmpty then s
  else updTrain s d (fun T => match listOf T step with
    | some l => setList T { l with census := gs.foldl (fun t g => t.set 0 g (t.getD g 0 + n)) l.census }
    | none => T)

/-- The groups that have an item of a step at a target; of one adapter where `id` is given. -/
def tgtGroups (T : Train) (step layer slot : Nat) (id : Option Nat) : List Nat :=
  match listOf T step with
  | some l => ascending ((l.items.filter (fun it => !it.trait && it.layer == layer && it.slot == slot && (id.isNone || id == some it.id))).map (·.group))
  | none => []

/-- Substitutions in computing gradients of some groups: they count for the partition and for the groups (R37, R207). -/
def gradCensus (s : State) (d step : Nat) (gs : List Nat) (k : Census) : State := censusTo (bumpCensus s d k) d step gs (censusTotal k)

/-! ## What the passes write of it (R200) -/

/-- A vector of BF16 values as bytes. -/
def bfPlane (vs : List Nat) : List Byte := leBytes (a64 (2 * vs.length)) (packElems 16 (vs.map (· / 65536)))

/-- Write a kept vector of a row at the window's target to its place in half `n mod 2` of object 5.`item`, where its layout has it. -/
def keepWrite (s : State) (d : Nat) (c : WinCtx) (item n : Nat) (f : List W64 → Nat → Nat → List (Nat × Nat)) (ts : List Tgt)
    (row what : Nat) (bs : List Byte) : State :=
  let at' (t : Tgt) (i : Nat) : List (Nat × Nat) := f (rowBind c.m i) t.layer t.slot
  if (at' c.tgt row).any (fun v => v.1 == what) then
    objWrite s d (valD s 5 item d none20) (halfOff s d item n + vecPlace at' (manRows c.m) ts c.tgt row what) bs
  else s

/-- The forward pass keeps h′ of every trained term, in its interstage format. -/
def keepSave (s : State) (d : Nat) (c : WinCtx) : State :=
  forEach (c.tags.filter (tagTrained c.P)) s (fun s t =>
    let what := termCode t.slot t.cls 0
    let key := trainKey (c.w.key.step % 2) c.w.key.layer c.w.key.tslot t.row what
    let s1 := updTrain s d (fun T => { T with save := T.save.put key (tagVals c.w.inter t) })
    keepWrite s1 d c 0x20 c.w.key.step (saveVecs c.P) c.P.shape.tgts t.row what
      (encodeTensor (if t.sect.isBf16 then 0 else 4) t.cols (tagVals c.w.acc t)).1)

/-- One vector of the stash of a row, in BF16, its roundings counted for the groups of `id`. -/
def keepVec (s : State) (d : Nat) (c : WinCtx) (id : Option Nat) (row what : Nat) (vs : List Nat) : State :=
  let (bs, k) := allC (vs.map toBfC)
  let ts := (unitSlots c.P (true, c.w.key.layer, c.u.slot)).filterMap (tgtOf c.P c.w.key.layer)
  let key := trainKey (c.w.key.step % 2) c.w.key.layer c.w.key.tslot row what
  let s1 := updTrain s d (fun T => { T with stash := T.stash.put key bs })
  let s2 := keepWrite s1 d c 0x21 c.u.idx (stashVecs c.P) ts row what (bfPlane bs)
  gradCensus s2 d c.w.key.step (match partOf s d with
    | some P => tgtGroups P.train c.w.key.step c.w.key.layer c.w.key.tslot id
    | none => []) k

/-- The backward pass keeps the stash of every row with a trained term, and G and y of rows with class S terms. -/
def keepStash (s : State) (d : Nat) (c : WinCtx) (code : Nat) : State :=
  forEach (winRows c.w) s (fun s i =>
    let ts := c.tags.filter (fun t => t.row == i && tagTrained c.P t)
    let s1 := forEach ts s (fun s t =>
      keepVec (keepVec s d c (some t.id) i (termCode t.slot t.cls 0) (ghat c t).1) d c (some t.id) i (termCode t.slot t.cls 1) (tagVals c.w.acc t))
    let s2 := if ts.isEmpty then s1 else keepVec s1 d c none i 32 (xRow c code i)
    if hasS c i then keepVec (keepVec s2 d c none i 33 (gradRow c 1 i)) d c none i 34 (gradRow c 2 i) else s2)

/-! ## The gradient buffer -/

/-- Where an item's gradient of a step lies: the gradient object and the offset. -/
def gradPlace (s : State) (d : Nat) (P : Part) (l : TList) (it : Item) : Nat × Nat :=
  (valD s 5 0x22 d none20, halfOff s d 0x22 l.step + gradOff P l.items it)

/-- Bytes of a touched list's entries and trailer go to its half (R218). -/
def listPlace (s : State) (d step : Nat) : Nat × Nat := (valD s 5 0x24 d none20, halfOff s d 0x24 step)

/-- A touched-list entry (Table TRAIN-8). -/
def listEntry (P : Part) (step : Nat) (it : Item) : List W64 :=
  let h := match P.train.atts.find? it.att with
    | some a => if it.trait then ((P.traits.tbls.find? it.id).map (fun t => tblHandle t.desc it.q)).getD 0 else attLog a.desc
    | none => 0
  let sect := if it.trait then it.row else
    (((P.adpts.getD it.id {}).cur).bind (fun g => g.sects.findIdx? (fun e => e.layer == it.layer && e.slot == it.slot))).getD 0
  [w64 ((if it.trait then 2 ^ 62 else 0) + it.group * 2 ^ 56 + h * 2 ^ 36 + it.tensor * 2 ^ 33 + (if it.q then 2 ^ 32 else 0) + sect),
   w64 (step % 2 ^ 40 * 2 ^ 24 + (if it.pen then 1 else 0))]

/-- The index of an item in its list. -/
def listIndex (l : TList) (it : Item) : Nat := (l.items.findIdx? (fun x => itemOrd x == itemOrd it)).getD 0

/-- Write the entry of an item of a list. -/
def entryPut (s : State) (d : Nat) (l : TList) (it : Item) : State :=
  match partOf s d with
  | none => s
  | some P => let (h, off) := listPlace s d l.step; objWrite s d h (off + 16 * listIndex l it) (wordBytes (listEntry P l.step it))

/-- The gradient of an item is final: it goes to the gradient buffer and the item to the touched list (R200, R218). -/
def gradPut (s : State) (d : Nat) (l : TList) (it : Item) (g : List Nat) : State :=
  match partOf s d with
  | none => s
  | some P =>
    let (h, off) := gradPlace s d P l it
    entryPut (objWrite (updTrain s d (fun T => { T with grads := T.grads.put (gradKey l.step it) g })) d h off (plane32 g)) d l it

/-- The gradient of an item as pass 2 and the sweep read it. -/
def gradGet (s : State) (d : Nat) (P : Part) (l : TList) (it : Item) : List Nat :=
  let (h, off) := gradPlace s d P l it
  let n := itemElems P it
  read32 (objBytes s d h off (4 * n)) n

/-- The gradients of every trained tensor of an adapter at one target (the weight-gradient phase); `c` sees the partition as
its step does. -/
def phaseGrads (s : State) (d : Nat) (c : WinCtx) : State :=
  match (partOf s d).bind (fun P => listOf P.train c.w.key.step) with
  | none => s
  | some l =>
    forEach (l.items.filter (fun it => !it.trait && it.layer == c.w.key.layer && it.slot == c.w.key.tslot)) s (fun s it =>
      let (g, q, z) := tensorGrad c c.P.train it.id it.tensor
      bumpD (gradCensus (gradPut s d l it g) d c.w.key.step [it.group] q) Cnt.trainSzero d z)

/-! ## Trait gradients (R199, R205) -/

/-- The accumulator of a row's pooled block in a backward unit. -/
def accsKey (half : Nat) (u : Bool × Nat × Option Nat) (row : Nat) : Nat :=
  ((half * 256 + u.2.1) * 32 + (match u.2.2 with | some t => t + 1 | none => 0)) * 2 ^ 18 + row

/-- The gradient of the pooled scale of a row at one target: for each of its w elements the tree over the g columns it
steers (R198, R199). -/
def poolGrad (c : WinCtx) (i w : Nat) : List Nat × Census × Nat :=
  let g := c.tgt.dout / Nat.max w 1
  let pw := rowPool c i
  let one (j : Nat) : Nat × Census × Nat :=
    let sp := (pw.map (fun p => (poolScale c p j).1)).getD 0
    if sp % 2 ^ 31 = 0 then (0, {}, 1)
    else
      let y := (rnd32 (in32 (gradAt c.w 2 i j)).1).1
      let (b, k1) := match rowBias c i j with | some (b, _) => f32Sub y b | none => (y, {})
      let (u, k2) := f32Div b sp
      let (r, k3) := f32Mul (rnd32 (in32 (gradAt c.w 1 i j)).1).1 u
      (r, (k1.add k2).add k3, 0)
  let rs := (List.range w).map (fun q =>
    let vs := (List.range g).map (fun x => one (q * g + x))
    let (t, k) := treeSum (vs.map (·.1))
    (t, vs.foldl (fun (a : Census) (v : Nat × Census × Nat) => a.add v.2.1) k, sumBy vs (·.2.2)))
  (rs.map (·.1), rs.foldl (fun (a : Census) r => a.add r.2.1) {}, sumBy rs (·.2.2))

/-- The pool phase that a step's rows were pooled by. -/
def stepPhase (P : Part) (step : Nat) : Option PoolPhase := (P.traits.phase.toList ++ P.traits.prev.toList).find? (fun f => f.step == step)

/-- The groups of the trait rows that the bag of a row names (R207): those whose gradients its pooled term gives. -/
def bagGroups (s : State) (d : Nat) (P : Part) (m : Man) (i : Nat) : List Nat :=
  let bags := bagsOf s d P m
  match stepPhase P m.step, (bagOfRow bags m i).bind (fun b => bags[b]?) with
  | some ph, some b =>
    ascending ((keptEntries s P ph b).flatMap (fun e => match e with
      | some e => (physRows e.1 e.2.2).filterMap (fun r => (attOf P 1 e.2.1 r.1).map (fun a => attGroup a.2.desc))
      | none => []))
  | _, _ => []

/-- The home of a row's accumulator of a backward unit: its slot for that unit in the half of the gradient buffer (R199). -/
def accHome (s : State) (d : Nat) (P : Part) (m : Man) (step idx i : Nat) : Nat :=
  ((objOf s d (valD s 5 0x22 d none20)).map (·.base)).getD 0 + halfOff s d 0x22 step +
    accOff P m (((listOf P.train step).map (·.items)).getD []) idx i

/-- Add the pooled gradients of a backward window to the accumulators of its rows, marking their lines dirty with their
home in the gradient buffer (R125, R199). -/
def poolAccumulate (s : State) (d : Nat) (c : WinCtx) : State :=
  let half := c.w.key.step % 2
  let unit : Bool × Nat × Option Nat := (true, c.w.key.layer, c.u.slot)
  forEach (winRows c.w) s (fun s i =>
    match poolTerm c.P (rowBind c.m i) c.w.key.layer c.w.key.tslot with
    | none => s
    | some pw =>
      let w := poolW pw
      let (g, q, z) := poolGrad c i w
      match partOf s d with
      | none => s
      | some P =>
        let key := accsKey half unit i
        let old := P.train.accs.getD key (List.replicate w 0)
        let sums := List.zipWith (fun a b => f32Add a b) old g
        let new := sums.map Prod.fst
        let home (k : Nat) : Nat := accHome s d P c.m c.w.key.step c.u.idx i + 64 * k
        let line0 := match c.u.items.find? (fun it => it.kind == .pooled i) with | some it => it.line + a64 (2 * w) / 64 | none => 0
        let bytes := plane32 new
        let lines := (List.range (bytes.length / 64)).map (fun k => (line0 + k, leNat ((bytes.drop (64 * k)).take 64), home k))
        let s1 := updPart s d (fun P =>
          { P with
            train := { P.train with accs := P.train.accs.put key new }
            share := lines.foldl (fun t l => t.put (c.u.place % 2 * 2 ^ 22 + l.1) l.2.1) P.share })
        let s2 := setUnits s1 d (fun u => if u.place = c.u.place then { u with dirty := lines.foldl (fun t l => t.put l.1 l.2.2) u.dirty } else u)
        bumpD (gradCensus s2 d c.w.key.step (bagGroups s d P c.m i) (sums.foldl (fun k x => k.add x.2) q)) Cnt.trainSzero d z)

/-- γ of a bag for a segment: the accumulators of its rows in backward unit order, then trait order (R205). -/
def bagGrad (P : Part) (m : Man) (bags : List Bag) (b seg w step : Nat) : List Nat × Census :=
  let units := (stepUnits P m.target).filter (fun u => u.1 && (match bags[b]? with | some x => poolLmap x.spec u.2.1 == seg | none => false))
  let rows := sortBy (rowSortKey m) ((manRows m).filter (fun i => bagOfRow bags m i == some b))
  let vs := units.flatMap (fun u => rows.filterMap (fun i =>
    (Tab.find? P.train.accs (accsKey (step % 2) u i)).map (fun l => if P.train.noGrad.contains i then l.map (fun _ => 0) else l)))
  match vs with
  | [] => (List.replicate w 0, {})
  | x :: t => t.foldl (fun a v => let r := allC (List.zipWith f32Add a.1 v); (r.1, a.2.add r.2)) (x, {})

/-- The gradient of one physical row over all its occurrences in trait order (R185, R205), with its census. -/
def rowGrad (s : State) (d : Nat) (P : Part) (m : Man) (ph : PoolPhase) (it : Item) : List Nat × Census :=
  match P.traits.tbls.find? it.id with
  | none => ([], {})
  | some tb =>
    let bags := bagsOf s d P m
    let w := 64 * tblW64 tb.desc
    let segs := (List.range (tblNseg tb.desc)).map (fun seg =>
      let occ : List (List Nat × Census) := (List.zip (List.range bags.length) bags).flatMap (fun ib =>
        let es := keptEntries s P ph ib.2
        let nk := (es.filter (·.isSome)).length
        let used := (usedSegs ib.2.spec).contains seg
        if !used then []
        else
          let ga := bagGrad P m bags ib.1 seg w m.step
          let o := if poolMean ib.2.spec then
              (let q := allC (ga.1.map (fun v => f32Div v (fp32.round .rne (Dy.ofInt nk)).1)); (q.1, ga.2.add q.2)) else ga
          es.filterMap (fun e =>
            match e with
            | none => none
            | some e =>
              let pr := physRows e.1 e.2.2
              if e.2.1 ≠ it.id || !pr.contains (it.q, it.row) then none
              else if tblComp e.1 = 3 then
                let other := !it.q
                let orow := ((pr.find? (fun r => r.1 == other)).map (·.2)).getD 0
                let ob := leNat (rowAt s d P m.step e.2.1 other orow)
                let q := allC ((List.zip (List.range o.1.length) o.1).map (fun jv => f32Mul jv.2 (rowElem e.1 ob (seg * w + jv.1)).1))
                some (q.1, o.2.add q.2)
              else some o))
      let r := allC ((List.range w).map (fun j => panelRule (occ.map (fun l => l.1.getD j 0))))
      (r.1, occ.foldl (fun k x => k.add x.2) r.2))
    (segs.flatMap (·.1), segs.foldl (fun k x => k.add x.2) {})

/-! ## The update (R206 to R212) -/

/-- A group's schedule words (Table TRAIN-5). -/
def schedWords (s : State) (d g : Nat) : List W64 :=
  let bs := objBytes s d (valD s 5 0x25 d none20) (2048 * g) 2048
  (chunks 8 bs).map (fun b => w64 (leNat b))

def schedFld (w : List W64) (i hi lo : Nat) : Nat := fld (w.getD i 0).toNat hi lo

/-- FP32 of a natural number. -/
def natF32 (n : Nat) : Nat := (fp32.round .rne (Dy.ofInt n)).1

/-- An operation on the result of another, their censuses added. -/
def thenC (x : Nat × Census) (f : Nat → Nat × Census) : Nat × Census := let y := f x.1; (y.1, x.2.add y.2)

/-- η(t) of R208. -/
def schedEta (w : List W64) (t : Nat) : Nat × Census :=
  let n := schedFld w 3 63 56
  let kt (i : Nat) : Nat := schedFld w (4 + i) 63 32
  let ke (i : Nat) : Nat := schedFld w (4 + i) 31 0
  if t ≤ kt 0 then (ke 0, {})
  else if kt (n - 1) ≤ t then (ke (n - 1), {})
  else
    let i := ((List.range n).filter (fun i => decide (kt i ≤ t))).getLast?.getD 0
    thenC (f32Div (natF32 (t - kt i)) (natF32 (kt (i + 1) - kt i))) fun r =>
      thenC (f32Sub (ke (i + 1)) (ke i)) fun q => thenC (f32Mul q r) fun x => f32Add (ke i) x

/-- pow32(β, n): square and multiply from the most significant bit. -/
def pow32 (b n : Nat) : Nat × Census :=
  (List.range (Nat.log2 n + 1)).reverse.foldl (fun a i =>
    thenC a fun x => thenC (f32Mul x x) fun q => if bitOf n i then f32Mul q b else (q, {})) (one32, {})

/-- The scalars of an item's update, and the substitutions in forming them. -/
structure UpdPar where
  b1 : Nat
  b2 : Nat
  eps : Nat
  lam : Nat
  eta : Nat
  c1 : Nat
  c2 : Nat
  cs : Census
  deriving DecidableEq, Repr

def updPar (w : List W64) (t nb : Nat) : UpdPar :=
  let b1 := schedFld w 0 63 32
  let b2 := schedFld w 0 31 0
  let eta := schedEta w t
  let c1 := thenC (pow32 b1 nb) (f32Sub one32)
  let c2 := thenC (pow32 b2 nb) (f32Sub one32)
  { b1 := b1, b2 := b2, eps := schedFld w 1 63 32, lam := schedFld w 1 31 0, eta := eta.1, c1 := c1.1, c2 := c2.1,
    cs := (eta.2.add c1.2).add c2.2 }

/-- β·a + (1 − β)·x. -/
def ema (b a x : Nat) : Nat × Census :=
  thenC (f32Mul b a) fun p => thenC (f32Sub one32 b) fun o => thenC (f32Mul o x) fun q => f32Add p q

/-- θ ← θ − η(x + λθ). -/
def stepTheta (u : UpdPar) (th x : Nat) : Nat × Census :=
  thenC (f32Mul u.lam th) fun l => thenC (f32Add x l) fun y => thenC (f32Mul u.eta y) fun z => f32Sub th z

/-- The FULL direction (m/b₁) / (√(v/b₂) + ε). -/
def fullDir (u : UpdPar) (m v : Nat) : Nat × Census :=
  thenC (f32Div m u.c1) fun a => thenC (f32Div v u.c2) fun b => thenC (f32Sqrt b) fun r => thenC (f32Add r u.eps) fun e => f32Div a e

/-- What Table TRAIN-6 gives of a tensor: new θ, new m, new second moments (v, or φ then ψ) and the census. -/
structure NewTensor where
  th : List Nat
  m : List Nat
  m2 : List Nat
  psi : List Nat
  cs : Census
  deriving DecidableEq, Repr

/-- Table TRAIN-6 over a tensor of `c` columns of length `m`. -/
def updTensor (opt c m : Nat) (u : UpdPar) (th m1 m2 psi g : List Nat) : NewTensor :=
  let n := c * m
  let at' (l : List Nat) (i : Nat) : Nat := l.getD i 0
  let each (n : Nat) (f : Nat → Nat × Census) : List Nat × Census := allC ((List.range n).map f)
  let sqs := each n (fun i => f32Mul (at' g i) (at' g i))
  let sq (i : Nat) : Nat := at' sqs.1 i
  match opt with
  | 0 =>
    let nm := each n (fun i => thenC (f32Mul u.b1 (at' m1 i)) fun x => f32Add x (at' g i))
    let t := each n (fun i => stepTheta u (at' th i) (at' nm.1 i))
    { th := t.1, m := nm.1, m2 := m2, psi := psi, cs := nm.2.add t.2 }
  | 1 =>
    let nm := each n (fun i => ema u.b1 (at' m1 i) (at' g i))
    let nv := each n (fun i => ema u.b2 (at' m2 i) (sq i))
    let t := each n (fun i => thenC (fullDir u (at' nm.1 i) (at' nv.1 i)) (stepTheta u (at' th i)))
    { th := t.1, m := nm.1, m2 := nv.1, psi := psi, cs := ((sqs.2.add nm.2).add nv.2).add t.2 }
  | _ =>
    let nm := each n (fun i => ema u.b1 (at' m1 i) (at' g i))
    let phi := each m (fun i => thenC (panelRule ((List.range c).map (fun j => sq (j * m + i)))) (ema u.b2 (at' m2 i)))
    let ps := each c (fun j => thenC (panelRule ((List.range m).map (fun i => sq (j * m + i)))) (ema u.b2 (at' psi j)))
    let tot := panelRule phi.1
    let t := each n (fun q =>
      thenC (thenC (f32Mul (at' phi.1 (q % m)) (at' ps.1 (q / m))) fun x => f32Div x tot.1) fun v =>
        thenC (fullDir u (at' nm.1 q) v) (stepTheta u (at' th q)))
    { th := t.1, m := nm.1, m2 := phi.1, psi := ps.1, cs := ((((sqs.2.add nm.2).add phi.2).add ps.2).add tot.2).add t.2 }

/-- The decision of a group for an element (R207). -/
def clipElem (r : GroupRes) (g : Nat) : Nat × Census := if r.act = 1 then f32Mul r.kappa g else (g, {})

/-- Second-moment planes: FP32 or BF16, with the census of the rounding. -/
def m2Bytes (bf : Bool) (vs : List Nat) : List Byte × Census :=
  if bf then (let r := allC (vs.map toBfC); (bfPlane r.1, r.2)) else (plane32 vs, {})
def m2Read (bf : Bool) (bs : List Byte) (n : Nat) : List Nat :=
  if bf then (let w := leNat bs; (List.range n).map (fun i => elemAt w 16 i * 65536)) else read32 bs n

/-- The state planes of an item read, updated and written again: log, M1, M2 or φ and ψ, and the census of the update. A skipped
group keeps them. -/
def newState (w : List W64) (t c m : Nat) (res : GroupRes) (u : UpdPar) (g : List Nat) (logV : List Nat) (rest : List Byte) :
    List Nat × List Byte × Census :=
  let n := c * m
  let opt := optOf w t
  let (b1, b2, _) := momentBytes w t n c m
  let m1 := read32 (rest.take b1) n
  let m2 := if opt = 1 then m2Read (attM2Bf16 w) ((rest.drop b1).take b2) n else if opt = 2 then read32 ((rest.drop b1).take b2) m else []
  let psi := if opt = 2 then read32 (rest.drop (b1 + b2)) c else []
  if res.act = 2 then (logV, rest, {})
  else
    let gs := allC (g.map (clipElem res))
    let r := updTensor opt c m u logV m1 m2 psi gs.1
    let v := if opt = 1 then m2Bytes (attM2Bf16 w) r.m2 else if opt = 2 then (plane32 r.m2 ++ plane32 r.psi, {}) else ([], {})
    (r.th, plane32 r.m ++ v.1, ((gs.2.add u.cs).add r.cs).add v.2)

/-! ## The Export Ring (R220, R221) -/

def expBase (s : State) (d : Nat) : Nat := valD s 5 0x30 d 0
def expBytes (s : State) (d : Nat) : Nat := valD s 5 0x31 d 0
def expTail (s : State) (d : Nat) : Nat := valD s 5 0x33 d 0

/-- Free bytes from EXP_HEAD to EXP_TAIL; one line stays empty so that a full ring is not an empty one. -/
def expFree (s : State) (d head : Nat) : Nat :=
  let n := expBytes s d
  if n = 0 then 0 else (expTail s d + n - head - 1) % n

/-- A record header (Table TRAIN-9) with its CRC over bytes 0 to 59 and the payload. -/
def expHeader (d rtype group content step run : Nat) (w2 w3 : Nat) (payload : List Byte) : List Byte :=
  let ws := [w64 (rtype * 2 ^ 60 + d * 2 ^ 55 + group * 2 ^ 49 + content * 2 ^ 46), w64 (step % 2 ^ 40 * 2 ^ 24 + run % 2 ^ 16 * 2 ^ 8),
    w64 w2, w64 w3, w64 payload.length, 0, 0]
  let first := wordBytes ws
  let crc := crc32 ((first ++ leBytes 4 0) ++ payload)
  first ++ leBytes 8 (crc * 2 ^ 32)

/-- Advance EXP_HEAD over bytes written at it. -/
def expWrite (s : State) (d : Nat) (bs : List Byte) : State :=
  match partOf s d with
  | none => s
  | some P =>
    let s1 := writeT1 s d (expBase s d + P.train.expHead) bs
    updTrain s1 d (fun T => { T with expHead := (T.expHead + bs.length) % Nat.max (expBytes s d) 1 })

/-- Write one record whole, with a PAD before the end of the ring, or answer that there is no room. -/
def expTry (s : State) (d : Nat) (rec0 : List Byte) : Option State :=
  match partOf s d with
  | none => none
  | some P =>
    let head := P.train.expHead
    let n := expBytes s d
    let toEnd := n - head
    let need := if rec0.length ≤ toEnd then rec0.length else toEnd + rec0.length
    if n = 0 || n < rec0.length || expFree s d head < need then none
    else if rec0.length ≤ toEnd then some (expWrite s d rec0)
    else
      let pad := List.replicate (toEnd - 64) (0 : Byte)
      some (expWrite (expWrite s d (expHeader d 0 0 0 P.train.lastStep 0 0 0 pad ++ pad)) d rec0)

/-- A RESYNC record, where records have been dropped and it fits. -/
def expResync (s : State) (d : Nat) : State :=
  match partOf s d with
  | none => s
  | some P =>
    match P.train.dropped with
    | none => s
    | some (a, b) =>
      let pay := wordBytes [w64 a, w64 b] ++ List.replicate 48 0
      match expTry s d (expHeader d 4 0 0 b 0 0 0 pay ++ pay) with
      | some s1 => updTrain s1 d (fun T => { T with dropped := none })
      | none => s

/-- Put a record of a step into the ring, or drop and count it. -/
def expPut (s : State) (d step : Nat) (rec0 : List Byte) : State :=
  let s0 := expResync s d
  match expTry s0 d rec0 with
  | some s1 => s1
  | none => bumpD (updTrain s0 d (fun T => { T with dropped := some (match T.dropped with | some (a, _) => (a, step) | none => (step, step)) })) Cnt.expDrop d 1

/-- The record of one item with its state as it stands: char, log and moments as `5.0034` selects. -/
def itemRecord (s : State) (d : Nat) (P : Part) (step : Nat) (it : Item) (ch logB mom : List Byte) (gen cnt run : Nat) : List Byte :=
  let what := valD s 5 0x34 d 1
  let pay := (if bitOf what 0 then padTo' ch else []) ++ (if bitOf what 1 then padTo' logB else []) ++ (if bitOf what 2 then padTo' mom else [])
  let w2 := if it.trait then it.id * 2 ^ 40 + gen * 2 ^ 24 + (if it.q then 2 ^ 8 else 0)
    else it.id * 2 ^ 40 + gen * 2 ^ 24 + it.layer * 2 ^ 16 + it.slot * 2 ^ 12 + it.tensor * 2 ^ 9
  expHeader d (if it.trait then 2 else 1) it.group what step (if P.train.atts.isEmpty then 0 else run) w2 (it.row * 2 ^ 32 + cnt % 2 ^ 32) pay ++ pay
where
  padTo' (l : List Byte) : List Byte := l ++ List.replicate (a64 l.length - l.length) 0

/-! ## Items -/

/-- The char buffer that pass 2 of a step writes, seen from the step in progress (R213). -/
def charBuf (P : Part) (a : Attach) (step : Nat) : Nat := if P.step = step && P.inStep then 1 - a.buf else a.buf

/-- The generation after a step's update: the next one while the step runs, the current one afterwards. -/
def charGen (P : Part) (id step : Nat) : Nat :=
  let g := (((P.adpts.getD id {}).cur).map (·.gen)).getD 0
  if P.step = step && P.inStep then nextGen g else g

/-- Bytes of tables and headers before the payload of an image. -/
def imagePayload (g : AGen) : Nat := a64 (64 + 32 * g.nsect)

/-- The generation that holds the char before the update of a step. -/
def charOld (P : Part) (id step : Nat) : Option AGen :=
  let a := P.adpts.getD id {}
  if P.step = step && P.inStep then a.cur else a.prev

/-- The bytes of an image as they are stored. -/
def imageRaw (s : State) (d : Nat) (g : AGen) : List Byte :=
  if g.src = 0 then bytesAt s.mem (memKey 0 g.base) (imageBytes g) else objBytes s d g.base 0 (imageBytes g)

/-- The tag block of a sealed image verifies (R214). -/
def imageTagOk (s : State) (d : Nat) (g : AGen) : Bool :=
  let raw := imageRaw s d g
  let n := imageBytes g
  let p := imagePayload g
  !g.sealed || sealTag s g.keyid g.nonce (raw.take (64 + 32 * g.nsect)) ((raw.drop p).take (n - 64 - p)) == (raw.drop (n - 64)).take 16

/-- Stored bytes of a tensor in its section. -/
def charLen (e : Sect) (t : Nat) : Nat :=
  let (c, m) := tensorDims e t
  if t < 3 then planeBytes (charFmt e t) c m else vecBytes e.sBf16 e.dout

/-- Where in the image the items lie that a list updates of an attachment: offset and bytes. -/
def itemRanges (g : AGen) (l : TList) (n : Nat) : List (Nat × Nat) :=
  (l.items.filter (fun it => it.att == n && !it.dropped)).filterMap (fun it =>
    (g.at it.layer it.slot).map (fun e => (e.poff + charOff e it.tensor, charLen e it.tensor)))

/-- The RUN of the messages that a list's pass 2 writes for an attachment. -/
def listRun (l : TList) (n : Nat) (a : Attach) : Nat := l.runs.getD n a.run

/-- What pass 2 does not write of an image is carried into the other buffer, sealed under the new nonce; the places of the list's items
are left to them, so that no byte of a message is written with two values (R214). -/
def charCarry (s : State) (d : Nat) (P : Part) (a : Attach) (l : TList) (n : Nat) : State :=
  match charOld P (attId a.desc) l.step with
  | none => s
  | some g =>
    let len := imageBytes g
    let h := attChar a.desc (charBuf P a l.step)
    let raw := imageRaw s d g
    let p := imagePayload g
    let all :=
      if g.sealed then
        let plain := sealCrypt s g.keyid g.nonce 0 ((raw.drop p).take (len - 64 - p))
        raw.take p ++ sealCrypt s g.keyid (penNonce 1 (attSalt a.desc) (listRun l n a) l.step 0) 0 plain ++ List.replicate 64 0
      else raw
    let old := objBytes s d h 0 len
    objWrite s d h 0 ((itemRanges g l n).foldl (fun b r => spliceBytes b r.1 ((old.drop r.1).take r.2)) all)

/-- The tag block of a sealed char generation, once its last item has been written. -/
def charTag (s : State) (d : Nat) (P : Part) (a : Attach) (l : TList) (n : Nat) : State :=
  match charOld P (attId a.desc) l.step with
  | none => s
  | some g =>
    if !g.sealed then s
    else
      let len := imageBytes g
      let h := attChar a.desc (charBuf P a l.step)
      let raw := objBytes s d h 0 (len - 64)
      objWrite s d h (len - 64)
        (sealTag s g.keyid (penNonce 1 (attSalt a.desc) (listRun l n a) l.step 0) (raw.take (64 + 32 * g.nsect)) (raw.drop (imagePayload g)))

/-- Two items of one section. -/
def sameSect (x y : Item) : Bool := x.att == y.att && x.layer == y.layer && x.slot == y.slot

/-- What pass 2 of an adapter tensor reads can be read: the tags of the stored image and of the section's state verify where the first
item of the adapter, or of the section, reads them. A read that fails for good leaves the item as it is (R214, R148;
notes/assumptions/125.md). -/
def tensorReadable (s : State) (d : Nat) (P : Part) (a : Attach) (l : TList) (it : Item) : Bool :=
  match charOld P it.id l.step with
  | none => true
  | some g =>
    (l.items.any (fun x => x.att == it.att && x.done) || imageTagOk s d g) &&
      (match g.sects.findIdx? (fun e => e.layer == it.layer && e.slot == it.slot) with
       | some i => l.items.any (fun x => sameSect x it && x.done) || (g.sects[i]?).all (fun e => sectStateOk s d a g i e)
       | none => true)

/-- Pass 2 of an adapter tensor (R211, R212). A section's header, with its tag, is written with the section's last item of the list
(notes/assumptions/124.md). -/
def updateTensor (s : State) (d : Nat) (P : Part) (a : Attach) (l : TList) (it : Item) (res : GroupRes) : State :=
  match charOld P it.id l.step with
  | none => s
  | some g =>
    match g.sects.findIdx? (fun e => e.layer == it.layer && e.slot == it.slot) with
    | none => s
    | some i =>
      match g.sects[i]? with
      | none => s
      | some e =>
        let run := listRun l it.att a
        let s0 := if l.items.any (fun x => x.att == it.att && x.done) then s else charCarry s d P a l it.att
        let st := sectStateBytes s0 d a g i e
        let (c, m) := tensorDims e it.tensor
        let n := c * m
        let off := tensorStateOff a.desc e it.tensor
        let home := sectStateOff a.desc g.sects i
        let planes := (st.drop off).take (tensorState a.desc e it.tensor)
        let cnt := headerCnt st
        let u := updPar (schedWords s0 d it.group) res.t res.t
        let (th, rest, k0) := newState a.desc it.tensor c m res u (gradGet s0 d P l it) (read32 planes n) (planes.drop (a64 (4 * n)))
        let nonce := penNonce 2 (attSalt a.desc) run l.step i
        let new := plane32 th ++ rest
        let s1 := if res.act = 2 then s0
          else objWrite s0 d (attLog a.desc) (home + off) (if g.sealed then sealCrypt s0 g.keyid nonce (off - 64) new else new)
        let lastOf (p : Item → Bool) : Bool := !(l.items.any (fun x => p x && !x.done && !x.dropped && x != it))
        let s2 := if res.act = 2 || !lastOf (sameSect it) then s1
          else if g.sealed then
            setSectRun (objWrite s1 d (attLog a.desc) home ((stateHeader l.step (cnt + 1)).take 48 ++
              sealTag s1 g.keyid nonce [] ((sectRaw s1 d a g i e).drop 64))) d it.att i run
          else objWrite s1 d (attLog a.desc) home (stateHeader l.step (cnt + 1))
        let (ch, k) := encodeTensor (charFmt e it.tensor) m th
        let at0 := e.poff + charOff e it.tensor
        let cb := if g.sealed then sealCrypt s2 g.keyid (penNonce 1 (attSalt a.desc) run l.step 0) (at0 - imagePayload g) ch else ch
        let s3 := objWrite s2 d (attChar a.desc (charBuf P a l.step)) at0 cb
        let logB := objBytes s3 d (attLog a.desc) (home + off) (a64 (4 * n))
        let mom := objBytes s3 d (attLog a.desc) (home + off + a64 (4 * n)) (tensorState a.desc e it.tensor - a64 (4 * n))
        let s4 := if lastOf (fun x => x.att == it.att) then charTag s3 d P a l it.att else s3
        let s5 := bumpCensus s4 d (k0.add k)
        if res.act = 2 then s5 else expPut s5 d l.step (itemRecord s4 d P l.step it cb logB mom (charGen P it.id l.step) (cnt + 1) (if g.sealed then run else 0))

/-- Pass 2 of a trait row. -/
def updateRow (s : State) (d : Nat) (P : Part) (a : Attach) (l : TList) (it : Item) (res : GroupRes) : State :=
  match P.traits.tbls.find? it.id with
  | none => s
  | some t =>
    let w := t.desc
    let n := tblElems w
    let side := objBytes s d (attLog a.desc) (it.row * rowState a.desc w) (rowState a.desc w)
    let row := rowBytes s d P l.step it.id it.q it.row
    let own := tblRfmt w = 0
    let logV := if own then read32 row n else read32 side n
    let hdr := (row.drop (tblRowBytes w)).take 64
    let cnt := headerCnt hdr
    let u := updPar (schedWords s d it.group) res.t (cnt + 1)
    let rest := if own then side else side.drop (a64 (4 * n))
    let (th, rest', k0) := newState a.desc 0 1 n res u (gradGet s d P l it) logV rest
    let (ch, k) := encodeTensor (rowFmt (tblRfmt w)) n th
    let hb := if res.act = 2 then hdr else stateHeader l.step (cnt + 1)
    let newRow := ch ++ List.replicate (tblRowBytes w - ch.length) 0 ++ hb ++ row.drop (tblRowBytes w + 64)
    let staged := P.traits.redirs.any (fun r => r.tid == it.id && r.q == it.q && r.row == it.row && (decide (r.st < 2) || (r.upto.isNone && decide (l.step < r.since))))
    let s0 := if staged then bumpD s Cnt.traitPutOverride d 1 else s
    let s1 := rowWrite s0 d P l.step it.id it.q it.row newRow
    let s2 := objWrite s1 d (attLog a.desc) (it.row * rowState a.desc w) ((if own then [] else plane32 th) ++ rest')
    if res.act = 2 then s else expPut (bumpCensus s2 d (k0.add k)) d l.step (itemRecord s2 d P l.step it ch (if own then ch else plane32 th) rest' ((P.traits.tbls.find? it.id).map (·.gen) |>.getD 0) (cnt + 1) 0)

/-- The trailer: for each group the decision, κ and the norm. -/
def trailerBytes (l : TList) : List Byte :=
  wordBytes ((List.range 64).flatMap (fun g =>
    match l.groups.find? (fun r => r.group == g) with
    | some r => [w64 (3 * 2 ^ 62 + g * 2 ^ 56 + r.act), w64 (r.kappa * 2 ^ 32 + r.norm)]
    | none => [w64 (3 * 2 ^ 62 + g * 2 ^ 56), 0]))

/-- The groups that have items in a list. -/
def listGroups (l : TList) : List Nat := ascending (l.items.map (·.group))

/-- Seal a list whose every group has been decided: its trailer follows the entries (R218). -/
def listSeal (s : State) (d step : Nat) : State :=
  match partOf s d with
  | none => s
  | some P =>
    match listOf P.train step with
    | none => s
    | some l =>
      if l.isSealed || !l.complete || !(listGroups l).all (fun g => l.groups.any (fun r => r.group == g)) then s
      else
        let (h, off) := listPlace s d step
        updTrain (objWrite s d h (off + 16 * l.items.length) (trailerBytes l)) d (fun T => setList T { l with isSealed := true })

/-- A list whose items have all been updated, dropped or skipped has ended; its last step and STEP_END record (R220). -/
def listEnd (s : State) (d : Nat) (l : TList) : State :=
  let pay := trailerBytes l
  let s1 := expPut s d l.step (expHeader d 3 0 0 l.step 0 0 0 pay ++ pay)
  updTrain s1 d (fun T => { T with lists := T.lists.filter (fun x => !(x.step == l.step && x.sweep == l.sweep)), lastStep := l.step })

/-- The squared norm of a group (R206 pass 1), with its census. -/
def groupNorm (T : Train) (l : TList) (g : Nat) : Nat × Census :=
  let items := (l.items.filter (fun it => it.group == g)).map (fun it =>
    let sq := allC ((T.grads.getD (gradKey l.step it) []).map (fun v => f32Mul v v))
    let r := panelRule sq.1
    (r.1, sq.2.add r.2))
  let r := panelRule (items.map Prod.fst)
  (r.1, items.foldl (fun k x => k.add x.2) r.2)

/-- FP32 order of two non-negative encodings. -/
def f32Gt (a b : Nat) : Bool := ((in32 b).1).lt (in32 a).1

/-- The decision of pass 1 (R207). -/
def groupDecide (s : State) (d : Nat) (T : Train) (l : TList) (g : Nat) : GroupRes :=
  let w := schedWords s d g
  let nu := (groupNorm T l g).1
  let norm := (f32Sqrt nu).1
  let clip := schedFld w 2 63 32
  let nmax := schedFld w 2 31 0
  let skip := l.census.getD g 0 ≠ 0 || nu = 0x7F7FFFFF || (nmax % 2 ^ 31 ≠ 0 && f32Gt norm nmax)
  let act := if skip then 2 else if clip % 2 ^ 31 ≠ 0 && f32Gt norm clip then 1 else 0
  { group := g, nu := nu, norm := norm, act := act, kappa := if act = 1 then (f32Div clip norm).1 else one32,
    t := T.groupStep.getD g 0 + (if act = 2 then 0 else 1) }

/-! ## Generations of attached adapters (R213) -/

/-- Every attached adapter installs its next generation at a boundary. -/
def trainInstall (s : State) (d step : Nat) : State :=
  match partOf s d with
  | none => s
  | some P =>
    forEach (P.train.atts.filter (fun e => attKind e.2.desc == 0 && e.2.wait == 0)) s (fun s e =>
      match partOf s d with
      | none => s
      | some P =>
        let id := attId e.2.desc
        match (P.adpts.getD id {}).cur with
        | none => s
        | some g =>
          let nb := 1 - e.2.buf
          let base := ((objOf s d (attChar e.2.desc nb)).map (·.base)).getD 0
          let g1 : AGen := { g with gen := nextGen g.gen, src := 0, base := base,
                                    nonce := if g.sealed then penNonce 1 (attSalt e.2.desc) e.2.run step 0 else g.nonce }
          updPart s d (fun P => { P with adpts := P.adpts.put id { (P.adpts.getD id {}) with cur := some g1, prev := some g },
                                         train := { P.train with atts := P.train.atts.upd e.1 (fun a => { a with buf := nb }) } }))

/-- The updates of a list are given up (R219): where its step's generations are installed, what was not updated holds the bytes of
the ones before. -/
def listDropped (s : State) (d : Nat) (l : TList) : State :=
  match partOf s d with
  | none => s
  | some P =>
    if P.step ≤ l.step then s
    else forEach P.train.atts s (fun s e =>
      let mine := l.items.filter (fun it => it.att == e.1)
      if attKind e.2.desc ≠ 0 || e.2.wait ≠ 0 || mine.all (fun it => it.done || it.dropped) then s
      else
        let kept : TList := { l with items := mine.filter (·.done) }
        charTag (charCarry s d P e.2 kept e.1) d P e.2 kept e.1)

/-- An adapter item that is given up: its old bytes are carried into the new generation. -/
def tensorDropped (s : State) (d : Nat) (P : Part) (a : Attach) (l : TList) (it : Item) : State :=
  let l1 := { l with items := l.items.map (fun x => if itemOrd x == itemOrd it then { x with dropped := true } else x) }
  let s1 := charCarry s d P a l1 it.att
  if l1.items.any (fun x => x.att == it.att && !x.done && !x.dropped) then s1 else charTag s1 d P a l1 it.att

/-- A detach acts once no list that still runs holds an item of the attachment (R193). -/
def detachReady (P : Part) (n : Nat) : Bool :=
  !P.train.lists.any (fun l => l.items.any (fun it => it.att == n && !it.done && !it.dropped))

end Sys2Proof.Machine
end

