-- ==== Sys2Proof/Machine/BuildOps.lean ====
section
/-! DEFINITION. Building a step (R228 to R231, R122, R123, R91), the Step Manifest as bytes and as submitted by the host
(R232, R233), deadlines (R103, R104), and what firmware computes of an admitted step (R98, R119). -/

namespace Sys2Proof.Machine

/-! ## Candidates (R228) -/

/-- A context as the transitions already known leave it after the boundary. -/
structure Cand where
  c : Nat
  x : Ctx
  rank : Nat
  deriving DecidableEq, Repr

/-- The progress that the rows of the step in progress will have made (Table CTX-2). -/
def knownProgress (m : Option Man) (c : Nat) (x : Ctx) : Ctx :=
  match m with
  | none => x
  | some m =>
    let n := (ctxRows m c).length
    if n = 0 || x.st != .ready then x
    else if x.phase then (if x.spec then x else { x with pos := x.pos + n })
    else { x with pos := x.pos + n, pend := x.pend - n, phase := x.pend ≤ n }

/-- A waiting request applied to the record alone. -/
def knownRequest (x : Ctx) (r : RqWait) : Option Ctx :=
  match r.op, x.st with
  | 2, .paused => some { x with st := .ready, phase := false, pend := fld (r.words.getD 3 0).toNat 63 40 }
  | 2, .ember => some { x with st := .waking, pend := fld (r.words.getD 3 0).toNat 63 40 }
  | 3, .ready => some { x with st := .paused }
  | 4, _ => none
  | _, _ => some x

/-- The record after the boundary, where the context is not freed: the progress of its rows, a wake whose last copies have ended, the
requests and rebindings that are read. A context whose pages are lost ends there. -/
def knownCtx (s : State) (P : Part) (d c : Nat) (x : Ctx) : Option Ctx :=
  let back (i : Nat) : Bool := fld (pageWord s x i) 62 61 == 0 || (x.st == .waking && x.copies.any (fun q => q.page == i && q.copied))
  let woken (y : Ctx) : Ctx := if y.st == .waking && (List.range y.npage).all back then { y with st := .ready, phase := false } else y
  let x1 := knownProgress P.man c x
  let reqs := P.rqWait.filter (fun r => r.ctx == c && decide (r.wait ≤ 1))
  let x2 := reqs.foldl (fun (a : Option Ctx) r => a.bind (fun y => knownRequest y r)) (some x1)
  let binds := s.od.insts.filter (fun i => i.area == 3 && i.item == 0x12 && i.st == .pending && i.part == d && decide (i.wait ≤ 1) && i.arg 0 % 2 ^ 14 == c)
  if x.kvLost then none else (x2.map woken).map (fun y => binds.foldl (fun y i => { y with bind := (i.args.drop 1).take 5, st := if y.st == .unfit then .ready else y.st }) y)

/-- A completion of the context waits in the backlog (R228, R237). -/
def inBacklog (P : Part) (c : Nat) : Bool := P.backlog.any (fun e => e.ctx == some c)

/-- The candidates before R246, each with its rank (R229). -/
def readyCands (s : State) (P : Part) (d : Nat) : List Cand :=
  (ctxsOf s d).filterMap (fun e =>
    match knownCtx s P d e.1 e.2 with
    | some x =>
      if x.st != .ready || inBacklog P e.1 || !kvRoom s d e.1 x then none
      else some { c := e.1, x := x, rank := if x.cls = 4 && decide (valD s 6 0x31 d 64 ≤ x.deferred) then 3 else x.cls }
    | none => none)

/-- The admission order (R229); keys of 64, 40, 14 bits. -/
def candKey (P : Part) (k : Cand) : Nat :=
  let dl := if k.x.deadline = 0 then 2 ^ 40 - 1 else if k.x.dlValid then k.x.dlstep else P.step
  ((k.rank * 2 ^ 40 + dl) * 2 ^ 64 + k.x.arrseq) * 2 ^ 14 + k.c

/-! ## Rows of a candidate (R228) -/

/-- The rows a candidate asks for. -/
def askRows (s : State) (d : Nat) (k : Cand) : List Row :=
  let x := k.x
  if !x.phase then
    (List.range (Nat.min x.pend (valD s 6 0x30 d 512))).map (fun i => { ctx := some k.c, kind := 0, pos := x.pos + i })
  else if !x.spec then [{ ctx := some k.c, kind := 1, pos := x.pos }]
  else
    let t := ctxTpl s d k.c
    (List.range (x.tnodes + 1)).map (fun i =>
      { ctx := some k.c, kind := 2, node := i, parent := if i = 0 then 0x3F else t.getD i 0, pos := x.pos + tplDepth t i })

/-- Pad rows (R230). -/
def padRow : Row := { ctx := none, kind := 3 }

/-- The decode region: groups of rows in admission order, no tree across a multiple of 256 rows. -/
def placeDecode : Nat → List (List Row) → List Row → List Row
  | 0, _, acc => acc
  | _ + 1, [], acc => acc
  | fuel + 1, g :: t, acc =>
    let room := 256 - acc.length % 256
    if g.length ≤ room then placeDecode fuel t (acc ++ g)
    else
      let singles := (List.range t.length).filter (fun i => ((t[i]?).map (·.length)) == some 1)
      let moved := singles.take room
      let ahead := moved.flatMap (fun i => t.getD i [])
      let rest := (List.range t.length).filterMap (fun i => if moved.contains i then none else t[i]?)
      placeDecode fuel (g :: rest) (acc ++ ahead ++ List.replicate (room - ahead.length) padRow)

/-- The rows of a step of candidates given in admission order, and the rows of its decode region (R230). -/
def layoutRows (groups : List (List Row)) : List Row × Nat :=
  let dec := groups.filter (fun g => g.any (fun r => r.kind != 0))
  let pre := groups.filter (fun g => g.any (fun r => r.kind == 0))
  let a := placeDecode (2 * dec.length + 1) dec []
  (a ++ pre.flatten, a.length)

/-- A manifest of candidates in admission order. -/
def candMan (step : Nat) (target : Bool) (ks : List (Cand × List Row)) : Man :=
  let (rows, ndec) := layoutRows (ks.map (·.2))
  { step := step, host := false, rows := rows, ndec := ndec, descs := [], seed := 0, target := target,
    binds := ks.foldl (fun t k => t.put k.1.c (k.1.x.bind, k.1.x.nbag)) [], gens := [] }

/-! ## Admission checks (Table CTX-5) -/

/-- KV pages, directory entries and provisional slots of the rows of some contexts against what is free (R240). -/
def kvFits (s : State) (d : Nat) (P : Part) (l : List (Ctx × List Row)) : Bool :=
  let need := l.map (fun e => (e.1, newPages s d e.1 (maxBy e.2 (·.pos))))
  let pages := sumBy need (·.2)
  let nodes := sumBy l (fun e => (e.2.filter (fun r => r.kind == 2)).length)
  need.all (fun e => decide (e.1.npage + e.2 ≤ 2048)) && decide (pages ≤ freeFrames s d 0 P) &&
    decide (pages + partEntries s d ≤ 64 * valD s 6 0x65 d 0) && decide (nodes ≤ freeFrames s d 2 P)

/-- R180. -/
def traitFits (s : State) (d : Nat) (P : Part) (m : Man) : Bool :=
  let bags := bagsOf s d P m
  bags.isEmpty || (decide (bags.length ≤ 16384) && decide (sumBy bags (·.n) ≤ 4194304) &&
    decide ((indexList s d P m).length ≤ 1048576) && decide (sumBy bags (fun b => bagBytes b.spec) ≤ (poolBuffer s d).2))

/-- The bindings of the rows of a manifest, one for each row. -/
def manBinds (m : Man) : List (List W64) := (manRows m).filterMap (fun i => (rowDesc m i).map (·.bind))

/-- R122 over a manifest. -/
def manFits (s : State) (p : Nat) (P : Part) (m : Man) (target : Bool) : Bool :=
  unitsFit P (manBinds m) target (if target then halfBytes s p else shareBytes s p)

/-- Table CTX-5 for a step in which `k` is the last candidate taken: none where every check passes, else the counter. -/
def admitCode (s : State) (p d : Nat) (P : Part) (target : Bool) (ks : List (Cand × List Row)) (k : Cand) : Option Nat :=
  let m := candMan (P.step + (if P.inStep then 1 else 0)) target ks
  if valD s 6 0x33 d 16384 < m.ndec then some Cnt.rowDefer
  else if valD s 6 0x34 d 262144 < m.rows.length then some Cnt.rowDefer
  else if !kvFits s d P (ks.map (fun e => (e.1.x, e.2))) then some Cnt.kvDefer
  else if 8192 < segCount P (dedup (manBinds m)) then some Cnt.segDefer
  else if !traitFits s d P m then some Cnt.traitDefer
  else if !trainFits s d P m then some Cnt.trainDefer
  else
    let streams := bindStreams P k.x.bind
    let ok := manFits s p P m target && (!streams || target)
    if ok then none
    else if streams && !target then some Cnt.fitModeDefer
    else if !streams && target && manFits s p P m false then some Cnt.fitModeDefer
    else some Cnt.fitDefer

/-! ## Panel rate (R91) -/

/-- TILE cycles of a panel interval given in ps (R91). -/
def panelCycles (s : State) (ps : Nat) : Nat := ps * valU s 1 4 / 1000000

/-- A window of a step at a target as the tiles would see it. -/
def planWin (s : State) (p d : Nat) (P : Part) (m : Man) (bwd : Bool) (t : Tgt) (win : Nat) : WinCtx :=
  let n := Nat.min 256 (m.rows.length - 256 * win)
  let key : PosKey := { step := m.step, bwd := bwd, layer := t.layer, tslot := t.slot, win := win, tick := 0 }
  let w : Win := { key := key, n := n, tiles := groupTiles s p d (decodeWindow m win n) }
  { P := P, m := m, w := w, tgt := t, u := { step := m.step, idx := 0, place := 0, bwd := bwd, layer := t.layer, slot := none, items := [], dirty := [] },
    tags := targetTags P m t.layer t.slot (winRows w) }

/-- T_P of R91. -/
def panelTime (s : State) (p d : Nat) (c : WinCtx) : Nat :=
  let costs := (shrinkUnits c).map (fun u => let x := shrinkCost s p d c u (blockDepth c 0); x.1 + x.2)
  ceilDiv (costs.foldl (· + ·) 0) (Nat.max c.w.tiles.length 1) + maxBy costs id + 16

/-- Every window of every target of the step passes. -/
def panelsPass (s : State) (p d : Nat) (P : Part) (m : Man) : Bool :=
  let i := valP s 12 0x10 p d
  i = 0 || P.shape.tgts.all (fun t => (List.range (ceilDiv m.rows.length 256)).all (fun w =>
    decide (panelTime s p d (planWin s p d P m false t w) ≤ panelCycles s i)))

/-- Drop admitted candidates in reverse order until every window passes (`fuel` bounds them). R91 defers rows in reverse
admission order: a candidate of several rows is deferred whole (DESIGN CHOICE, notes/assumptions/101.md). -/
def panelDrop : Nat → State → Nat → Nat → Part → Bool → Nat → List (Cand × List Row) → List (Cand × List Row) → List (Cand × List Row) × List (Cand × List Row)
  | 0, _, _, _, _, _, _, ks, dropped => (ks, dropped)
  | fuel + 1, s, p, d, P, target, step, ks, dropped =>
    if ks.isEmpty || panelsPass s p d P (candMan step target ks) then (ks, dropped)
    else match ks.getLast? with
      | some k => panelDrop fuel s p d P target step ks.dropLast (k :: dropped)
      | none => (ks, dropped)

/-! ## The admission pass (R229, R122, R123) -/

/-- What the pass has so far: admitted candidates with their rows, contexts deferred, contexts that become UNFIT, the
mode once a row has been admitted, and the counters. -/
structure Pass where
  ks : List (Cand × List Row) := []
  deferred : List Nat := []
  unfit : List Nat := []
  mode : Option Bool := none
  counts : List (Nat × Nat) := []
  deriving DecidableEq, Repr

/-- One candidate: a deferral counts the candidate, by the segment limit each of its rows (R69). -/
def passOne (s : State) (p d : Nat) (P : Part) (a : Pass) (k : Cand) : Pass :=
  let rows := askRows s d k
  if rowFits P k.x.bind (shareBytes s p) (halfBytes s p) ≠ 0 then { a with unfit := a.unfit ++ [k.c] }
  else
    let target := a.mode.getD (bindStreams P k.x.bind)
    match admitCode s p d P target (a.ks ++ [(k, rows)]) k with
    | none => { a with ks := a.ks ++ [(k, rows)], mode := some target }
    | some cnt => { a with
        deferred := a.deferred ++ [k.c]
        counts := a.counts ++ [(cnt, if cnt = Cnt.segDefer then rows.length else 1)] }

/-- Contexts that leave the candidates by R246: adoption entries from two boundaries back. -/
def adoptWaits (k : Cand) : Bool := k.x.spec && k.x.adopts.any (fun a => decide (1 ≤ a.age))

/-- The step number that a build makes. -/
def buildStep (P : Part) : Nat := P.step + (if P.inStep then 1 else 0)

/-- Build the next step of the partition in slot `p` (R122, R228 to R230): the candidate set, the contexts that become
UNFIT, and the counters; the set is none where no row was admitted. -/
def buildNext (s : State) (p d : Nat) (P : Part) : State × Option Man :=
  let v := if P.inStep then stepView s p d else s
  let all := readyCands v P d
  let held := all.filter adoptWaits
  let cands := sortBy (candKey P) (all.filter (fun k => !adoptWaits k))
  let a := cands.foldl (passOne v p d P) {}
  let target := a.mode.getD false
  let (ks, dropped) := panelDrop (a.ks.length + 1) v p d P target (buildStep P) a.ks []
  let deferred := a.deferred ++ dropped.map (·.1.c)
  let m := candMan (buildStep P) target ks
  let s1 := forEach (a.counts ++ held.map (fun _ => (Cnt.kvDefer, 1)) ++
      [(Cnt.panelDefer, sumBy dropped (fun k => k.2.length)), (Cnt.padRows, (m.rows.filter (fun r => r.kind == 3)).length)]) s
    (fun s x => bumpD s x.1 d x.2)
  let s2 := forEach deferred s1 (fun s c => updCtx s c (fun x => { x with deferred := x.deferred + 1 }))
  let s3 := forEach ks s2 (fun s k => updCtx s k.1.c (fun x => { x with deferred := 0 }))
  let asked := (cands.filter (fun k => !a.unfit.contains k.c)).foldl (fun (n : Nat × Nat) k =>
    let r := (askRows v d k).length
    if k.x.phase then (n.1 + r, n.2) else (n.1, n.2 + r)) (0, 0)
  (updPart s3 d (fun P => { P with unfitNext := a.unfit, asked := asked }), if ks.isEmpty then none else some m)

/-! ## Deadlines (R103, R104) -/

/-- The estimator's sample at a boundary (R103). -/
def estimate (s : State) (d : Nat) (tb : Nat) : State :=
  match partOf s d with
  | none => s
  | some P =>
    match P.tb with
    | none => updPart s d (fun P => { P with tb := some tb })
    | some t0 =>
      let cur := P.dhat.getD (valD s 12 0x30 d 100000000)
      let D : Int := (tb : Int) - t0
      if 0 < D && decide (D ≤ 16 * cur) then
        updPart s d (fun P => { P with tb := some tb, dhat := some ((cur : Int) + (D - cur) / 16).toNat, rejects := 0 })
      else
        bumpD (updPart s d (fun P =>
          if P.rejects = 3 then { P with tb := some tb, dhat := some (if D < 1 then 1 else D.toNat), rejects := 0 }
          else { P with tb := some tb, rejects := P.rejects + 1 })) Cnt.todStep d 1

/-- Deadline steps at the boundary that opens step `n`; none where the time is not valid (R102, R104). DLSTEP has 40 bits: a
deadline step past them is kept at 2^40 − 2, below that of a context without a deadline (DESIGN CHOICE,
notes/assumptions/99.md). -/
def deadlinesDue (s : State) (d n : Nat) (tb : Option Nat) : State :=
  match partOf s d with
  | none => s
  | some P =>
    let dh : Int := ((P.dhat.getD (valD s 12 0x30 d 100000000) : Nat) : Int)
    let mg : Int := ((valD s 12 0x32 d 0 : Nat) : Int)
    forEach (ctxsOf s d) s (fun s e =>
      updCtx s e.1 (fun x =>
        if x.deadline = 0 then { x with dlstep := 2 ^ 40 - 1 }
        else match tb with
          | some t =>
            let nd : Int := (n : Int) - 1 + (((x.deadline.toNat : Nat) : Int) - ((t % 2 ^ 64 : Nat) : Int) - mg) / dh
            { x with dlstep := Nat.min (Nat.max n (Int.toNat nd)) (2 ^ 40 - 2), dlValid := x.st == .ready || x.dlValid }
          | none => if x.dlValid then x else { x with dlstep := n }))

/-! ## The manifest's bytes (R232) -/

def rowWords (r : Row) : List W64 :=
  [w64 ((match r.ctx with | some c => c * 2 ^ 50 + 2 ^ 49 | none => 0) + r.kind * 2 ^ 47 + r.node * 2 ^ 41 +
     (if r.kind = 2 then r.parent % 64 else 0x3F) * 2 ^ 35 + r.pos % 2 ^ 24 * 2 ^ 11), w64 (r.desc * 2 ^ 46)]

def descWords (x : Desc) : List W64 :=
  (List.range 5).map (fun i => x.bind.getD i 0) ++ [w64 x.bag, w64 (x.cref * 2 ^ 32 + x.nbag * 2 ^ 23), 0]

def genWord (g : Nat × Nat × Nat) : W64 := w64 (g.1 * 2 ^ 62 + g.2.1 * 2 ^ 16 + g.2.2)

/-- Pad a section to a 64 B boundary. -/
def padBytes (l : List Byte) : List Byte := l ++ List.replicate (a64 l.length - l.length) 0

/-- Contexts with rows. -/
def manCtxs (m : Man) : List Nat := ascending (m.rows.filterMap (·.ctx))

/-- A manifest as the bytes of its half (Tables CTX-6 to CTX-9). -/
def manBytes (d : Nat) (m : Man) : List Byte :=
  let body := padBytes (wordBytes (m.rows.flatMap rowWords)) ++ padBytes (wordBytes (m.descs.flatMap descWords)) ++
    wordBytes (m.gens.map genWord)
  let len := 64 + body.length
  let hdr := wordBytes [w64 (0x4D414E49 * 2 ^ 32 + 2 ^ 16), w64 (m.step % 2 ^ 40 * 2 ^ 24 + d * 2 ^ 19 + (if m.host then 2 ^ 18 else 0)),
    w64 (m.rows.length * 2 ^ 45 + m.ndec * 2 ^ 30 + (manCtxs m).length * 2 ^ 15), w64 m.seed,
    w64 (m.gens.length * 2 ^ 32 + m.descs.length), w64 len, 0]
  let crc := crc32 (hdr ++ List.replicate 8 0 ++ body)
  hdr ++ leBytes 8 crc ++ body

/-- The generations a step names, ascending (Table CTX-9). -/
def manGens (s : State) (d : Nat) (P : Part) (m : Man) : List (Nat × Nat × Nat) :=
  let binds := dedup (manBinds m)
  let ads := binds.flatMap (fun b => (bindSlots b).filterMap (fun x =>
    let a := P.adpts.getD x.2.1 {}
    (pickGen (a.cur, a.prev) x.2.2).map (fun g => (g.2 * 2 ^ 24 + x.2.1, g.1))))
  let adIds := ascending (ads.map (·.1))
  let pairs := ascending (ads.flatMap (fun g => (g.2.sects.filter (·.hasK)).map (fun e => pairKey e.layer e.slot e.bank)))
  let tids := ascending ((indexList s d P m).map (·.1))
  adIds.filterMap (fun k => (ads.find? (fun g => g.1 == k)).map (fun g => (0, k, g.2.gen))) ++
    pairs.filterMap (fun k => ((P.pairs.getD k {}).cur).map (fun g => (1, k, g.gen))) ++
    tids.filterMap (fun k => (P.traits.tbls.find? k).map (fun t => (2, k, t.gen)))

/-- The half of the manifest object of a step. -/
def manHalf (step : Nat) : Nat := step % 2 * (17 * 1048576)

/-! ## Host manifests (R233) -/

/-- A row entry read from its two words. -/
def rowOfWords (w0 w1 : Nat) : Row :=
  { ctx := if bitOf w0 49 then some (fld w0 63 50) else none, kind := fld w0 48 47, node := fld w0 46 41, parent := fld w0 40 35,
    pos := fld w0 34 11, desc := fld w1 63 46 }

def descOfWords (w : List W64) : Desc :=
  { bind := w.take 5, bag := (w.getD 5 0).toNat, cref := wfld (w.getD 6 0) 63 32, nbag := wfld (w.getD 6 0) 31 23 }

/-- A manifest as its bytes give it (Tables CTX-5 to CTX-8): rows, descriptors, seed. -/
def manParse (step : Nat) (bs : List Byte) : Man :=
  let word (o : Nat) : Nat := leNat ((bs.drop o).take 8)
  let f (i hi lo : Nat) : Nat := fld (word (8 * i)) hi lo
  let o1 := 64 + a64 (16 * f 2 63 45)
  { step := step
    host := f 1 18 18 == 1
    rows := (List.range (f 2 63 45)).map (fun i => rowOfWords (word (64 + 16 * i)) (word (72 + 16 * i)))
    ndec := f 2 44 30
    descs := (List.range (f 4 31 0)).map (fun i => descOfWords ((List.range 8).map (fun j => w64 (word (o1 + 64 * i + 8 * j)))))
    seed := f 3 63 0
    target := false
    binds := []
    gens := [] }

/-- Check 1 of Table CTX-10 and the manifest read: its header words, its rows, its descriptors. -/
def manRead (s : State) (d h off step : Nat) : Option Man :=
  let hw := (chunks 8 (objBytes s d h off 64)).map (fun b => leNat b)
  let f (i hi lo : Nat) : Nat := fld (hw.getD i 0) hi lo
  let nrows := f 2 63 45
  let ndesc := f 4 31 0
  let ngen := f 4 63 32
  let len := f 5 63 0
  let o1 := 64 + a64 (16 * nrows)
  let want := o1 + a64 (64 * ndesc) + 8 * ngen
  if f 0 63 32 ≠ 0x4D414E49 || f 0 31 16 ≠ 1 || f 1 63 24 ≠ step || f 1 23 19 ≠ d || f 1 18 18 ≠ 1 ||
      nrows = 0 || 262144 < nrows || 65536 < ndesc || 1056832 < ngen || 17 * 1048576 < len || len < want ||
      nrows < f 2 44 30 then none
  else
    let bs := objBytes s d h off len
    if crc32 ((bs.take 56) ++ leBytes 4 0 ++ bs.drop 60) ≠ f 7 31 0 then none
    else
      let m := manParse step bs
      if !m.rows.all (fun r => r.kind == 3 || r.ctx.isSome || decide (r.desc < ndesc)) ||
          m.descs.any (fun x => decide (256 < x.nbag)) || (!cfgCkeep s && m.rows.any (fun r => r.ctx.isSome)) ||
          m.rows.any (fun r => r.kind == 3 && r.ctx.isSome) then none
      else some m

/-- The rows of each tree lie in consecutive rows of one window (R101). Tree rows that name no context and share a descriptor
are taken as one tree, since such rows share binding, bag and CREF (R233; DESIGN CHOICE, notes/assumptions/100.md). -/
def treesWhole (m : Man) : Bool :=
  let same (a b : Row) : Bool := a.kind == 2 && b.kind == 2 && a.ctx == b.ctx && (a.ctx.isSome || a.desc == b.desc)
  (manRows m).all (fun i => (manRows m).all (fun j =>
    match m.rows[i]?, m.rows[j]? with
    | some a, some b => !(decide (i < j) && same a b) || (i / 256 == j / 256 &&
        (List.range (j - i)).all (fun k => match m.rows[i + k]? with | some x => same a x | none => false))
    | _, _ => true))

/-- A context of the partition as it is known to stand after the coming boundary. -/
def knownHere (s : State) (P : Part) (d c : Nat) : Option Ctx := (ctxOf s c).bind (fun x => if x.part = d then knownCtx s P d c x else none)

/-- The bindings that the contexts of a manifest are known to have after the coming boundary (R59). -/
def knownBinds (s : State) (d : Nat) (P : Part) (m : Man) : Tab (List W64 × Nat) :=
  (manCtxs m).foldl (fun t c => match knownHere s P d c with | some x => t.put c (x.bind, x.nbag) | none => t) []

/-- Table CTX-10, checks 2 to 6, over a manifest read; the manifest with its mode and its contexts' bindings. -/
def manCheck (s : State) (p d : Nat) (P : Part) (m0 : Man) : Nat × Man :=
  let known := knownHere s P d
  let cs := manCtxs m0
  let m1 := { m0 with binds := knownBinds s d P m0 }
  let target := (dedup (manBinds m1)).any (bindStreams P)
  let m := { m1 with target := target }
  let rowsOf (c : Nat) : List Row := m.rows.filter (fun r => r.ctx == some c)
  let bound (b : List W64) : Nat :=
    let c := bindChecks s p P b (if P.inStep then 1 else 0)
    if c ≠ 0 then c else if pinsAttached P b then Code.genPinned else 0
  let binding := ((m.descs.map (fun x => bound x.bind)).find? (fun c => c != 0)).getD 0
  let code :=
    if !cs.all (fun c => match known c with
      | some x => x.st == .ready && (rowsOf c).all (fun r => decide (x.pos ≤ r.pos))
      | none => false) then Code.ctxState
    else if valD s 6 0x33 d 16384 < m.ndec || valD s 6 0x34 d 262144 < m.rows.length ||
        !kvFits s d P (cs.filterMap (fun c => (known c).map (fun x => (x, rowsOf c)))) then Code.limitRange
    else if !treesWhole m then Code.treeSplit
    else if binding ≠ 0 then binding
    else if 8192 < segCount P (dedup (manBinds m)) then Code.segLimit
    else if !traitFits s d P m then Code.traitLimit
    else if !trainFits s d P m then Code.trainLimit
    else if !manFits s p P m target then (if target then Code.fitTarget else Code.fitLayer)
    else if !panelsPass s p d P m then Code.panelRate
    else if P.backlog.any (fun e => e.ctx.isNone) then Code.cqFull
    else Code.ok
  (code, m)

/-! ## What firmware publishes of a step -/

/-- The tile time of a sequence of blocks of C and L cycles (R77); the first load is free in Shrink. -/
def tileTime (l : List (Nat × Nat)) (first : Bool) : Nat :=
  let rec go : List (Nat × Nat) → Nat
    | [] => 0
    | [x] => x.1
    | x :: y :: t => Nat.max x.1 y.2 + go (y :: t)
  if l.isEmpty then 0 else (if first then ((l.head?).map (·.2)).getD 0 else 0) + go l + 16

/-- T₁ of a window, in TILE cycles (R78). -/
def windowTime (s : State) (p d : Nat) (c : WinCtx) : Nat :=
  if c.tags.isEmpty then 12
  else
    let su := shrinkUnits c
    let where' := deal c.w.tiles (su.map (fun u => let x := shrinkCost s p d c u (blockDepth c 0); x.1 + x.2))
    let n := ceilDiv (redDim c) 128
    let blocks (u : WUnit) : List (Nat × Nat) :=
      (if c.w.key.bwd then List.range n else [n - 1]).map (fun k => shrinkCost s p d c u (blockDepth c k))
    let ts := maxBy c.w.tiles (fun t => tileTime ((List.zip where' su).flatMap (fun x => if x.1 = t then blocks x.2 else [])) false)
    let cu := (coreUnits c).map coreCost
    let tc := if cu.isEmpty then 0 else ceilDiv (sumBy cu (fun x => x.1 + x.2)) (Nat.max c.w.tiles.length 1) + maxBy cu (fun x => x.1 + x.2) + 16
    let n := expandCount c.w (outDim c)
    let te := maxBy c.w.tiles (fun t => tileTime (((List.range n).filter (fun j => blockTile c.w j == t)).flatMap (expandBlocksOf c)) true)
    ts + 8 + tc + 8 + te + 12

/-- The slice set that the plan of a resident partition names (R255). -/
def sliceSet (s : State) (p d : Nat) : Option Nat := let n := valP s 7 0x22 p d; if n < 7 then some n else none

/-- The set of a resident partition where it is slicing. -/
def slicingSet (s : State) (p d : Nat) : Option Nat := (sliceSet s p d).filter (fun n => (s.slices.getD n {}).slicing)

/-- The cycles that sharing quads adds to T₁ (R254); none where a sharer has equal or higher priority. Members of a set that
is slicing do not count (R256). -/
def shareCycles (s : State) (p d : Nat) : Option Nat :=
  let mask := valP s 7 0x20 p d
  let mine := slicingSet s p d
  let sharers := (residents s).filter (fun e => e.1 != d && !(mine.isSome && mine == e.2.slot.bind (fun p' => sliceSet s p' e.1)) && (match e.2.slot with
    | some p' => valP s 7 0x20 p' e.1 &&& mask != 0
    | none => false))
  if sharers.isEmpty then some 0
  else if sharers.any (fun e => match e.2.slot with
    | some p' => decide (valP s 7 0x21 p' e.1 ≤ valP s 7 0x21 p d)
    | none => false) then none
  else some (3 * 272 + 256)

/-- The static hold bound of a step in ns, rounded up (R98, R254); times are counted in units of
1 / (1000 × f_TILE × f_APORT). -/
def holdBound (s : State) (p d : Nat) (P : Part) (m : Man) : Nat :=
  let extra := (shareCycles s p d).getD 0
  let ft := Nat.max (valU s 1 4) 1
  let fa := Nat.max (valU s 1 5) 1
  let i := valP s 12 0x10 p d * ft * fa
  let lag := valP s 12 0x11 p d
  let eh := valP s 12 0x12 p d * 1000 * ft * fa
  let nw := ceilDiv m.rows.length 256
  let dirs := if hasBwd P then [false, true] else [false]
  let tgts (bwd : Bool) : List Tgt := sortBy (fun t => (if bwd then 255 - t.layer else t.layer) * 16 + t.slot) P.shape.tgts
  let wins := dirs.flatMap (fun b => (tgts b).flatMap (fun t => (List.range nw).map (fun w => (b, t, w))))
  -- panels up to and with each window's last, its cycles and its chunks
  let data := wins.map (fun x =>
    let c := planWin s p d P m x.1 x.2.1 x.2.2
    let e := (dedup (c.w.tiles.map (· / 4))).length
    (ceilDiv x.2.1.din 128, (windowTime s p d c + extra) * 1000000 * fa,
     let n := if x.1 then (mergeList c).length else c.w.n * ceilDiv x.2.1.dout 512
     Nat.max (n * 1000000 * ft) (ceilDiv n (Nat.max e 1) * 1000000 * fa)))
  let last (k : Nat) : Nat := sumBy (data.take (k + 1)) (·.1) * i
  let step (a : Nat × Nat × Nat) (k : Nat) : Nat × Nat × Nat :=
    match data[k]? with
    | none => a
    | some x =>
      let done := Nat.max a.1 (last k + a.2.1 + x.2.1) + x.2.2
      let req := last (Nat.min (k + lag) (data.length - 1)) + eh + a.2.1
      let hold := done + 2 * 1000000 * ft - req
      (done, a.2.1 + hold, a.2.2 + hold)
  if (shareCycles s p d).isNone then 2 ^ 64 - 1
  else ceilDiv ((List.range data.length).foldl step (0, 0, 0)).2.2 (1000 * ft * fa)

/-- The transfer rate of a channel in MT/s: the lowest that a mounted chip enable of its group of four allows (R155). -/
def chRate (s : State) (ch : Nat) : Nat :=
  (s.fl.ces.filter (fun e => e.1 / 4 == ch / 4)).foldl (fun a e => e.2.foldl (fun a ce => Nat.min a (s.fl.ceRate.getD (8 * e.1 + ce) 3600)) a) 3600

/-- ρ_3 in MB/s (R163): 0 while the tier is not mounted. Each channel's rate is rounded down to whole MB/s before the sum is taken (log
entry 116). -/
def rho3 (s : State) : Nat :=
  match s.fl.geo with
  | none => 0
  | some g => if !s.fl.present then 0 else sumBy (List.range (cfgFlash s)) (fun ch =>
      let u := sumBy (s.fl.ces.getD ch []) (fun ce =>
        ((List.range g.luns).filter (fun l => !s.fl.lost.contains (ch * 32 + ce * 4 + l))).length)
      if u = 0 then 0 else Nat.min (chRate s ch * 8 / 9) (u * g.planes * g.page * 1000 / Nat.max g.tr 1))

/-! ## Kindling slack (R119, R184) -/

/-- TILE cycles in ps, rounded up. -/
def tilePs (s : State) (cycles : Nat) : Nat := ceilDiv (cycles * 1000000) (Nat.max (valU s 1 4) 1)

/-- Reads as R119 weighs them: tier, port and bytes. -/
abbrev ReadLoad := List (Nat × Nat × Nat)

/-- The reads of part of an extent. -/
def extLoad (s : State) (x off n : Nat) : ReadLoad := (extPieces s x off n).map (fun q => let h := imagePlace s x none q.1; (h.1, h.2.1, q.2))

/-- The reads of an item of a unit. -/
def itemLoad (s : State) (d : Nat) (P : Part) (m : Man) (layer : Nat) (k : ItemKind) : ReadLoad :=
  match k with
  | .pooled r => (pooledParts s d P m r layer).flatMap (fun q => extLoad s q.1 q.2.1 q.2.2)
  | _ =>
    match itemSource P layer k with
    | some (g, e) => if g.src = 0 then [(0, bareport s, a64 e.plen)] else extLoad s (xKey d g.base (1 + sectIndex g e)) 0 e.plen
    | none => []

/-- max_m (B_m / β_m) over the memory ports, in ps. -/
def portPs (s : State) (p d : Nat) (l : ReadLoad) : Nat :=
  maxBy (List.range 12) (fun m =>
    let r := valP s 7 0x70 (12 * p + m) d
    ceilDiv (sumBy (l.filter (fun x => x.1 != 2 && x.2.1 == m)) (·.2.2) * 1000000) (if r = 0 then 896000 else Nat.min 896000 r))

/-- Λ: the largest latency of the tiers that are read, in ps. -/
def loadLambda (s : State) (l : ReadLoad) : Nat := maxBy l (fun x => 1000 * lambdaNs x.1 (valU s 2 0x10) (valU s 2 0x11))

/-- The segments of the step's bags in the order of their first use (R184). -/
def segOrder (bags : List Bag) : List Nat :=
  dedup ((List.range 256).flatMap (fun l => (bags.map (fun b => poolLmap b.spec l)).filter (· != 15)))

/-- The least power of two that is at least `n`: the leaves of a pooling tree (R183). -/
def pow2Up (n : Nat) : Nat := if n ≤ 1 then 1 else 2 ^ (Nat.log2 (n - 1) + 1)

/-- The Element Engine cycles of a segment: T_E (R184). -/
def poolSegCycles (s : State) (p d : Nat) (P : Part) (bags : List Bag) (seg : Nat) : Nat :=
  ceilDiv (sumBy (bags.filter (fun b => (usedSegs b.spec).contains seg)) (fun b =>
    let c := ((bagEntries s b).filter (fun e => match entryTbl P b e with | some w => tblComp w != 0 | none => false)).length
    poolW b.spec * (pow2Up b.n - 1 + c + (if poolMean b.spec then 2 else 1)))) (512 * Nat.max (quadsOf s p d).length 1)

/-- T_pool: the bound of the end of a segment's pooling, in ps (R184). -/
def poolPs (s : State) (p d : Nat) (P : Part) (m : Man) (bags : List Bag) (seg : Nat) : Nat :=
  let rows : ReadLoad := (indexList s d P m).flatMap (fun k =>
    match rowPlace s d P m.step k with
    | some (h, off, n, _) =>
      (match objOf s d h with
       | some o => (objParts 131074 o off n).flatMap (fun q => extLoad s (xKey d h q.1) q.2.1 q.2.2)
       | none => [])
    | none => [])
  let order := segOrder bags
  tilePs s (ceilDiv (sumBy bags (·.n)) 16) + portPs s p d rows + loadLambda s rows +
    sumBy (order.take (order.findIdx (· == seg) + 1)) (fun g => tilePs s (poolSegCycles s p d P bags g))

/-- Panels of a unit. -/
def unitPanels (P : Part) (nw : Nat) (u : Bool × Nat × Option Nat) : Nat :=
  nw * sumBy ((unitSlots P u).filterMap (fun t => tgtOf P u.2.1 t)) (fun t => ceilDiv t.din 128)

/-- The time from the last panel of a unit to the release of its region, in ps: each window ends its Expand 12 cycles before the
bound of R78, and the panels of the windows after it have passed by then. -/
def releasePs (s : State) (p d : Nat) (P : Part) (m : Man) (u : Bool × Nat × Option Nat) : Nat :=
  let nw := ceilDiv m.rows.length 256
  let wins := ((unitSlots P u).filterMap (fun t => tgtOf P u.2.1 t)).flatMap (fun t => (List.range nw).map (fun w => (t, w)))
  maxBy (List.zip (List.range wins.length) wins) (fun x =>
    tilePs s (windowTime s p d (planWin s p d P m u.1 x.2.1 x.2.2) - 12) -
      valP s 12 0x10 p d * sumBy (wins.drop (x.1 + 1)) (fun y => ceilDiv y.1.din 128))

/-- The Kindling time of unit `k` of a step, in ps (R119). Its region was held by the unit two before it in layer mode and four before
it in target mode; one that the step before held is free. -/
def kindlePs (s : State) (p d : Nat) (P : Part) (m : Man) (k : Nat) (u : Bool × Nat × Option Nat) : Nat :=
  let us := stepUnits P m.target
  let nw := ceilDiv m.rows.length 256
  let back := if m.target then 4 else 2
  let rel := if k < back then 0 else
    match us[k - back]? with
    | some v => releasePs s p d P m v - valP s 12 0x10 p d * sumBy ((us.drop (k - back + 1)).take (back - 2)) (unitPanels P nw)
    | none => 0
  let prio := valP s 7 0x21 p d
  let n := Nat.max 1 ((runningParts s).filter (fun e => match e.2.slot with | some p' => decide (valP s 7 0x21 p' e.1 ≤ prio) | none => false)).length
  let kinds := (unitItems P m u).map (·.1)
  let load := kinds.flatMap (itemLoad s d P m u.2.1)
  let b3 := sumBy (load.filter (fun x => x.1 == 2)) (·.2.2)
  let t := rel + Nat.max (Nat.max (tilePs s (ceilDiv (sumBy load (·.2.2) * n) 4096)) (portPs s p d load))
      (if b3 = 0 then 0 else ceilDiv (b3 * 1000000) (Nat.max (rho3 s) 1)) + loadLambda s load
  let bags := bagsOf s d P m
  let segs := dedup (kinds.filterMap (fun k => match k with
    | .pooled r => (bagOfRow bags m r).bind (fun i => bags[i]?.map (fun b => poolLmap b.spec u.2.1))
    | _ => none))
  if segs.isEmpty then t
  else
    let blocks := (kinds.filter (fun k => match k with | .pooled _ => true | _ => false)).flatMap (itemLoad s d P m u.2.1)
    Nat.max t (maxBy segs (poolPs s p d P m bags) + portPs s p d blocks + loadLambda s blocks)

/-- The smallest Kindling slack of a step, in ns (R119); −2^63 where no panel interval is set. Times are taken in ps, each term rounded
up, and the slack is rounded down to whole ns. A step with a single unit has no unit j + 1 and so no slack: 0 is published (log
entry 113). -/
def kindSlack (s : State) (p d : Nat) (P : Part) (m : Man) : W64 :=
  let i := valP s 12 0x10 p d
  if i = 0 then 0x8000000000000000
  else
    let us := stepUnits P m.target
    let nw := ceilDiv m.rows.length 256
    let sl : List Int := (List.zip (List.range us.length) (List.zip us (us.drop 1))).map (fun x =>
      (((unitPanels P nw x.2.1 * i : Nat) : Int) - ((kindlePs s p d P m (x.1 + 1) x.2.2 : Nat) : Int)) / 1000)
    match sl with
    | [] => w64 0
    | x :: t => BitVec.ofInt 64 (t.foldl (fun a b => if b < a then b else a) x)

/-! ## Publication (R11 order 7, R231, R232, R240) -/

/-- Rows whose contexts are not READY become pad rows; the rows of a tree take their positions from POS (R231, R245). -/
def finalRows (s : State) (d : Nat) (m : Man) : List Row :=
  m.rows.map (fun r =>
    match r.ctx with
    | none => r
    | some c =>
      match ctxOf s c with
      | some x =>
        if x.st != .ready then { padRow with pos := r.pos }
        else if r.kind = 2 && !m.host then { r with pos := x.pos + tplDepth (ctxTpl s d c) r.node }
        else r
      | none => { padRow with pos := r.pos })

/-- Pages and provisional slots of the rows of a step (R240). -/
def allocRows (s : State) (d : Nat) (m : Man) : State :=
  let s1 := forEach (manCtxs m) s (fun s c =>
    allocTo 2049 s d c (maxBy (m.rows.filter (fun r => r.ctx == some c)) (·.pos) / Nat.max (pageTokens s d) 1))
  forEach (m.rows.filter (fun r => r.kind == 2)) s1 (fun s r =>
    match r.ctx, partOf s d with
    | some c, some P =>
      (match nextFrame s d 2 P with
       | some f => updCtx (takeFrame s d 2 f) c (fun x => { x with tree := x.tree.put r.node f })
       | none => s)
    | _, _ => s)

end Sys2Proof.Machine
end

