-- ==== Sys2Proof/Machine/AdptCmds.lean ====
section
/-! DEFINITION. The commands of area 3 (R54 to R59): ADPT_LOAD, the end of its checks, ADPT_UNLOAD and CTX_REBIND, with
their effects at a boundary; and the common shape of a command's row. -/

namespace Sys2Proof.Machine

/-! ## Rows of commands -/

/-- The row of a command without operands: the oldest accepted instance of its object acts. -/
def cmdRow (s : State) (area item : Nat) (f : State → Inst → State) : State :=
  if held s then s
  else match oldest s area item with
    | some i => f s i
    | none => s

/-- The end of work that a named instance has running. -/
def endRow (s : State) (area item : Nat) (r : CmdRef) (st : InstSt) (f : State → Inst → State) : State :=
  if held s then s
  else match instAt s area item r with
    | some i => if i.st = st then f s i else s
    | none => s

/-- The resident slot in the low bits of an argument word. -/
def Inst.slotArg (i : Inst) : Nat := i.arg 0 % 8

/-- Act on the partition resident in the slot that word 0 names; with none, `PART_STATE`. -/
def withSlot (s : State) (i : Inst) (f : Nat → Part → State) : State :=
  match slotPart s i.slotArg with
  | some (d, P) => f d P
  | none => refuse s i none Code.partState

/-- A STEP-class effect of partition `d` (Table OD-3): at once where it has no step in progress, else at the boundary. -/
def atBoundary (s : State) (i : Inst) (d : Nat) (P : Part) (apply : State → Inst → State) : State :=
  if boundaries P = 0 then apply s i
  else setInst s { i with st := .pending, wait := boundaries P, part := d }

/-! ## ADPT_LOAD (R54, R55) -/

/-- The extents of an image object: the header with the section table, then each section (R131). -/
def imageCuts (g : AGen) : List (Nat × Nat) :=
  (0, a64 (64 + 32 * g.nsect)) :: g.sects.map (fun e => (e.poff, e.plen))

/-- A source that names no T3 object of the partition (R435), a tier that is absent (R16), and an object with a publish
in flight (R164). -/
def loadSource (s : State) (d : Nat) (i : Inst) : Nat :=
  if bitOf (i.arg 0) 8 then
    (if cfgFlash s = 0 || !s.fl.present then Code.tierAbsent
     else match objOf s d (i.arg 1 % 2 ^ 20) with
       | some o =>
         if o.home ≠ 3 then Code.limitRange
         else if s.fl.pubs.any (fun q => q.d == d && q.handle == i.arg 1 % 2 ^ 20) then Code.objBusy else Code.ok
       | none => Code.limitRange)
  else Code.ok

def loadBase (i : Inst) : Nat × Nat := if bitOf (i.arg 0) 8 then (1, i.arg 1 % 2 ^ 20) else (0, i.arg 1 % 2 ^ 52)

/-- The oldest ADPT_LOAD begins its checks. -/
def adptLoadBegin (s : State) (i : Inst) : State :=
  withSlot s i (fun d _ =>
    let c := loadSource s d i
    if c ≠ 0 then refuse s i (some d) c else setInst s { i with st := .checking, part := d })

def execAdptLoad (s : State) : Out3 := .next (cmdRow s 3 0x10 adptLoadBegin)

/-- Make a checked generation the one that awaits its installation, after `n` boundaries. -/
def stageGen (s : State) (d n : Nat) (h : ImgHdr) (g : AGen) : State :=
  updPart s d (fun P =>
    if h.bank then
      { P with pairs := (List.zip (List.range g.sects.length) g.sects).foldl (fun t e =>
          let k := pairKey e.2.layer e.2.slot e.2.bank
          t.put k { (t.getD k {}) with next := some ({ g with sects := [e.2], first := e.1 }, n) }) P.pairs }
    else { P with adpts := P.adpts.put h.id { (P.adpts.getD h.id {}) with next := some (g, n) } })

/-- Install what awaits its installation: the current generation becomes the previous one (R55). -/
def Adpt.install (a : Adpt) : Adpt :=
  match a.next with
  | some (g, _) => { a with cur := some g, prev := a.cur, next := none }
  | none => a

/-- Installation of one staged image at once. -/
def installNow (s : State) (d : Nat) (h : ImgHdr) (g : AGen) : State :=
  updPart s d (fun P =>
    if h.bank then { P with pairs := g.sects.foldl (fun t e => t.upd (pairKey e.layer e.slot e.bank) Adpt.install) P.pairs }
    else { P with adpts := P.adpts.upd h.id Adpt.install })

/-- Keys of what an image loads: adapters below 2^32, pairs above. -/
def loadDone (s : State) (i : Inst) (d : Nat) (h : ImgHdr) : State :=
  finish s i (some d) Code.ok (w64 h.id) (w64 h.gen)

/-- The checks of an ADPT_LOAD end (Table ADPT-6). An adapter that is attached for training takes no load (R194). -/
def adptLoadEnd (s : State) (i : Inst) : State :=
  match partOf s i.part with
  | none => refuse s i none Code.partState
  | some P =>
    let (src, base) := loadBase i
    let c := adptChecks s i.part P src base
    let (h, g) := imgGen s i.part src base
    if c ≠ 0 then refuse s i (some i.part) c
    else if !h.bank && adapterAttached P h.id then refuse s i (some i.part) Code.adapterBusy
    else
      let s1 := if src = 1 then { s with tm := { s.tm with objs := s.tm.objs.upd (objKey i.part base) (fun o => { o with cuts := imageCuts g }) } } else s
      let n := boundaries P
      if n = 0 then loadDone (installNow (stageGen s1 i.part 0 h g) i.part h g) i i.part h
      else setInst (stageGen s1 i.part 1 h g) { i with st := .pending, wait := 1 }

def execAdptLoadChecksEnd (r : CmdRef) (s : State) : Out3 := .next (endRow s 3 0x10 r .checking adptLoadEnd)

/-- A pending load at its boundary. -/
def applyAdptLoad (s : State) (i : Inst) : State :=
  match partOf s i.part with
  | none => refuse s i none Code.partState
  | some P =>
    let (src, base) := loadBase i
    let h := imgHdr (imgWords s i.part src base 0 8)
    let a := P.adpts.vals.filterMap (fun a => a.next.bind (fun x => if x.1.src = src && x.1.base = base then some x.1 else none))
    let b := P.pairs.vals.filterMap (fun a => a.next.bind (fun x => if x.1.src = src && x.1.base = base then some x.1 else none))
    let done (s : State) : State := finish s i (some i.part) Code.ok (w64 h.id) (w64 (((a ++ b).head?.map (·.gen)).getD h.gen))
    let mine (x : Adpt) : Bool := match x.next with | some (g, _) => g.src == src && g.base == base | none => false
    done (updPart s i.part (fun P =>
      { P with
        adpts := P.adpts.map (fun e => (e.1, if mine e.2 then e.2.install else e.2))
        pairs := P.pairs.map (fun e => (e.1, if mine e.2 then e.2.install else e.2)) }))

/-! ## ADPT_UNLOAD (R56) -/

def unloadPair (i : Inst) : Bool := bitOf (i.arg 0) 8
def unloadKey (i : Inst) : Nat :=
  if unloadPair i then pairKey (fld (i.arg 1) 19 12) (fld (i.arg 1) 11 8) (fld (i.arg 1) 7 0) else i.arg 1 % 2 ^ 24

/-- A loaded class K section names a basis pair. -/
def pairNamed (P : Part) (k : Nat) : Bool :=
  P.adpts.vals.any (fun a => (a.cur.toList ++ a.prev.toList ++ (a.next.map (·.1)).toList).any (fun g =>
    g.sects.any (fun e => e.hasK && pairKey e.layer e.slot e.bank == k)))

/-- The checks of R56: 0 or the code. -/
def unloadCode (s : State) (d : Nat) (P : Part) (i : Inst) : Nat :=
  let k := unloadKey i
  let a := if unloadPair i then P.pairs.getD k {} else P.adpts.getD k {}
  if a.cur.isNone then (if unloadPair i then Code.basisAbsent else Code.adapterAbsent)
  else if a.next.isSome || a.unload.isSome || (!unloadPair i && adapterAttached P k) then Code.adapterBusy
  else if unloadPair i then (if pairNamed P k then Code.adapterBound else Code.ok)
  else if (bindingsOf s d P).any (fun b => (bindSlots b).any (fun x => x.2.1 == k)) then Code.adapterBound
  else Code.ok

/-- The unload takes effect: ID or pair and both its generations are gone. -/
def applyAdptUnload (s : State) (i : Inst) : State :=
  let k := unloadKey i
  finish (updPart s i.part (fun P =>
    if unloadPair i then { P with pairs := P.pairs.del k } else { P with adpts := P.adpts.del k })) i (some i.part) Code.ok 0 0

def adptUnloadAct (s : State) (i : Inst) : State :=
  withSlot s i (fun d P =>
    let c := unloadCode s d P i
    if c ≠ 0 then refuse s i (some d) c
    else
      let n := boundaries P
      let mark (a : Adpt) : Adpt := { a with unload := some 1 }
      let s1 := updPart s d (fun P =>
        if unloadPair i then { P with pairs := P.pairs.upd (unloadKey i) mark } else { P with adpts := P.adpts.upd (unloadKey i) mark })
      if n = 0 then applyAdptUnload s1 { i with part := d } else setInst s1 { i with st := .pending, wait := 1, part := d })

def execAdptUnload (s : State) : Out3 := .next (cmdRow s 3 0x11 adptUnloadAct)

/-! ## CTX_REBIND (R58, R59) -/

/-- The reserved bits of a binding record are zero where its words are in use. -/
def bindArgs (i : Inst) : List W64 := (i.args.drop 1).take 5

/-- The resident partition in whose range a context lies. -/
def ctxOwner (s : State) (c : Nat) : Option (Nat × Nat × Part) :=
  (residents s).findSome? (fun e =>
    match e.2.slot with
    | some p =>
      let r := ctxRange s e.1
      if r.1 ≤ c && c < r.1 + r.2 then some (p, e.1, e.2) else none
    | none => none)

def rebindAct (s : State) (i : Inst) : State :=
  let c := i.arg 0 % 2 ^ 14
  match ctxOwner s c with
  | none => refuse s i none Code.ctxState
  | some (p, d, P) =>
    if (ctxOf s c).isNone then refuse s i (some d) Code.ctxState
    else
      let code := bindChecks s p P (bindArgs i) (boundaries P)
      if code ≠ 0 then refuse s i (some d) code
      else if pinsAttached P (bindArgs i) then refuse s i (some d) Code.genPinned
      else if boundaries P = 0 then applyRebind s d { i with part := d }
      else
        let (o, s1) := takeOrder s
        setInst s1 { i with st := .pending, wait := boundaries P, part := d, aux := o }

end Sys2Proof.Machine
end

