-- ==== Sys2Proof/Machine/Operands.lean ====
section
/-! DEFINITION. Operand forms of Element Engine instructions (Tables EE-3 and EE-5a to EE-5f): the fields of the
instruction word, LEN, tile registers and the Scalar Exchange File. -/

namespace Sys2Proof.Machine

/-! ## Engines -/

def engOf (s : State) (q : Nat) : Eng := s.ee.getD q {}

def setEng (s : State) (q : Nat) (e : Eng) : State := { s with ee := s.ee.set {} q e }

/-! ## Rows of a tile register

A row of 512 B is held as one little-endian number (R4, R279). -/

/-- The key of row `i` of tile register `r`. -/
def rowKey (r i : Nat) : Nat := r * 32 + i

def rowOf (e : Eng) (r i : Nat) : Nat := e.m.getD (rowKey r i) 0

/-- Replace `n` elements of `w` bits from element `off` of a row by `vals`. -/
def rowPut (old w off : Nat) (vals : List Nat) : Nat :=
  let n := vals.length
  let new := vals.foldr (fun v a => v % 2 ^ w + a * 2 ^ w) 0
  old % 2 ^ (w * off) + (new + (old >>> (w * (off + n))) * 2 ^ (w * n)) * 2 ^ (w * off)

def setRow (e : Eng) (r i : Nat) (v : Nat) : Eng := { e with m := e.m.set 0 (rowKey r i) (v % 2 ^ 4096) }

/-- Set rows `0 .. rows.length − 1` of a register. -/
def setRows (e : Eng) (r : Nat) (rows : List Nat) : Eng :=
  (List.zip (List.range rows.length) rows).foldl (fun e x => setRow e r x.1 x.2) e

/-! ## Poisoned words of tile registers (R397, R399) -/

/-- Elements of `bits` bits of a row of a register, from `off`, with their block scales where `mx`. -/
structure RegSpan where
  reg : Nat
  row : Nat
  bits : Nat
  off : Nat
  n : Nat
  mx : Bool := false
  deriving DecidableEq, Repr

/-- The words that element `j` of a span lies in: its own, and that of its block scale. -/
def RegSpan.wordsOf (x : RegSpan) (j : Nat) : List Nat :=
  let a := x.bits * (x.off + j)
  let at' (k : Nat) : Nat := 64 * rowKey x.reg x.row + k
  [at' (a / 64), at' ((a + x.bits - 1) / 64)] ++ (if x.mx then [at' (60 + (x.off + j) / 256)] else [])

/-- The words of a span. -/
def RegSpan.words (x : RegSpan) : List Nat := (List.range x.n).flatMap x.wordsOf

/-- Element `j` of a span lies in a poisoned word. -/
def RegSpan.hit (x : RegSpan) (bad : List Nat) (j : Nat) : Bool := (x.wordsOf j).any bad.contains

/-- The elements of spans that lie in poisoned words, each a NaN substitution of the instruction that reads them (Table REL-1). -/
def poisonCensus (bad : List Nat) (l : List RegSpan) : Census :=
  if bad.isEmpty then {} else { nan := sumBy l (fun x => ((List.range x.n).filter (x.hit bad)).length) }

/-- A row as an instruction reads it: the elements of the span in poisoned words are +0. -/
def seenRow (e : Eng) (x : RegSpan) : Nat :=
  let row := rowOf e x.reg x.row
  if e.bad.isEmpty then row
  else rowPut row x.bits x.off ((List.range x.n).map (fun j => if x.hit e.bad j then 0 else elemAt row x.bits (x.off + j)))

/-- A word that is written again is poisoned no longer. -/
def wipe (e : Eng) (l : List RegSpan) : Eng :=
  if e.bad.isEmpty then e else { e with bad := e.bad.filter (fun k => !l.any (fun x => x.words.contains k)) }

/-- Reading poisoned words is recorded as ECC_SUBST in the step of the partition in slot `p` (R399, R424). -/
def poisonRead (s : State) (p : Nat) (bad : List Nat) (l : List RegSpan) : State :=
  forEach (bad.filter (fun k => l.any (fun x => x.words.contains k))) s (fun s k =>
    match slotPart s p with
    | some (d, P) =>
      let key := P.stream.last.getD { step := P.step, bwd := false, layer := 0, tslot := 0, win := 0, tick := 0 }
      recEvent s d 9 key none (6 + k / 8 * 2 ^ 8)
    | none => s)

/-- The elements of rows `0 .. n − 1` of a register. -/
def regSpans (r n bits off cols : Nat) (mx : Bool) : List RegSpan :=
  (List.range n).map (fun i => { reg := r, row := i, bits := bits, off := off, n := cols, mx := mx })

/-! ## LEN (Table EE-3) and SX (R282) -/

/-- Reset value of LEN: 32 rows of 128 columns. -/
def lenReset : Nat := 0x7F1F

def lenOf (e : Eng) (p : Nat) : Nat := e.len.getD p lenReset
def lenRows (e : Eng) (p : Nat) : Nat := fld (lenOf e p) 4 0 + 1
def lenCols (e : Eng) (p : Nat) : Nat := fld (lenOf e p) 14 8 + 1

/-- The implemented bits of LEN; the reserved ones read zero. -/
def lenMask (w : Nat) : Nat := fld w 14 8 * 256 + fld w 4 0

def setLen (e : Eng) (p w : Nat) : Eng := { e with len := e.len.set lenReset p (lenMask w) }

def sxKey (p i : Nat) : Nat := p * 64 + i
def sxOf (e : Eng) (p i : Nat) : W64 := e.sx.getD (sxKey p i) 0
def setSx (e : Eng) (p i : Nat) (w : W64) : Eng := { e with sx := e.sx.set 0 (sxKey p i) w }

/-- A scalar operand: bits [31:0] of its entry. -/
def sxScalar (e : Eng) (p i : Nat) : Nat := wfld (sxOf e p i) 31 0

/-! ## Fields of the formats -/

def fOp (w : Nat) : Nat := fld w 63 56
def fMd (w : Nat) : Nat := fld w 55 52
def fMa (w : Nat) : Nat := fld w 51 48
def fMb (w : Nat) : Nat := fld w 47 44
def fMc (w : Nat) : Nat := fld w 43 40
def fBsel (w : Nat) : Nat := fld w 39 38
def fSxi (w : Nat) : Nat := fld w 37 32
/-- SUM and SXD of Formats A and R. -/
def fSum (w : Nat) : Bool := bitOf w 31
def fSxd (w : Nat) : Nat := fld w 29 24

/-- EE_REGMASK of slot `p` names register `r` (R280). -/
def regOk (s : State) (p r : Nat) : Bool :=
  match slotPart s p with
  | some (d, _) => bitOf (valP s 7 0x24 p d) r
  | none => false

/-- Operand B of Format A at row `i`: the columns `0 .. cols − 1` (BSEL of Table EE-5a). -/
def operandB (e : Eng) (p w i cols : Nat) : List Nat :=
  match fBsel w with
  | 0 => (List.range cols).map (fun j => elemAt (rowOf e (fMb w) i) 32 j)
  | 1 => List.replicate cols (sxScalar e p (fSxi w))
  | 2 => (List.range cols).map (fun j => elemAt (rowOf e (fMb w) (fld (sxOf e p (fSxi w)).toNat 4 0)) 32 j)
  | _ => List.replicate cols (elemAt (rowOf e (fMb w) i) 32 (fld (sxOf e p (fSxi w)).toNat 6 0))

/-- A register operand at row `i`. -/
def operandReg (e : Eng) (r i cols : Nat) : List Nat := (List.range cols).map (fun j => elemAt (rowOf e r i) 32 j)

/-- Columns of a register row that a format holds (Table EE-2). -/
def rowCapacity (code : Nat) : Nat :=
  match fmtOf code with
  | some f => (if f.isMx then 3840 else 4096) / f.bits
  | none => 0

end Sys2Proof.Machine
end

