-- ==== Sys2Proof/Machine/Flags.lean ====
section
/-! DEFINITION. What an Element Engine instruction reports beside its results: the census word (Table EE-8), the
summary (R291) and the partition counters of Table NUM-4; and the timing of R296. -/

namespace Sys2Proof.Machine

/-- Table EE-8: each field saturates at its largest value. -/
def censusWord (c : Census) : Nat :=
  Nat.min c.nan 0xFFFF * 2 ^ 48 + Nat.min c.inf 0xFFFF * 2 ^ 32 + Nat.min c.sat 0xFFFF * 2 ^ 16 +
    Nat.min c.clamp 0xFF * 2 ^ 8 + Nat.min c.scaleNan 0xFF

/-- The largest magnitude of FP32 encodings. -/
def maxMag (l : List Nat) : Nat := l.foldl (fun a x => Nat.max a (x % 2 ^ 31)) 0

/-- The results placed at the row-major positions 32 × 128 of the destination, +0 elsewhere (R291): rows of FP32
encodings from row `r0` and column `c0`. -/
def placed (r0 c0 : Nat) (rows : List (List Nat)) : List Nat :=
  List.replicate (128 * r0) 0 ++
    rows.flatMap (fun r => padTo 128 (List.replicate c0 0 ++ r)) ++
    List.replicate (4096 - 128 * (r0 + rows.length)) 0

/-- The summary of R291 as the three SX words. -/
def summary (r0 c0 : Nat) (rows : List (List Nat)) (c : Census) : W64 × W64 × W64 :=
  (w64 (maxMag rows.flatten), w64 (treeSum (placed r0 c0 rows)).1, w64 (censusWord c))

/-- Write three SX entries from `i`. -/
def setSx3 (e : Eng) (p i : Nat) (x : W64 × W64 × W64) : Eng :=
  setSx (setSx (setSx e p i x.1) p (i + 1) x.2.1) p (i + 2) x.2.2

/-! ## Timing (R296, Table EE-10) -/

/-- The cycle at which row group `g` of register `r` has been written. -/
def readyAt (sg : Seg) (r g : Nat) : Nat := sg.ready.getD (r * 8 + g) 0

/-- The issue cycles of `n` row groups: group `k` no earlier than the one before it plus the interval, and no
earlier than every group its operands need. The answer is in rising `k`. -/
def issueTimes (start interval : Nat) (needs : Nat → Nat) : Nat → List Nat
  | 0 => []
  | n + 1 =>
    let l := issueTimes start interval needs n
    let base := match l.getLast? with | some t => t + interval | none => start
    l ++ [Nat.max base (needs n)]

/-- Issue an instruction of `groups` row groups that reads registers through `needs` and writes the groups
`outs k` of register `dst`. -/
def Seg.issue (sg : Seg) (groups interval lat : Nat) (needs : Nat → Nat) (dst : Option Nat) (outs : Nat → Nat) : Seg :=
  let ts := issueTimes sg.now interval needs groups
  let done := match ts.getLast? with | some t => t + interval | none => sg.now + 1
  let ready := match dst with
    | some r => (List.zip (List.range ts.length) ts).foldl (fun m x => m.set 0 (r * 8 + outs x.1) (x.2 + lat)) sg.ready
    | none => sg.ready
  { sg with now := done, ready := ready, lat := lat }

/-- A control instruction: one cycle. -/
def Seg.control (sg : Seg) : Seg := { sg with now := sg.now + 1 }

end Sys2Proof.Machine
end

