-- ==== Sys2Proof/Machine/TraitCmds.lean ====
section
/-! DEFINITION. The commands of area 4 (R172 to R191): TBL_DEFINE, TBL_DROP, POOL_DEF, TROW_PUT and the end of its copy,
TROW_FLIP, and the end of a row's fold-back. -/

namespace Sys2Proof.Machine

/-! ## Descriptors -/

/-- `n` bytes at a T1 address that a command names. -/
def argBytes (s : State) (i : Inst) (n k : Nat) : List Byte := bytesAt s.mem (memKey 0 (i.arg n % 2 ^ 52)) k

def bytesWords (bs : List Byte) : List W64 := (chunks 8 bs).map (fun b => w64 (leNat b))

/-- Reserved bits of a trait table descriptor (Table TRAIT-1). -/
def tblReserved (w : List W64) : Bool :=
  let f (i hi lo : Nat) : Nat := fld (w.getD i 0).toNat hi lo
  f 0 31 0 == 0 && f 2 43 0 == 0 && f 4 43 0 == 0 && f 6 47 0 == 0 && f 7 31 0 == 0

/-- An object that holds `rows` rows of `stride` bytes. -/
def rowsFit (s : State) (d h rows stride : Nat) : Bool :=
  match objOf s d h with
  | some o => decide (rows * stride ≤ o.bytes)
  | none => false

/-- R174: 0 or the code of TBL_DEFINE. -/
def tblCode (s : State) (d : Nat) (P : Part) (bs : List Byte) : Nat :=
  let w := bytesWords bs
  if wfld (w.getD 7 0) 63 32 ≠ crc32 (bs.take 60) || !tblReserved w || (tblComp w < 2 && tblHandle w true ≠ 0) then Code.imageBad
  else if tblNseg w = 0 || 15 < tblNseg w || tblW64 w = 0 || 512 < tblW64 w || tblLrows w = 0 || 2 ^ 32 < tblLrows w || wfld (w.getD 6 0) 63 48 = 0xFFFF ||
      131072 < tblElems w || (tblComp w = 0 && tblRows w false < tblLrows w) || !rowsFit s d (tblHandle w false) (tblRows w false) (tblStride w) ||
      (2 ≤ tblComp w && !rowsFit s d (tblHandle w true) (tblRows w true) (tblStride w)) then Code.limitRange
  else if (P.traits.tbls.find? (tblTid w)).isSome then Code.objBusy
  else Code.ok

/-- A physical table's object is cut into rows (R131, R173). -/
def setStride (s : State) (d h n : Nat) : State :=
  { s with tm := { s.tm with objs := s.tm.objs.upd (objKey d h) (fun o => { o with stride := n }) } }

def applyTblDefine (s : State) (i : Inst) : State :=
  let w := bytesWords (argBytes s i 1 64)
  finish (updTraits s i.part (fun t => { t with tbls := t.tbls.upd (tblTid w) (fun b => { b with wait := 0 }) })) i (some i.part) Code.ok 0 0

def tblDefineAct (s : State) (i : Inst) : State :=
  withSlot s i (fun d P =>
    let bs := argBytes s i 1 64
    let w := bytesWords bs
    let c := tblCode s d P bs
    if c ≠ 0 then refuse s i (some d) c
    else
      let n := Nat.min 1 (boundaries P)
      let s1 := setStride s d (tblHandle w false) (tblStride w)
      let s2 := if 2 ≤ tblComp w then setStride s1 d (tblHandle w true) (tblStride w) else s1
      let s3 := updTraits s2 d (fun t => { t with tbls := t.tbls.put (tblTid w) { desc := w, gen := wfld (w.getD 6 0) 63 48, wait := n } })
      if n = 0 then finish s3 i (some d) Code.ok 0 0
      else setInst s3 { i with st := .pending, wait := 1, part := d, aux := tblTid w })

def execTblDefine (s : State) : Out3 := .next (cmdRow s 4 0x10 tblDefineAct)

/-- The table of a boundary's TBL_DEFINE becomes usable: kept by the number that the instance holds. -/
def applyTblUsable (s : State) (i : Inst) : State :=
  finish (updTraits s i.part (fun t => { t with tbls := t.tbls.upd i.aux (fun b => { b with wait := 0 }) })) i (some i.part) Code.ok 0 0

/-! ## TBL_DROP (R174) -/

/-- Word 0 [13:8] of the commands that name a table. -/
def Inst.tidArg (i : Inst) : Nat := fld (i.arg 0) 13 8

def poolNames (P : Part) (tid : Nat) : Bool :=
  P.traits.pools.vals.any (fun x => (x.cur.toList ++ (x.next.map (·.1)).toList).any (fun w => bitOf (poolTmask w) tid))

def applyTblDrop (s : State) (i : Inst) : State :=
  finish (updTraits s i.part (fun t => { t with
    tbls := t.tbls.del i.tidArg, redirs := t.redirs.filter (fun r => r.tid != i.tidArg), flips := t.flips.filter (fun f => f.tid != i.tidArg) })) i (some i.part) Code.ok 0 0

def tblDropAct (s : State) (i : Inst) : State :=
  withSlot s i (fun d P =>
    if (P.traits.tbls.find? i.tidArg).isNone then refuse s i (some d) Code.adapterAbsent
    else if poolNames P i.tidArg || P.traits.puts.any (fun u => u.tid == i.tidArg) ||
        P.traits.redirs.any (fun r => r.tid == i.tidArg && decide (r.st < 2)) then refuse s i (some d) Code.objBusy
    else
      let s1 := updTraits s d (fun t => { t with tbls := t.tbls.upd i.tidArg (fun b => { b with drop := some (boundaries P) }) })
      atBoundary s1 { i with part := d } d P applyTblDrop)

def execTblDrop (s : State) : Out3 := .next (cmdRow s 4 0x11 tblDropAct)

/-! ## POOL_DEF (R178) -/

/-- R178: 0 or the code. -/
def poolCode (s : State) (d : Nat) (P : Part) (bs : List Byte) : Nat :=
  let w := bytesWords bs
  let tids := (List.range 64).filter (fun t => bitOf (poolTmask w) t)
  if wfld (w.getD 19 0) 63 32 ≠ crc32 (bs.take 156) || wfld (w.getD 0 0) 24 0 ≠ 0 || w.getD 18 0 ≠ 0 || wfld (w.getD 19 0) 31 0 ≠ 0 then Code.imageBad
  else if !tids.all (fun t => match P.traits.tbls.find? t with
      | some b => tblW64 b.desc == fld (w.getD 0 0).toNat 54 45 && tblNseg b.desc == poolNseg w && b.drop.isNone
      | none => false) then Code.shapeMismatch
  else if !(List.range 256).all (fun l => poolLmap w l == 15 || decide (poolLmap w l < poolNseg w)) then Code.limitRange
  else if (bindingsOf s d P).any (fun b => bindPool b == some (psidOf w)) then Code.objBusy
  else Code.ok

def poolInstall (s : State) (d ps : Nat) : State :=
  updTraits s d (fun t => { t with pools := t.pools.upd ps (fun x => match x.next with | some (w, _) => { cur := some w } | none => x) })

def applyPoolDef (s : State) (i : Inst) : State := finish (poolInstall s i.part i.aux) i (some i.part) Code.ok 0 0

def poolDefAct (s : State) (i : Inst) : State :=
  withSlot s i (fun d P =>
    let bs := argBytes s i 1 160
    let w := bytesWords bs
    let c := poolCode s d P bs
    if c ≠ 0 then refuse s i (some d) c
    else
      let ps := psidOf w
      let s1 := updTraits s d (fun t => { t with pools := t.pools.put ps { cur := (t.pools.find? ps).bind (·.cur), next := some (w, Nat.min 1 (boundaries P)) } })
      let j := { i with part := d, aux := ps }
      if boundaries P = 0 then applyPoolDef s1 j else setInst s1 { j with st := .pending, wait := 1 })

def execPoolDef (s : State) : Out3 := .next (cmdRow s 4 0x12 poolDefAct)

/-! ## TROW_PUT (R187) -/

def Inst.pqArg (i : Inst) : Bool := bitOf (i.arg 0) 14

/-- The lowest free slot of the shadow area: no redirect entry names it, and no read issued under one is outstanding (R190 step 3). -/
def freeShadow (s : State) (d : Nat) (P : Part) : Option Nat :=
  (List.range (shadowArea s d P).2).find? (fun k => !P.traits.redirs.any (fun r => r.slot == k) &&
    !(P.traits.phase.toList ++ P.traits.prev.toList).any (fun ph => ph.parts.any (fun x => x.slot == some k && (x.st == 1 || x.st == 2))))

/-- The row as a PUT brings it: the row, and its optimizer state where it is given. -/
def putBytes (s : State) (t : Tbl) (u : Put) : List Byte :=
  bytesAt s.mem (memKey 0 u.src) (if u.opt then tblStride t.desc else tblRowBytes t.desc)

def trowPutAct (s : State) (i : Inst) : State :=
  withSlot s i (fun d P =>
    let row := i.arg 1
    match P.traits.tbls.find? i.tidArg with
    | none => refuse s i (some d) Code.adapterAbsent
    | some t =>
      let area := shadowArea s d P
      let staged := P.traits.redirs.find? (fun r => r.tid == i.tidArg && r.q == i.pqArg && r.row == row && r.st == 0)
      if (objOf s d area.1).isNone || ((objOf s d area.1).map (·.bytes)).getD 0 < shadowStride P || tblRows t.desc i.pqArg ≤ row ||
          (i.pqArg && tblComp t.desc < 2) then refuse s i (some d) Code.limitRange
      else match staged, freeShadow s d P with
        | none, none => refuse s i (some d) Code.shadowFull
        | st, fr =>
          let slot := match st with | some r => r.slot | none => fr.getD 0
          let u : Put := { path := i.path, cseq := i.cseq, tid := i.tidArg, q := i.pqArg, row := row, slot := slot,
                           src := i.arg 2 % 2 ^ 52, opt := bitOf (i.arg 0) 15, flip := false }
          let s1 := updTraits s d (fun tr => { tr with
            puts := tr.puts ++ [u],
            redirs := match st with
              | some r => tr.redirs.map (fun x => if x == r then { x with copying := x.copying + 1, opt := u.opt } else x)
              | none => tr.redirs ++ [{ tid := u.tid, q := u.q, row := row, slot := slot, st := 0, opt := u.opt, copying := 1 }] })
          setInst (bumpD s1 Cnt.traitPut d 1) { i with st := .checking, part := d })

def execTrowPut (s : State) : Out3 := .next (cmdRow s 4 0x20 trowPutAct)

/-- The end of a PUT's copy: its bytes are in the slot, or the row's staging is undone. -/
def trowPutEnd (ok : Bool) (s : State) (i : Inst) : State :=
  match partOf s i.part with
  | none => refuse s i none Code.partState
  | some P =>
    match P.traits.puts.find? (fun u => u.path == i.path && u.cseq == i.cseq) with
    | none => s
    | some u =>
      let isRow (r : Redir) : Bool := r.tid == u.tid && r.q == u.q && r.row == u.row && decide (r.st < 2) && r.slot == u.slot
      let drop (t : Traits) : Traits := { t with puts := t.puts.filter (fun x => x != u) }
      if ok then
        let s1 := match P.traits.tbls.find? u.tid with
          | some t => objWrite s i.part (shadowArea s i.part P).1 (u.slot * shadowStride P) (putBytes s t u)
          | none => s
        let s2 := updTraits s1 i.part (fun t => { (drop t) with
          redirs := t.redirs.map (fun r => if isRow r then { r with copying := r.copying - 1 } else r) })
        finish (flipsCommit s2 i.part) i (some i.part) Code.ok (w64 u.slot) 0
      else
        let s2 := updTraits s i.part (fun t => { (drop t) with redirs := t.redirs.filter (fun r => !isRow r) })
        refuse (flipsCommit s2 i.part) i (some i.part) Code.xferFail

/-- The PUTs whose copies have ended complete in acceptance order (R187; `fuel` bounds them). -/
def putsDrain : Nat → State → Nat → State
  | 0, s, _ => s
  | fuel + 1, s, d =>
    match (partOf s d).bind (fun P => P.traits.puts.head?) with
    | none => s
    | some u =>
      match u.acked, instAt s 4 0x20 { path := u.path, cseq := u.cseq } with
      | some ok, some i => putsDrain fuel (trowPutEnd ok s i) d
      | some _, none => putsDrain fuel (updTraits s d (fun t => { t with puts := t.puts.drop 1 })) d
      | none, _ => s

/-- The copy of a PUT has been acknowledged, or has failed for good. -/
def putAcked (ok : Bool) (s : State) (i : Inst) : State :=
  let d := i.part
  let s1 := updTraits s d (fun t => { t with puts := t.puts.map (fun u => if u.path == i.path && u.cseq == i.cseq then { u with acked := some ok } else u) })
  putsDrain (((partOf s d).map (fun P => P.traits.puts.length)).getD 0) s1 d

/-- Flips that a commit makes due at once, where no step is in progress. -/
def flipsIdle (s : State) (d : Nat) : State :=
  match partOf s d with
  | some P => if boundaries P = 0 then flipsDue s d else s
  | none => s

def execTrowPutCopyEnd (r : CmdRef) (ok : Bool) (s : State) : Out3 :=
  .next (endRow s 4 0x20 r .checking (fun s i => flipsIdle (putAcked ok s i) i.part))

/-! ## TROW_FLIP (R188) -/

def trowFlipAct (s : State) (i : Inst) : State :=
  withSlot s i (fun d P =>
    if (P.traits.tbls.find? i.tidArg).isNone then refuse s i (some d) Code.adapterAbsent
    else if P.traits.flips.any (fun f => f.tid == i.tidArg) then refuse s i (some d) Code.adapterBusy
    else
      let s1 := updTraits s d (fun t => { t with
        puts := t.puts.map (fun u => if u.tid = i.tidArg then { u with flip := true } else u),
        redirs := t.redirs.map (fun r => if r.tid = i.tidArg && r.st = 0 then { r with st := 1 } else r),
        flips := t.flips ++ [{ tid := i.tidArg, path := i.path, cseq := i.cseq, committed := false, wait := 0 }] })
      flipsIdle (flipsCommit (setInst s1 { i with st := .checking, part := d }) d) d)

def execTrowFlip (s : State) : Out3 := .next (cmdRow s 4 0x21 trowFlipAct)

/-! ## Fold-back (R190) -/

/-- An update of a step before the flip may still write a row's home, or read what a step before the flip read: its fold-back has not
begun (log entry 111). -/
def foldWaits (P : Part) (r : Redir) : Bool :=
  P.train.late.any (fun l => decide (l.man.step < r.since)) ||
    P.train.lists.any (fun l => decide (l.step < r.since) && (!l.complete || l.items.any (fun it =>
      it.trait && it.id == r.tid && it.q == r.q && it.row == r.row && !it.done && !it.dropped)))

/-- The copy of a slot to its row's home is acknowledged: the entry retires; one that fails for good poisons the home and
leaves the entry (R148). A row whose PUT brought no state gets its
state and step count zeroed; a T3 home gets its bytes in a thawed T1 image. -/
def foldBack (s : State) (d tid row : Nat) (ok : Bool) : State :=
  match partOf s d with
  | none => s
  | some P =>
    match P.traits.redirs.find? (fun r => r.tid == tid && r.row == row && r.st == 2 && r.upto.isNone), P.traits.tbls.find? tid with
    | some r, some t =>
      if foldWaits P r then s
      else if !ok then poisonExtent s (xKey d (tblHandle t.desc r.q) row)
      else
        let bs := rowBytes s d P r.since tid r.q row
        let h := tblHandle t.desc r.q
        let x := xKey d h row
        let retire (s : State) : State := updTraits s d (fun tr => { tr with
          redirs := tr.redirs.map (fun k => if k == r then { k with st := 3, thaws := false } else k) })
        if homeCode s x ≠ 3 then retire (objWriteQ s 2 d h (row * tblStride t.desc) bs)
        else
          let mark (s : State) (b : Bool) : State := updTraits s d (fun tr => { tr with
            redirs := tr.redirs.map (fun k => if k == r then { k with thaws := b } else k) })
          let s1 := if r.thaws then s else thaw s x
          if s1.tm.thawWait.contains x then mark s1 true
          else match xEnt s1 x with
            | some e => if e.thawed then retire (unpin (objWriteQ s1 2 d h (row * tblStride t.desc) bs) x 2) else mark s1 true
            | none => mark s1 false
    | _, _ => s

def execFoldBackEnd (d tid row : Nat) (ok : Bool) (s : State) : Out3 :=
  .next (if held s then s else foldBack s d tid row ok)

end Sys2Proof.Machine
end

