-- ==== Sys2Proof/Machine/FlashOps.lean ====
section
/-! DEFINITION. The flash tier (R152 to R171): chip enables, LUNs and blocks, codewords, the map in T1 and the durable map, the
scheduler of programs and erases, fences, the journal, moves of the collector, and the end of a read that fails for good. -/

namespace Sys2Proof.Machine

/-! ## The ONFI subset (R153) -/

/-- Opcodes of Table FLASH-1: Reset, Read ID, Read Parameter Page, Set and Get Features, ZQ Calibration Long and Short, Read Status
Enhanced, Read Page and Multi-plane Read, Change Read Column Enhanced, Page Program and Multi-plane Program, Block Erase and
Multi-plane Erase. -/
def onfiOpcodes : List Nat := [0xFF, 0x90, 0xEC, 0xEF, 0xEE, 0xF9, 0xD9, 0x78, 0x00, 0x30, 0x32, 0x06, 0xE0, 0x80, 0x10, 0x11, 0x60, 0xD0, 0xD1]

/-- The commands of each piece of work: a page read with the transfer of its codeword, one on another retry level, a program, an erase,
the steps of R154 on a chip enable with and without a signature, a short calibration, the recovery of a LUN that does not answer. -/
def onfiRead : List Nat := [0x00, 0x30, 0x78, 0x06, 0xE0]
def onfiRetry : List Nat := 0xEF :: onfiRead
def onfiProgram : List Nat := [0x80, 0x10, 0x78]
def onfiErase : List Nat := [0x60, 0xD0, 0x78]
def onfiEnum : List Nat := [0xFF, 0x90, 0xEC, 0xEF, 0xF9]
def onfiAbsent : List Nat := [0xFF, 0x90]
def onfiZq : List Nat := [0xD9]
def onfiRecover : List Nat := [0x78, 0xFF, 0x78]

/-! ## LUNs and blocks (R154, R158) -/

def lunKey (ch ce lun : Nat) : Nat := ch * 32 + ce * 4 + lun
def lunCh (k : Nat) : Nat := k / 32
def blkKey (lun block : Nat) : Nat := lun * 2 ^ 20 + block

def updFl (s : State) (f : Fl → Fl) : State := { s with fl := f s.fl }

/-- A channel issues the commands of a piece of work. -/
def onfi (s : State) (ch : Nat) (l : List Nat) : State := updFl s (fun f => { f with ops := f.ops.put ch l })

/-- LUNs of the mounted chip enables of a channel. -/
def chMounted (s : State) (ch : Nat) : List Nat :=
  match s.fl.geo with
  | none => []
  | some g => (s.fl.ces.getD ch []).flatMap (fun ce => (List.range g.luns).map (fun l => lunKey ch ce l))

/-- Mounted LUNs of a channel that are not lost. -/
def chLuns (s : State) (ch : Nat) : List Nat := (chMounted s ch).filter (fun k => !s.fl.lost.contains k)

/-- Mounted channels (R158, R163). -/
def flChannels (s : State) : List Nat := (List.range (cfgFlash s)).filter (fun ch => !(chLuns s ch).isEmpty)

def allLuns (s : State) : List Nat := (List.range (cfgFlash s)).flatMap (chLuns s)

/-- Pages of a map unit and of a block. -/
def muPages (s : State) : Nat := match s.fl.geo with | some g => 65536 / Nat.max g.page 1 | none => 4
def blkPages (s : State) : Nat := match s.fl.geo with | some g => g.pages | none => 0
def lunBlocks (s : State) : Nat := match s.fl.geo with | some g => g.blocks | none => 0

/-- A block; one that is not listed is free, with its LUN's base erase count. -/
def freeBlk (s : State) (lun : Nat) : Blk := { erases := s.fl.base.getD lun 0 }
def blkOf (s : State) (lun block : Nat) : Blk := s.fl.blocks.getD (blkKey lun block) (freeBlk s lun)

/-! ## The map and the block table (R158) -/

def ftlKey (s : State) (mu : Nat) : Nat := memKey 0 (valU s 2 0x65 + 8 * mu)
/-- The map entry in use. -/
def mapEntry (s : State) (mu : Nat) : W64 := wordAt s.mem (ftlKey s mu)
def mapPut (s : State) (mu : Nat) (w : W64) : State := writeT1 s 32 (valU s 2 0x65 + 8 * mu) (leBytes 8 w.toNat)

def entryWord (lun block page bseq : Nat) : W64 :=
  w64 (2 ^ 63 + lun / 32 * 2 ^ 59 + lun / 4 % 8 * 2 ^ 56 + lun % 4 * 2 ^ 54 + block * 2 ^ 34 + page * 2 ^ 22 + bseq % 2 ^ 22)
def entryValid (w : W64) : Bool := wfld w 63 63 == 1
def entryLun (w : W64) : Nat := wfld w 62 59 * 32 + wfld w 58 56 * 4 + wfld w 55 54
def entryBlk (w : W64) : Nat := wfld w 53 34

/-- Map units that T3 objects hold: object key, first index, count. -/
def t3Objs (s : State) : List (Nat × Nat × Nat) :=
  s.tm.objs.filterMap (fun e => if e.2.home = 3 then some (e.1, e.2.mu, ceilDiv e.2.bytes 65536) else none)

/-- `2.0064`. -/
def allocMu (s : State) : Nat := sumBy (t3Objs s) (fun x => x.2.2)

/-- The T3 object that holds a map unit: partition, handle. -/
def muObj (s : State) (mu : Nat) : Option (Nat × Nat) :=
  ((t3Objs s).find? (fun x => decide (x.2.1 ≤ mu) && decide (mu < x.2.1 + x.2.2))).map (fun x => (x.1 / 2 ^ 20, x.1 % 2 ^ 20))

/-- The lowest run of `n` free consecutive map units (`fuel` bounds the tries). -/
def muRun : Nat → List (Nat × Nat × Nat) → Nat → Nat → Nat → Option Nat
  | 0, _, _, _, _ => none
  | fuel + 1, l, a, n, hi =>
    if hi < a + n then none
    else match l.find? (fun x => decide (x.2.1 < a + n) && decide (a < x.2.1 + x.2.2)) with
      | none => some a
      | some x => muRun fuel l (x.2.1 + x.2.2) n hi

def freeRun (s : State) (n : Nat) : Option Nat := muRun ((t3Objs s).length + 1) (t3Objs s) 0 n s.fl.userMu

/-- Map units that the map has in a block. -/
def blkMus (s : State) (lun block : Nat) : List Nat :=
  s.fl.dur.filterMap (fun e => if entryLun e.2 == lun && entryBlk e.2 == block then some e.1 else none)

/-- Codewords still valid in a block: sixteen for each unit. -/
def blkValid (s : State) (lun block : Nat) : Nat := 16 * (blkMus s lun block).length

/-- Write the block table's entry of a block: after the map, LUN by LUN in mounted order (log entry 114). -/
def blkWrite (s : State) (lun block : Nat) : State :=
  match ((List.range (cfgFlash s)).flatMap (chMounted s)).findIdx? (· == lun) with
  | none => s
  | some i =>
    let b := blkOf s lun block
    writeT1 s 32 (valU s 2 0x65 + 8 * s.fl.userMu + 16 * (i * lunBlocks s + block))
      (leBytes 16 (Config.blockEntry b.erases (blkValid s lun block) b.reads b.st).toNat)

def setBlk (s : State) (lun block : Nat) (b : Blk) : State :=
  blkWrite (updFl s (fun f => { f with blocks := f.blocks.set (freeBlk s lun) (blkKey lun block) b })) lun block

/-- The map in use changes, and with it the valid codewords of two blocks. -/
def mapSwitch (s : State) (mu : Nat) (w : W64) : State :=
  let old := mapEntry s mu
  let s1 := mapPut s mu w
  let s2 := if entryValid old then blkWrite s1 (entryLun old) (entryBlk old) else s1
  if entryValid w then blkWrite s2 (entryLun w) (entryBlk w) else s2

/-- Reads of a block are counted (R168). -/
def blkRead (s : State) (lun block n : Nat) : State := let b := blkOf s lun block; setBlk s lun block { b with reads := b.reads + n, st := if b.st = 0 then 2 else b.st }

/-! ## Codewords (R156, R157) -/

/-- The column offset of codeword `j` of a page. -/
def cwColumn (j : Nat) : Nat := 4608 * j

/-- The page and the column of codeword `cwi` of a map unit that begins on page `first`. -/
def cwPlace (s : State) (first cwi : Nat) : Nat × Nat :=
  let per := 16 / Nat.max (muPages s) 1
  (first + cwi / Nat.max per 1, cwColumn (cwi % Nat.max per 1))

/-- Words 0 to 2 of a codeword's metadata (Table FLASH-3). -/
def cwHead (mu cwi kind bseq : Nat) : List W64 := [w64 (mu % 2 ^ 30 * 2 ^ 34 + cwi % 16 * 2 ^ 30 + kind % 4 * 2 ^ 28), w64 (bseq % 2 ^ 48 * 2 ^ 16), 0]

/-- DCRC: over the data and words 0 to 2. -/
def cwDcrc (data : List Byte) (head : List W64) : Nat := crc32 (data ++ wordBytes head)

/-- A codeword's metadata. -/
def cwMeta (data : List Byte) (mu cwi kind bseq : Nat) : List W64 := cwHead mu cwi kind bseq ++ [w64 (cwDcrc data (cwHead mu cwi kind bseq))]

/-- The bake sequence number of the copy of a unit in a block. -/
def copySeq (s : State) (mu lun block : Nat) : Nat :=
  ((s.fl.copies.find? (fun c => c.mu == mu && c.lun == lun && c.block == block)).map (·.bseq)).getD (wfld (mapEntry s mu) 21 0)

/-- The DCRC that the codeword of a read carries. -/
def readDcrc (s : State) (x : FlRead) : Nat :=
  let cwi := x.req.addr / 4096 % 16
  cwDcrc (bytesAt s.mem (memKey 2 (x.req.addr / 4096 * 4096)) 4096) (cwHead x.mu cwi 0 (copySeq s x.mu x.lun x.block))

/-- The DCRCs of the codewords of a unit as it was programmed. -/
def unitDcrcs (bytes : List Byte) (mu bseq : Nat) : List Nat :=
  (List.range 16).map (fun i => cwDcrc ((bytes.drop (4096 * i)).take 4096) (cwHead mu i 0 bseq))

/-! ## Free blocks and capacity (R168, R170, R413) -/

/-- Blocks of a LUN that are listed as other than free. -/
def usedBlks (s : State) (lun : Nat) : Nat := (s.fl.blocks.filter (fun e => e.1 / 2 ^ 20 == lun && e.2.st != 0)).length
def freeBlks (s : State) (lun : Nat) : Nat := lunBlocks s - usedBlks s lun

/-- The free block with the lowest erase count, then the lowest number (R168). -/
def freshBlk (s : State) (lun : Nat) : Option Nat :=
  (List.range (lunBlocks s)).foldl (fun (a : Option Nat) b =>
    if (blkOf s lun b).st ≠ 0 then a
    else match a with
      | none => some b
      | some x => if (blkOf s lun b).erases < (blkOf s lun x).erases then some b else some x) none

/-- The open block of a LUN with room for `n` pages, other than `avoid`; journal pages have blocks of their own. -/
def openBlk (s : State) (lun n avoid : Nat) (jr : Bool) : Option Nat :=
  (List.find? (fun (e : Nat × Blk) => e.1 / 2 ^ 20 == lun && e.2.st == 1 && e.2.jr == jr && decide (e.2.next + n ≤ blkPages s) && e.1 != avoid)
    s.fl.blocks).map (fun e => e.1 % 2 ^ 20)

/-- Take `n` consecutive pages of a block. -/
def takeIn (s : State) (lun b n : Nat) (jr : Bool) : State :=
  let x := blkOf s lun b
  setBlk s lun b { x with st := if blkPages s < x.next + n + n then 2 else 1, next := x.next + n, jr := jr }

/-- Take `n` consecutive pages on a LUN: the block and first page, and the state that has taken them. -/
def takePages (s : State) (lun n avoid : Nat) (jr : Bool) : Option (Nat × Nat × State) :=
  match (openBlk s lun n avoid jr).orElse (fun _ => freshBlk s lun) with
  | none => none
  | some b => some (b, (blkOf s lun b).next, takeIn s lun b n jr)

/-- The LUN of a channel with the most free blocks, ties to the lowest (R158). -/
def bestLun (s : State) (ch : Nat) : Option Nat :=
  (chLuns s ch).foldl (fun (a : Option Nat) k => match a with
    | none => some k
    | some x => if freeBlks s x < freeBlks s k then some k else some x) none

def badBlks (s : State) : Nat := (s.fl.blocks.filter (fun e => e.2.st == 4 && (allLuns s).contains (e.1 / 2 ^ 20))).length
def goodBlks (s : State) : Nat := (allLuns s).length * lunBlocks s - badBlks s
def blkMu (s : State) : Nat := blkPages s / Nat.max (muPages s) 1
/-- Good capacity in map units. -/
def goodMu (s : State) : Nat := goodBlks s * blkMu s

/-- The good capacity is below the allocated units and the free-block floor, or fewer than two channels are mounted: PUBLISH is
refused (R170, R413). -/
def capShort (s : State) : Bool :=
  decide ((flChannels s).length < 2) || decide (goodMu s < allocMu s + (allLuns s).length * valU s 2 0x6D * blkMu s)

/-- FLASH_CAP_LOW, once until the capacity suffices again. -/
def capCheck (s : State) : State :=
  if !s.fl.present then s
  else if !capShort s then updFl s (fun f => { f with capLow := false })
  else if s.fl.capLow then s
  else post (updFl s (fun f => { f with capLow := true })) Ev.flashCapLow none 0 (goodMu s) (allocMu s)

/-- Retire a block (R168). -/
def retireBlk (s : State) (lun block : Nat) : State :=
  capCheck (bump (setBlk s lun block { blkOf s lun block with st := 4 }) Cnt.flashBadBlock 1)

/-! ## The scheduler (R161, R162) -/

def fenced (s : State) (lun : Nat) : Bool := s.fl.fences.any (fun x => x.1 == lun)

/-- A program or an erase runs on the LUN. -/
def lunBusy (s : State) (k : Nat) : Bool := s.fl.progs.any (fun g => g.lun == k && g.started) || s.fl.erases.any (fun e => e.1 == k && e.2.2)

/-- A read of the block is outstanding, or its copy is being read back (Table FLASH-5). -/
def blkReading (s : State) (lun block : Nat) : Bool :=
  s.fl.reads.any (fun r => r.lun == lun && r.block == block) ||
    s.fl.pubs.any (fun p => p.units.any (fun u => u.st == 2 && entryLun u.entry == lun && entryBlk u.entry == block))

/-- The class of R161: service reads 1, journal writes 2, publish 3, the collector 4; erases are 5. -/
def progClass (g : FlProg) : Nat := if g.use = 2 then 2 else if g.use = 0 then 3 else 4
def readClass (r : Req) : Nat := if r.qos = 3 then 3 else 1

/-- The work that a LUN takes next: of what waits on it the highest class, and in it the oldest. An erase waits until no read of its
block is outstanding. -/
def lunNext (s : State) (k : Nat) : Option (Nat × FlProg) × Option (Nat × Nat × Bool) :=
  match (sortBy progClass (s.fl.progs.filter (fun g => g.lun == k && !g.started))).head? with
  | some g => (some (progClass g, g), none)
  | none => (none, s.fl.erases.find? (fun e => e.1 == k && !e.2.2 && !blkReading s k e.2.1))

/-- MGMT periods of 10 ms. -/
def dutyWindow : Nat := 4000000

/-- Periods of the last 10 ms in which the LUN ran programs and erases of classes 3 to 5. -/
def dutyTime (s : State) (k : Nat) : Nat :=
  sumBy (s.fl.spent.filter (fun x => x.1 == k)) (fun x => x.2.2 - Nat.max x.2.1 (s.mp.mgmt - dutyWindow))

/-- The LUN has had its share `2.0068` of the last 10 ms: nothing of classes 3 to 5 starts on it (log entry 115). -/
def dutyOver (s : State) (k : Nat) : Bool := decide (valU s 2 0x68 * (dutyWindow / 100) ≤ dutyTime s k)

/-- A program or an erase starts. -/
def beginProg (s : State) (g : FlProg) : State :=
  onfi (updFl s (fun f => { f with
    progs := f.progs.map (fun x => if x = g then { x with started := true } else x)
    since := f.since.put g.lun s.mp.mgmt })) (lunCh g.lun) onfiProgram

def beginErase (s : State) (e : Nat × Nat × Bool) : State :=
  onfi (updFl s (fun f => { f with
    erases := f.erases.map (fun x => if x = e then (e.1, e.2.1, true) else x)
    since := f.since.put e.1 s.mp.mgmt })) (lunCh e.1) onfiErase

/-- An idle LUN that is not fenced starts its next work, where no read of that class or a higher one waits on it (R161, R162). -/
def lunStart (s : State) (k : Nat) : State :=
  let free (c : Nat) : Bool := !s.fl.reads.any (fun x => x.lun == k && decide (readClass x.req ≤ c)) && (decide (c < 3) || !dutyOver s k)
  if lunBusy s k || fenced s k then s
  else match lunNext s k with
    | (some (c, g), _) => if free c then beginProg s g else s
    | (none, some e) => if free 5 then beginErase s e else s
    | (none, none) => s

/-- Every LUN with work that waits. -/
def lunsStart (s : State) : State :=
  forEach (dedup ((s.fl.progs.filter (fun g => !g.started)).map (·.lun) ++ (s.fl.erases.filter (fun e => !e.2.2)).map (·.1))) s lunStart

/-- The program or erase of a LUN has ended, in class `c`. -/
def lunDone (s : State) (k c : Nat) : State :=
  updFl s (fun f => { f with
    since := f.since.del k
    spent := (f.spent.filter (fun x => decide (s.mp.mgmt < x.2.2 + dutyWindow))) ++ (if c < 3 then [] else [(k, f.since.getD k s.mp.mgmt, s.mp.mgmt)]) })

/-- Queue a program; it starts as soon as its LUN takes it. -/
def queueProg (s : State) (g : FlProg) : State := lunStart (updFl s (fun f => { f with progs := f.progs ++ [{ g with started := false }] })) g.lun

def queueErase (s : State) (lun block : Nat) : State :=
  lunStart (updFl (setBlk s lun block { blkOf s lun block with st := 3 }) (fun f => { f with erases := f.erases ++ [(lun, block, false)] })) lun

/-- A fenced read of a partition has been answered: a Kindling, a Gather or a fill of the codeword. -/
def fenceAnswer (s : State) (x : FlRead) : State :=
  let ours := match x.req.use with | .kindle _ _ _ => true | .pool _ _ => true | .fill _ => true | _ => false
  match s.fl.fences.find? (fun y => y.1 == x.lun && y.2.1 / 2 == x.req.part && y.2.2 == x.req.addr / 4096) with
  | none => s
  | some y => if ours then lunStart (updFl s (fun f => { f with fences := f.fences.erase y })) x.lun else s

/-- Fences of a step that has ended lift (R162). -/
def fencesDrop (s : State) (d step : Nat) : State :=
  let gone := (s.fl.fences.filter (fun x => x.2.1 == 2 * d + step % 2)).map (·.1)
  forEach (dedup gone) (updFl s (fun f => { f with fences := f.fences.filter (fun x => x.2.1 != 2 * d + step % 2) })) lunStart

/-- The codewords that a read of part of an extent takes from T3: none where it has a T1 image; the whole extent where a fill runs, or
where the read will begin one. -/
def t3Words (s : State) (x off n : Nat) : List Nat :=
  if homeCode s x ≠ 3 || hasImage s x then []
  else
    let whole : Bool := match xEnt s x with
      | some e => e.st == XSt.filling
      | none => (xObj s x).any (fun (o : Objt) => o.cache) && admitted s x (extSize s x)
    (if whole then extPieces s x 0 (extSize s x) else extPieces s x off n).map (fun p => (homeAt s x p.1).2.2 % 2 ^ 52 / 4096)

/-- Fence the LUNs that the step's Kindling and Gather read from T3 (R162): one fence for each codeword that each extent has read, until
it has been answered. -/
def fenceStep (s : State) (d : Nat) (m : Man) : State :=
  match partOf s d with
  | none => s
  | some P =>
    let items : List (Nat × Nat × Nat) := (stepUnits P m.target).flatMap (fun u => (unitItems P m u).filterMap (fun k =>
      (itemSource P u.2.1 k.1).bind (fun g => if g.1.src = 1 then some (xKey d g.1.base (1 + sectIndex g.1 g.2), 0, g.2.plen) else none)))
    let rows : List (Nat × Nat × Nat) := (indexList s d P m).flatMap (fun k =>
      match rowPlace s d (poolView P m.step) m.step k with
      | some (h, off, n, _) => (match objOf s d h with | some o => (objParts 131074 o off n).map (fun q => (xKey d h q.1, q.2)) | none => [])
      | none => [])
    let words := dedup ((items ++ rows).flatMap (fun r => (t3Words s r.1 r.2.1 r.2.2).map (fun w => (r.1, w))))
    forEach words s (fun s w =>
      let e := mapEntry s (w.2 / 16)
      if entryValid e then updFl s (fun f => { f with fences := f.fences ++ [(entryLun e, 2 * d + m.step % 2, w.2)] }) else s)

/-! ## Bake sequence, collector and journal (R168) -/

/-- Take the next bake sequence number. -/
def takeBseq (s : State) : Nat × State := (s.fl.bseq + 1, updFl s (fun f => { f with bseq := f.bseq + 1 }))

/-- Program a copy of a unit at a place, read from where it lies. -/
def moveUnit (s : State) (mu lun block page use : Nat) : State :=
  let w := mapEntry s mu
  let (q, s1) := takeBseq (blkRead s (entryLun w) (entryBlk w) 16)
  queueProg s1 { mu := mu, lun := lun, block := block, page := page, use := use, bseq := q, data := bytesAt s.mem (memKey 2 (65536 * mu)) 65536 }

/-- Move a unit of the collector to the same LUN. A unit that a publish has in hand is skipped (Table FLASH-5), as is one that moves
already; one that finds no free page waits. Fewer than two channels stop the moves (R413). -/
def relocate (s : State) (mu use : Nat) : State :=
  let w := mapEntry s mu
  let busy := s.fl.progs.any (fun g => g.mu == mu && g.use != 2) || (s.fl.moving.find? mu).isSome || s.fl.pubs.any (fun p => p.units.any (fun u => u.mu == mu))
  if !entryValid w || busy || (flChannels s).length < 2 then s
  else match takePages s (entryLun w) (muPages s) (blkKey (entryLun w) (entryBlk w)) false with
    | none => if s.fl.relocs.contains (mu, use) then s else updFl s (fun f => { f with relocs := f.relocs ++ [(mu, use)] })
    | some (b, pg, s1) => moveUnit s1 mu (entryLun w) b pg use

/-- Moves that waited for a free page try again. -/
def relocsRetry (s : State) : State := forEach s.fl.relocs (updFl s (fun f => { f with relocs := [] })) (fun s r => relocate s r.1 r.2)

/-- Records that fit a journal page: 16 B each. -/
def journalRoom (s : State) : Nat := match s.fl.geo with | some g => g.page / 16 | none => 0

/-- A journal page neither copy of which has started, with room for a record. -/
def openPage (s : State) : Option Nat :=
  ((s.fl.progs.filter (fun g => g.use == 2 && !g.started && decide (g.recs.length < journalRoom s))).find? (fun g =>
    (s.fl.progs.filter (fun x => x.use == 2 && x.jid == g.jid && !x.started)).length == 2)).map (·.jid)

/-- A journal page on a channel: LUN, block, page. -/
def journalPage (s : State) (ch avoid : Nat) : Option (Nat × Nat × Nat × State) :=
  match bestLun s ch with
  | none => none
  | some k => (takePages s k 1 avoid true).map (fun x => (k, x.1, x.2.1, x.2.2))

/-- Journal a record: with a page that still waits, else on a page of two channels, else it waits (R168). -/
def journalPut (s : State) (mu use : Nat) : State :=
  match openPage s with
  | some j => updFl s (fun f => { f with progs := f.progs.map (fun g => if g.use = 2 && g.jid = j then { g with recs := g.recs ++ [(mu, use)] } else g) })
  | none =>
    match (flChannels s).findSome? (fun ch => (journalPage s ch (2 ^ 40)).map (fun x => (ch, x))) with
    | none => updFl s (fun f => { f with jwait := f.jwait ++ [(mu, use)] })
    | some (c1, k1, b1, p1, s1) =>
      match ((flChannels s1).filter (· != c1)).findSome? (fun ch => (journalPage s1 ch (2 ^ 40)).map (fun x => (ch, x))) with
      | none => updFl s (fun f => { f with jwait := f.jwait ++ [(mu, use)] })
      | some (c2, k2, b2, p2, s2) =>
        let j := s2.fl.nextJ
        let g : FlProg := { mu := mu, lun := k1, block := b1, page := p1, use := 2, bseq := s.fl.bseq, jid := j, pair := c2, recs := [(mu, use)] }
        queueProg (queueProg (updFl s2 (fun f => { f with nextJ := j + 1 })) g) { g with lun := k2, block := b2, page := p2, pair := c1 }

/-- Records that waited for pages try again. -/
def journalRetry (s : State) : State := forEach s.fl.jwait (updFl s (fun f => { f with jwait := [] })) (fun s r => journalPut s r.1 r.2)

/-- A closed block with no valid unit left is erased. -/
def emptyBlk (s : State) (lun block : Nat) : State :=
  let b := blkOf s lun block
  if b.st = 2 && !b.jr && (blkMus s lun block).isEmpty && !s.fl.progs.any (fun g => g.lun == lun && g.block == block) then queueErase s lun block else s

/-- A collector's move is durable: the entry in use changes, and the old block may be erased (R168). -/
def moveDurable (s : State) (mu : Nat) : State :=
  match s.fl.moving.find? mu with
  | none => s
  | some w =>
    let old := mapEntry s mu
    let s1 := updFl s (fun f => { f with moving := f.moving.del mu, dur := f.dur.put mu w })
    emptyBlk (mapSwitch s1 mu w) (entryLun old) (entryBlk old)

/-! ## Reads that fail for good (R148, R159) -/

/-- FLASH_UNCORR. -/
def flashUncorr (s : State) (mu : Nat) : State :=
  let h := ((muObj s mu).map (·.2)).getD none20
  post (bump s Cnt.flashUncorr 1) Ev.flashUncorr ((muObj s mu).map (·.1)) 0 h mu

end Sys2Proof.Machine
end

