-- ==== Sys2Proof/Machine/TierCmds.lean ====
section
/-! DEFINITION. The commands of objects (R131, R132, R135, R144, R146): OBJ_ALLOC, OBJ_FREE, OBJ_MOVE with and without its
cancel bit, and the end of a move's copy. -/

namespace Sys2Proof.Machine

/-- The oldest accepted instance whose arguments pass a test acts: two rows share an object. -/
def cmdRowIf (s : State) (area item : Nat) (f : Inst → Bool) (go : State → Inst → State) : State :=
  if held s then s
  else match oldest s area item with
    | some i => if f i then go s i else s
    | none => s

/-- A tier of Table TIER-2 is present (R16, R130). -/
def tierPresent (s : State) (home : Nat) : Bool :=
  if home = 2 then valU s 2 1 == 1 else if home = 4 then valU s 2 2 == 1 else if home = 3 then s.fl.present else true

/-! ## OBJ_ALLOC (R131, R132, R157) -/

/-- The lowest handle that no object of the partition holds. -/
def freeHandle (s : State) (d : Nat) : Option Nat :=
  let keys := ((s.tm.objs.keepKeys (fun k => k / 2 ^ 20 == d)).map (fun e => (e.1 % 2 ^ 20, ())))
  let h := Tab.freeFrom keys 0
  if h = none20 then none else some h

def allocFlag (i : Inst) (hi lo : Nat) : Nat := fld (i.arg 1) hi lo

/-- The checks of OBJ_ALLOC. -/
def allocCode (s : State) (d : Nat) (i : Inst) : Nat :=
  let home := allocFlag i 31 29
  let bytes := i.arg 2
  if home = 0 || 4 < home then Code.limitRange
  else if bytes = 0 || 2 ^ 46 < bytes then Code.limitRange
  else if !tierPresent s home then Code.tierAbsent
  else if home = 3 && i.arg 3 ≠ 0 then Code.limitRange
  else if home ≠ 3 && (i.arg 3 % 4096 ≠ 0 || 2 ^ 52 < i.arg 3 + bytes) then Code.limitRange
  else if allocFlag i 25 25 = 0 && !(portsEnabled s).contains (allocFlag i 24 21) then Code.limitRange
  else if (freeHandle s d).isNone then Code.limitRange
  else if home = 3 && (freeRun s (ceilDiv bytes 65536)).isNone then Code.t3Full
  else Code.ok

/-- OBJ_ALLOC takes effect. -/
def applyObjAlloc (s : State) (i : Inst) : State :=
  let d := i.part
  let c := allocCode s d i
  match freeHandle s d with
  | none => refuse s i (some d) Code.limitRange
  | some h =>
    if c ≠ 0 then refuse s i (some d) c
    else
      let home := allocFlag i 31 29
      let o : Objt := { home := home, cache := home != 1 && allocFlag i 28 28 == 1, rick := allocFlag i 27 27 == 1, movable := allocFlag i 26 26 == 1,
                        spread := allocFlag i 25 25 == 1, port := allocFlag i 24 21, bytes := i.arg 2, base := i.arg 3,
                        mu := if home = 3 then (freeRun s (ceilDiv (i.arg 2) 65536)).getD 0 else 0 }
      capCheck (finish { s with tm := { s.tm with objs := s.tm.objs.put (objKey d h) o } } i (some d) Code.ok (w64 h) 0)

def objAllocAct (s : State) (i : Inst) : State :=
  withSlot s i (fun d P =>
    let c := allocCode s d i
    if c ≠ 0 then refuse s i (some d) c else atBoundary s { i with part := d } d P applyObjAlloc)

def execObjAlloc (s : State) : Out3 := .next (cmdRow s 2 0x20 objAllocAct)

/-! ## OBJ_FREE (Table TIER-4, Table TIER-5, Table FLASH-5) -/

/-- Entries of an object's extents. -/
def objEnts (s : State) (d h : Nat) : List (Nat × XEnt) := s.tm.xt.filter (fun e => xPart e.1 == d && xHandle e.1 == h)

/-- A move, a pin or a publish holds the object. -/
def objBusy (s : State) (d h : Nat) : Bool :=
  s.tm.moves.any (fun m => xPart m.x == d && xHandle m.x == h) || s.fl.pubs.any (fun p => p.d == d && p.handle == h) ||
    (objEnts s d h).any (fun e => e.2.pinKin != 0 || e.2.pinGth != 0 || e.2.pinTrn != 0 || e.2.pinPub != 0)

/-- The object is gone: its entries drain finally (a T3 home is written by no drain), a fill that runs ends in nothing, and its map
units hold no data. -/
def objDrop (s : State) (d h : Nat) : State :=
  let s1 := forEach (objEnts s d h) s (fun s e =>
    let s0 := dissolveRick s e.1
    if e.2.st == .resident && e.2.dirty then drainEnd (updXt s0 e.1 (fun x => { x with st := .draining, final := true })) e.1
    else delXt s0 e.1)
  let mine (x : Nat) : Bool := xPart x == d && xHandle x == h
  let mus := match objOf s d h with
    | some o => if o.home = 3 then (List.range (ceilDiv o.bytes 65536)).map (fun i => o.mu + i) else []
    | none => []
  let s2 := forEach mus s1 (fun s mu => if entryValid (mapEntry s mu) then updFl (mapSwitch s mu 0) (fun f => { f with dur := f.dur.del mu }) else s)
  { s2 with tm := { s2.tm with
      objs := s2.tm.objs.del (objKey d h)
      moved := s2.tm.moved.keepKeys (fun k => !mine k)
      epochs := s2.tm.epochs.keepKeys (fun k => !mine k)
      thawWait := s2.tm.thawWait.filter (fun x => !mine x)
      used := s2.tm.used.filter (fun u => !mine u.2)
      old := s2.tm.old.filter (fun o => !mine o.1)
      poisoned := s2.tm.poisoned.filter (fun x => !mine x) } }

def applyObjFree (s : State) (i : Inst) : State :=
  let h := i.arg 1 % 2 ^ 20
  if (objOf s i.part h).isNone then refuse s i (some i.part) Code.limitRange
  else if objBusy s i.part h then refuse s i (some i.part) Code.objBusy
  else finish (capCheck (objDrop s i.part h)) i (some i.part) Code.ok 0 0

def objFreeAct (s : State) (i : Inst) : State :=
  withSlot s i (fun d P =>
    let h := i.arg 1 % 2 ^ 20
    if (objOf s d h).isNone then refuse s i (some d) Code.limitRange
    else if objBusy s d h then refuse s i (some d) Code.objBusy
    else atBoundary s { i with part := d } d P applyObjFree)

def execObjFree (s : State) : Out3 := .next (cmdRow s 2 0x21 objFreeAct)

/-! ## OBJ_MOVE (R144) -/

/-- The extents that the command names. -/
def moveList (d : Nat) (i : Inst) : List Nat := (List.range (i.arg 3)).map (fun k => xKey d (i.arg 1 % 2 ^ 20) (i.arg 2 + k))

def moveCode (s : State) (d : Nat) (i : Inst) : Nat :=
  match objOf s d (i.arg 1 % 2 ^ 20) with
  | none => Code.limitRange
  | some o =>
    let tier := fld (i.arg 4) 2 0
    if !o.movable then Code.objBusy
    else if o.extents < i.arg 2 + i.arg 3 then Code.limitRange
    else if bitOf (i.arg 0) 8 then Code.ok
    else if tier ≠ 1 && tier ≠ 2 then Code.limitRange
    else if !tierPresent s tier then Code.tierAbsent
    else if !(portsEnabled s).contains (fld (i.arg 4) 6 3) then Code.limitRange
    else Code.ok

/-- The switches due where no step is in progress. -/
def movesIdle (s : State) (d : Nat) : State :=
  match partOf s d with
  | some P => if boundaries P = 0 then movesStart (movesSwitch s d) d else s
  | none => s

/-- OBJ_MOVE takes effect: its extents take records, or wait for one. -/
def applyObjMove (s : State) (i : Inst) : State :=
  match objOf s i.part (i.arg 1 % 2 ^ 20) with
  | none => refuse s i (some i.part) Code.limitRange
  | some o =>
    let l := (moveList i.part i).filter (fun x => (moveOf s x).isNone)
    let o0 := (o.extent (i.arg 2)).1
    let new : List Move := l.map (fun x =>
      { x := x, d := i.part, tier := fld (i.arg 4) 2 0 - 1, port := fld (i.arg 4) 6 3,
        addr := (i.arg 5 + ((o.extent (xIdx x)).1 - o0)) % 2 ^ 52, size := (o.extent (xIdx x)).2 })
    let s1 := movesStart { s with tm := { s.tm with moves := s.tm.moves ++ new } } i.part
    let waits := (s1.tm.moves.filter (fun m => l.contains m.x && !m.opened)).length
    finish (bumpD s1 Cnt.migWait i.part waits) i (some i.part) Code.ok (w64 l.length) 0

def objMoveAct (s : State) (i : Inst) : State :=
  withSlot s i (fun d P =>
    let c := moveCode s d i
    if c ≠ 0 then refuse s i (some d) c else atBoundary s { i with part := d } d P applyObjMove)

def execObjMove (s : State) : Out3 := .next (cmdRowIf s 2 0x22 (fun i => !bitOf (i.arg 0) 8) objMoveAct)

/-- OBJ_MOVE with the cancel bit: the moves of the named extents abort (R146). -/
def applyObjCancel (s : State) (i : Inst) : State :=
  let l := (moveList i.part i).filter (fun x => (moveOf s x).isSome)
  finish (forEach l s moveAbort) i (some i.part) Code.ok (w64 l.length) 0

def objCancelAct (s : State) (i : Inst) : State :=
  withSlot s i (fun d P =>
    let c := moveCode s d i
    if c ≠ 0 then refuse s i (some d) c else atBoundary s { i with part := d } d P applyObjCancel)

def execObjMoveCancel (s : State) : Out3 := .next (cmdRowIf s 2 0x22 (fun i => bitOf (i.arg 0) 8) objCancelAct)

/-! ## The end of a copy -/

/-- The copy of a move has ended, once each of its reads and writes has been acknowledged: the new place holds what the copy brought
and the records of the log are applied to it (R144 steps 2 and 5); a failure aborts the move (R146). -/
def moveCopied (s : State) (x : Nat) (ok : Bool) : State :=
  match moveOf s x with
  | none => s
  | some m =>
    if !m.opened || m.copied then s
    else if !ok || poisonedX s x then moveAbort s x
    else if useBusy s (.move x) then s
    else movesIdle (moveReplay (setMove { s with mem := storeBytes s.mem (memKey m.tier m.addr) (extBytes s x) } { m with copied := true }) x) m.d

def execMoveCopyEnd (d handle xidx : Nat) (ok : Bool) (s : State) : Out3 :=
  .next (if held s then s else moveCopied s (xKey d handle xidx) ok)

end Sys2Proof.Machine
end

