-- ==== Sys2Proof/Machine/FlashCmds.lean ====
section
/-! DEFINITION. Publish (R164 to R166), FL_FORMAT (R170) and the upkeep of the flash tier (R153, R161, R162, R168): the ends
of programs and erases, checkpoints, the collector's moves, fences that break, and calibration. -/

namespace Sys2Proof.Machine

/-! ## Publish: the command (R164) -/

def pubThawed (i : Inst) : Bool := bitOf (i.arg 0) 8
def pubHandle (i : Inst) : Nat := i.arg 1 % 2 ^ 20

/-- The source begins as an adapter or basis-bank image. -/
def pubImage (s : State) (i : Inst) : Bool :=
  !pubThawed i && i.arg 2 == 0 && fld ((imgWords s 0 0 (i.arg 4 % 2 ^ 52) 0 1).getD 0 0).toNat 63 32 == 0x50454E41

/-- Checks 1 and 2 of Table ADPT-6 on an image. -/
def imgChecks12 (s : State) (d src base : Nat) : Nat :=
  let hw := imgWords s d src base 0 8
  let h := imgHdr hw
  let sw := (List.range (Nat.min h.nsect 4096)).map (fun i => imgWords s d src base (64 + 32 * i) 4)
  if !imgCheck1 hw (imgBytes s d src base 0 64) sw then Code.imageBad else imgCheck2 s d src base h sw

/-- The object holds a generation in force or one that is checked and not yet installed. -/
def holdsGen (P : Part) (h : Nat) : Bool :=
  (P.adpts.vals ++ P.pairs.vals).any (fun a =>
    (a.cur.toList ++ a.prev.toList ++ (a.next.map (·.1)).toList).any (fun g => g.src == 1 && g.base == h))

def pubCode (s : State) (d : Nat) (P : Part) (i : Inst) : Nat :=
  if !s.fl.present then Code.tierAbsent
  else match objOf s d (pubHandle i) with
  | none => Code.limitRange
  | some o =>
    let mus := ceilDiv o.bytes 65536
    if o.home ≠ 3 then Code.limitRange
    else if i.arg 3 = 0 || mus < i.arg 2 + i.arg 3 then Code.limitRange
    else if capShort s then Code.t3Full
    else if s.fl.pubs.any (fun p => p.d == d && p.handle == pubHandle i && decide (p.first < i.arg 2 + i.arg 3) &&
        decide (i.arg 2 < p.first + p.units.length)) then Code.objBusy
    else if holdsGen P (pubHandle i) then Code.objBusy
    else if pubImage s i then imgChecks12 s d 0 (i.arg 4 % 2 ^ 52)
    else Code.ok

/-! ## Publish: its units (R165) -/

def pubSame (p q : Publish) : Bool := p.d == q.d && p.handle == q.handle && p.first == q.first

def setPub (s : State) (p : Publish) : State := updFl s (fun f => { f with pubs := f.pubs.map (fun q => if pubSame q p then p else q) })

def setPubUnit (p : Publish) (u : PubUnit) : Publish := { p with units := p.units.map (fun v => if v.mu = u.mu then u else v) }

/-- The publish that has a map unit in hand. -/
def pubOf (s : State) (mu : Nat) : Option (Publish × PubUnit) :=
  s.fl.pubs.findSome? (fun p => if p.failed then none else (p.units.find? (fun u => u.mu == mu)).map (fun u => (p, u)))

/-- The first map unit of the object of a publish. -/
def pubBase (s : State) (p : Publish) : Nat := ((objOf s p.d p.handle).map (·.mu)).getD 0

/-- Extents of an object with an entry that meet 64 KiB at `off`. -/
def unitExtents (s : State) (d h off : Nat) : List Nat :=
  (s.tm.xt.filter (fun e => xPart e.1 == d && xHandle e.1 == h &&
    (match objOf s d h with
     | some o => let x := o.extent (xIdx e.1); decide (x.1 < off + 65536) && decide (off < x.1 + x.2)
     | none => false))).map (·.1)

/-- Map units of an object that an extent meets. -/
def extentUnits (s : State) (p : Publish) (x : Nat) : List Nat :=
  match objOf s p.d p.handle with
  | some o => let e := o.extent (xIdx x); (List.range' (e.1 / 65536) ((e.1 + e.2 - 1) / 65536 - e.1 / 65536 + 1)).map (fun k => o.mu + k)
  | none => []

/-- Take the next sequence number and program a unit on its channel (R157, R158), avoiding a block. With no free page it waits for
reclaimed blocks, which is counted once (Table FLASH-5). -/
def pubProgram (s : State) (p : Publish) (u : PubUnit) (avoid : Nat) : State :=
  let chs := flChannels s
  let wait := setPub s (setPubUnit p { u with st := 7 })
  match ((chs[(p.handle + (u.mu - pubBase s p)) % Nat.max chs.length 1]?).bind (bestLun s)).bind (fun k => (takePages s k (muPages s) avoid false).map (fun x => (k, x))) with
  | none => if u.st = 7 then wait else bumpD wait Cnt.pubWaitFree p.d 1
  | some (k, b, pg, s1) =>
    let (q, s2) := takeBseq s1
    let p1 := if p.bseq = 0 then { p with bseq := q } else p
    queueProg (setPub s2 (setPubUnit p1 { u with st := 1, entry := entryWord k b pg q, bseq := q }))
      { mu := u.mu, lun := k, block := b, page := pg, use := 0, bseq := q, data := u.bytes }

/-- The reads that assemble a unit in THAWED mode: a THAWED extent from its T1 image, the rest from the unit's flash copy. -/
def thawedReads (s : State) (p : Publish) (u : PubUnit) (xs : List Nat) : State :=
  let off := 65536 * (u.mu - pubBase s p)
  match objOf s p.d p.handle with
  | none => s
  | some o =>
    forEach (objParts 65537 o off (Nat.min 65536 (o.bytes - off))) s (fun s q =>
      let x := xKey p.d p.handle q.1
      if xs.contains x then readImage s p.d x q.2.1 q.2.2 3 (.pub u.mu)
      else if entryValid (mapEntry s u.mu) then readHomeAt s p.d x q.2.1 q.2.2 3 (.pub u.mu) else s)

/-- Requests of the assembly of a unit that have not ended. -/
def pubOwed (s : State) (mu : Nat) : Nat := (s.mp.waiting.filter (fun r => r.use == .pub mu)).length

/-- Assemble a unit at QoS 3, clearing DIRTY of the THAWED extents read; with the last reply it is programmed. -/
def pubBegin (s : State) (p : Publish) (u : PubUnit) : State :=
  let off := 65536 * (u.mu - pubBase s p)
  let src := p.src + 65536 * (u.mu - pubBase s p - p.first)
  let bytes := if p.thawed then objBytes s p.d p.handle off 65536 else bytesAt s.mem (memKey 0 src) 65536
  let xs := if p.thawed then (unitExtents s p.d p.handle off).filter (fun x => (xEnt s x).any (·.thawed)) else []
  let s1 := if p.thawed then thawedReads s p u xs
    else forEach (reqPieces src 65536) s (fun s q => addReq s p.d false 0 (bareport s) 3 q.1 q.2 (.pub u.mu) false)
  let s2 := forEach xs s1 (fun s x => updXt (pin s x 3) x (fun e => { e with dirty := false }))
  let p' := { p with xs := p.xs ++ xs }
  let n := pubOwed s2 u.mu
  if n = 0 then pubProgram s2 p' { u with bytes := bytes } (2 ^ 40) else setPub s2 (setPubUnit p' { u with bytes := bytes, st := 5, owed := n })

/-- The next waiting unit of a publish begins, where none is in hand. -/
def pubNext (s : State) (d h first : Nat) : State :=
  match s.fl.pubs.find? (fun p => p.d == d && p.handle == h && p.first == first) with
  | none => s
  | some p =>
    if p.failed || p.units.any (fun u => u.st == 1 || u.st == 2 || u.st == 3 || u.st == 5) then s
    else match p.units.find? (fun u => u.st == 0 || u.st == 7) with
      | some u => if u.st = 7 then pubProgram s p u (2 ^ 40) else pubBegin s p u
      | none => s

/-! ## Publish: the switch (R166) -/

/-- Reads of a unit that were issued before its switch are served from the old pages: a fill takes its bytes now, and a gathered row is
kept as the old pages hold it. -/
def oldPages (s : State) (mu : Nat) : State :=
  let l := ((s.fl.reads.filter (fun x => x.mu == mu)).map (·.req)) ++ s.mp.waiting.filter (fun r => r.tier == 2 && r.addr / 65536 == mu)
  forEach l s (fun s r =>
    match r.use with
    | .fill x =>
      (match xEnt s x with
       | some e => if e.st = .filling && !e.early then
           setXt { s with mem := storeBytes s.mem (memKey 0 e.addr) (bytesAt s.mem (homeAt s x 0).2.2 e.size) } x { e with early := true } else s
       | none => s)
    | .pool d u =>
      (match (partOf s d).bind (fun P => P.traits.phase.bind (fun ph => (ph.parts[u]?).bind (fun x => (ph.rows[x.row]?).map (fun k => (P, ph, k))))) with
       | some (P, ph, k) =>
         let bs := rowAt s d (poolView P ph.step) ph.step k.1 (k.2.1 == 1) k.2.2
         if ph.old.any (fun y => y.1 == k) then s
         else updTraits s d (fun t => { t with phase := t.phase.map (fun ph => { ph with old := ph.old ++ [(k, bs)] }) })
       | none => s)
    | _ => s)

/-- A clean cached copy of a part of the object that an IMAGE publish has replaced holds the old bytes: it is given up, and a fill that
still runs serves its waiters only (R137: every copy of an extent holds the same bytes; log entry 117). -/
def copiesStale (s : State) (p : Publish) (mu : Nat) : State :=
  if p.thawed then s
  else forEach (unitExtents s p.d p.handle (65536 * (mu - pubBase s p))) s (fun s x =>
    match xEnt s x with
    | some e =>
      if e.thawed || e.dirty then s
      else match e.st with
        | .filling => setXt s x { e with final := true }
        | .resident => drainEnd (setXt s x { e with st := .draining, final := true }) x
        | .draining => setXt s x { e with final := true }
        | .moving => s
    | none => s)

/-- Switch the units whose records are durable: the map names the new copies, in use and on the flash (R166). -/
def pubSwitchUnits (s : State) (p : Publish) : State :=
  forEach (p.units.filter (fun u => u.st == 4)) s (fun s u =>
    let old := mapEntry s u.mu
    let s0 := copiesStale (oldPages s u.mu) p u.mu
    let s1 := updFl (mapSwitch { s0 with mem := storeBytes s0.mem (memKey 2 (65536 * u.mu)) u.bytes } u.mu u.entry) (fun f => { f with dur := f.dur.put u.mu u.entry })
    if entryValid old then emptyBlk s1 (entryLun old) (entryBlk old) else s1)

def pubGone (s : State) (p : Publish) : State :=
  forEach p.xs (updFl s (fun f => { f with pubs := f.pubs.filter (fun q => !pubSame q p) })) (fun s x => unpin s x 3)

def pubInst (s : State) (p : Publish) : Option Inst := instAt s 2 0x24 { path := p.path, cseq := p.cseq }

/-- Every map unit that an extent meets has been baked by the publish. -/
def bakedWhole (s : State) (p : Publish) (x : Nat) : Bool :=
  (extentUnits s p x).all (fun mu => p.units.any (fun u => u.mu == mu && u.st == 4))

/-- What a publish leaves of a THAWED extent that it has read: one baked whole and not written since is THAWED no longer; one of which
part has not been baked is DIRTY as before (log entry 31). -/
def thawedAfter (s : State) (p : Publish) : State :=
  forEach (dedup p.xs) s (fun s x => updXt s x (fun e =>
    if !bakedWhole s p x then { e with dirty := true } else if e.dirty then e else { e with thawed := false }))

/-- A publish every unit of which has passed takes effect; of one that has failed, the units before the failed one (R166, log entry
31). -/
def pubSwitch (s : State) (p : Publish) : State :=
  let s1 := thawHighCheck (thawedAfter (pubGone (pubSwitchUnits s p) p) p) p.d
  if p.failed then s1
  else
    let s3 := bumpD s1 Cnt.pubDone p.d 1
    let s4 := match pubInst s3 p with
      | some i => finish s3 i (some p.d) Code.ok (w64 p.bseq) 0
      | none => s3
    post s4 Ev.publishDone (some p.d) 0 p.handle p.first

/-- Publishes due at the boundary of `d` (Table ARCH-3 order 3). -/
def pubsDue (s : State) (d : Nat) : State :=
  forEach (s.fl.pubs.filter (fun p => p.d == d && (p.passed || p.failed))) s pubSwitch

/-- A publish that has passed switches at once where no step is in progress. -/
def pubsIdle (s : State) (d : Nat) : State :=
  match partOf s d with
  | some P => if boundaries P = 0 then pubsDue s d else s
  | none => s

/-- A publish ends with `PUBLISH_FAIL`: the map is left unchanged for the unit that failed and every later one; the units before it,
whose records are durable, take effect at the boundary as R166 has it (log entry 31). -/
def pubFail (s : State) (p : Publish) : State :=
  let p' := { p with failed := true }
  let s1 := usersLost (setPub s p') (fun u => p.units.any (fun v => u == .pub v.mu))
  let s2 := updFl s1 (fun f => { f with progs := f.progs.filter (fun g => g.started || g.use != 0 || !p.units.any (fun u => u.mu == g.mu)) })
  pubsIdle (match pubInst s2 p with
    | some i => refuse s2 i (some p.d) Code.publishFail
    | none => s2) p.d

/-- The last unit is durable: the publish has passed. -/
def pubPassed (s : State) (p : Publish) : State := pubsIdle (setPub s { p with passed := true }) p.d

/-- A reply to an assembly read: with the last one the unit is programmed; a read that has failed for good ends the publish (log entry
118). -/
def pubReply (s : State) (mu : Nat) (ok : Bool) : State :=
  match pubOf s mu with
  | none => s
  | some (p, u) =>
    if u.st ≠ 5 then s
    else if !ok then pubFail s p
    else if u.owed ≤ 1 then pubProgram s p { u with owed := 0 } (2 ^ 40)
    else setPub s (setPubUnit p { u with owed := u.owed - 1 })

def publishAct (s : State) (i : Inst) : State :=
  withSlot s i (fun d P =>
    let c := pubCode s d P i
    if c ≠ 0 then refuse s i (some d) c
    else
      let o0 := ((objOf s d (pubHandle i)).map (·.mu)).getD 0
      let p : Publish :=
        { path := i.path, cseq := i.cseq, d := d, handle := pubHandle i, thawed := pubThawed i, first := i.arg 2, img := pubImage s i,
          src := i.arg 4 % 2 ^ 52, bseq := 0, units := (List.range (i.arg 3)).map (fun k => { mu := o0 + i.arg 2 + k, bytes := [] }) }
      pubNext (updFl (setInst s { i with st := .checking, part := d }) (fun f => { f with pubs := f.pubs ++ [p] })) d p.handle p.first)

/-- PUBLISH with mode 0. -/
def execPublishImage (s : State) : Out3 := .next (cmdRowIf s 2 0x24 (fun i => !pubThawed i) publishAct)

/-- PUBLISH with mode 1. -/
def execPublishThawed (s : State) : Out3 := .next (cmdRowIf s 2 0x24 pubThawed publishAct)

/-- The flash copy of an image as its units were programmed passes check 2 (R165 step 3). -/
def imgCopyOk (s : State) (p : Publish) : Bool :=
  let t := forEach p.units s (fun s u => { s with mem := storeBytes s.mem (memKey 2 (65536 * u.mu)) u.bytes })
  imgChecks12 t p.d 1 p.handle == 0

/-- Every unit of an image has been programmed and read back: its flash copy passes check 2, and then each unit is journalled, or the
publish fails with the whole image's map unchanged (log entry 119). -/
def imgSettle (s : State) (p : Publish) : State :=
  if !p.units.all (fun u => u.st == 6) then pubNext s p.d p.handle p.first
  else if !imgCopyOk s p then pubFail s p
  else forEach (p.units.map (·.mu)) (setPub s { p with units := p.units.map (fun u => { u with st := 3 }) }) (fun s mu => journalPut s mu 2)

/-- A programmed unit is read back and every DCRC checked: `crcs` are those that its codewords decode to. A failure programs it once
more in another block, and a second failure ends the command (R165 steps 3 to 5). -/
def pubReadBack (s : State) (mu : Nat) (crcs : List Nat) : State :=
  match pubOf s mu with
  | none => s
  | some (p, u) =>
    if u.st ≠ 2 then s
    else if crcs == unitDcrcs u.bytes mu u.bseq then
      (if p.img then imgSettle (setPub s (setPubUnit p { u with st := 6 })) (setPubUnit p { u with st := 6 })
       else journalPut (setPub s (setPubUnit p { u with st := 3 })) mu 2)
    else if u.tries = 0 then pubProgram s p { u with tries := 1 } (blkKey (entryLun u.entry) (entryBlk u.entry))
    else pubFail s p

def execPublishReadBack (mu : Nat) (crcs : List Nat) (s : State) : Out3 := .next (if held s then s else lunsStart (pubReadBack s mu crcs))

/-! ## The translation region and FL_FORMAT (R158, R170) -/

/-- Bytes that the translation region needs (R158). -/
def regionNeeds (s : State) : Nat := 8 * s.fl.userMu + 16 * ((allLuns s).length * lunBlocks s)

/-- The block table as it stands is written to the translation region. -/
def blkTable (s : State) : State := forEach ((allLuns s).flatMap (fun k => (List.range (lunBlocks s)).map (fun b => (k, b)))) s (fun s x => blkWrite s x.1 x.2)

/-- The durable map and the block table are written to the translation region (R169). -/
def regionInstall (s : State) : State :=
  let lo := memKey 0 (valU s 2 0x65)
  let hi := lo + 8 * s.fl.userMu
  let clear := s.mem.keepKeys (fun k => decide (k < lo) || decide (hi ≤ k))
  blkTable { s with mem := s.fl.dur.foldl (fun m e => storeBytes m (lo + 8 * e.1) (leBytes 8 e.2.toNat)) clear }

/-- The user capacity. -/
def userCapacity (s : State) : Nat :=
  Nat.min (goodBlks s * blkMu s * (1000 - valU s 2 0x67) / 1000) (2 ^ 30)

/-- Every mounted block is erased, the factory-bad blocks are retired, and the map is empty. -/
def formatNow (s : State) : State :=
  let on := allLuns s
  let mine (k : Nat) : Bool := on.contains (k / 2 ^ 20)
  let s1 := updFl s (fun f => { f with
    base := on.foldl (fun t k => t.put k (t.getD k 0 + 1)) f.base
    blocks := f.factory.foldl (fun t k => if mine k then t.put k { (t.getD k {}) with st := 4 } else t)
      (f.blocks.filterMap (fun e => if !mine e.1 || e.2.st = 4 then some e
        else if e.2.erases = f.base.getD (e.1 / 2 ^ 20) 0 then none else some (e.1, { erases := e.2.erases + 1 : Blk })))
    copies := f.copies.filter (fun c => !on.contains c.lun)
    dur := [], journal := 0, ckArea := 0, progs := [], erases := [], moving := [], relocs := [], jwait := [], since := [], formatted := true, rebuild := false })
  updFl s1 (fun f => { f with userMu := userCapacity s1 })

def flFormatAct (s : State) (i : Inst) : State :=
  if cfgFlash s = 0 || s.fl.geo.isNone then refuse s i none Code.tierAbsent
  else if !(t3Objs s).isEmpty then refuse s i none Code.objBusy
  else
    let s1 := formatNow s
    if regionNeeds s1 ≤ valU s1 2 0x66 then finish (capCheck (regionInstall (updFl s1 (fun f => { f with present := true })))) i none Code.ok (w64 s1.fl.userMu) 0
    else finish (post (updFl s1 (fun f => { f with present := false })) Ev.flashMapSmall none 0 (regionNeeds s1) 0) i none Code.ok (w64 s1.fl.userMu) 0

def execFlFormat (s : State) : Out3 := .next (cmdRow s 2 0x25 flFormatAct)

/-! ## Ends of programs and erases (R168) -/

/-- A record stands on two channels. -/
def recordDurable (s : State) (r : Nat × Nat) : State :=
  let s0 := updFl s (fun f => { f with journal := f.journal + 1 })
  if r.2 = 6 then moveDurable s0 r.1
  else match pubOf s0 r.1 with
    | some (p, u) =>
      if u.st ≠ 3 then s0
      else
        let p1 := setPubUnit p { u with st := 4 }
        if p1.units.all (fun v => v.st == 4) then pubPassed (setPub s0 p1) p1 else pubNext (setPub s0 p1) p.d p.handle p.first
    | none => s0

/-- What a program that has ended well was for. A unit moved for ECC, read disturb, wear or space is counted here, when it has been
programmed (log entry 120). -/
def progUse (s : State) (g : FlProg) : State :=
  if g.use = 2 then
    -- the records stand once both copies of the page do
    (if s.fl.progs.any (fun x => x.use == 2 && x.jid == g.jid) then s else forEach g.recs s recordDurable)
  else
    let c : Copy := { mu := g.mu, lun := g.lun, block := g.block, page := g.page, bseq := g.bseq, bytes := g.data }
    let s0 := updFl s (fun f => { f with copies := f.copies ++ [c] })
    if g.use = 0 then
      (match pubOf s0 g.mu with
       | some (p, u) => if u.st = 1 then blkRead (setPub s0 (setPubUnit p { u with st := 2 })) g.lun g.block 16 else s0
       | none => s0)
    else
      let s1 := updFl s0 (fun f => { f with moving := f.moving.put g.mu (entryWord g.lun g.block g.page g.bseq) })
      journalPut (bump s1 (if g.use = 1 then Cnt.flashGcMu else if g.use = 3 then Cnt.flashWlMu else if g.use = 4 then Cnt.flashRelocRd else Cnt.flashRelocEcc) 1) g.mu 6

/-- A program that failed runs again elsewhere: a journal page on its channel, or where that has no page its records anew. -/
def progAgain (s : State) (g : FlProg) : State :=
  if g.use = 0 then
    (match pubOf s g.mu with
     | some (p, u) => if u.st = 1 then pubProgram s p u (blkKey g.lun g.block) else s
     | none => s)
  else if g.use = 2 then
    (match journalPage s (lunCh g.lun) (blkKey g.lun g.block) with
     | some (k, b, pg, s1) => queueProg s1 { g with lun := k, block := b, page := pg }
     | none =>
       forEach g.recs (updFl s (fun f => { f with progs := f.progs.map (fun x => if x.use = 2 && x.jid = g.jid then { x with recs := [] } else x) }))
         (fun s r => journalPut s r.1 r.2))
  else relocate s g.mu g.use

/-- The valid units of a block are moved. -/
def moveUnits (s : State) (lun block use : Nat) : State := forEach (blkMus s lun block) s (fun s mu => relocate s mu use)

/-- What waited for blocks or pages tries again. -/
def pubsRetry (s : State) : State := forEach s.fl.pubs (relocsRetry (journalRetry s)) (fun s p => pubNext s p.d p.handle p.first)

/-- A program that runs on a LUN ends; one that fails retires its block, and what it wrote is written elsewhere. -/
def progDone (s : State) (lun block : Nat) (ok : Bool) : State :=
  match s.fl.progs.find? (fun g => g.lun == lun && g.block == block && g.started) with
  | none => s
  | some g =>
    let s1 := lunDone (updFl s (fun f => { f with progs := f.progs.erase g })) lun (progClass g)
    lunStart (if ok then progUse s1 g else moveUnits (progAgain (retireBlk s1 lun block) g) lun block 1) lun

def execFlashProgramDone (ch ce lun block : Nat) (ok : Bool) (s : State) : Out3 :=
  .next (if held s then s else progDone s (lunKey ch ce lun) block ok)

/-- A block has been erased: it is free, with no copy of a unit in it. -/
def blkErased (s : State) (lun block : Nat) : State :=
  setBlk (updFl s (fun f => { f with copies := f.copies.filter (fun c => !(c.lun == lun && c.block == block)) })) lun block { erases := (blkOf s lun block).erases + 1 }

def eraseDone (s : State) (lun block : Nat) (ok : Bool) : State :=
  match s.fl.erases.find? (fun e => e.1 == lun && e.2.1 == block && e.2.2) with
  | none => s
  | some e =>
    let s1 := lunDone (updFl s (fun f => { f with erases := f.erases.erase e })) lun 5
    lunStart (if ok then pubsRetry (blkErased s1 lun block) else retireBlk s1 lun block) lun

def execFlashEraseDone (ch ce lun block : Nat) (ok : Bool) (s : State) : Out3 :=
  .next (if held s then s else eraseDone s (lunKey ch ce lun) block ok)

/-! ## Upkeep (R168) -/

/-- After 2^20 records a checkpoint of the whole map and block table has been written into the area that does not hold the newer one; the
older checkpoint and its journal are freed. -/
def checkpoint (s : State) : State :=
  let full := s.fl.blocks.filter (fun e => e.2.jr && e.2.st == 2)
  forEach full (updFl s (fun f => { f with journal := f.journal - 2 ^ 20, ckArea := 1 - f.ckArea })) (fun s e => queueErase s (e.1 / 2 ^ 20) (e.1 % 2 ^ 20))

def execCheckpoint (s : State) : Out3 := .next (if held s || s.fl.journal < 2 ^ 20 then s else checkpoint s)

/-- The least of some blocks by a key. -/
def leastBlk (l : List (Nat × Blk)) (key : Nat × Blk → Nat) : Option (Nat × Blk) :=
  l.foldl (fun (a : Option (Nat × Blk)) e => match a with
    | none => some e
    | some x => if key e < key x then some e else some x) none

/-- Move a block's units, or erase it where it has none. -/
def reclaim (s : State) (k use : Nat) : State :=
  let lun := k / 2 ^ 20
  let b := k % 2 ^ 20
  emptyBlk (moveUnits s lun b use) lun b

/-- A LUN below its floor: the closed block with the fewest valid codewords, then the lowest erase count, then the
lowest place. -/
def gcReclaimLun (s : State) (lun : Nat) : State :=
  if !(allLuns s).contains lun || valU s 2 0x6D ≤ freeBlks s lun then s
  else match leastBlk (s.fl.blocks.filter (fun e => e.1 / 2 ^ 20 == lun && e.2.st == 2 && !e.2.jr)) (fun e => blkValid s lun (e.1 % 2 ^ 20) * 2 ^ 32 + e.2.erases) with
    | some e => reclaim s e.1 1
    | none => s

def execGcReclaim (ch ce lun : Nat) (s : State) : Out3 := .next (if held s then s else gcReclaimLun s (lunKey ch ce lun))

/-- The most-worn free block of the tier: LUN and block. Blocks that are not listed have their LUN's base count. -/
def mostWornFree (s : State) : Option Nat :=
  let listed := s.fl.blocks.filter (fun e => e.2.st == 0 && (allLuns s).contains (e.1 / 2 ^ 20))
  let plain := (allLuns s).filterMap (fun k => ((List.range (lunBlocks s)).find? (fun b => (s.fl.blocks.find? (blkKey k b)).isNone)).map (fun b => (blkKey k b, freeBlk s k)))
  (listed ++ plain).foldl (fun (a : Option (Nat × Nat)) e => match a with
    | none => some (e.1, e.2.erases)
    | some x => if x.2 < e.2.erases || (x.2 = e.2.erases && e.1 < x.1) then some (e.1, e.2.erases) else some x) none |>.map (·.1)

/-- The erase counts of the tier: the lowest and the highest. -/
def wearRange (s : State) : Nat × Nat :=
  let on := allLuns s
  let l := (s.fl.blocks.filter (fun e => e.2.st != 4 && on.contains (e.1 / 2 ^ 20))).map (fun e => e.2.erases)
  let plain := (on.filter (fun k => decide ((s.fl.blocks.filter (fun e => e.1 / 2 ^ 20 == k)).length < lunBlocks s))).map (fun k => s.fl.base.getD k 0)
  let hi := maxBy (l ++ plain) id
  ((l ++ plain).foldl Nat.min hi, hi)

/-- Wear levelling: the units of the least-worn closed block go to the most-worn free block. -/
def wearMove (s : State) : State :=
  let r := wearRange s
  if r.2 - r.1 ≤ valU s 2 0x6B || (flChannels s).length < 2 then s
  else match leastBlk (s.fl.blocks.filter (fun e => e.2.st == 2 && !e.2.jr && (allLuns s).contains (e.1 / 2 ^ 20))) (fun e => e.2.erases), mostWornFree s with
    | some e, some k =>
      forEach (blkMus s (e.1 / 2 ^ 20) (e.1 % 2 ^ 20)) s (fun s mu =>
        let x := blkOf s (k / 2 ^ 20) (k % 2 ^ 20)
        if s.fl.progs.any (fun g => g.mu == mu && g.use != 2) || (s.fl.moving.find? mu).isSome || (pubOf s mu).isSome || blkPages s < x.next + muPages s then s
        else moveUnit (takeIn s (k / 2 ^ 20) (k % 2 ^ 20) (muPages s) false) mu (k / 2 ^ 20) (k % 2 ^ 20) x.next 3)
    | _, _ => s

def execWearLevel (s : State) : Out3 := .next (if held s then s else wearMove s)

/-- A block whose reads since its erase have reached FL_RD_LIMIT has its valid units moved. -/
def execReadDisturbRelocate (ch ce lun block : Nat) (s : State) : Out3 :=
  .next (if held s || (blkOf s (lunKey ch ce lun) block).reads < valU s 2 0x6A || (flChannels s).length < 2 then s
         else reclaim s (blkKey (lunKey ch ce lun) block) 4)

/-- A LUN fenced for FL_FENCE_MAX_US without a break admits one program or erase of the highest waiting class (R162). -/
def fenceBreakLun (s : State) (lun : Nat) : State :=
  if !fenced s lun || lunBusy s lun then s
  else match lunNext s lun with
    | (some (_, g), _) => bump (beginProg s g) Cnt.flashFenceBreak 1
    | (none, some e) => bump (beginErase s e) Cnt.flashFenceBreak 1
    | (none, none) => s

def execFenceBreak (ch ce lun : Nat) (s : State) : Out3 := .next (if held s then s else fenceBreakLun s (lunKey ch ce lun))

/-- Every 100 ms each mounted chip enable runs ZQ Calibration Short (R153). -/
def zqShort (s : State) : State :=
  forEach (flChannels s) (updFl s (fun f => { f with zq := f.zq + sumBy (flChannels s) (fun ch => (f.ces.getD ch []).length) })) (fun s ch => onfi s ch onfiZq)

def execZqShort (s : State) : Out3 := .next (if held s || (flChannels s).isEmpty then s else zqShort s)

end Sys2Proof.Machine
end

