-- ==== Sys2Proof/Machine/HoldOps.lean ====
section
/-! DEFINITION. Conditions of rows (R36, R236), holds (R95, R97, R115), the items that a
row needs, and rows that lose their terms at a target (R82, R89, R92, R99, R117, R118, R201). -/

namespace Sys2Proof.Machine

/-! ## Rows' conditions -/

def orBit (n b : Nat) : Nat := if bitOf n b then n else n + 2 ^ b

/-- Set a FLAGS bit of host rows (Table CTX-12). -/
def addFlags (s : State) (d bit : Nat) (rows : List Nat) : State :=
  updPart s d (fun P => { P with flags := rows.foldl (fun t i => t.put i (orBit (t.getD i 0) bit)) P.flags })

/-- Rows that contribute +0 from now on to every gradient of the step, each counted once (R201). -/
def noGradient (s : State) (d : Nat) (rows : List Nat) : State :=
  match partOf s d with
  | none => s
  | some P =>
    if !training P then s
    else
      let new := rows.filter (fun i => !P.train.noGrad.contains i)
      bumpD (updTrain s d (fun T => { T with noGrad := T.noGrad ++ new })) Cnt.bypassNograd d new.length

/-! ## Windows -/

def setWin (s : State) (d : Nat) (w : Win) : State :=
  updPart s d (fun P => { P with wins := P.wins.map (fun v => if v.key = w.key then w else v) })

def winOf (P : Part) (k : PosKey) : Option Win := P.wins.find? (fun w => w.key == k)

/-- Rows of a window that are no pad rows. -/
def usedRows (P : Part) (w : Win) : List Nat :=
  match P.man with
  | some m => (winRows w).filter (fun i => (rowDesc m i).isSome)
  | none => []

/-- The items that a row needs at a target (R115). -/
def rowItems (P : Part) (m : Man) (layer slot i : Nat) : List ItemKind :=
  let b := rowBind m i
  (match poolTerm P b layer slot with | some _ => [ItemKind.pooled i] | none => []) ++
    (termSects P b layer slot).flatMap (fun x =>
      ItemKind.sect slot x.2.1 x.2.2.1 :: (if x.2.2.2.2.hasK then [ItemKind.basis slot x.2.2.2.2.bank] else []))

/-- Rows of a window that need an item whose state passes a test. -/
def rowsNeeding (P : Part) (w : Win) (f : LsItem → Bool) : List Nat :=
  match P.man, unitOf P w.key.step w.key.bwd w.key.layer w.key.tslot with
  | some m, some u =>
    (usedRows P w).filter (fun i => (rowItems P m w.key.layer w.key.tslot i).any (fun k => u.items.any (fun it => it.kind == k && f it)))
  | some m, none => (usedRows P w).filter (fun i => !(rowItems P m w.key.layer w.key.tslot i).isEmpty)
  | none, _ => []

/-- A view of a window for what does not depend on the share. -/
def winShape (P : Part) (w : Win) : Option WinCtx :=
  match winCtx P w with
  | some c => some c
  | none =>
    match P.man, tgtOf P w.key.layer w.key.tslot with
    | some m, some t =>
      some { P := P, m := m, w := w, tgt := t,
             u := { step := m.step, idx := 0, place := 0, bwd := w.key.bwd, layer := t.layer, slot := none, items := [], dirty := [] },
             tags := targetTags P m t.layer t.slot (winRows w) }
    | _, _ => none

/-- Whole trees of the rows named (R101). -/
def wholeTrees (P : Part) (w : Win) (rows : List Nat) : List Nat :=
  match winShape P w with
  | some c => ascending (rows.flatMap (treeRows c))
  | none => rows

/-- Rows that lose their terms at a window's target: FLAGS bit, counter, kind of replay entry with its ARG. -/
def rowsLose (s : State) (d : Nat) (w : Win) (rows : List Nat) (bit cnt kind arg : Nat) : State :=
  let new := rows.filter (fun i => !w.out.contains (i % 256))
  let s1 := setWin s d { w with out := w.out ++ new.map (· % 256) }
  let s2 := noGradient (addFlags s1 d bit new) d new
  forEach new (bumpD s2 cnt d new.length) (fun s i => recEvent s d kind w.key (some i) arg)

/-- Every row of a window loses its terms. -/
def windowDead (s : State) (d : Nat) (w : Win) (bit kind : Nat) : State :=
  if w.dead.isSome then s
  else
    match partOf s d with
    | none => s
    | some P =>
      let rows := usedRows P w
      recEvent (noGradient (addFlags (setWin s d { w with dead := some bit }) d bit rows) d rows) d kind w.key none 0

/-! ## Holds (R95, R97, R115) -/

/-- XP_HOLD of a slot. -/
def xpHold (P : Part) : Bool := !P.holds.isEmpty

def holdCeiling (s : State) (d : Nat) : Nat := valD s 12 0x20 d 0

/-- Start a hold. -/
def holdStart (s : State) (d : Nat) (kind : HoldKind) (k : PosKey) (cause : Nat) : State :=
  bumpD (updPart s d (fun P => { P with holds := P.holds ++ [{ kind := kind, key := k, cause := cause, periods := 0, ceil := holdCeiling s d }] })) Cnt.holdEvents d 1

/-- A hold has carried its step beyond the static hold bound (R98): times are in MGMT periods of 2.5 ns, the bound in ns. -/
def overBound (P : Part) (h : Hold) : Bool := h.periods != 0 && decide (2 * P.bound < 5 * P.heldStep)

/-- End a hold: its cause and length go into the replay record. -/
def holdEnd (s : State) (d : Nat) (h : Hold) : State :=
  let s1 := updPart s d (fun P => { P with holds := P.holds.filter (fun x => x != h) })
  if h.kind = .clamp then s1
  else
    let past := match partOf s d with | some P => overBound P h | none => false
    recEvent (if past then bumpD s1 Cnt.holdOverBound d 1 else s1) d 2 h.key none (h.cause * 2 ^ 62 + h.periods)

/-- The handle of a failed item, for the replay record. -/
def itemHandle (P : Part) (layer : Nat) (k : ItemKind) : Nat :=
  match itemSource P layer k with
  | some (g, _) => if g.src = 1 then g.base else none20
  | none => none20

/-- Rows of the windows in flight at a target that need an item that has failed for good lose their terms (R118). -/
def failedRows (s : State) (d : Nat) (w : Win) : State :=
  match partOf s d with
  | none => s
  | some P =>
    match unitOf P w.key.step w.key.bwd w.key.layer w.key.tslot with
    | none => s
    | some u =>
      forEach (u.items.filter (fun it => it.st == 2 && itemFor w.key.tslot it)) s (fun s it =>
        match (partOf s d).bind (fun P => winOf P w.key) with
        | some w' => rowsLose s d w' (rowsNeeding P w' (fun x => x.kind == it.kind)) 3 Cnt.kindleFail 7 (itemHandle P w.key.layer it.kind)
        | none => s)

/-- An item of the target has failed for good since its windows were last looked at: rows of theirs that need it still have
terms. -/
def newlyFailed (P : Part) (k : PosKey) : Bool :=
  match unitOf P k.step k.bwd k.layer k.tslot with
  | none => false
  | some u => (u.items.filter (fun it => it.st == 2 && itemFor k.tslot it)).any (fun it =>
      P.wins.any (fun w => w.dead.isNone && w.key.step == k.step && w.key.bwd == k.bwd && w.key.layer == k.layer && w.key.tslot == k.tslot &&
        (rowsNeeding P w (fun x => x.kind == it.kind)).any (fun i => !w.out.contains (i % 256))))

/-- Kindle holds end whose target has become ready, or waits on an item that has failed for good; rows that need failed items
lose their terms (R115, R118). -/
def kindleSettle (s : State) (d : Nat) : State :=
  match partOf s d with
  | none => s
  | some P =>
    forEach (P.holds.filter (fun h => h.kind == .kindle &&
        (targetReady P h.key.step h.key.bwd h.key.layer h.key.tslot || newlyFailed P h.key))) s (fun s h =>
      let s1 := holdEnd s d h
      match (partOf s1 d).map (fun P => P.wins.filter (fun w => w.key.step == h.key.step && w.key.bwd == h.key.bwd && w.key.layer == h.key.layer && w.key.tslot == h.key.tslot)) with
      | some ws => forEach ws s1 (fun s w => failedRows s d w)
      | none => s1)

end Sys2Proof.Machine
end

