-- ==== Sys2Proof/Machine/TrainCmds.lean ====
section
/-! DEFINITION. The commands and events of training (R193, R194, R200 to R221): attachments, weight-gradient phases, the
two passes of the update, the Holding Pen, the sweep and the export snapshot. -/

namespace Sys2Proof.Machine

/-! ## Attachments (R193, R194) -/

/-- The lowest attachment number that is free. -/
def freeAtt (P : Part) : Nat := P.train.atts.freeFrom 0

/-- An attachment takes effect. -/
def attachTake (s : State) (d n : Nat) : State :=
  match (partOf s d).bind (fun P => P.train.atts.find? n) with
  | none => s
  | some a =>
    let s1 := updTrain s d (fun T => { T with atts := T.atts.put n { a with wait := 0 } })
    match partOf s1 d with
    | some P => if attInit a.desc then attachInit s1 d n P { a with wait := 0 } else s1
    | none => s1

def applyTrainAttach (s : State) (i : Inst) : State := finish (attachTake s i.part i.aux) i (some i.part) Code.ok (w64 i.aux) 0

def trainAttachAct (s : State) (i : Inst) : State :=
  withSlot s i (fun d P =>
    let bs := argBytes s i 1 64
    let w := bytesWords bs
    let c := attachCode s d i.slotArg P w bs
    if c ≠ 0 then refuse s i (some d) c
    else
      let n := freeAtt P
      let s1 := updTrain s d (fun T => { T with atts := T.atts.put n { desc := w, wait := 1 } })
      let j := { i with part := d, aux := n }
      if boundaries P = 0 then applyTrainAttach s1 j else setInst s1 { j with st := .pending, wait := 1 })

def execTrainAttach (s : State) : Out3 := .next (cmdRow s 5 0x10 trainAttachAct)

/-- An attachment ends. -/
def detachNow (s : State) (d n : Nat) : State :=
  match (partOf s d).bind (fun P => P.train.atts.find? n) with
  | none => s
  | some a =>
    let s1 := updTrain s d (fun T => { T with atts := T.atts.del n })
    match a.detach.bind (fun r => instAt s1 5 0x11 r) with
    | some i => finish s1 i (some d) Code.ok 0 0
    | none => s1

/-- Detaches whose last update has ended, at a boundary of `d` (R193). -/
def detachesDue (s : State) (d : Nat) : State :=
  match partOf s d with
  | none => s
  | some P => forEach (P.train.atts.filter (fun e => e.2.detach.isSome)) s (fun s e =>
      if detachReady P e.1 then detachNow s d e.1 else s)

def trainDetachAct (s : State) (i : Inst) : State :=
  withSlot s i (fun d P =>
    let n := fld (i.arg 0) 19 8
    match P.train.atts.find? n with
    | none => refuse s i (some d) Code.adapterAbsent
    | some a =>
      if a.detach.isSome then refuse s i (some d) Code.adapterBusy
      else
        let s1 := setInst (updTrain s d (fun T => { T with atts := T.atts.put n { a with detach := some { path := i.path, cseq := i.cseq } } }))
          { i with st := .pending, part := d, wait := 0, aux := n }
        if boundaries P = 0 then detachesDue s1 d else s1)

def execTrainDetach (s : State) : Out3 := .next (cmdRow s 5 0x11 trainDetachAct)

/-! ## The Holding Pen (R215 to R217) -/

/-- The extent that a trait row's item writes; none for an adapter tensor, whose log and chars are T1 objects. -/
def itemExtent (P : Part) (d : Nat) (it : Item) : Option Nat :=
  if it.trait then (P.traits.tbls.find? it.id).map (fun t => xKey d (tblHandle t.desc it.q) it.row) else none

/-- A T3-homed item without a thawed image that is not redirected to a shadow slot. -/
def wantsPen (s : State) (P : Part) (d step : Nat) (it : Item) : Bool :=
  match itemExtent P d it with
  | some x => homeCode s x == 3 && !(xEnt s x).any (·.thawed) && (redirOf P step it.id it.q it.row).isNone
  | none => false

/-- A Pen entry as kept: its slot and its item. -/
def penKey (slot ord : Nat) : Nat := ord * 8192 + slot

def setItemIn (T : Train) (l : TList) (it it' : Item) : Train :=
  setList T { l with items := l.items.map (fun x => if x == it then it' else x) }

/-- Take a Pen entry for an item: its words go to the Pen object and a thaw is asked for. -/
def penTake (s : State) (d : Nat) (l : TList) (it : Item) : State :=
  match partOf s d with
  | none => s
  | some P =>
    match itemExtent P d it, (List.range 8192).find? (fun k => !P.train.pen.any (fun e => e % 8192 == k)) with
    | some x, some k =>
      let it' := { it with pen := true }
      let bs := wordBytes (listEntry P l.step it' ++ [w64 (gradPlace s d P l it).2, 0])
      let s1 := updTrain s d (fun T => { (setItemIn T l it it') with pen := T.pen ++ [penKey k (gradKey l.step it)] })
      thaw (objWrite (entryPut s1 d l it') d (valD s 5 0x23 d none20) (32 * k) bs) x
    | _, _ => s

/-- Take the final gradients of T3-homed items into the Pen as far as it has room (`fuel` bounds the items); a full Pen
is posted once a step. -/
def penFill : Nat → State → Nat → State
  | 0, s, _ => s
  | fuel + 1, s, d =>
    match partOf s d with
    | none => s
    | some P =>
      match P.train.lists.findSome? (fun l => if l.complete then (l.items.find? (fun it => wantsPen s P d l.step it && !it.pen && !it.done && !it.dropped)).map (fun it => (l, it)) else none) with
      | none => s
      | some (l, it) =>
        if P.train.pen.length < 8192 then penFill fuel (penTake s d l it) d
        else if P.train.penFull then s
        else post (updTrain s d (fun T => { T with penFull := true })) Ev.penFull (some d) Code.penFull P.train.pen.length 0

def penAll (s : State) (d : Nat) : State := penFill 8193 s d

/-- The thaw that a Pen item asked for is given up: it waits no longer, or its pin is dropped. -/
def thawGone (s : State) (x : Nat) : State :=
  if s.tm.thawWait.contains x then { s with tm := { s.tm with thawWait := s.tm.thawWait.erase x } } else unpin s x 2

/-- The thaws of every item in the Pen are given up. -/
def pensGone (s : State) (d : Nat) (P : Part) : State :=
  forEach (P.train.lists.flatMap (fun l => (l.items.filter (fun it => it.pen && !it.done && !it.dropped)).filterMap (itemExtent P d))) s thawGone

/-- Free the Pen entry of an item. -/
def penFree (s : State) (d step : Nat) (it : Item) : State :=
  updTrain s d (fun T => { T with pen := T.pen.filter (fun e => e / 8192 != gradKey step it) })

/-! ## Weight-gradient phases (R200, R205, R218) -/

/-- The partition as a step that has ended sees it while its phases run on. -/
def lateView (P : Part) : Option Part :=
  P.train.late.map (fun l => { P with man := some l.man, train := { P.train with phases := l.phases, noGrad := l.noGrad } })

/-- Targets of a step whose phases have come or ended; none where the step has no phase left. -/
def stepPhases (P : Part) (step : Nat) : Option (List (Nat × Nat)) :=
  if P.man.any (fun m => m.step == step) then some P.train.phases
  else (P.train.late.bind (fun l => if l.man.step = step then some l.phases else none))

/-- The unit of a target: it may be released once its phases have ended. -/
def unitPhased (P : Part) (u : LsUnit) : Bool :=
  !u.bwd || !training P || (match stepPhases P u.step with
    | some ph => (match u.slot with | some t => [t] | none => slotsOf P u.layer).all (fun t => ph.contains (u.layer * 16 + t, 1))
    | none => true)

/-- Mark the units whose last target has merged and whose phases have ended as done, with the write-back of their dirty
lines under way (R113, R125). -/
def unitsDone (s : State) (d : Nat) (u : LsUnit) : State :=
  match partOf s d with
  | none => s
  | some P =>
    if !unitPhased P u then s
    else
      let s1 := setUnits s d (fun v => if v.place = u.place then { v with done := true } else v)
      updPart s1 d dropReleased

/-- A unit as it was kindled, from the generations in force: what a recomputed gradient reads of a unit that has gone. -/
def againUnit (s : State) (d : Nat) (P : Part) (m : Man) (layer slot : Nat) : LsUnit :=
  let u := (stepUnits P m.target).find? (fun u => u.1 && u.2.1 == layer && (match u.2.2 with | some t => t == slot | none => true))
  { step := m.step, idx := 0, place := 2 ^ 20, bwd := true, layer := layer, slot := u.bind (·.2.2), dirty := [],
    items := (unitItems P m (true, layer, some slot)).map (fun k =>
      { kind := k.1, line := 0, lines := k.2, need := 0, st := 1, owed := 0,
        data := match itemSource P layer k.1 with | some (g, e) => leNat (sectPayload s d g e) | none => 0 }) }

/-- A window-free view of a target of direction B, over the unit in the share or, where a clamp has dropped it, one formed
again. -/
def phaseCtx (s : State) (d : Nat) (P : Part) (layer slot : Nat) : Option WinCtx :=
  match P.man, tgtOf P layer slot with
  | some m, some t =>
    some { P := P, m := m, w := { key := { step := m.step, bwd := true, layer := layer, tslot := slot, win := 0, tick := 0 }, n := 0 }, tgt := t,
           u := (unitOf P m.step true layer slot).getD (againUnit s d P m layer slot), tags := [] }
  | _, _ => none

/-- A row that came under R201 after a phase had ended: the gradients of the phases that have ended are formed again
without it. Their counters stand. -/
def regrad (s : State) (d : Nat) : State :=
  match partOf s d with
  | none => s
  | some P =>
    match P.man with
    | none => s
    | some m =>
      if P.train.noGrad.isEmpty then s
      else forEach (P.train.phases.filter (fun x => x.2 == 1)) s (fun s x =>
        let layer := x.1 / 16
        let slot := x.1 % 16
        match listOf P.train m.step, phaseCtx s d P layer slot with
        | some l, some c =>
          forEach (l.items.filter (fun (it : Item) => !it.trait && it.layer == layer && it.slot == slot)) s (fun s it =>
            gradPut s d l it (tensorGrad c P.train it.id it.tensor).1)
        | _, _ => s)

/-- The count of items swept, kept with a sweep's list. -/
def sweptKey : Nat := 1000

/-- A list whose items are all behind pass 2. -/
def listOver (l : TList) : Bool := l.items.all (fun it => it.done || it.dropped)

/-- The end of a list: its STEP_END record, the end of a sweep's command, and what waited. -/
def listOverEnd (s : State) (d : Nat) (l : TList) : State :=
  let s1 := listEnd s d l
  let s2 := match partOf s1 d with
    | some P =>
      if l.sweep && !P.train.lists.any (·.sweep) then
        (match P.train.sweepInst.bind (fun r => instAt s1 5 0x12 r) with
         | some i => updTrain (finish s1 i (some d) Code.ok (w64 (i.aux + l.census.getD sweptKey 0)) 0) d (fun T => { T with sweepInst := none })
         | none => s1)
      else s1
    | none => s1
  updatesResume s2 d

/-- The gradients of a list's trait items (R205). -/
def traitGrads (s : State) (d : Nat) (V : Part) (m : Man) (ph : PoolPhase) (l : TList) : State :=
  forEach (l.items.filter (fun (it : Item) => it.trait)) s (fun s it =>
    let g := rowGrad s d V m ph it
    gradCensus (gradPut s d l it g.1) d l.step [it.group] g.2)

/-- The trait items' gradients, once the last phase of the step has ended, and the list complete (R205, R218); one without items is
sealed and ends at once. `V` is the partition as the step sees it. -/
def listComplete (s : State) (d : Nat) (V : Part) (step : Nat) : State :=
  match (partOf s d).bind (fun P => listOf P.train step), V.man with
  | some l, some m =>
    let s1 := match (partOf s d).bind (fun P => stepPhase P step) with
      | some ph => traitGrads s d V m ph l
      | none => s
    let s2 := listSeal (penAll (updTrain s1 d (fun T => match listOf T step with
      | some l => setList T { l with complete := true }
      | none => T)) d) d step
    if l.items.isEmpty then listOverEnd s2 d l else s2
  | _, _ => s

/-- Every target's phase has ended. -/
def phasesOver (P : Part) (ph : List (Nat × Nat)) : Bool := P.shape.tgts.all (fun t => ph.contains (t.layer * 16 + t.slot, 1))

/-- Run the phase of one target that has come; `late` where its step has ended. -/
def phaseOne (s : State) (d : Nat) (V : Part) (x : Nat × Nat) (late : Bool) : State :=
  match phaseCtx s d V (x.1 / 16) (x.1 % 16) with
  | none => s
  | some c =>
    let ended (l : List (Nat × Nat)) : List (Nat × Nat) := l.map (fun y => if y.1 = x.1 then (x.1, 1) else y)
    let s1 := phaseGrads s d c
    let s2 := updTrain s1 d (fun T =>
      if late then { T with late := T.late.map (fun l => { l with phases := ended l.phases }) } else { T with phases := ended T.phases })
    let s3 := unitsDone s2 d c.u
    if !phasesOver V (ended V.train.phases) then s3
    else if late then updTrain (listComplete s3 d V c.w.key.step) d (fun T => { T with late := none })
    else
      let s4 := regrad s3 d
      match partOf s4 d with
      | some P => listComplete s4 d P c.w.key.step
      | none => s4

/-- The weight-gradient phase of the first target of slot `tslot` whose last window has merged. -/
def phaseRun (s : State) (p tslot : Nat) : State :=
  match slotPart s p with
  | none => s
  | some (d, P) =>
    let pick (V : Part) : Option (Nat × Nat) := V.train.phases.find? (fun x => x.2 == 0 && x.1 % 16 == tslot)
    if P.st != .running then s
    else match (lateView P).bind (fun V => (pick V).map (fun x => (V, x))) with
      | some (V, x) => phaseOne s d V x true
      | none =>
        match pick P with
        | some x => phaseOne s d P x false
        | none => s

/-- What is left of the phases of a step that ended a boundary ago (`fuel` bounds them). -/
def lateFinish : Nat → State → Nat → State
  | 0, s, _ => s
  | fuel + 1, s, d =>
    match (partOf s d).bind lateView with
    | none => s
    | some V =>
      match V.train.phases.find? (fun x => x.2 == 0) with
      | some x => lateFinish fuel (phaseOne s d V x true) d
      | none => updTrain s d (fun T => { T with late := none })

def execWeightGradientPhase (p tslot : Nat) (s : State) : Out3 := .next (if held s then s else phaseRun s p tslot)

/-! ## Pass 1 (R206, R207) -/

/-- The course of a group is kept with its list; its norm and its step count are those of the partition (R206, R207). -/
def groupPut (s : State) (d : Nat) (P : Part) (l : TList) (g : Nat) (r : GroupRes) : State :=
  bumpCensus (updTrain s d (fun T => setList { T with
    norms := T.norms.set 0 g r.norm, groupStep := T.groupStep.set 0 g r.t } { l with groups := l.groups ++ [r] })) d (groupNorm P.train l g).2

/-- Pass 1 of a group: its norm and its course; it waits while the Pen has not taken every final gradient. -/
def pass1 (s : State) (p g : Nat) : State :=
  match slotPart s p with
  | none => s
  | some (d, P) =>
    match P.train.lists.find? (fun l => l.complete && !l.sweep && l.items.any (fun it => it.group == g) && !l.groups.any (fun r => r.group == g)) with
    | none => s
    | some l =>
      if (l.items.filter (fun it => it.group == g)).any (fun it => wantsPen s P d l.step it && !it.pen) then s
      else
        let r := groupDecide s d P.train l g
        let s1 := groupPut s d P l g r
        let s2 := if r.act = 2 then post (bumpD s1 Cnt.trainSkip d 1) Ev.trainSkip (some d) 0 g r.norm
          else if r.act = 1 then bumpD s1 Cnt.trainClip d 1 else s1
        listSeal s2 d l.step

def execUpdatePass1 (p group : Nat) (s : State) : Out3 := .next (if held s then s else pass1 s p group)

/-! ## Pass 2 (R211, R217, R219) -/

/-- The decision of an item's group. -/
def itemRes (l : TList) (it : Item) : Option GroupRes := l.groups.find? (fun r => r.group == it.group)

/-- LASTSTEP of an item's header as it stands. -/
def itemLastStep (s : State) (d : Nat) (P : Part) (a : Attach) (step : Nat) (it : Item) : Nat :=
  if it.trait then
    (match P.traits.tbls.find? it.id with
     | some t => headerStep ((rowBytes s d P step it.id it.q it.row).drop (tblRowBytes t.desc))
     | none => 0)
  else
    match ((P.adpts.getD it.id {}).cur) with
    | some g =>
      (match g.sects.findIdx? (fun e => e.layer == it.layer && e.slot == it.slot) with
       | some k => headerStep (objBytes s d (attLog a.desc) (sectStateOff a.desc g.sects k) 64)
       | none => 0)
    | none => 0

/-- The sweep leaves an item whose header has LASTSTEP at the list's step, or past it (R219). -/
def sweepDone (s : State) (d : Nat) (P : Part) (a : Attach) (l : TList) (it : Item) : Bool :=
  l.sweep && decide (l.step ≤ itemLastStep s d P a l.step it)

/-- An item's thaw has failed (R217). -/
def thawLost (s : State) (P : Part) (d : Nat) (it : Item) : Bool :=
  match itemExtent P d it with
  | some x => it.pen && (xEnt s x).isNone && !s.tm.thawWait.contains x
  | none => false

/-- An item that its thaw has left without an image (R217): counted, and written to the replay record. -/
def itemLost (s : State) (d : Nat) (l : TList) (it : Item) : State :=
  recEvent (bumpD s Cnt.penDrop d 1) d 10 { step := l.step, bwd := false, layer := 0, tslot := 0, win := 0, tick := 0 } (some 0) (listIndex l it)

/-- The image that an item waits for in the Pen is not there yet. -/
def penWaiting (s : State) (P : Part) (d : Nat) (it : Item) : Bool :=
  it.pen && !thawLost s P d it && !(match itemExtent P d it with | some x => (cachedCopy s x).isSome | none => true)

/-- The item that pass 2 takes next: the first in key order of a decided group; one in the Pen once its thaw has ended (R215, R217). -/
def nextItem (s : State) (d : Nat) (P : Part) : Option (TList × Item × GroupRes) :=
  P.train.lists.findSome? (fun l =>
    (l.items.find? (fun it => !it.done && !it.dropped && (itemRes l it).isSome && (it.pen || !wantsPen s P d l.step it) &&
        !penWaiting s P d it)).bind (fun it => (itemRes l it).map (fun r => (l, it, r))))

/-- The training unit takes an item of slot `p` next (R252): no partition of higher priority has one, and among equals the slots are
taken in round robin after the one served last. -/
def passTurn (s : State) (p : Nat) : Bool :=
  let turn (x : Nat) : Nat := (x + 7 - s.rel.trained) % 8
  let prio (x : Nat) : Nat := (lastVal s 7 0x21 x).toNat
  (runningParts s).all (fun e => match e.2.slot with
    | some x => x == p || (nextItem s e.1 e.2).isNone || decide (prio p < prio x) || (prio p == prio x && decide (turn p < turn x))
    | none => true)

/-- What an item in the Pen holds is given back: its entry, and the pin of its image. -/
def penLeave (s : State) (P : Part) (d : Nat) (l : TList) (it : Item) (lost : Bool) : State :=
  if it.pen then
    penAll (penFree (match itemExtent P d it with | some x => if lost then s else unpin s x 2 | none => s) d l.step it) d
  else s

/-- Pass 2 of one item. -/
def updateOne (s : State) (p : Nat) : State :=
  match slotPart s p with
  | none => s
  | some (d, P) =>
    if P.st != .running || !passTurn s p then s
    else match nextItem s d P with
      | none => s
      | some (l, it, r) =>
        match P.train.atts.find? it.att with
        | none => s
        | some a =>
          let lost := thawLost s P d it
          let skip := sweepDone s d P a l it
          let failed := !lost && !skip && !it.trait && !tensorReadable s d P a l it
          let s1 := if lost then itemLost s d l it
            else if skip then s
            else if failed then tensorDropped (bumpArr s Cnt.tierFail d 4 0 1) d P a l it
            else if it.trait then updateRow s d P a l it r
            else updateTensor s d P a l it r
          let s2 := if lost || skip || failed || r.act = 2 then s1
            else bumpD s1 (if l.sweep then Cnt.sweepItems else Cnt.trainItems) d 1
          let s3 := penLeave s2 P d l it lost
          let it' := { it with done := !(lost || failed), dropped := lost || failed }
          let l' := { l with items := l.items.map (fun x => if x == it then it' else x),
                             census := if lost || skip then l.census else l.census.set 0 sweptKey (l.census.getD sweptKey 0 + 1) }
          let s4 := updTrain { s3 with rel := { s3.rel with trained := p } } d (fun T => setList T l')
          if listOver l' then listOverEnd s4 d l' else s4

/-! ## The sweep, discard and snapshot (R219, R221) -/

/-- Read an item and its trailer from the entries of a sealed touched list. -/
def readEntry (P : Part) (w0 w1 : Nat) : Option Item :=
  let h := fld w0 55 36
  let kind := fld w0 63 62
  let q := bitOf w0 32
  let pen := bitOf w1 0
  if kind = 0 then
    (List.find? (fun (e : Nat × Attach) => attKind e.2.desc == 0 && attLog e.2.desc == h) P.train.atts).bind (fun e =>
      (((P.adpts.getD (attId e.2.desc) {}).cur).bind (fun g => g.sects[fld w0 31 0]?)).map (fun x =>
        { att := e.1, trait := false, group := fld w0 61 56, id := attId e.2.desc, layer := x.layer, slot := x.slot, tensor := fld w0 35 33, q := false, row := 0, pen := pen }))
  else
    (List.find? (fun (e : Nat × Attach) => attKind e.2.desc == 1 && attPq e.2.desc == q &&
      (match P.traits.tbls.find? (attId e.2.desc) with | some t => tblHandle t.desc q == h | none => false)) P.train.atts).map (fun e =>
      { att := e.1, trait := true, group := fld w0 61 56, id := attId e.2.desc, layer := 0, slot := 0, tensor := 0, q := q, row := fld w0 31 0, pen := pen })

/-- Read a sealed list from its bytes: entries up to the trailer (`fuel` bounds the entries); none where no trailer ends it. -/
def readList (P : Part) (m : Tab Byte) : Nat → Nat → List Item → Nat → Option TList
  | 0, _, _, _ => none
  | fuel + 1, k, items, step =>
    let w0 := (wordAt m k).toNat
    let w1 := (wordAt m (k + 8)).toNat
    if fld w0 63 62 = 3 then
      some { step := step, items := items, complete := true, isSealed := true, sweep := true,
             groups := (List.range 64).filterMap (fun g =>
               let t0 := (wordAt m (k + 16 * g)).toNat
               let t1 := (wordAt m (k + 16 * g + 8)).toNat
               if items.any (fun it => it.group == g) then
                 some { group := g, nu := 0, norm := fld t1 31 0, act := fld t0 1 0, kappa := fld t1 63 32, t := P.train.groupStep.getD g 0 }
               else none) }
    else if 1 < fld w0 63 62 then none
    else readList P m fuel (k + 16) (items ++ (readEntry P w0 w1).toList) (fld w1 63 24)

/-- Steps abandoned: lists that are not sealed (R219); their generations hold what was not updated unchanged. -/
def listsAbandon (s : State) (d : Nat) : State :=
  match partOf s d with
  | none => s
  | some P =>
    let ls := P.train.lists.filter (fun l => !l.isSealed)
    let s1 := forEach ls s (fun s l => listDropped s d l)
    bumpD (updTrain s1 d (fun T => { T with lists := T.lists.filter (·.isSealed) })) Cnt.trainAbandon d ls.length

/-- Recovery: every sealed list is swept, the others are abandoned (R219). -/
def listsRecover (s : State) (d : Nat) : State :=
  updTrain (listsAbandon s d) d (fun T => { T with lists := (T.lists.filter (fun l => !l.ended)).map (fun l => { l with sweep := true }) })

def trainSweepAct (s : State) (i : Inst) : State :=
  withSlot s i (fun d P =>
    if !cfgTrain s then refuse s i (some d) Code.optionAbsent
    else if P.train.sweepInst.isSome then s
    else
      let own := i.arg 1 = 0
      let lists : Option (List TList) :=
        if own then some ((P.train.lists.filter (fun l => l.isSealed && !l.ended)).map (fun l => { l with sweep := true }))
        else (readList P s.mem (1048576 + 64) (memKey 0 (i.arg 1 % 2 ^ 52)) [] 0).map (fun l => [l])
      match lists with
      | none => refuse s i (some d) Code.imageBad
      | some ls =>
        let live := ls.filter (fun l => !listOver l)
        if live.isEmpty then finish s i (some d) Code.ok 0 0
        else
          let s1 := updTrain s d (fun T => { T with
            lists := (if own then T.lists.filter (fun l => !l.isSealed) else T.lists) ++ live, sweepInst := some { path := i.path, cseq := i.cseq } })
          setInst s1 { i with st := .checking, part := d, aux := 0 })

def execTrainSweep (s : State) : Out3 := .next (cmdRow s 5 0x12 trainSweepAct)

/-- TRAIN_DISCARD: the partition's lists, Pen and gradients are given up. -/
def trainDiscardAct (s : State) (i : Inst) : State :=
  withSlot s i (fun d P =>
    if !cfgTrain s then refuse s i (some d) Code.optionAbsent
    else
      let s1 := listsAbandon (forEach (P.train.lists.filter (·.isSealed)) (pensGone s d P) (fun s l => listDropped s d l)) d
      finish (updTrain s1 d (fun T => { T with lists := [], pen := [], penFull := false, grads := [], accs := [], save := [], stash := [] })) i (some d) Code.ok 0 0)

def execTrainDiscard (s : State) : Out3 := .next (cmdRow s 5 0x13 trainDiscardAct)

/-- The record of one attached item as it stands, for a snapshot: its STEP is that of the item's last update (Table TRAIN-9). -/
def snapItem (s : State) (d : Nat) (P : Part) (a : Attach) (it : Item) : List Byte :=
  if it.trait then
    match P.traits.tbls.find? it.id with
    | none => []
    | some t =>
      let row := rowBytes s d P (2 ^ 40) it.id it.q it.row
      let side := objBytes s d (attLog a.desc) (it.row * rowState a.desc t.desc) (rowState a.desc t.desc)
      let ch := row.take (tblRowBytes t.desc)
      let n := a64 (4 * tblElems t.desc)
      let own := tblRfmt t.desc = 0
      itemRecord s d P (headerStep (row.drop (tblRowBytes t.desc))) it ch (if own then ch else side.take n) (if own then side else side.drop n) t.gen
        (headerCnt (row.drop (tblRowBytes t.desc))) 0
  else
    match (P.adpts.getD it.id {}).cur with
    | none => []
    | some g =>
      match g.sects.findIdx? (fun e => e.layer == it.layer && e.slot == it.slot) with
      | none => []
      | some k =>
        match g.sects[k]? with
        | none => []
        | some e =>
          let off := sectStateOff a.desc g.sects k + tensorStateOff a.desc e it.tensor
          let n := a64 (4 * tensorElems e it.tensor)
          let (c, m) := tensorDims e it.tensor
          let chLen := (encodeTensor (charFmt e it.tensor) m (List.replicate (c * m) 0)).1.length
          let o := e.poff + charOff e it.tensor
          let ch := if g.src = 0 then bytesAt s.mem (memKey 0 (g.base + o)) chLen else objBytes s d g.base o chLen
          let hdr := objBytes s d (attLog a.desc) (sectStateOff a.desc g.sects k) 64
          itemRecord s d P (headerStep hdr) it ch (objBytes s d (attLog a.desc) off n)
            (objBytes s d (attLog a.desc) (off + n) (tensorState a.desc e it.tensor - n)) g.gen (headerCnt hdr) (if g.sealed then a.run else 0)

/-- Every item of the attachments, touched or not. -/
def allItems (P : Part) : List Item :=
  let rows := P.train.atts.flatMap (fun e =>
    if attKind e.2.desc = 1 then
      ((P.traits.tbls.find? (attId e.2.desc)).map (fun t => (List.range (tblRows t.desc (attPq e.2.desc))).map (fun r => (attId e.2.desc, (if attPq e.2.desc then 1 else 0), r)))).getD []
    else [])
  stepItems P rows

/-- EXPORT_SNAP: SNAP_BEGIN, one record for each attached item, SNAP_END. -/
def applyExportSnap (s : State) (i : Inst) : State :=
  match partOf s i.part with
  | none => refuse s i none Code.partState
  | some P =>
    let d := i.part
    let mark (t : Nat) : List Byte := expHeader d t 0 0 P.train.lastStep 0 0 0 []
    let s1 := expPut s d P.train.lastStep (mark 5)
    let s2 := forEach (allItems P) s1 (fun s it =>
      match P.train.atts.find? it.att with
      | some a => expPut s d P.train.lastStep (snapItem s d P a it)
      | none => s)
    finish (expPut s2 d P.train.lastStep (mark 6)) i (some d) Code.ok 0 0

def exportSnapAct (s : State) (i : Inst) : State :=
  withSlot s i (fun d P =>
    if !cfgTrain s then refuse s i (some d) Code.optionAbsent
    else atBoundary s { i with part := d } d P applyExportSnap)

def execExportSnap (s : State) : Out3 := .next (cmdRow s 5 0x14 exportSnapAct)

end Sys2Proof.Machine
end

