-- ==== Sys2Proof/Machine/StreamOps.lean ====
section
/-! DEFINITION. The stream and the windows in flight (R63, R71 to R76, R83, R85 to R89, R92, R95, R99, R100, R359,
R360): positions, panels, the course of a window through its stages, Merge, ready answers and XP reads. -/

namespace Sys2Proof.Machine

/-! ## Records (R85, R86) -/

/-- The position that a record names. -/
def recKey (w0 w1 : W64) : PosKey :=
  { step := wfld w0 63 24, bwd := wfld w0 23 23 == 1, layer := wfld w0 22 15, tslot := wfld w0 14 11,
    win := wfld w1 54 45, tick := wfld w0 10 0 }

def recKind (w1 : W64) : Nat := wfld w1 63 60
def recPart (w1 : W64) : Nat := wfld w1 59 55
def recRows (w1 : W64) : Nat := wfld w1 44 37 + 1

/-- The window of a position. -/
def winKey (k : PosKey) : PosKey := { k with tick := 0 }

/-- The PP word of a position. -/
def ppOf (k : PosKey) : W64 :=
  w64 (k.step % 2 ^ 40 * 2 ^ 24 + (if k.bwd then 2 ^ 23 else 0) + k.layer % 256 * 2 ^ 15 + k.tslot % 16 * 2 ^ 11 + k.tick % 2 ^ 11)

/-! ## The pass (R87, R88) -/

def panelsOf (t : Tgt) : Nat := ceilDiv t.din 128
def manWins (m : Man) : Nat := ceilDiv m.rows.length 256
def winSize (m : Man) (w : Nat) : Nat := Nat.min 256 (m.rows.length - 256 * w)

/-- The adapted targets of a pass in pass order. -/
def passTgts (P : Part) : List (Bool × Tgt) :=
  (sortBy (fun t => t.layer * 16 + t.slot) P.shape.tgts).map (fun t => (false, t)) ++
    (if hasBwd P then (sortBy (fun t => (255 - t.layer) * 16 + t.slot) P.shape.tgts).map (fun t => (true, t)) else [])

/-- The windows of a step in pass order. -/
def passWins (P : Part) (m : Man) : List PosKey :=
  (passTgts P).flatMap (fun x => (List.range (manWins m)).map (fun w =>
    { step := m.step, bwd := x.1, layer := x.2.layer, tslot := x.2.slot, win := w, tick := 0 }))

/-- The target that a position names, where the pass of the partition has it. -/
def passTgt (P : Part) (k : PosKey) : Option Tgt := if k.bwd && !hasBwd P then none else tgtOf P k.layer k.tslot

/-- Two positions at one target. -/
def sameTgt (a b : PosKey) : Bool := a.bwd == b.bwd && a.layer == b.layer && a.tslot == b.tslot

/-- The last target of the final pass. -/
def finalTgt (P : Part) (k : PosKey) : Bool :=
  match (passTgts P).getLast? with
  | some x => x.1 == k.bwd && x.2.layer == k.layer && x.2.slot == k.tslot
  | none => false

/-! ## Units that still have work -/

/-- A unit with a row that has not lost its terms. -/
def unitLive (w : Win) (u : WUnit) : Bool := w.dead.isNone && u.tags.any (fun t => !w.out.contains (t.row % 256))

/-- The Shrink units of a window by number: in direction F the units of panel `k` follow those of panel k − 1. -/
def shrinkAll (c : WinCtx) : List (Nat × WUnit) :=
  let us := shrinkUnits c
  let l := List.zip (List.range us.length) us
  if c.w.key.bwd then l else (List.range (panelsOf c.tgt)).flatMap (fun k => l.map (fun x => (k * us.length + x.1, x.2)))

def shrinkEnded (c : WinCtx) : Bool := (shrinkAll c).all (fun x => !unitLive c.w x.2 || c.w.shrunk.contains x.1)

def coreEnded (c : WinCtx) : Bool :=
  let us := coreUnits c
  (List.zip (List.range us.length) us).all (fun x => !unitLive c.w x.2 || c.w.cored.contains x.1)

/-- Expand blocks that hold a row which still needs them. -/
def blockLive (c : WinCtx) (j : Nat) : Bool :=
  c.w.dead.isNone && (blockRows c.w (outDim c) j).any (fun i => hasFK c i && !c.w.out.contains (i % 256))

def expandEnded (c : WinCtx) : Bool :=
  (List.range (expandCount c.w (outDim c))).all (fun j => !blockLive c j || c.w.expanded.contains j)

/-- Panel `k` of a window has been consumed by the group (R92): the x of direction B is for the stash alone. -/
def panelEaten (c : WinCtx) (k : Nat) : Bool :=
  c.w.key.bwd || c.w.dead.isSome || c.w.stage != .shrink ||
    (let us := shrinkUnits c
     (List.zip (List.range us.length) us).all (fun x => !unitLive c.w x.2 || c.w.shrunk.contains (k * us.length + x.1)))

/-- Unconsumed panels of the group of some tiles: the windows that have a quad in common with them (R79). -/
def groupPanels (P : Part) (tiles : List Nat) : Nat :=
  sumBy (P.wins.filter (fun w => w.tiles.any (fun t => tiles.any (fun u => t / 4 == u / 4)))) (fun w =>
    match winShape P w with
    | some c => (w.panels.filter (fun x => !panelEaten c x.num)).length
    | none => 0)

/-- Bytes of Shrink accumulators of a window (R83). -/
def shrinkBytes (c : WinCtx) : Nat := 4 * sumBy c.tags (·.cols)

/-! ## XP reads (R359) -/

def updXp (s : State) (f : Xp → Xp) : State := { s with xp := f s.xp }

/-- Chunks read and not yet written back of a window: ACC and DX data that has returned for rows with terms. -/
def chunksHeld (w : Win) : Nat :=
  if w.dead.isSome || w.stage = .merged then 0
  else (w.chunks.filter (fun e => (e.1 / 16384 = 0 || e.1 / 16384 = 3) && !w.out.contains (e.1 / 64 % 256) && (w.writes.find? e.1).isNone)).length

/-- Places of the port in use. -/
def xpUsed (s : State) : Nat := s.xp.out.length + sumBy s.parts.vals (fun P => sumBy P.wins chunksHeld)

/-- A read issues as soon as a place is free. -/
def xpPumpAux : Nat → State → State
  | 0, s => s
  | fuel + 1, s =>
    match s.xp.want with
    | r :: t => if xpUsed s < 64 then xpPumpAux fuel (updXp s (fun x => { want := t, out := x.out ++ [r] })) else s
    | [] => s

def xpPump (s : State) : State := xpPumpAux 65 s

/-- Ask for chunks of a window: buffer, host row, chunk. -/
def xpWant (s : State) (d : Nat) (k : PosKey) (l : List (Nat × Nat × Nat)) : State :=
  xpPump (updXp s (fun x => { x with want := x.want ++ l.map (fun e => { d := d, key := k, buf := e.1, row := e.2.1 % 256, chunk := e.2.2 }) }))

/-- Reads of rows that have lost their terms are not issued. -/
def xpForget (s : State) (d : Nat) (k : PosKey) : State :=
  match (partOf s d).bind (fun P => winOf P k) with
  | none => s
  | some w => xpPump (updXp s (fun x => { x with want := x.want.filter (fun r => !(r.d == d && r.key == k && (w.dead.isSome || w.out.contains r.row))) }))

/-- The chunks of GRAD, and of YVAL where the host sends it, that a window of direction B reads. -/
def gradReads (s : State) (d : Nat) (c : WinCtx) : List (Nat × Nat × Nat) :=
  let bufs := if valD s 5 0x26 d 0 = 1 then [1, 2] else [1]
  bufs.flatMap (fun b => (liveRows c).flatMap (fun i => (List.range (ceilDiv c.tgt.dout 512)).map (fun k => (b, i, k))))

/-- The reads whose data Shrink of direction B waits for have returned. -/
def gradsIn (s : State) (d : Nat) (c : WinCtx) : Bool :=
  (gradReads s d c).all (fun x => (c.w.chunks.find? (chunkKey x.1 (x.2.1 % 256) x.2.2)).isSome)

/-! ## Answers (R93, R95) -/

/-- A ready answer. -/
def answer (s : State) (p : Nat) (k : PosKey) : State :=
  { s with out := { s.out with rdy := some (p % 8 * 1024 + k.win % 1024), rdyCount := s.out.rdyCount + 1 } }

/-- The answer of a window, with its hold ended. -/
def answerWin (s : State) (d : Nat) (k : PosKey) : State :=
  match partOf s d with
  | none => s
  | some P =>
    match winOf P k, P.slot with
    | some w, some p =>
      let s1 := setWin s d { w with answered := true }
      let s2 := forEach (P.holds.filter (fun h => h.kind == .epilogue && h.key == k)) s1 (fun s h => holdEnd s d h)
      answer s2 p k
    | _, _ => s

/-! ## Merge (R76, R360) -/

/-- The order of Merge: no earlier window of the partition is still to merge. -/
def mergeTurn (P : Part) (w : Win) : Bool := P.wins.all (fun v => v.stage == .merged || decide (w.key.ord ≤ v.key.ord))

/-- The chunks that a window has still to write. -/
def writesLeft (c : WinCtx) : List (Nat × Nat × Nat) :=
  (mergeList c).filter (fun x => (c.w.writes.find? (chunkKey x.1 (x.2.1 % 256) x.2.2)).isNone)

/-- Some chunk of a row has been written. -/
def rowBegun (w : Win) (i : Nat) : Bool := w.writes.any (fun e => e.1 / 64 % 256 == i % 256)

/-- The row whose Merge is in progress (R96). -/
def midRow (c : WinCtx) : Bool := (writesLeft c).any (fun x => rowBegun c.w x.2.1)

/-- The write a partition presents: the next chunk of its first unmerged window, where its operands are there. -/
def presented (P : Part) : Option (WinCtx × (Nat × Nat × Nat)) :=
  match P.wins.find? (fun w => w.stage == .scale && mergeTurn P w) with
  | none => none
  | some w =>
    match winShape P w with
    | none => none
    | some c =>
      match writesLeft c with
      | x :: _ => if writeReady c x then some (c, x) else none
      | [] => none

/-- DIGEST of a window (R425); `g16` where GRAD is in BF16. -/
def digestEntry (g16 : Bool) (c : WinCtx) : Option (W64 × W64) :=
  if c.w.writes.isEmpty then none
  else
    let bytes := c.w.writes.flatMap (fun e => leBytes 2048 (packElems (if g16 && e.1 / 16384 == 1 then 16 else 32) e.2))
    some (evWord 13 c.w.key none, w64 (crc32 bytes))

/-- Digests are kept in R87 order of their windows (R424). -/
def putDigest (l : List (W64 × W64)) (n : Nat) (e : W64 × W64) : List (W64 × W64) := l.take n ++ [e] ++ l.drop n

/-! ## Windows that open and end -/

/-- Windows that have merged and been answered go once the stream has passed them. -/
def dropPast (P : Part) : Part :=
  match P.stream.far with
  | none => P
  | some f => { P with wins := P.wins.filter (fun w => !(w.stage == .merged && w.answered && decide (w.key.ord < (winKey f).ord) && !finalTgt P w.key)) }

/-- A window that the stream, or a request, has come to. -/
def addWin (s : State) (p d : Nat) (k : PosKey) : State :=
  match partOf s d with
  | none => s
  | some P =>
    match winOf P (winKey k), P.man with
    | none, some m =>
      let n := winSize m k.win
      let w : Win := { key := winKey k, n := n, tiles := groupTiles s p d (decodeWindow m k.win n) }
      updPart s d (fun P => { P with wins := P.wins ++ [w] })
    | _, _ => s

/-- The last target of the final pass has merged in every window (R9). -/
def finalMerged (P : Part) (m : Man) : Bool :=
  let ws := P.wins.filter (fun w => finalTgt P w.key)
  ws.any (fun w => w.key.win + 1 == manWins m) && ws.all (fun w => w.stage == .merged) && ws.length == manWins m

/-- Merge of a window ends (R95): its digest, what training keeps of it, the end of its unit's work, its answer. -/
def mergeEnd (s : State) (d : Nat) (k : PosKey) : State :=
  match partOf s d with
  | none => s
  | some P =>
    match winOf P k with
    | none => s
    | some w =>
      if w.stage = .merged then s
      else
        let s1 := setWin s d { w with stage := .merged }
        let s2 :=
          match winShape P w, s.dbg.recs.find? d with
          | some c, some r =>
            (match digestEntry (valD s 8 0x31 d 0 == 1) c with
             | some e =>
               let before := (P.wins.filter (fun v => v.stage == .merged && !v.writes.isEmpty && decide (w.key.ord < v.key.ord))).length
               { s1 with dbg := { s1.dbg with recs := s1.dbg.recs.put d { r with digests := putDigest r.digests (r.digests.length - before) e } } }
             | none => s1)
          | _, _ => s1
        let s3 :=
          match winCtx P w with
          | some c =>
            if w.key.bwd then
              (let sA := if P.modes.trainAdpt then keepStash s2 d c (valD s 8 0x30 d 4) else s2
               if P.modes.trainTrait then poolAccumulate sA d c else sA)
            else if P.modes.trainAdpt then keepSave s2 d c else s2
          | none =>
            (match winShape P w with
             | some c => if !w.key.bwd && P.modes.trainAdpt && w.dead.isNone then keepSave s2 d c else s2
             | none => s2)
        let s4 :=
          match partOf s3 d with
          | none => s3
          | some P3 =>
            let here := P3.wins.filter (fun v => sameTgt v.key w.key)
            let last := match P.man with
              | some m => here.any (fun v => v.key.win + 1 == manWins m) && here.all (fun v => v.stage == .merged)
              | none => false
            let phase := last && w.key.bwd && training P
            if phase then updTrain s3 d (fun T => { T with phases := T.phases ++ [(w.key.layer * 16 + w.key.tslot, 0)] }) else s3
        let s5 := updPart s4 d (fun P => match P.man with | some m => { P with merged := P.merged || finalMerged P m } | none => P)
        let s6 := if w.requested && !w.answered then answerWin s5 d k else s5
        xpForget (updPart s6 d dropPast) d k

/-- Windows of a partition whose next write needs DX that has not been asked for: Merge of the window begins (R359). -/
def mergeBegin (s : State) (d : Nat) : State :=
  match partOf s d with
  | none => s
  | some P =>
    match P.wins.find? (fun w => w.stage == .scale && mergeTurn P w && w.key.bwd) with
    | none => s
    | some w =>
      match winCtx P w with
      | none => s
      | some c =>
        let need := (mergeList c).filter (fun x => x.1 == 3 && (w.chunks.find? (chunkKey 3 (x.2.1 % 256) x.2.2)).isNone &&
          !(s.xp.want ++ s.xp.out).any (fun r => r.d == d && r.key == w.key && r.buf == 3 && r.row == x.2.1 % 256 && r.chunk == x.2.2))
        if need.isEmpty then s else xpWant s d w.key need

/-- Write the Scale list of a window into its engines: entry i of window w stands at 256 × (w mod 8) + i (R295). -/
def scaleList (s : State) (p d : Nat) (c : WinCtx) : State :=
  let rows := (winRows c.w).filter (fun i => hasTerms c i && !c.w.out.contains (i % 256) && c.w.dead.isNone)
  forEach (quadsOf s p d) s (fun s q =>
    let e := (s.ee.find? q).getD {}
    let keep := e.scl.filter (fun x => !(x.1 == p && x.2.1 % 8 == c.w.key.win % 8))
    { s with ee := s.ee.set {} q { e with scl := keep ++ rows.map (fun i => (p, c.w.key.win, i)) } })

/-- The Expand blocks of a window on the tiles of quad `q` have ended. -/
def quadExpanded (c : WinCtx) (q : Nat) : Bool :=
  (List.range (expandCount c.w (outDim c))).all (fun j => !blockLive c j || blockTile c.w j / 4 != q || c.w.expanded.contains j)

/-- Scale of engine `q` can take the rows of a window: Expand has ended on every tile of its quad. -/
def scaleOpen (P : Part) (q : Nat) (w : Win) : Bool :=
  w.stage == .scale || (w.stage == .expand && (match winCtx P w with | some c => quadExpanded c q | none => false))

/-- One step of a window through its stages where the work of the present one has ended. -/
def winNext (s : State) (p d : Nat) (k : PosKey) : State :=
  match partOf s d with
  | none => s
  | some P =>
    match winOf P k with
    | none => s
    | some w =>
      if w.stage = .merged then s
      else if w.dead.isSome then mergeEnd s d k
      else
        match winShape P w with
        | none => s
        | some c =>
          if w.seen < panelsOf c.tgt then s
          else if (liveRows c).isEmpty then mergeEnd s d k
          else
            match w.stage with
            | .shrink =>
              if c.tags.isEmpty then scaleList (setWin s d { w with stage := .scale }) p d c
              else if (winCtx P w).isNone || !shrinkEnded c then s
              else
                let (inter, cs) := interAll c
                bumpCensus (setWin s d { w with stage := .core, inter := inter }) d cs
            | .core => if coreEnded c then scaleList (setWin s d { w with stage := .expand }) p d c else s
            | .expand => if expandEnded c then setWin s d { w with stage := .scale } else s
            | .scale =>
              if (writesLeft c).isEmpty && mergeTurn P w then mergeEnd s d k else s
            | .merged => s

/-- Let every window of a partition go as far as it can. -/
def winsSettleAux (p d : Nat) : Nat → State → State
  | 0, s => s
  | fuel + 1, s =>
    winsSettleAux p d fuel (match partOf s d with
      | some P => forEach (sortBy (fun (w : Win) => w.key.ord) P.wins) s (fun s w => winNext s p d w.key)
      | none => s)

/-- The tiles and the engines have no more use for a window's unit (R113): its Expand blocks have ended and Scale has handed on
every operand of its Merge. In direction B Merge itself forms g_a from the stored s of the region. -/
def useEnded (P : Part) (w : Win) : Bool :=
  w.dead.isSome || w.stage == .merged || (!w.key.bwd && w.stage == .scale &&
    (match winShape P w with
     | some c => (writesLeft c).all (fun x => (w.scaled.find? (chunkKey x.1 (x.2.1 % 256) x.2.2)).isSome)
     | none => true))

/-- Every use of a unit has ended: of each window of each of its targets, those that have gone among them. -/
def unitUseEnded (P : Part) (m : Man) (u : LsUnit) : Bool :=
  (match u.slot with | some t => [t] | none => slotsOf P u.layer).all (fun t => (List.range (manWins m)).all (fun n =>
    let k : PosKey := { step := m.step, bwd := u.bwd, layer := u.layer, tslot := t, win := n, tick := 0 }
    match winOf P k with
    | some w => useEnded P w
    | none => (match P.stream.far with | some f => decide (k.ord < (winKey f).ord) | none => false)))

/-- Units of the step in progress whose use has ended are done (R113). -/
def unitsSettle (s : State) (d : Nat) : State :=
  match partOf s d with
  | none => s
  | some P =>
    match P.man with
    | none => s
    | some m => forEach (P.units.filter (fun u => u.step == m.step && !u.done && unitUseEnded P m u)) s (fun s u => unitsDone s d u)

def winsSettle (s : State) (p d : Nat) : State := unitsSettle (mergeBegin (winsSettleAux p d 5 s) d) d

/-! ## Rows bypassed (R99 to R101, R117) -/

/-- Rows of a window whose Merge has not ended are bypassed; a row in the middle of its Merge completes, and with it the
tree it belongs to. -/
def bypassRest (s : State) (d : Nat) (w : Win) : State :=
  match (partOf s d).bind (fun P => winShape P w) with
  | none => s
  | some c =>
    let left := dedup ((writesLeft c).map (·.2.1))
    rowsLose s d w (left.filter (fun i => !(treeRows c i).any (rowBegun w))) 1 Cnt.bypassRows 3 0

/-- Rows that need items which have not been kindled are bypassed, in whole trees. -/
def bypassMissing (s : State) (d : Nat) (w : Win) (rows : List Nat) : State :=
  match partOf s d with
  | none => s
  | some P => rowsLose s d w (wholeTrees P w rows) 1 Cnt.bypassRows 3 0

/-! ## Sequence errors (R89) and PANEL records (R88, R92, R115) -/

def ppSeq (s : State) (d n : Nat) : State := bumpD s Cnt.ppSeq d n

/-- A record that is discarded: counted and written to the replay record, with no row of the window named (R89). -/
def recordDrop (s : State) (d : Nat) (k : PosKey) : State := recEvent (ppSeq s d 1) d 5 k (some 0) 0

/-- A window is missing a panel; on one whose rows have no terms already, only the entry of the error is left to write. -/
def missingPanel (s : State) (p d : Nat) (k : PosKey) : State :=
  let s1 := addWin s p d k
  match (partOf s1 d).bind (fun P => winOf P (winKey k)) with
  | some w => if w.dead.isSome then recEvent s1 d 5 w.key none 0 else windowDead s1 d w 4 5
  | none => s1

/-- Windows with a PANEL record that has not arrived before a record at `k` (R89). -/
def overdue (P : Part) (m : Man) (k : PosKey) : List PosKey :=
  let from0 := match P.stream.far with | some f => (winKey f).ord | none => 0
  (passWins P m).filter (fun x =>
    decide (from0 ≤ x.ord) && decide (x.ord ≤ (winKey k).ord) &&
    (match passTgt P x with
     | none => false
     | some t =>
       let need := if x = winKey k then Nat.min (panelsOf t) (ceilDiv k.tick 8) else panelsOf t
       match winOf P x with
       | some w => w.dead.isNone && w.stage != .merged && decide (w.seen < need)
       | none => decide (0 < need)))

/-- Mark them: the error of Table R89, "a record later than a PANEL record that has not yet arrived", is counted once for each
window that lacks a panel (DESIGN CHOICE, notes/assumptions/98.md). -/
def markOverdue (s : State) (p d : Nat) (m : Man) (k : PosKey) : State :=
  match partOf s d with
  | none => s
  | some P => forEach (overdue P m k) s (fun s x => missingPanel (ppSeq s d 1) p d x)

/-- The record becomes the last one of the partition. -/
def reached (s : State) (d : Nat) (k : PosKey) : State :=
  updPart s d (fun P =>
    dropPast { P with stream := { P.stream with
      last := some k
      far := (match P.stream.far with | some f => if f.ord < k.ord then some k else some f | none => some k)
      kindAt := (match P.stream.kindAt with | some f => if f.ord < k.ord then some k else some f | none => some k) } })

/-- The first PANEL record of a window (R83, R115, R118, R359). -/
def openWin (s : State) (p d : Nat) (k : PosKey) : State :=
  let s1 := addWin s p d k
  match partOf s1 d with
  | none => s1
  | some P =>
    match winOf P (winKey k) with
    | none => s1
    | some w =>
      let rdy := targetReady P k.step k.bwd k.layer k.tslot
      let s2 :=
        if k.win = 0 then
          (if rdy then s1 else holdStart s1 d .kindle (winKey k) (if waitsAgain P k.step k.bwd k.layer k.tslot then 1 else 0))
        else
          let late := rowsNeeding P w (fun it => it.st == 0)
          let s2 := setWin s1 d { w with miss := late.map (· % 256) }
          (match late, (partOf s2 d).bind (fun P => winOf P (winKey k)) with
           | _ :: _, some w2 => if P.stream.ceilTgt.contains (k.bwd, k.layer, k.tslot) then bypassMissing s2 d w2 late else s2
           | _, _ => s2)
      let s3 := match (partOf s2 d).bind (fun P => winOf P (winKey k)) with
        | some w => failedRows s2 d w
        | none => s2
      match (partOf s3 d).bind (fun P => (winOf P (winKey k)).bind (fun w => winShape P w)) with
      | none => s3
      | some c =>
        if 524288 * c.w.tiles.length < shrinkBytes c then
          bumpD (windowDead s3 d c.w 1 8) Cnt.tileCapacity d (usedRows c.P c.w).length
        else if k.bwd then xpWant s3 d (winKey k) (gradReads s3 d c)
        else s3

/-- One x panel of a window is taken, or the window loses it. -/
def takePanel (s : State) (p d : Nat) (k : PosKey) (n : Nat) (payload : List (BitVec 2048)) : State :=
  match partOf s d with
  | none => s
  | some P =>
    match passTgt P k, P.man with
    | some t, some m =>
      if manWins m ≤ k.win then recordDrop s d k
      else
        let isNew := (winOf P (winKey k)).isNone
        let s1 := if isNew then openWin s p d k else s
        match partOf s1 d with
        | none => s1
        | some P1 =>
          match winOf P1 (winKey k) with
          | none => s1
          | some w =>
            if w.dead.isSome then
              -- the rest of the window's panels are discarded; their numbers say when the last one has arrived
              setWin (if n ≠ winSize m k.win then missingPanel (ppSeq s1 d 1) p d k else s1) d { w with seen := Nat.max w.seen (k.tick / 8 + 1) }
            else if n ≠ winSize m k.win || k.tick ≠ 8 * w.seen || panelsOf t ≤ w.seen then missingPanel (ppSeq s1 d 1) p d k
            else if 4 ≤ groupPanels P1 w.tiles then bumpD (windowDead s1 d w 5 4) Cnt.panelOverrun d 1
            else if payload.length < n then missingPanel (ppSeq s1 d 1) p d k
            else
              let w1 := { w with panels := w.panels ++ [{ num := w.seen, rows := payload.take n }], seen := w.seen + 1 }
              let s2 := setWin s1 d w1
              if !k.bwd && w1.seen = panelsOf t then
                (match (partOf s2 d).bind (fun P => winShape P w1) with
                 | some c => xpWant s2 d (winKey k) (mergeList c)
                 | none => s2)
              else s2
    | _, _ => s

end Sys2Proof.Machine
end

