-- ==== Sys2Proof/Machine/RelOps.lean ====
section
/-! DEFINITION. Tile health and repair (R81, R82, R405 to R412): mapping a tile out, spares, missing tiles,
REPLACE_REQ, and the rows that a fault of a tile or of a line of its storage takes. -/

namespace Sys2Proof.Machine

def updRel (s : State) (f : Rel → Rel) : State := { s with rel := f s.rel }

/-- `9.0012`: 0 active, 1 spare, 2 mapped out, 3 disabled. -/
def tileState (s : State) (t : Nat) : Nat := s.rel.tiles.getD t 3

/-- The physical tile of a logical tile; 0xFF where it is missing. -/
def physTile (s : State) (l : Nat) : Nat := s.rel.map.getD l 0xFF

/-- The logical number of a physical tile. -/
def logicalOf (s : State) (t : Nat) : Option Nat :=
  if t = 0xFF then none else (List.range (cfgTiles s)).find? (fun l => physTile s l == t)

/-- Spares not yet taken: `9.0011` counts them. -/
def sparesLeft (s : State) : List Nat :=
  (List.range 34).filter (fun t => tileState s t == 1 && !s.rel.subst.any (fun x => x.2 == t))

/-- Logical tiles with a physical tile. -/
def workingTiles (s : State) : Nat := ((List.range (cfgTiles s)).filter (fun l => physTile s l != 0xFF)).length

/-- REPLACE_REQ rises (R412). -/
def replaceRise (s : State) : State :=
  if s.rel.replace then s
  else raiseIbi (post (updRel s (fun r => { r with replace := true })) Ev.replaceChange none 0 1 0) 0xA3

/-- The tile's last Expand block of a window has not ended. -/
def expandDue (P : Part) (w : Win) (l : Nat) : Bool :=
  w.dead.isNone && w.tiles.contains l &&
    (match w.stage, winShape P w with
     | .shrink, _ => !w.shrunk.isEmpty
     | .core, _ => true
     | .expand, some c => (List.range (expandCount w (outDim c))).any (fun j => blockTile w j == l && blockLive c j && !w.expanded.contains j)
     | _, _ => false)

/-- The current window of a logical tile in each partition that it serves: the oldest with work of the tile to come. -/
def currentWins (s : State) (l : Nat) : List (Nat × PosKey) :=
  s.parts.filterMap (fun (e : Nat × Part) => ((sortBy (fun (w : Win) => w.key.ord) e.2.wins).find? (fun (w : Win) => expandDue e.2 w l)).map (fun (w : Win) => (e.1, w.key)))

/-- A substitution of the logical tile still waits for a window that was current when it was asked for (R81): younger windows
that have begun Shrink meanwhile do not hold it up. -/
def tileInUse (s : State) (l : Nat) : Bool :=
  s.rel.substAt.any (fun (x : Nat × Nat × PosKey) => x.1 == l && (match (partOf s x.2.1).bind (fun (P : Part) => (winOf P x.2.2).map (fun (w : Win) => expandDue P w l)) with
    | some b => b
    | none => false))

/-- A spare takes the logical number (R81): the substitution is counted for every partition that holds the quad. -/
def substitute (s : State) (l sp : Nat) : State :=
  let s1 := updRel s (fun r => { r with
    map := r.map.put l sp, tiles := r.tiles.put sp 0, subst := r.subst.filter (fun x => x.1 != l),
    substAt := r.substAt.filter (fun x => x.1 != l) })
  forEach (residents s1) s1 (fun s e =>
    match e.2.slot with
    | some p => if (quadsOf s p e.1).contains (l / 4) then bumpD s Cnt.tileSubst e.1 1 else s
    | none => s)

/-- A physical tile is mapped out (R408, R411): what it answers is the spare taken, and whether a logical tile has gone
missing. -/
def mapOut (s : State) (t : Nat) : State × Nat × Bool :=
  if tileState s t = 2 || tileState s t = 3 then (s, 0xFF, false)
  else
    let pend : Option (Nat × Nat) := List.find? (fun (x : Nat × Nat) => x.2 == t) s.rel.subst
    let s1 := bump (updRel s (fun r => { r with tiles := r.tiles.put t 2, subst := r.subst.filter (fun x => x.2 != t) })) Cnt.tileMapout 1
    match (match logicalOf s t with | some l => some l | none => pend.map (·.1)) with
    | none => (post s1 Ev.tileMapout none 0 t 0xFF, 0xFF, false)
    | some l =>
      match (sparesLeft s1).find? (fun x => !s1.rel.katFail.contains x) with
      | some sp =>
        let s2 := post (updRel s1 (fun r => { r with
          subst := r.subst ++ [(l, sp)]
          substAt := r.substAt.filter (fun (x : Nat × Nat × PosKey) => x.1 != l) ++ (currentWins s1 l).map (fun x => (l, x)) })) Ev.tileMapout none 0 t sp
        (if tileInUse s2 l then s2 else substitute s2 l sp, sp, false)
      | none =>
        let s2 := updRel (post s1 Ev.tileMapout none 0 t 0xFF) (fun r => { r with map := r.map.put l 0xFF })
        (replaceRise (post s2 Ev.noSpare none 0 (workingTiles s2) 0), 0xFF, true)

def mapOutTile (s : State) (t : Nat) : State := (mapOut s t).1

/-- An uncorrectable error is counted and reported (R399): structure, bank or tile or engine, whether the scrubber found it,
line or entry. -/
def eccUncorr (s : State) (structure0 bank : Nat) (scrub : Bool) (arg1 : Nat) : State :=
  post (bump s Cnt.eccUncorr 1) Ev.eccUncorr none 0 (structure0 + bank % 256 * 2 ^ 8 + (if scrub then 2 ^ 16 else 0)) arg1

/-! ## Rows that a fault takes (R82) -/

/-- Host rows of a window with a unit or block on a logical tile. -/
def tileRows (s : State) (p d l : Nat) (c : WinCtx) : List Nat :=
  let rowsOf (us : List WUnit) (costs : List Nat) : List Nat :=
    (List.zip (deal c.w.tiles costs) us).flatMap (fun x => if x.1 = l then x.2.tags.map (·.row) else [])
  let su := shrinkUnits c
  let cu := coreUnits c
  let ex := (List.range (expandCount c.w (outDim c))).flatMap (fun j => if blockTile c.w j = l then (blockRows c.w (outDim c) j).filter (hasFK c) else [])
  ascending (rowsOf su (su.map (fun u => let x := shrinkCost s p d c u (blockDepth c 0); x.1 + x.2)) ++ rowsOf cu (cu.map (fun u => let x := coreCost u; x.1 + x.2)) ++ ex)

/-- Rows of a window lose their terms to a fault of a structure; a row whose Merge has begun has its data (R82). -/
def faultRows (s : State) (d : Nat) (k : PosKey) (rows : List Nat) (structure0 : Nat) : State :=
  match (partOf s d).bind (fun P => winOf P k) with
  | some w => if w.dead.isSome || w.stage = .merged then s else rowsLose s d w (rows.filter (fun i => !rowBegun w i)) 2 Cnt.tileFaultRows 6 structure0
  | none => s

/-- A fault of a logical tile in one window: every row with a unit or block on it there (R82). -/
def tileFaultWin (s : State) (p d l structure0 : Nat) (k : PosKey) : State :=
  match (partOf s d).bind (fun P => (winOf P k).bind (winShape P)) with
  | some c => if c.w.tiles.contains l then faultRows s d k (tileRows s p d l c) structure0 else s
  | none => s

/-- The windows whose data a line of a tile's own structures may hold (notes/assumptions/95.md): of the accumulator file, lines
below 8,192 the windows in Shrink and Core, then two quarters for the windows in Expand and Scale by the parity of their number;
of the weight registers, the window whose block the tile runs. -/
def lineWins (s : State) (l structure0 line : Nat) (d : Nat) (P : Part) : List PosKey :=
  if structure0 = 2 then
    (P.wins.filter (fun w => w.dead.isNone && w.tiles.contains l && (match w.stage with
      | .shrink => decide (line < 8192) && !w.shrunk.isEmpty
      | .core => decide (line < 8192)
      | .merged => false
      | _ => decide (8192 ≤ line) && (line - 8192) / 4096 == w.key.win % 2))).map (·.key)
  else match (s.rel.runs.getD l {}).run with
    | some (d', k, _) => if d' = d then [k] else []
    | none => []

/-- A fault of a line of a logical tile's own structures in the windows that it touches, of every partition it serves. -/
def tileFault (s : State) (l structure0 line : Nat) : State :=
  forEach (residents s) s (fun s e =>
    match e.2.slot with
    | none => s
    | some p => forEach (lineWins s l structure0 line e.1 e.2) s (fun s k => tileFaultWin s p e.1 l structure0 k))

end Sys2Proof.Machine
end

