-- ==== Sys2Proof/Machine/TileOps.lean ====
section
/-! DEFINITION. The tiles (R71 to R75, R79, R82, R252): the units of a window in the order dealt, what each tile takes next,
and the end of a weight block, with which the last of a unit's blocks puts the unit's values into its window. -/

namespace Sys2Proof.Machine

/-- The target of a window waits for its items: a kindle hold is in progress at it (R115). -/
def kindleHeld (P : Part) (k : PosKey) : Bool := P.holds.any (fun h => h.kind == .kindle && sameTgt h.key k)

/-- The tags of a unit whose rows still have terms. -/
def liveTags (w : Win) (u : WUnit) : WUnit := { u with tags := u.tags.filter (fun t => !w.out.contains (t.row % 256)) }

/-- The lines of the share that the running segments of slot `p` have stored to, bank × 2^22 + line. -/
def stlLines (s : State) (p : Nat) : List Nat :=
  s.ee.flatMap (fun e => match e.2.run with | some sg => if sg.slot = p then sg.stl else [] | none => [])

/-- A running segment has stored to a line of an item of a unit: the tiles see the line once the segment has ended (R293). -/
def stlMeets (l : List Nat) (u : LsUnit) (it : LsItem) : Bool :=
  l.any (fun k => k / 2 ^ 22 == u.place % 2 && decide (it.line ≤ k % 2 ^ 22) && decide (k % 2 ^ 22 < it.line + it.lines))

/-- The items that some rows need at the target are in the share, and no weight block of them waits for the end of a segment that
has stored to it (R293), but for rows that have lost their terms. -/
def rowsIn (s : State) (p : Nat) (c : WinCtx) (rows : List Nat) : Bool :=
  let wait := rowsNeeding c.P c.w (fun it => it.st != 1 || stlMeets (stlLines s p) c.u it)
  rows.all (fun i => c.w.out.contains (i % 256) || !wait.contains i)

def tagsIn (s : State) (p : Nat) (c : WinCtx) (u : WUnit) : Bool := rowsIn s p c (u.tags.map (·.row))

/-! ## The units of a stage (R71 to R73) -/

/-- A unit of the present stage of a window: its number, the panel it is of (`seq`), its logical tile, whether it has work and
has not ended, whether its items are in the share, and the C and L of its weight blocks. Shrink units of panel k of direction F
are numbered k × (units) + unit, others by unit, Expand blocks by j. -/
structure TUnit where
  num : Nat
  seq : Nat
  tile : Nat
  left : Bool
  inShare : Bool
  blocks : List (Nat × Nat)
  deriving DecidableEq, Repr

/-- The units of the present stage of a window in the order dealt. The cycles that the deal of R71 adds up for a tile are
C + L of each unit on a full panel, and the deal of Core begins with every tile at zero (DESIGN CHOICE,
notes/assumptions/96.md). -/
def stageUnits (s : State) (p d : Nat) (c : WinCtx) : List TUnit :=
  let w := c.w
  let cost (u : WUnit) (k : Nat) : Nat × Nat := shrinkCost s p d c u (blockDepth c k)
  match w.stage with
  | .shrink =>
    let us := shrinkUnits c
    let tiles := deal w.tiles (us.map (fun u => (cost u 0).1 + (cost u 0).2))
    let l := List.zip (List.range us.length) (List.zip tiles us)
    if w.key.bwd then
      (if gradsIn s d c then
        l.map (fun x =>
          { num := x.1, seq := 0, tile := x.2.1, left := unitLive w x.2.2 && !w.shrunk.contains x.1, inShare := tagsIn s p c (liveTags w x.2.2),
            blocks := (List.range (ceilDiv (redDim c) 128)).map (cost x.2.2) })
       else [])
    else
      (List.range w.seen).flatMap (fun k => l.map (fun x =>
        { num := k * us.length + x.1, seq := k, tile := x.2.1, left := unitLive w x.2.2 && !w.shrunk.contains (k * us.length + x.1),
          inShare := tagsIn s p c (liveTags w x.2.2), blocks := [cost x.2.2 k] }))
  | .core =>
    let us := coreUnits c
    let tiles := deal w.tiles (us.map (fun u => (coreCost u).1 + (coreCost u).2))
    (List.zip (List.range us.length) (List.zip tiles us)).map (fun x =>
      { num := x.1, seq := 0, tile := x.2.1, left := unitLive w x.2.2 && !w.cored.contains x.1, inShare := tagsIn s p c (liveTags w x.2.2),
        blocks := [coreCost x.2.2] })
  | .expand =>
    (List.range (expandCount w (outDim c))).map (fun j =>
      { num := j, seq := 0, tile := blockTile w j, left := blockLive c j && !w.expanded.contains j,
        inShare := rowsIn s p c (blockRows w (outDim c) j), blocks := expandBlocksOf c j })
  | _ => []

/-- The first unit left on each tile for each panel: a tile runs its units in the order dealt, and its Expand blocks in
ascending j. -/
def frontUnits (us : List TUnit) : List TUnit :=
  (us.filter (·.left)).foldl (fun l u => if l.any (fun v => v.tile == u.tile) then l else l ++ [u]) []

/-! ## What a tile takes (R75, R79, R252) -/

/-- Windows of one tile group: they have a quad in common. -/
def sameGroup (v w : Win) : Bool := v.tiles.any (fun t => w.tiles.any (fun u => t / 4 == u / 4))

/-- A group holds two windows of a target in flight: a window's Shrink begins once at most one older window of the target in
the group has tile work left (R79; notes/assumptions/97.md). -/
def mayShrink (P : Part) (w : Win) : Bool :=
  decide ((P.wins.filter (fun v => v.key.step == w.key.step && sameTgt v.key w.key && decide (v.key.ord < w.key.ord) && sameGroup v w &&
    v.dead.isNone && (match v.stage with | .scale => false | .merged => false | _ => true) &&
    (match winShape P v with | some c => !c.tags.isEmpty | none => false))).length < 2)

/-- The units that the tiles of a partition can run, in the order of R75: Shrink units first, then the Core and Expand work of
older windows before that of younger ones. -/
def readyUnits (s : State) (p d : Nat) (P : Part) : List (PosKey × Stage × TUnit) :=
  let ws := (sortBy (fun (w : Win) => w.key.ord) P.wins).filter (fun w => w.dead.isNone && !kindleHeld P w.key &&
    (match w.stage with | .shrink => mayShrink P w | .core => true | .expand => true | _ => false))
  let all := ws.flatMap (fun w => match winCtx P w with
    | some c => ((frontUnits (stageUnits s p d c)).filter (·.inShare)).map (fun u => (w.key, w.stage, u))
    | none => [])
  all.filter (fun x => x.2.1 == .shrink) ++ all.filter (fun x => x.2.1 != .shrink)

/-- The weight block in progress on a tile is still of a unit that is to run. -/
def runValid (rs : List (Nat × Nat × List (PosKey × Stage × TUnit))) (l : Nat) (r : Nat × PosKey × Stage × Nat) : Bool :=
  rs.any (fun x => x.2.1 == r.1 && x.2.2.any (fun y => y.1 == r.2.1 && y.2.1 == r.2.2.1 && y.2.2.num == r.2.2.2 && y.2.2.tile == l))

/-- The units of every running partition: slot, partition, units. -/
def tileQueues (s : State) : List (Nat × Nat × List (PosKey × Stage × TUnit)) :=
  (runningParts s).filterMap (fun e => match e.2.slot with | some p => some (p, e.1, readyUnits s p e.1 e.2) | none => none)

/-- The partition that an idle tile serves next (R252): of those with a unit for it the highest priority, then round robin by
slot after the one it served last. A partition that is stopping gives it nothing more. -/
def tileNext (s : State) (rs : List (Nat × Nat × List (PosKey × Stage × TUnit))) (l : Nat) : Option (Nat × PosKey × Stage × Nat) :=
  let last := (s.rel.runs.getD l {}).last
  let turn (x : Nat × Nat × List (PosKey × Stage × TUnit)) : Nat := valP s 7 0x21 x.1 x.2.1 * 8 + (x.1 + 7 - last) % 8
  let ready := rs.filter (fun x => x.2.2.any (fun y => y.2.2.tile == l) &&
    !((partOf s x.2.1).any (fun P => stoppingNow P)))
  ((sortBy turn ready).head?).bind (fun x => (x.2.2.find? (fun y => y.2.2.tile == l)).map (fun y => (x.2.1, y.1, y.2.1, y.2.2.num)))

/-- Every tile whose weight block has ended, or is of no further use, takes its next one. -/
def tilesTake (s : State) : State :=
  let rs := tileQueues s
  let busy := ascending (rs.flatMap (fun x => x.2.2.map (fun y => y.2.2.tile)))
  let kept := s.rel.runs.map (fun e => (e.1, { e.2 with run := e.2.run.filter (runValid rs e.1) }))
  let s1 := updRel s (fun r => { r with runs := kept.filter (fun e => e.2 != {}) })
  updRel s1 (fun r => { r with runs := busy.foldl (fun t l =>
    let e := t.getD l {}
    if e.run.isSome then t else t.set {} l { e with run := tileNext s1 rs l }) r.runs })

/-- A tile is in the middle of a weight block of the partition. -/
def blockRuns (s : State) (d : Nat) : Bool :=
  s.rel.runs.any (fun e => match e.2.run with
    | some r => r.1 == d && runValid (tileQueues s) e.1 r
    | none => false)

/-! ## The end of a weight block -/

/-- The key of a unit of several blocks in `Win.prog`. -/
def progKey (w : Win) (num : Nat) : Nat := match w.stage with | .expand => 2 * num + 1 | _ => 2 * num

/-- The values that a unit leaves when its last weight block ends, and its census. -/
def unitValues (s : State) (p d : Nat) (c : WinCtx) (unit : Nat) : Win × Census :=
  let w := { c.w with prog := c.w.prog.del (progKey c.w unit) }
  match w.stage with
  | .shrink =>
    let us := shrinkUnits c
    let n := Nat.max us.length 1
    (match us[if w.key.bwd then unit else unit % n]? with
     | none => (w, {})
     | some x0 =>
       let (acc, cs) := if w.key.bwd then gradShrink c (liveTags w x0) else shrinkPanel c (valP s 8 0x30 p d) (unit / n) (liveTags w x0)
       ({ w with acc := acc, shrunk := w.shrunk ++ [unit] }, cs))
  | .core =>
    (match (coreUnits c)[unit]? with
     | none => (w, {})
     | some x0 => let (i2, cs) := coreUnit c (liveTags w x0); ({ w with inter2 := i2, cored := w.cored ++ [unit] }, cs))
  | .expand =>
    let (t, cs) := expandBlock c unit
    (if w.key.bwd then { w with gx := t, expanded := w.expanded ++ [unit] } else { w with delta := t, expanded := w.expanded ++ [unit] }, cs)
  | _ => (w, {})

/-- The substitutions of a unit's first backward products count for the groups of the adapters that they train (R207). -/
def unitCensus (s : State) (d : Nat) (c : WinCtx) (unit : Nat) : State :=
  if !c.w.key.bwd || c.w.stage != .shrink || !c.P.modes.trainAdpt then s
  else match (shrinkUnits c)[unit]? with
    | none => s
    | some u0 =>
      let u := liveTags c.w u0
      forEach u.tags s (fun s t =>
        censusTo s d c.w.key.step (tgtGroups c.P.train c.w.key.step c.w.key.layer c.w.key.tslot (some t.id)) (censusTotal (gradTag c u t).2))

/-- A weight block of a unit ends: all but the unit's last leave partial sums only. The tile that runs the unit is that of the deal in
`stageUnits`, which adds up C + L and begins Core with every tally at zero (DESIGN CHOICE, notes/assumptions/96.md). -/
def unitEnd (s : State) (p d : Nat) (c : WinCtx) (u : TUnit) : Win × Census :=
  let n := c.w.prog.getD (progKey c.w u.num) 0 + 1
  if n < u.blocks.length then ({ c.w with prog := c.w.prog.put (progKey c.w u.num) n }, {}) else unitValues s p d c u.num

/-- The cycles for which the tile waited for the block that ends, max(0, L − C of the block before it in the sequence of R77);
the first block of a sequence has none before it (Table TILE-10). -/
def loadWait (c : WinCtx) (us : List TUnit) (u : TUnit) : Nat :=
  let i := c.w.prog.getD (progKey c.w u.num) 0
  let before : Option (Nat × Nat) :=
    if 0 < i then u.blocks[i - 1]?
    else ((us.filter (fun v => v.tile == u.tile && v.seq == u.seq && decide (v.num < u.num))).getLast?).bind (fun v => v.blocks.getLast?)
  match before, u.blocks[i]? with
  | some b, some x => x.2 - b.1
  | _, _ => 0

/-- An uncorrectable error in a tile's own structures in a weight block: the rows of its window are lost and it is mapped out
(R82, R407). The spec gives no way to tell the line: a free value. -/
def blockFault (s : State) (p d l : Nat) (k : PosKey) : State :=
  let t := physTile s l
  let (v, s1) := draw (tileFaultWin s p d l 2 k)
  mapOutTile (eccUncorr s1 2 t false (v.toNat % 16384)) t

/-- The tile that runs unit `unit` of a window numbered `win` of partition `d`; the oldest window's where two match. -/
def runTile (s : State) (d win unit : Nat) : Option (Nat × PosKey) :=
  let l := s.rel.runs.filterMap (fun e => match e.2.run with
    | some (d', k, _, u) => if d' = d && k.win = win && u = unit then some (e.1, k) else none
    | none => none)
  (sortBy (fun (x : Nat × PosKey) => x.2.ord) l).head?

/-- The end of the weight block that a tile runs of unit `unit` of window `win` in slot `p`; with `fault` the tile has failed in
it and its rows in the window lose their terms. -/
def blockEnd (s0 : State) (p win unit : Nat) (fault : Bool) : Option (Nat × State) :=
  let s := tilesTake s0
  match slotPart s p with
  | none => none
  | some (d, P) =>
    match runTile s d win unit with
    | none => none
    | some (l, k) =>
      match (winOf P k).bind (winCtx P) with
      | none => none
      | some c =>
        let us := stageUnits s p d c
        match us.find? (fun u => u.num == unit) with
        | none => none
        | some u =>
          let (w, cs) := unitEnd s p d c u
          let again := w.counted.contains (progKey c.w unit) && c.w.stage != .shrink
          let s1 := if again then setWin s d w else bumpCensus (setWin s d w) d cs
          let s2 := bumpD (if w.shrunk.contains unit then unitCensus s1 d c unit else s1) Cnt.tileLoadWait d (loadWait c us u)
          let s3 := updRel s2 (fun r => { r with runs := r.runs.set {} l { run := none, last := p } })
          some (d, if fault then blockFault s3 p d l k else s3)

end Sys2Proof.Machine
end

