-- ==== Sys2Proof/Machine/EngineOps.lean ====
section
/-! DEFINITION. Segments on an Element Engine (R283 to R285, R308, R309), and the shared forms of its instructions:
when a word is bad, how an elementwise instruction, a conversion and a reduction act (R287 to R291). -/

namespace Sys2Proof.Machine

/-! ## The end of a segment -/

/-- The partition in slot `p`. -/
def slotD (s : State) (p : Nat) : Option Nat := (slotPart s p).map (·.1)

/-- Add to a counter of the partition in slot `p`. -/
def bumpSlot (s : State) (item p n : Nat) : State :=
  match slotD s p with
  | some d => bumpD s item d n
  | none => s

/-- The completion word of Table EE-4. -/
def segWord (sg : Seg) (status index cycles : Nat) : W64 :=
  w64 (sg.segid * 2 ^ 48 + sg.slot * 2 ^ 45 + status * 2 ^ 43 + index % 2 ^ 11 * 2 ^ 32 + Nat.min cycles 0xFFFF)

/-- CYCLES: by R296 where it fixes every stall, else a free value (notes/assumptions/17.md). -/
def segCycles (sg : Seg) (s : State) : Nat × State :=
  if sg.loose then ((draw s).1.toNat % 2 ^ 20, (draw s).2) else (sg.now + sg.lat, s)

/-- Held core writes are applied in write order (R282). -/
def applyHeld (e : Eng) (sg : Seg) : Eng := sg.held.foldl (fun e x => setSx e sg.slot x.1 x.2) e

/-- The segment ends with a status at an index; with the completion FIFO full the engine stalls instead (R309). -/
def endSegment (s : State) (q : Nat) (sg : Seg) (status index : Nat) : State :=
  let e := engOf s q
  if 64 ≤ e.segFifo.length then setEng s q { e with stalled := true }
  else
    let (cyc, s) := segCycles sg s
    let e1 := applyHeld e sg
    let s1 := setEng s q { e1 with run := none, stalled := false, segFifo := e1.segFifo ++ [segWord sg status index cyc] }
    let s2 := if 256 < cyc then bumpSlot s1 Cnt.eeLongseg sg.slot 1 else s1
    if status = 1 then bumpSlot s2 Cnt.eeBad sg.slot 1 else s2

/-! ## Issue of one instruction -/

/-- The opcodes of Table EE-6. -/
def opcodes : List Nat :=
  [0x01, 0x02, 0x03, 0x04, 0x08, 0x09, 0x10, 0x11, 0x12, 0x13, 0x14, 0x15, 0x16, 0x17, 0x18, 0x19, 0x1A, 0x1B, 0x1C,
   0x20, 0x21, 0x22, 0x23, 0x24, 0x25, 0x26, 0x27, 0x28, 0x29, 0x2A, 0x30, 0x40, 0x48, 0x50, 0x51, 0x52, 0x53, 0x54,
   0x58, 0x59, 0x60]

/-- A register with an XLD in flight (R293). -/
def loading (e : Eng) (r : Nat) : Bool := e.xfers.any (fun x => !x.store && x.reg == r)

/-- Issue the instruction word `w` of opcode `op` on engine `q`: nothing happens where no segment runs, where the
word is another instruction's, or while a register it names is being loaded; a bad word ends the segment (R284), and
so does a last instruction that is not END (R308), and a word that is poisoned (Table REL-1). -/
def issueWord (s : State) (q w op : Nat) (bad : Eng → Seg → Bool) (regs : List Nat) (go : Eng → Seg → State) : State :=
  let e := engOf s q
  match e.run with
  | none => s
  | some sg =>
    if held s then s
    else if !opcodes.contains (fOp w) then endSegment s q sg 1 sg.idx
    else if fOp w ≠ op then s
    else if bad e sg || (sg.idx + 1 == sg.n && op ≠ 1) || s.rel.poison.contains (7, 8192 * q + sg.start + sg.idx) then endSegment s q sg 1 sg.idx
    else if regs.any (loading e) then s
    else go e sg

/-- The instruction has issued. -/
def Seg.next (sg : Seg) : Seg := { sg with idx := sg.idx + 1 }

/-- Row groups of 4 rows (R296). -/
def groupsOf (rows : Nat) : Nat := ceilDiv rows 4

/-- An instruction with no summary reads elements: those in poisoned words are counted and recorded (Table REL-1). -/
def plainRead (s : State) (p : Nat) (e : Eng) (rd : List RegSpan) : State :=
  if e.bad.isEmpty then s else bumpSlot (poisonRead s p e.bad rd) Cnt.numNan p (poisonCensus e.bad rd).nan

/-- What an instruction leaves: its rows, its summary where SUM is set, its census in the partition's counters. -/
def retire (s : State) (q : Nat) (e : Eng) (sg : Seg) (sum : Bool) (sxd : Nat) (x : W64 × W64 × W64) (c : Census) : State :=
  let e1 := if sum then setSx3 e sg.slot sxd x else e
  let s1 := setEng s q { e1 with run := some sg.next }
  match slotD s sg.slot with
  | some d => bumpCensus s1 d c
  | none => s1

/-! ## Format A -/

/-- Format A: reserved fields, registers outside the mask, and the summary's SX range (R284). -/
def badA (s : State) (w : Nat) (useB useC : Bool) (_ : Eng) (sg : Seg) : Bool :=
  bitOf w 30 || fld w 23 0 != 0 || !regOk s sg.slot (fMd w) || !regOk s sg.slot (fMa w) ||
    (useB && fBsel w != 1 && !regOk s sg.slot (fMb w)) || (useC && !regOk s sg.slot (fMc w)) ||
    (fSum w && decide (61 < fSxd w))

/-- How the summary reads results: FP32 encodings, INT32 values converted, or bits that are no numbers. -/
inductive ResKind where
  | fp
  | int
  | raw
  deriving DecidableEq, Repr

/-- The census of a list of results. -/
def censusOf (l : List (Nat × Census)) : Census := l.foldl (fun c x => c.add x.2) {}

/-- The summary of an elementwise instruction. Of raw bits the spec states no magnitude and no sum: two free
values (notes/assumptions/18.md). -/
def summaryOf (s : State) (k : ResKind) (r0 c0 : Nat) (rows : List (List Nat)) (c : Census) : (W64 × W64 × W64) × State :=
  match k with
  | .fp => (summary r0 c0 rows c, s)
  | .int => (summary r0 c0 (rows.map (fun r => r.map (fun v => (rnd32 (Dy.ofInt (signed 32 v))).1))) c, s)
  | .raw =>
    let (x, s1) := draw s
    let (y, s2) := draw s1
    ((w64 (wfld x 31 0), w64 (wfld y 31 0), w64 (censusWord c)), s2)

/-- The elements that an elementwise instruction reads. -/
def eltReads (e : Eng) (p w : Nat) (useB useC : Bool) : List RegSpan :=
  let n := lenRows e p
  let m := lenCols e p
  let b := match fBsel w with
    | 0 => regSpans (fMb w) n 32 0 m false
    | 1 => []
    | 2 => [{ reg := fMb w, row := fld (sxOf e p (fSxi w)).toNat 4 0, bits := 32, off := 0, n := m }]
    | _ => regSpans (fMb w) n 32 (fld (sxOf e p (fSxi w)).toNat 6 0) 1 false
  regSpans (fMa w) n 32 0 m false ++ (if useB then b else []) ++ (if useC then regSpans (fMc w) n 32 0 m false else [])

/-- An elementwise instruction (Format A): `f a b c` at each row and column of LEN. -/
def eltwise (s : State) (q w op : Nat) (useB useC : Bool) (k : ResKind) (slow : Bool)
    (f : Nat → Nat → Nat → Nat × Census) : State :=
  let regs := [fMd w, fMa w] ++ (if useB && fBsel w ≠ 1 then [fMb w] else []) ++ (if useC then [fMc w] else [])
  issueWord s q w op (badA s w useB useC) regs (fun e sg =>
    let p := sg.slot
    let cols := lenCols e p
    let res := (List.range (lenRows e p)).map (fun i =>
      let a := operandReg e (fMa w) i cols
      let b := if useB then operandB e p w i cols else a
      let c := if useC then operandReg e (fMc w) i cols else a
      (List.zip a (List.zip b c)).map (fun x => f x.1 x.2.1 x.2.2))
    let rows := res.map (fun r => r.map Prod.fst)
    let rd := eltReads e p w useB useC
    let cs := (poisonCensus e.bad rd).add (censusOf res.flatten)
    let e1 := wipe (setRows e (fMd w) ((List.zip (List.range rows.length) rows).map (fun x => rowPut (rowOf e (fMd w) x.1) 32 0 x.2)))
      (regSpans (fMd w) rows.length 32 0 cols false)
    let need (g : Nat) : Nat :=
      Nat.max (readyAt sg (fMa w) g)
        (Nat.max (if useB && fBsel w ≠ 1 then readyAt sg (fMb w) (if fBsel w = 2 then fld (sxOf e p (fSxi w)).toNat 4 0 / 4 else g) else 0)
          (if useC then readyAt sg (fMc w) g else 0))
    let sg1 := if slow then sg.issue (groupsOf rows.length) 4 14 need (some (fMd w)) id
      else sg.issue (groupsOf rows.length) 1 6 need (some (fMd w)) id
    let (x, s1) := if fSum w then summaryOf s k 0 0 rows cs else ((0, 0, 0), s)
    retire (poisonRead s1 p e.bad rd) q e1 sg1 (fSum w) (fSxd w) x cs)

/-- A 32-bit operation that reads bits and counts nothing. -/
def bits32 (f : Nat → Nat → Nat) (a b : Nat) : Nat × Census := (f a b % 2 ^ 32, {})

/-- Arithmetic right shift of a 32-bit lane. -/
def sar32 (a k : Nat) : Nat := ((signed 32 a / (2 ^ k : Int)) % (2 ^ 32 : Int)).toNat

/-- SEL: a where c is neither +0 nor −0, else b; every input substituted first (R288). -/
def selOp (a b c : Nat) : Nat × Census :=
  let (x, c1) := in32 a
  let (y, c2) := in32 b
  let (z, c3) := in32 c
  let (v, c4) := rnd32 (if z.m ≠ 0 then x else y)
  (v, ((c1.add c2).add c3).add c4)

/-! ## Format C: conversion (R288, R289) -/

/-- A cell of Table EE-7. -/
inductive Cell where
  | copy
  | exact
  | exactSat
  | round
  | int
  deriving DecidableEq, Repr

/-- Whether the code is a plain float of 8 bits. -/
def isF8 (c : Nat) : Bool := c == 2 || c == 3
/-- Whether the code is an MX format. -/
def isMxCode (c : Nat) : Bool := decide (4 ≤ c) && decide (c ≤ 9)

/-- Table EE-7. -/
def cvtCell (src dst : Nat) : Cell :=
  if src = dst then .copy
  else if dst = 0xC then .int
  else if dst = 0xB then (if src = 0xC then .exact else .int)
  else if src = 0xC then (if dst = 0xA || dst = 0 || dst = 1 then .exact else .round)
  else if src = 0xB then .round
  else if isMxCode src && (dst = 0xA || dst = 0) then .exactSat
  else if (src = 0 || src = 1) && dst = 0xA then .exact
  else if isF8 src && (dst = 0xA || dst = 0 || dst = 1) then .exact
  else .round

def cFsrc (w : Nat) : Nat := fld w 47 44
def cFdst (w : Nat) : Nat := fld w 43 40
def cSoff (w : Nat) : Nat := 32 * fld w 39 35
def cDoff (w : Nat) : Nat := 32 * fld w 34 30
def cSr (w : Nat) : Bool := bitOf w 29
def cSum (w : Nat) : Bool := bitOf w 28
def cSxd (w : Nat) : Nat := fld w 27 22
def cSxc (w : Nat) : Nat := fld w 21 16
def cSite (w : Nat) : Nat := fld w 15 0

/-- Columns a conversion writes: those of LEN, in whole blocks for an MX format (R288). -/
def cvtCols (code cols : Nat) : Nat := if isMxCode code then p32 cols else cols

/-- Format C: when the word is bad (R284, R289). -/
def badC (s : State) (w : Nat) (e : Eng) (sg : Seg) : Bool :=
  let cols := lenCols e sg.slot
  !regOk s sg.slot (fMd w) || !regOk s sg.slot (fMa w) || decide (0xC < cFsrc w) || decide (0xC < cFdst w) ||
    decide (rowCapacity (cFsrc w) < cSoff w + cvtCols (cFsrc w) cols) ||
    decide (rowCapacity (cFdst w) < cDoff w + cvtCols (cFdst w) cols) ||
    (cSum w && decide (61 < cSxd w)) ||
    (cSr w && (cFdst w == 0xA || cFdst w == 0xB || cFdst w == 0xC ||
      (match cvtCell (cFsrc w) (cFdst w) with | .copy => true | .exact => true | _ => false)))

/-- One element of a row in a format, after substitution and its block scale (R37, R288). -/
def readCol (row code j : Nat) : Dy × Census :=
  match fmtOf code with
  | none => (Dy.zero, {})
  | some f =>
    let (v, c) := f.readElem (elemAt row f.bits j)
    if f.isMx then
      let sc := elemAt row 8 (480 + j / 32)
      if sc = 255 then (Dy.zero, if j % 32 = 0 then { scaleNan := 1 } else {})
      else (v.scale ((sc : Int) - 127), c)
    else (v, c)

/-- The seed in force for a slot: that of the manifest in force (R289). -/
def seedOf (s : State) (p : Nat) : Nat :=
  match slotPart s p with
  | some (_, P) => (P.man.map (·.seed)).getD 0
  | none => 0

/-- The rounding of destination element (i, j). -/
def cvtRnd (s : State) (e : Eng) (p w i j : Nat) : Rnd :=
  if cSr w then
    let x := (sxOf e p (cSxc w)).toNat
    .sr (srWord (seedOf s p) (cSite w) (fld x 51 32 + i) (fld x 19 0 + j))
  else .rne

/-- The values that a row's results stand for, as FP32 encodings, for the summary. -/
def readBack (row code off n : Nat) : List Nat :=
  (List.range n).map (fun j => (rnd32 (readCol row code (off + j)).1).1)

/-- The bits of an element of a format code. -/
def codeBits (code : Nat) : Nat := ((fmtOf code).map (·.bits)).getD 32

/-- The elements that a conversion reads, and those that it writes. -/
def cvtReads (w n cols : Nat) : List RegSpan := regSpans (fMa w) n (codeBits (cFsrc w)) (cSoff w) cols (isMxCode (cFsrc w))
def cvtWrites (w n cols : Nat) : List RegSpan :=
  regSpans (fMd w) n (codeBits (cFdst w)) (cDoff w) (cvtCols (cFdst w) cols) (isMxCode (cFdst w))

/-- Convert one row: the new destination row and the census. -/
def cvtRow (s : State) (e : Eng) (p w i cols : Nat) : Nat × Census :=
  let src := seenRow e { reg := fMa w, row := i, bits := codeBits (cFsrc w), off := cSoff w, n := cols, mx := isMxCode (cFsrc w) }
  let old := rowOf e (fMd w) i
  let so := cSoff w
  let d0 := cDoff w
  let vals := (List.range cols).map (fun j => readCol src (cFsrc w) (so + j))
  let cin := vals.foldl (fun c x => c.add x.2) {}
  match fmtOf (cFdst w) with
  | none => (old, {})
  | some f =>
    match cvtCell (cFsrc w) (cFdst w), f with
    | .copy, .mx _ =>
      let es := (List.range (p32 cols)).map (fun j => if j < cols then elemAt src f.bits (so + j) else 0)
      let sc := (List.range (p32 cols / 32)).map (fun b => elemAt src 8 (480 + so / 32 + b))
      (rowPut (rowPut old f.bits d0 es) 8 (480 + d0 / 32) sc, {})
    | .copy, _ => (rowPut old f.bits d0 ((List.range cols).map (fun j => elemAt src f.bits (so + j))), {})
    | _, .flt g =>
      let rs := (List.zip (List.range cols) vals).map (fun x => g.round (cvtRnd s e p w i (d0 + x.1)) x.2.1)
      (rowPut old f.bits d0 (rs.map Prod.fst), cin.add { sat := (rs.filter Prod.snd).length })
    | _, .int n =>
      let rs := vals.map (fun x => satInt n (x.1.toInt .rne))
      (rowPut old f.bits d0 (rs.map Prod.fst), rs.foldl (fun c x => c.add x.2) cin)
    | _, .mx g =>
      let bs := (List.range (p32 cols / 32)).map (fun b =>
        g.convBlock ((List.range 32).map (fun k =>
          let j := 32 * b + k
          ((vals.getD j (Dy.zero, {})).1, cvtRnd s e p w i (d0 + j)))))
      (rowPut (rowPut old f.bits d0 (bs.flatMap (fun b => b.2.1))) 8 (480 + d0 / 32) (bs.map (fun b => b.1)),
        bs.foldl (fun c b => c.add b.2.2) cin)

/-- CVT. -/
def convert (s : State) (q w : Nat) : State :=
  issueWord s q w 0x40 (badC s w) [fMd w, fMa w] (fun e sg =>
    let p := sg.slot
    let cols := lenCols e p
    let res := (List.range (lenRows e p)).map (fun i => cvtRow s e p w i cols)
    let rd := cvtReads w res.length cols
    let cs := (poisonCensus e.bad rd).add (censusOf res)
    let e1 := wipe (setRows e (fMd w) (res.map Prod.fst)) (cvtWrites w res.length cols)
    let sg1 := sg.issue (groupsOf res.length) 1 8 (readyAt sg (fMa w)) (some (fMd w)) id
    let x := summary 0 0 (res.map (fun r => readBack r.1 (cFdst w) (cDoff w) cols)) cs
    retire (poisonRead s p e.bad rd) q e1 sg1 (cSum w) (cSxd w) x cs)

/-! ## Format R: reduction (R290) -/

def rAxis (w : Nat) : Bool := bitOf w 47
def rPanel (w : Nat) : Bool := bitOf w 46
def rRop (w : Nat) : Nat := fld w 45 43
def rAcc (w : Nat) : Bool := bitOf w 42
def rDidx (w : Nat) : Nat := if rAxis w then fld w 39 35 else fld w 41 35

/-- Format R: when the word is bad (R284, R290). -/
def badR (s : State) (w : Nat) (_ : Eng) (sg : Seg) : Bool :=
  fld w 34 32 != 0 || bitOf w 30 || fld w 23 0 != 0 || !regOk s sg.slot (fMd w) || !regOk s sg.slot (fMa w) ||
    decide (4 < rRop w) || (rPanel w && (rAxis w || decide (1 < rRop w))) || (fSum w && decide (61 < fSxd w))

/-- One input of a reduction after substitution, squared for SSQ. -/
def redInput (rop x : Nat) : Nat × Census :=
  let (v, c) := in32 x
  let y := (rnd32 v).1
  if rop = 1 then ((f32Mul y y).1, c.add (f32Mul y y).2)
  else if rop = 4 then ((f32Abs y).1, c)
  else (y, c)

/-- The panel of up to 128 inputs: blocks of 32 by R28, combined under R27. -/
def panelOf (l : List Nat) : Nat × Census :=
  let bs := (chunks 32 (padTo 128 l)).map treeSum
  let (v, c) := panelSum (bs.map Prod.fst)
  (v, bs.foldl (fun k b => k.add b.2) c)

/-- One reduction of a row or column; `dst` is the destination element for ACC. -/
def reduce1 (w dst : Nat) (l : List Nat) : Nat × Census :=
  let ins := l.map (redInput (rRop w))
  let cin := ins.foldl (fun c x => c.add x.2) {}
  let vs := ins.map Prod.fst
  if rPanel w then
    let (v, c) := panelOf vs
    if rAcc w then let (a, c2) := f32Add dst v; (a, (cin.add c).add c2) else (v, cin.add c)
  else if rRop w ≤ 1 then let (v, c) := treeSum vs; (v, cin.add c)
  else if rRop w = 3 then (vs.tail.foldl (fun a x => (f32Min a x).1) (vs.headD 0), cin)
  else (vs.tail.foldl (fun a x => (f32Max a x).1) (vs.headD 0), cin)

/-- RED. -/
def reduction (s : State) (q w : Nat) : State :=
  issueWord s q w 0x48 (badR s w) [fMd w, fMa w] (fun e sg =>
    let p := sg.slot
    let cols := lenCols e p
    let n := lenRows e p
    let src := (List.range n).map (fun i => operandReg e (fMa w) i cols)
    let md := fMd w
    let di := rDidx w
    if rAxis w then
      let old := operandReg e md di cols
      let res := (List.zip (List.range cols) old).map (fun x => reduce1 w x.2 (src.map (fun r => r.getD x.1 0)))
      let out : RegSpan := { reg := md, row := di, bits := 32, off := 0, n := cols }
      let rd := regSpans (fMa w) n 32 0 cols false ++ (if rAcc w && rPanel w then [out] else [])
      let cs := (poisonCensus e.bad rd).add (censusOf res)
      let e1 := wipe (setRow e md di (rowPut (rowOf e md di) 32 0 (res.map Prod.fst))) [out]
      let sg1 := sg.issue (groupsOf n) 1 12 (readyAt sg (fMa w)) (some md) (fun _ => di / 4)
      retire (poisonRead s p e.bad rd) q e1 sg1 (fSum w) (fSxd w) (summary di 0 [res.map Prod.fst] cs) cs
    else
      let res := (List.zip (List.range n) src).map (fun x => reduce1 w (elemAt (rowOf e md x.1) 32 di) x.2)
      let out := regSpans md n 32 di 1 false
      let rd := regSpans (fMa w) n 32 0 cols false ++ (if rAcc w && rPanel w then out else [])
      let cs := (poisonCensus e.bad rd).add (censusOf res)
      let e1 := wipe (setRows e md ((List.zip (List.range n) res).map (fun x => rowPut (rowOf e md x.1) 32 di [x.2.1]))) out
      let need (g : Nat) : Nat := Nat.max (readyAt sg (fMa w) g) (if rAcc w then readyAt sg md g else 0)
      let sg1 := sg.issue (groupsOf n) 1 12 need (some md) id
      retire (poisonRead s p e.bad rd) q e1 sg1 (fSum w) (fSxd w) (summary 0 di (res.map (fun r => [r.1])) cs) cs)

/-! ## Queues (R308) -/

/-- The trigger of a descriptor on engine `q` holds (Table CORE-4): at once; when Expand of window TWIN at the current target,
the one whose Merge has not ended, has ended on every tile of the quad; when no transfer TXTAG of the slot is in flight. A
reserved trigger never holds. -/
def trigHolds (P : Part) (e : Eng) (q p : Nat) (w1 : W64) : Bool :=
  match wfld w1 63 60 with
  | 0 => true
  | 1 =>
    let ws := P.wins.filter (fun x => x.key.win == wfld w1 59 50)
    ws.any (scaleOpen P q) || (!ws.isEmpty && ws.all (fun x => x.stage == .merged))
  | 2 => !e.xfers.any (fun x => x.slot == p && x.tag == wfld w1 49 44)
  | _ => false

/-- The first descriptor of slot `p` on engine `q` is ready. -/
def segReady (s : State) (q p : Nat) : Bool :=
  match slotPart s p, ((engOf s q).queue.getD p []).head? with
  | some (_, P), some w => P.st == .running && !stoppingNow P && trigHolds P (engOf s q) q p w.2
  | _, _ => false

/-- While a slice set is slicing, a member that is not the owner runs only in grains the owner leaves free (R255). -/
def sliceFirst (s : State) (q p : Nat) : Bool :=
  let sl := s.slices.getD (lastVal s 7 0x22 p).toNat {}
  match sl.slicing, sl.owner with
  | true, some o => slotD s p == some o || !(List.range 8).any (fun p' => slotD s p' == some o && segReady s q p')
  | _, _ => true

/-- R252: no ready segment of a higher-priority partition waits on the engine, and among partitions of equal priority the
slots are taken in round robin after the one served last. -/
def firstClass (s : State) (q p : Nat) : Bool :=
  let turn (x : Nat) : Nat := (x + 7 - (engOf s q).last) % 8
  (List.range 8).all (fun p' => p' == p || !segReady s q p' ||
    decide ((lastVal s 7 0x21 p).toNat < (lastVal s 7 0x21 p').toNat) ||
    (lastVal s 7 0x21 p == lastVal s 7 0x21 p' && decide (turn p < turn p')))

/-- A ready segment of slot `p` starts (R283); one whose range passes the end of the program memory ends at once as
bad (R308). -/
def startSegment (s : State) (q p : Nat) : State :=
  let e := engOf s q
  if !held s && e.run.isNone && decide (q < cfgQuads s) && segReady s q p && sliceFirst s q p && firstClass s q p then
    match e.queue.getD p [] with
    | [] => s
    | w :: rest =>
      let sg : Seg := { slot := p, segid := wfld w.1 63 48, n := wfld w.1 34 24 + 1, start := wfld w.1 47 35,
                        sx0 := e.sx.keepKeys (fun k => k / 64 == p) }
      let s1 := setEng s q { e with queue := e.queue.set [] p rest, run := some sg, last := p }
      if 8191 < wfld w.1 47 35 + wfld w.1 34 24 then endSegment s1 q sg 1 0 else s1
  else s

end Sys2Proof.Machine
end

