-- ==== Sys2Proof/Machine/MpOps.lean ====
section
/-! DEFINITION. Memory requests after their issue (R133, R142, R143, R148, R149, R269 to R271, R434): which request a port
issues, what a reply does for the user of a request, reissue and failure for good, flash reads (R159). -/

namespace Sys2Proof.Machine

/-! ## Issue (R258, R259, R364) -/

def slotOfPart (s : State) (d : Nat) : Option Nat := (partOf s d).bind (·.slot)

/-- Rate of the bucket of a request, in MB/s; 0 is unregulated. -/
def bucketRate (s : State) (r : Req) : Nat :=
  match slotOfPart s r.part with
  | some p => valP s 7 (if r.write then 0x71 else 0x70) (12 * p + r.port) r.part
  | none => 0

def bucketDepth (s : State) (r : Req) : Nat :=
  match slotOfPart s r.part with
  | some p => valP s 7 0x72 (12 * p + r.port) r.part
  | none => 0

def bucketKey (s : State) (r : Req) : Nat := 12 * (slotOfPart s r.part).getD 8 + r.port

/-- A request is eligible (R258): token counts are kept in parts of 1/400 byte, as offsets from a full bucket. -/
def eligible (s : State) (r : Req) : Bool :=
  r.free || bucketRate s r = 0 ||
    decide (0 < ((400 * bucketDepth s r : Nat) : Int) + (if r.write then s.mp.wrBucket else s.mp.rdBucket).getD (bucketKey s r) 0)

/-- A CLAMPED partition is runnable (R262). -/
def runnable (P : Part) : Bool :=
  P.st == .clamped && (clampVal P 6 0x22 0 0 != P.rqTail || P.hostNext.isSome || P.inStep || P.saved.any (fun e => e.2.st == .ready && !P.backlog.any (fun b => b.ctx == some e.1))) &&
    (!P.clampedBlocked || !P.lrb.any (fun e => e.2.st == 1)) && !P.storeFailed

/-- Every resident partition is RUNNING and blocked while a CLAMPED one is runnable (R273). -/
def allBlocked (s : State) : Bool :=
  !(residents s).isEmpty && (residents s).all (fun e => e.2.st == .running && e.2.blocked) && s.parts.any (fun e => runnable e.2)

/-- A new TR request of the partition may not issue (R269, R273). -/
def trStopped (s : State) (r : Req) : Bool :=
  r.tier == 3 && r.issues == 0 &&
    (allBlocked s || (match partOf s r.part with | some P => !P.lrbQueue.isEmpty | none => false))

/-- Two requests touch one 64 B line where either is a write (R364). -/
def conflicts (a b : Req) : Bool :=
  a.tier == b.tier && (a.write || b.write) && decide (a.addr / 64 < (b.addr + b.bytes + 63) / 64) && decide (b.addr / 64 < (a.addr + a.bytes + 63) / 64)

/-- Tags in use on a port: outstanding, in quarantine, or reserved to a Late Reply Bin entry. -/
def tagsUsed (s : State) (m : Nat) : List Nat :=
  (s.mp.out.filter (fun r => r.port == m)).map (fun r => r.tag) ++ (s.mp.quar.filter (fun q => q.port == m)).map (fun q => q.tag) ++
    s.parts.flatMap (fun e => (e.2.lrb.filter (fun x => x.2.st == 1 && x.2.req.port == m)).map (fun x => x.2.req.tag) ++
      (e.2.lrbQueue.filter (fun r => r.port == m)).map (fun r => r.tag))

def freeTag (s : State) (m : Nat) : Option Nat := let u := tagsUsed s m; (List.range 2048).find? (fun t => !u.contains t)

/-- The scheduling priority of a request's partition: CLASS, and 5 for requests of the device. -/
def reqPrio (s : State) (r : Req) : Nat :=
  match slotOfPart s r.part with
  | some p => valP s 7 0x21 p r.part
  | none => 5

/-- A request may issue: Kindling and the pool phase of a partition stop at its effect point (R126, R261); copies, writes
of structures and the device's own requests go on (Table PART-8). An update of a T1 image whose PIN_TRN stands at its top waits
(R136). -/
def mayIssue (s : State) (r : Req) : Bool :=
  match r.use with
  | .kindle d _ _ => (partOf s d).any (fun P => P.st == .running)
  | .pool d _ => (partOf s d).any (fun P => P.st == .running)
  | .upd x => !(r.tier == 0 && pinFull s x 2)
  | _ => true

/-- Requests outstanding on any port, those of the Late Reply Bins among them. -/
def outstanding (s : State) : List Req :=
  s.mp.out ++ s.parts.flatMap (fun e => (e.2.lrb.filter (fun x => x.2.st == 1)).map (fun x => x.2.req) ++ e.2.lrbQueue)

/-- The request that port `m` issues next (R259), and whether it borrows. -/
def nextIssue (s : State) (m : Nat) : Option (Req × Bool) :=
  let ready := s.mp.waiting.filter (fun r => r.port == m && r.tier != 2 && mayIssue s r && !trStopped s r && !(outstanding s).any (conflicts r))
  let last := s.mp.lastSlot.getD m 7
  let rank (r : Req) : Nat := (r.qos * 8 + reqPrio s r) * 16 + ((slotOfPart s r.part).getD 8 + 16 - last - 1) % 9
  let best (l : List Req) : Option Req := (sortBy rank l).head?
  match best (ready.filter (eligible s)) with
  | some r => some (r, false)
  | none =>
    if s.mp.waiting.any (fun r => r.port == m && r.tier != 2 && eligible s r && mayIssue s r) then none
    else (best (ready.filter (fun r => match slotOfPart s r.part with | some p => valP s 7 0x73 p r.part == 1 | none => false))).map (fun r => (r, true))

/-- An update write of a T1 image holds PIN_TRN from its first issue to its end (R136, R211). -/
def issuePin (s : State) (r : Req) : State :=
  match r.use with
  | .upd x => if r.tier = 0 && r.issues = 0 then pin s x 2 else s
  | _ => s

def endPin (s : State) (r : Req) : State :=
  match r.use with
  | .upd x => if r.tier = 0 then unpin s x 2 else s
  | _ => s

/-- Issue: a tag, the charge, the pin and the outstanding set. -/
def issueReq (s : State) (r : Req) (borrow : Bool) : State :=
  match freeTag s r.port with
  | none => s
  | some t =>
    let charge := !r.free && !borrow && bucketRate s r != 0
    let cost : Int := ((400 * r.bytes : Nat) : Int)
    let upd (b : Tab Int) : Tab Int := b.set 0 (bucketKey s r) (b.getD (bucketKey s r) 0 - cost)
    let s1 := issuePin (if borrow then bumpD s Cnt.regBorrow r.part 1 else s) r
    { s1 with mp := { s1.mp with
        waiting := s1.mp.waiting.filter (fun x => x.id != r.id)
        out := s1.mp.out ++ [{ r with tag := t, first := if r.issues = 0 then s.mp.mgmt else r.first }]
        rdBucket := if charge && !r.write then upd s1.mp.rdBucket else s1.mp.rdBucket
        wrBucket := if charge && r.write then upd s1.mp.wrBucket else s1.mp.wrBucket
        tagPart := s1.mp.tagPart.put (2048 * r.port + t) r.part
        lastSlot := match slotOfPart s r.part with
          | some p => s1.mp.lastSlot.put r.port p
          | none => s1.mp.lastSlot } }

/-! ## Users of a request -/

/-- Kindling items that wait for the fill of an extent: partition, placement number, item. -/
def fillWaiters (s : State) (x : Nat) : List (Nat × Nat × Nat) :=
  s.parts.flatMap (fun e => e.2.units.flatMap (fun u =>
    (List.zip (List.range u.items.length) u.items).filterMap (fun i =>
      if i.2.xs.contains x && i.2.owed == 0 && i.2.st == 0 then some (e.1, u.place, i.1) else none)))

/-- The fill of an extent has ended: the items and the gather reads that joined it have their data, or fail with it. -/
def waitersEnd (s : State) (x : Nat) (ok : Bool) : State :=
  let s1 := forEach (fillWaiters s x) s (fun s w => kindleSettle (itemEnd s w.1 w.2.1 w.2.2 ok) w.1)
  forEach s1.parts s1 (fun s e =>
    let l := poolWaiters e.2 x
    if l.isEmpty then s else kindleSettle (poolSettle (forEach l s (fun s u => poolPartEnd s e.1 u ok)) e.1) e.1)

/-- One reply of an item's requests. -/
def kindleReply (s : State) (d place i : Nat) (ok : Bool) : State :=
  let it := ((partOf s d).bind (fun P => P.units.find? (fun u => u.place == place))).bind (fun u => u.items[i]?)
  match it with
  | none => s
  | some it =>
    if it.st ≠ 0 then s
    else if !ok then kindleSettle (itemEnd s d place i false) d
    else if it.owed ≤ 1 then kindleSettle (itemEnd s d place i true) d
    else setItem s d place i (fun it => { it with owed := it.owed - 1 })

/-- The members of an extent's Rick beside its primary. -/
def rickMembers (s : State) (x : Nat) : List (Nat × Nat) := (s.tm.ricks.vals.filter (fun (k : Rick) => k.x == x)).flatMap (·.members)

/-- A Rick member has a copy of what it lacked: RVALID sets where no other copy to it and no write of the extent is under way; the
end of such a write copies again (R143). -/
def rickReply (s : State) (x m : Nat) : State :=
  if useBusy s (.rick x m) || useBusy s (.upd x) || !(rickMembers s x).any (fun k => k.1 == m) then s
  else updXt s x (fun e => { e with rvalid := e.rvalid ||| 2 ^ e.port ||| 2 ^ m })

/-- A member whose fill or copy has failed for good leaves the Rick; with its last member the Rick dissolves (log entry 112). -/
def rickLeave (s : State) (x m : Nat) : State :=
  let s1 := { s with tm := { s.tm with ricks := s.tm.ricks.map (fun r => if r.2.x == x then (r.1, { r.2 with members := r.2.members.filter (fun k => k.1 != m) }) else r) } }
  let s2 := updXt s1 x (fun e => { e with rvalid := if bitOf e.rvalid m then e.rvalid - 2 ^ m else e.rvalid })
  if (rickMembers s2 x).isEmpty then dissolveRick s2 x else s2

/-- A TR reply ends the unbroken wait of its partition (R272). -/
def unblock (s : State) (r : Req) : State := if r.tier = 3 then updPart s r.part (fun P => { P with blocked := false }) else s

/-- A request of the save or the restore has its answer. -/
def saveAck (s : State) (d : Nat) : State :=
  updPart s d (fun P => { P with preempt := P.preempt.map (fun q => { q with owed := q.owed - 1 }) })

/-- The granules of a share whose dirty lines have all been written back return to `7.0053` (R126). -/
def granulesReturn (s : State) (d : Nat) : State :=
  if (s.mp.waiting ++ s.mp.out).any (fun r => match r.use with | .dirty d' _ => d' == d | _ => false) then s
  else updPart s d (fun P => if P.st = .clamping then { P with granules := [] } else P)

/-- A dirty line written back during the save counts among its requests (R126). -/
def dirtySaved (s : State) (d : Nat) : State :=
  if (partOf s d).any (fun P => P.st == .clamping) then granulesReturn (saveAck s d) d else s

/-- A request has its reply: what its user does with it. -/
def reqDone (s0 : State) (r : Req) : State :=
  let s := unblock s0 r
  match r.use with
  | .misc => s
  | .kindle d place i => kindleReply s d place i true
  | .fill x =>
    (match xEnt s x with
     | some e => if e.st ≠ .filling then s else if e.owed ≤ 1 then waitersEnd (fillEnd s x) x true else setXt s x { e with owed := e.owed - 1 }
     | none => s)
  | .rick x m => if r.write then rickReply s x m else rickPut s x m (readOffset s x r) r.bytes
  | .evict x => evictAck s x
  | .upd x => updatesResume (movesIdle (rickCopies (endPin s r) x r) (xPart x)) (xPart x)
  | .move x => if r.write then movesIdle s (xPart x) else moveCopyRead s x r
  | .flog x => movesIdle (moveReplay s x) (xPart x)
  | .dirty d place => dirtySaved (dirtyAck s d place) d
  | .clamp d => saveAck s d
  | .pool d u => kindleSettle (poolReqEnd s d u true) d
  | .pen _ => s
  | .pub mu => pubReply s mu true
  | .aperture =>
    { s with core := { s.core with apData := wordAt s.mem (memKey r.tier (r.addr + s.core.apOff)) } }

/-- The bytes of a write that has failed for good are open. -/
def freeBytesAt (s : State) (tier addr n : Nat) : State :=
  { s with mem := storeBytes s.mem (memKey tier addr) ((List.range n).map (Config.freeByte s.free)), free := s.free + 1 }

/-- An address lies in the Clamp or the context store of a partition. -/
def inStore (s : State) (addr : Nat) (d : Nat) (P : Part) : Bool :=
  let within (h : Nat) : Bool := match objOf s d h with | some o => decide (o.base ≤ addr) && decide (addr < o.base + o.bytes) | none => false
  let store := if P.clamp.isSome then clampVal P 6 0x28 0 none20 else valD s 6 0x28 d none20
  within ((lastVal s 7 0x15 d).toNat) || within store

/-- WRITE_FAIL (R434). -/
def writeFail (s : State) (r : Req) : State :=
  let (a, n) := r.span.getD (r.addr, r.bytes)
  let s1 := freeBytesAt s r.tier a n
  let s2 := match partOf s r.part with
    | some P => if inStore s a r.part P then updPart s1 r.part (fun P => { P with storeFailed := true }) else s1
    | none => s1
  post s2 Ev.writeFail (if (partOf s r.part).isSome then some r.part else none) 0 (r.tier + r.port * 4) a

/-- A request has failed for good (R148, R434). The write of a copy to a Rick member is no write to a home: its bytes are open and the
member leaves the Rick, with no poison and no event (log entry 112). A request of no partition counts in no element of
`CNT_TIER_FAIL` (log entry 106). -/
def reqFail (s0 : State) (r : Req) : State :=
  let s := bumpArr (unblock s0 r) Cnt.tierFail r.part 4 r.tier 1
  match r.use with
  | .misc => if r.write then writeFail s r else s
  | .kindle d place i => kindleReply s d place i false
  | .fill x => waitersEnd (fillFail s x) x false
  | .rick x m => rickLeave (if r.write then freeBytesAt s r.tier r.addr r.bytes else s) x m
  | .evict x => evictAck (poisonExtent (freeBytesAt s r.tier r.addr r.bytes) x) x
  | .upd x => updatesResume (movesIdle (poisonExtent (freeBytesAt (endPin s r) r.tier r.addr r.bytes) x) (xPart x)) (xPart x)
  | .move x => moveAbort s x
  | .flog x => movesIdle (moveReplay (writeFail s r) x) (xPart x)
  | .dirty d place => dirtySaved (dirtyAck (writeFail s r) d place) d
  | .clamp d => saveAck (if r.write then writeFail s r else s) d
  | .pool d u => kindleSettle (poolReqEnd s d u false) d
  | .pen _ => if r.write then writeFail s r else s
  | .pub mu => pubReply s mu false
  | .aperture => { s with core := { s.core with apFault := true } }

/-! ## Reissue (R142, R148, R149) -/

/-- The place a reissue of a read goes to: the next valid Rick member in ascending port order, wrapping. -/
def rickNext (s : State) (r : Req) : Nat × Nat :=
  if r.write || r.tier ≠ 0 then (r.port, r.addr)
  else
    let places (k : Rick) : List (Nat × Nat × Nat × Nat) :=
      match xEnt s k.x with
      | some e => ((e.port, e.addr) :: k.members).map (fun p => (p.1, p.2, e.size, e.rvalid))
      | none => []
    match s.tm.ricks.vals.find? (fun k => (places k).any (fun p => p.1 == r.port && decide (p.2.1 ≤ r.addr) && decide (r.addr < p.2.1 + p.2.2.1))) with
    | none => (r.port, r.addr)
    | some k =>
      let l := places k
      match l.find? (fun p => p.1 == r.port) with
      | none => (r.port, r.addr)
      | some here =>
        let valid := sortBy (fun p => p.1) (l.filter (fun p => bitOf p.2.2.2 p.1))
        match (valid.find? (fun p => decide (r.port < p.1))).orElse (fun _ => valid.head?) with
        | some p => (p.1, p.2.1 + (r.addr - here.2.1))
        | none => (r.port, r.addr)

/-- RETRY_MAX for a request: Kindling of the next step uses the value that its boundary brings (Table OD-4). -/
def retryMax (s : State) (r : Req) : Nat :=
  match r.use with
  | .kindle d place _ =>
    match partOf s d with
    | some P => if P.inStep && P.units.any (fun u => u.place == place && decide (P.step < u.step)) then
        valOf (stepView s (P.slot.getD 8) d) 2 0x15 d else valOf s 2 0x15 d
    | none => valOf s 2 0x15 d
  | _ => valOf s 2 0x15 r.part

/-- An attempt has ended without data: reissued with a new tag, or failed for good after RETRY_MAX reissues (R148). -/
def reqRetry (s : State) (r : Req) : State :=
  let s1 := { s with mp := { s.mp with out := s.mp.out.filter (fun x => x.id != r.id) } }
  if r.issues < retryMax s r then
    let (port, addr) := rickNext s1 r
    let s2 := bumpArr s1 Cnt.tierReissue r.part 4 r.tier 1
    { s2 with mp := { s2.mp with waiting := { r with issues := r.issues + 1, port := port, addr := addr } :: s2.mp.waiting } }
  else reqFail s1 r

/-- The last beat of a read of `n` bytes (R365). -/
def lastBeat (n : Nat) : Nat := ceilDiv n 512 - 1

def quarantine (s : State) (r : Req) : State :=
  { s with mp := { s.mp with quar := s.mp.quar ++ [{ port := r.port, tag := r.tag, part := r.part, last := if r.write then 0 else lastBeat r.bytes }] } }

/-! ## The Late Reply Bin while a partition is away (R269, R270) -/

/-- The WAITING entry, of any partition, that holds a tag: partition, entry. -/
def lrbAt (s : State) (m tag : Nat) : Option (Nat × Nat × Lrb) :=
  s.parts.findSome? (fun e => (List.find? (fun (x : Nat × Lrb) => x.2.st == 1 && x.2.req.port == m && x.2.req.tag == tag) e.2.lrb).map (fun x => (e.1, x.1, x.2)))

/-- The Late Reply Bin of a partition in T1. -/
def binBase (s : State) (d : Nat) : Option Nat := t1Base s d (lastVal s 7 0x16 d).toNat

/-- HANDLE and XIDX of the extent that a TR request reads or writes. -/
def trExtent (s : State) (r : Req) : Nat × Nat :=
  match List.find? (fun (e : Nat × Objt) => e.1 / 2 ^ 20 == r.part && e.2.home == 4 && decide (e.2.base ≤ r.addr) && decide (r.addr < e.2.base + e.2.bytes)) s.tm.objs with
  | some e => (e.1 % 2 ^ 20, (e.2.at (r.addr - e.2.base)).1)
  | none => (none20, 0)

/-- Table PART-9. LIFE_LEFT depends on time: it is `life`, a free value. -/
def lrbWords (s : State) (x : Lrb) (life : W64) : List W64 :=
  let r := x.req
  let h := trExtent s r
  [w64 (x.st * 2 ^ 62 + (if r.write then 2 ^ 61 else 0) + r.port * 2 ^ 57 + r.tag * 2 ^ 46 + (ceilDiv r.bytes 64 - 1) % 128 * 2 ^ 39 + r.issues % 8 * 2 ^ 36),
   w64 (r.addr % 2 ^ 52), w64 (wfld life 63 32 * 2 ^ 32), w64 r.first, w64 (h.1 * 2 ^ 44 + h.2 % 2 ^ 32 * 2 ^ 12), 0, 0, 0]

/-- Write an entry of the bin in T1 (QoS 2, never charged). -/
def lrbStore (s : State) (d e : Nat) (ws : List W64) : State :=
  match binBase s d with
  | some base => storeT1 s d 2 (base + 64 * e) (wordBytes ws) .misc true
  | none => s

/-- An entry of the bin takes a state. -/
def setLrb (s : State) (d e : Nat) (x : Lrb) : State :=
  let (life, s1) := draw s
  lrbStore (updPart s1 d (fun P => { P with lrb := P.lrb.put e x })) d e (lrbWords s1 x life)

/-- A reply on a reserved tag; a read's data goes to the entry's slot. -/
def lrbReply (s : State) (d e : Nat) (x : Lrb) (ok : Bool) : State :=
  if !ok then setLrb s d e { x with st := 3 }
  else
    let s1 := setLrb s d e { x with st := 2 }
    if x.req.write then s1
    else match binBase s d with
      | some base => storeT1 s1 d 2 (base + 65536 + 4096 * e) (bytesAt s.mem (memKey x.req.tier x.req.addr) x.req.bytes) .misc true
      | none => s1

/-- The request that waits to be placed in the bin has its reply (R269). -/
def queuedReply (s : State) (m tag : Nat) : Option (Nat × Req) :=
  s.parts.findSome? (fun e => (e.2.lrbQueue.find? (fun r => r.port == m && r.tag == tag)).map (fun r => (e.1, r)))

/-- The lowest FREE entry of a partition's bin. -/
def lrbFreeEntry (s : State) (d : Nat) : Option Nat :=
  match partOf s d with
  | some P => if (binBase s d).isSome && decide (P.lrb.freeFrom 0 < 1024) then some (P.lrb.freeFrom 0) else none
  | none => none

/-- Place what waits in the bin, in order, as entries are free. -/
def lrbPlace (s : State) (d : Nat) : State :=
  match partOf s d with
  | none => s
  | some P => forEach P.lrbQueue s (fun s r =>
      match lrbFreeEntry s d with
      | some e => setLrb (updPart s d (fun P => { P with lrbQueue := P.lrbQueue.filter (fun x => x.id != r.id) })) d e { st := 1, req := r }
      | none => s)

/-- Detach the outstanding TR requests of a partition (R269). -/
def lrbDetach (s : State) (d : Nat) : State :=
  let mine := s.mp.out.filter (fun r => r.part == d && r.tier == 3 && !r.free)
  let s1 := { s with mp := { s.mp with out := s.mp.out.filter (fun r => !(r.part == d && r.tier == 3 && !r.free)) } }
  let s2 := bumpD s1 Cnt.lrbDetach d mine.length
  lrbPlace (updPart s2 d (fun P => { P with lrbQueue := P.lrbQueue ++ mine })) d

/-- The entries' fate when the partition is back, or its next step begins (R271). -/
def lrbRestore (s : State) (d : Nat) : State :=
  match partOf s d with
  | none => s
  | some P =>
    let s1 := updPart s d (fun P => { P with lrb := [], lrbQueue := [] })
    let s2 := forEach P.lrb { s1 with mp := { s1.mp with out := s1.mp.out ++ P.lrbQueue } } (fun s e => lrbStore s d e.1 (List.replicate 8 0))
    forEach P.lrb s2 (fun s e =>
      if e.2.st = 2 then reqDone (bumpD s Cnt.lrbMatch d 1) e.2.req
      else if e.2.st = 1 then { s with mp := { s.mp with out := s.mp.out ++ [e.2.req] } }
      else reqRetry s e.2.req)

/-! ## Replies -/

/-- A reply on a tag: an outstanding request, an entry of a bin, a quarantined tag, or none (R149). `final` says that
it is the reply's last beat. -/
def replyOn (s : State) (m tag st : Nat) (write : Bool) (beat : Nat) : State :=
  match s.mp.out.find? (fun r => r.port == m && r.tag == tag && r.write == write && r.tier != 2) with
  | some r =>
    if !write && beat ≠ lastBeat r.bytes then (if st = 0 then s else reqRetry (quarantine s r) r)
    else if st = 0 then reqDone { s with mp := { s.mp with out := s.mp.out.filter (fun x => x.id != r.id) } } r
    else reqRetry s r
  | none =>
    match lrbAt s m tag with
    | some (d, e, x) => if !write && beat ≠ lastBeat x.req.bytes && st = 0 then s else lrbReply s d e x (st == 0)
    | none =>
      match queuedReply s m tag with
      | some (d, r) =>
        if !write && beat ≠ lastBeat r.bytes && st = 0 then s
        else
          let s1 := updPart s d (fun P => { P with lrbQueue := P.lrbQueue.filter (fun x => x.id != r.id) })
          if st = 0 then reqDone s1 r else reqRetry s1 r
      | none =>
        match s.mp.quar.find? (fun q => q.port == m && q.tag == tag) with
        | some q =>
          if beat ≠ q.last then s
          else bumpD { s with mp := { s.mp with quar := s.mp.quar.filter (fun x => !(x.port == m && x.tag == tag)) } } Cnt.tierLateReply q.part 1
        | none => bumpD s Cnt.mpStray (s.mp.tagPart.getD (2048 * m + tag) 0) 1  -- the partition that last had the tag (log entry 107)

/-! ## Flash reads (R157, R159, R160) -/

/-- T3 requests that wait become flash reads; one of a unit that is not baked, or on a LUN that is lost, or while T3 is
absent, fails for good without being issued (R158, R169, R413). A read of a poisoned home fails likewise (R148). -/
def settleT3 (s : State) : State :=
  forEach (s.mp.waiting.filter (fun r => r.tier == 2)) s (fun s r =>
    let s1 := { s with mp := { s.mp with waiting := s.mp.waiting.filter (fun x => x.id != r.id) } }
    let mu := r.addr / 65536
    let w := mapEntry s mu
    if r.write then s1
    else if !s.fl.present || !entryValid w || s.fl.lost.contains (entryLun w) then reqFail s1 r
    else
      let s2 := onfi (blkRead s1 (entryLun w) (entryBlk w) 1) (lunCh (entryLun w)) onfiRead
      updFl s2 (fun f => { f with
        reads := f.reads ++ [{ req := { r with first := if r.issues = 0 then s.mp.mgmt else r.first }, mu := mu, lun := entryLun w, block := entryBlk w }] }))

def dropRead (s : State) (x : FlRead) : State := updFl s (fun f => { f with reads := f.reads.filter (fun y => y.req.id != x.req.id) })

/-- A flash read's attempt has failed: reissued, or failed for good (R159). -/
def flRetry (s : State) (x : FlRead) : State :=
  if x.req.issues < retryMax s x.req then
    let s1 := bumpArr (dropRead s x) Cnt.tierReissue x.req.part 4 2 1
    { s1 with mp := { s1.mp with waiting := { x.req with issues := x.req.issues + 1 } :: s1.mp.waiting } }
  else
    reqFail (flashUncorr (fenceAnswer (dropRead s x) x) x.mu) x.req

/-- The read that a channel serves: of those whose LUN runs no program or erase the oldest of the highest class (R161). -/
def channelRead (s : State) (ch : Nat) : Option FlRead :=
  (sortBy (fun (x : FlRead) => readClass x.req) (s.fl.reads.filter (fun x => lunCh x.lun == ch && !lunBusy s x.lun))).head?

/-- A codeword took more bit errors than `2.006C` percent of 120. -/
def nearLimit (s : State) (errs : Nat) : Bool := decide (120 * valU s 2 0x6C < 100 * errs)

/-- A read is on the next level of the retry ladder. -/
def nextLevel (s : State) (x : FlRead) : State :=
  bump (updFl (onfi (blkRead s x.lun x.block 1) (lunCh x.lun) onfiRetry) (fun f => { f with
    reads := f.reads.map (fun y => if y.req.id = x.req.id then { y with level := y.level + 1 } else y) })) Cnt.flashRetry 1

/-- A codeword has been decoded and its DCRC matches: the request has its data, the LUN is back at level 0, and a codeword near its
limit queues its unit for relocation (R159). -/
def readPassed (s : State) (x : FlRead) (errs : Nat) : State :=
  let s1 := fenceAnswer (dropRead s x) x
  let s2 := if x.level = 0 then s1 else onfi s1 (lunCh x.lun) [0xEF]
  reqDone (if nearLimit s2 errs then relocate s2 x.mu 5 else s2) x.req

/-- A read of a channel ends: `ok` says that the codeword was decoded, after `errs` bit errors, and `crc` is the DCRC that it carries;
where decoding fails or DCRC mismatches, the next level of the retry ladder is read, and after the last the attempt has failed. -/
def flashRead (s0 : State) (ch : Nat) (ok : Bool) (errs crc : Nat) : State :=
  let s := settleT3 s0
  match channelRead s ch with
  | none => s
  | some x =>
    let s1 :=
      if ok && crc == readDcrc s x then readPassed s x errs
      else if x.level < (match s.fl.geo with | some g => g.retry | none => 0) then nextLevel s x
      else flRetry s x
    lunStart (settleT3 s1) x.lun

/-- A LUN is lost (R413): its reads fail for good, and its blocks count as retired. -/
def lunGone (s : State) (ch ce lun : Nat) : State :=
  let k := lunKey ch ce lun
  if !(chLuns s ch).contains k then s
  else
    let s1 := updFl (onfi s ch onfiRecover) (fun f => { f with
      lost := k :: f.lost
      progs := f.progs.filter (fun g => g.lun != k)
      erases := f.erases.filter (fun e => e.1 != k)
      since := f.since.del k
      fences := f.fences.filter (fun x => x.1 != k) })
    let left := (chLuns s1 ch).any (fun x => x / 4 == k / 4)
    let s2 := if left then s1 else updFl s1 (fun f => { f with found := f.found.set 0 ch (f.found.getD ch 0 - (if bitOf (f.found.getD ch 0) ce then 2 ^ ce else 0)) })
    let s3 := post s2 Ev.flashCeReject none 0 (ce + ch * 16) 0
    let s4 := forEach (s.fl.reads.filter (fun x => x.lun == k)) s3 (fun s x => reqFail (dropRead s x) x.req)
    let s5 := capCheck s4
    if (flChannels s5).isEmpty then
      (let s6 := if s5.fl.capLow then s5 else post (updFl s5 (fun f => { f with capLow := true })) Ev.flashCapLow none 0 (goodMu s5) (allocMu s5)
       updFl s6 (fun f => { f with present := false }))
    else forEach (s.fl.progs.filter (fun g => g.lun == k)) s5 progAgain

/-- A channel whose data misses its cycles three times in a row loses every chip enable. -/
def channelGone (s : State) (ch : Nat) : State :=
  forEach (chLuns s ch) s (fun s k => lunGone s ch (k / 4 % 8) (k % 4))

end Sys2Proof.Machine
end

