-- ==== Sys2Proof/Machine/View.lean ====
section
/-! DEFINITION. What a read of an object returns (R321, R337 to R346): read-only objects are computed from the state; the
object block of a Clamp header and of a replay record (R265, R423); the groups of DEBUG_MUX (R420). -/

namespace Sys2Proof.Machine

/-! ## Records of the debug objects (R345) -/

/-- Table CTX-1. -/
def ctxWords (x : Ctx) : List W64 :=
  [w64 (x.st.code * 2 ^ 61 + x.cls * 2 ^ 58 + (if x.policy then 2 ^ 57 else 0) + (if x.phase then 2 ^ 56 else 0) +
     (if x.spec then 2 ^ 55 else 0) + x.part * 2 ^ 50 + x.pos % 2 ^ 24 * 2 ^ 26 + x.pend % 2 ^ 24 * 4),
   x.rtag, x.deadline, w64 (x.dlstep % 2 ^ 40 * 2 ^ 24 + x.nbag * 2 ^ 15), w64 x.arrseq, w64 x.tmark] ++
  (List.range 5).map (fun i => x.bind.getD i 0 &&& (if i < 4 then 0xFFFFFFFFFF000001 else 0xFF00000000000001)) ++
  [w64 (x.npage * 2 ^ 52 + x.tnodes * 2 ^ 46)] ++
  (List.range 8).map (fun i => w64 (sumBy (List.range 4) (fun j => x.map.getD (4 * i + j) 0 * 2 ^ (16 * j))))

/-- Table TIER-3 STATE. -/
def XSt.code : XSt → Nat
  | .filling => 1
  | .resident => 2
  | .draining => 3
  | .moving => 4

/-- Table TIER-3. -/
def xtWords (x : Nat) (e : XEnt) : List W64 :=
  [w64 (e.st.code * 2 ^ 61 + e.home * 2 ^ 58 + (if e.dirty then 2 ^ 57 else 0) + (if e.thawed then 2 ^ 56 else 0) +
     xPart x * 2 ^ 51 + (if e.poison then 2 ^ 50 else 0) + (if e.final then 2 ^ 49 else 0) + xHandle x * 2 ^ 28),
   w64 (xIdx x * 2 ^ 32 + e.freq * 2 ^ 24 + e.rvalid * 2 ^ 12 + e.ridx),
   w64 (e.pinKin * 2 ^ 48 + e.pinGth * 2 ^ 32 + e.pinTrn * 2 ^ 16 + e.pinPub),
   w64 (e.epoch * 2 ^ 48 + e.port * 2 ^ 42 + e.addr / 64 % 2 ^ 42)]

/-- The row tags of a step in the Sorter's order (R64, R65). -/
def sortedTags (m : Man) (P : Part) : List W64 :=
  let all := (manRows m).flatMap (fun i =>
    (bindSlots (rowBind m i)).filterMap (fun x =>
      let a := P.adpts.getD x.2.1 {}
      (pickGen (a.cur, a.prev) x.2.2).map (fun g => (x.2.1, g.2, x.1, i))))
  let key (t : Nat × Nat × Nat × Nat) : Nat := (t.1 * 2 + t.2.1) * 2 ^ 57 + rowSortKey m t.2.2.2
  (sortBy key all).map (fun t => w64 (t.1 * 2 ^ 40 + t.2.1 * 2 ^ 39 + t.2.2.1 * 2 ^ 37 + t.2.2.2))

/-- The layer that a partition is running. -/
def layerNow (P : Part) : Nat := (P.stream.last.map (·.layer)).getD 0

/-- The direction that a partition is running. -/
def bwdNow (P : Part) : Bool := (P.stream.last.map (·.bwd)).getD false

/-- The line of an item of a target in the share, if it is placed. -/
def itemLine (P : Part) (m : Man) (slot : Nat) (k : ItemKind) : Nat :=
  (((unitOf P m.step (bwdNow P) (layerNow P) slot).bind (fun u => u.items.find? (fun it => it.kind == k))).map (·.line)).getD 0

/-- The segment list of a target slot at the layer that runs (Table TILE-4), as its descriptors. Where rows bind an adapter in
different slots, SLOT is that of the descriptor's first tag (DESIGN CHOICE, notes/assumptions/102.md). -/
def segDescs (P : Part) (m : Man) (slot : Nat) : List (List W64) :=
  let tags := targetTags P m (layerNow P) slot (manRows m)
  let sorted := sortedTags m P
  (segments tags).filterMap (fun l =>
    l.head?.map (fun t =>
      let e := t.sect
      let line := itemLine P m slot (.sect slot t.id t.gsel)
      let first := (sorted.findIdx? (fun w => wfld w 63 39 == t.id * 2 + t.gsel)).getD 0
      let cls := t.cls
      [w64 (t.id * 2 ^ 40 + t.gsel * 2 ^ 39 + cls * 2 ^ 38 + t.slot * 2 ^ 36 + t.bkey * 2 ^ 27 +
         ((if cls = 0 then e.r else e.k) / 4 - 1) * 2 ^ 21 + (if e.isBf16 then 2 ^ 20 else 0) + (if cls = 0 then e.ffmt else e.kfmt) * 2 ^ 16),
       w64 (first * 2 ^ 44 + l.length * 2 ^ 24),
       w64 ((line + (if cls = 0 then 0 else offC e / 64)) * 2 ^ 44 + (if cls = 0 then line + offB e / 64 else 0) * 2 ^ 24),
       w64 ((if cls = 0 then e.alphaF else e.alphaK) * 2 ^ 32)]))

/-- A basis table entry (Table TILE-5); the zero record where no descriptor of the target names it. -/
def basisWords (P : Part) (m : Man) (slot b : Nat) : List W64 :=
  match (targetTags P m (layerNow P) slot (manRows m)).find? (fun t => t.cls == 1 && t.bkey == b) with
  | none => [0, 0]
  | some _ =>
    match (P.pairs.getD (pairKey (layerNow P) slot b) {}).cur with
    | none => [0, 0]
    | some g =>
      match g.at (layerNow P) slot with
      | none => [0, 0]
      | some e =>
        let line := itemLine P m slot (.basis slot b)
        [w64 (line * 2 ^ 44 + (line + planeBytes e.kfmt e.k e.din / 64) * 2 ^ 24 + e.kfmt * 2 ^ 20 + (e.k / 8 - 1) * 2 ^ 17 + 1),
         w64 (g.gen * 2 ^ 48)]

/-- A record of `n` words, zeros where it has none. -/
def orZero (n : Nat) (l : Option (List W64)) : List W64 := l.getD (List.replicate n 0)

/-- The running manifest of the partition in slot `p`. -/
def slotMan (s : State) (p : Nat) : Option (Part × Man) :=
  (slotPart s p).bind (fun e => if e.2.inStep then e.2.man.map (fun m => (e.2, m)) else none)

/-! ## DEBUG_MUX (R420) -/

/-- The epilogue request that a hold waits for, as its 26 bits. -/
def ereqWord (p : Nat) (k : PosKey) : Nat :=
  p * 2 ^ 23 + (if k.bwd then 2 ^ 22 else 0) + k.layer * 2 ^ 14 + k.tslot * 2 ^ 10 + k.win

/-- TILE_STATE of 16 tiles from `t0`, two bits each. -/
def tileBits (s : State) (t0 n : Nat) : Nat := sumBy (List.range n) (fun i => tileState s (t0 + i) * 2 ^ (2 * i))

/-- LUNs of a channel with a program or an erase begun, or a read (DEDUCED: bit l for LUN l of any chip enable). -/
def busyLuns (s : State) (ch : Nat) : List Nat :=
  ((s.fl.reads.map (·.lun)) ++ (s.fl.progs.filter (·.started)).map (·.lun) ++
    (s.fl.erases.filter (fun e => e.2.2)).map (·.1)).filter (fun k => lunCh k == ch)

/-- The first opcode of the command a channel runs (Table FLASH-1); 0 where it runs none. -/
def chOpcode (s : State) (ch : Nat) : Nat :=
  if s.fl.reads.any (fun r => lunCh r.lun == ch) then 0x00
  else if s.fl.progs.any (fun g => g.started && lunCh g.lun == ch) then 0x80
  else if s.fl.erases.any (fun e => e.2.2 && lunCh e.1 == ch) then 0x60
  else 0

/-- A mask of numbers below 8. -/
def maskOf (l : List Nat) : Nat := (dedup l).foldl (fun a i => a ||| 2 ^ i) 0

/-- A group of Table DBG-3 with its index. -/
def muxGroup (s : State) (g i : Nat) : W64 :=
  match g with
  | 1 => ((slotPart s i).bind (fun e => e.2.stream.last.map ppOf)).getD 0
  | 2 =>
    let held := maskOf ((residents s).filterMap (fun e => if xpHold e.2 then e.2.slot else none))
    let h := (slotPart s i).bind (fun e => e.2.holds.find? (fun h => h.kind != .clamp))
    let req := (slotPart s i).bind (fun e => (e.2.holds.find? (fun h => h.kind == .epilogue)).map (fun h => ereqWord i h.key))
    w64 (((h.map (fun h => h.cause + 1)).getD 0) * 2 ^ 40 + held * 2 ^ 32 + Nat.min s.xp.out.length 63 * 2 ^ 26 + req.getD 0)
  | 3 =>
    let l := s.mp.out.filter (fun r => r.port == i && r.tier != 2)
    if i < cfgPorts s then w64 ((tagsUsed s i).length * 2 ^ 32 + sumBy l (fun r => ceilDiv r.bytes 64)) else 0
  | 4 =>
    match slotPart s i with
    | none => 0
    | some (d, P) =>
      match P.units.getLast? with
      | none => 0
      | some u =>
        let owed := (s.mp.waiting ++ s.mp.out).filter (fun r => match r.use with | .kindle d' pl _ => d' == d && pl == u.place | _ => false)
        w64 (u.place % 2 * 2 ^ 45 + u.idx % 2 ^ 13 * 2 ^ 32 + sumBy owed (fun r => ceilDiv r.bytes 64))
  | 5 =>
    w64 (s.tm.xt.length * 2 ^ 32 + s.tm.thawWait.length % 2 ^ 16 * 2 ^ 16 + (s.tm.moves.filter (·.opened)).length % 2 ^ 9)
  | 6 =>
    let e := engOf s i
    match e.run with
    | some sg => w64 (sg.segid % 2 ^ 16 * 2 ^ 32 * 1 + sg.slot * 2 ^ 48 + e.xfers.length % 32 * 2 ^ 11 + sg.idx % 2 ^ 11)
    | none => w64 (e.xfers.length % 32 * 2 ^ 11)
  | 7 =>
    w64 (s.core.st.code * 2 ^ 36 + s.boot.stage * 2 ^ 32 + (if i < cfgFlash s then s.fl.found.getD i 0 else 0) % 256 * 2 ^ 12 +
      sumBy (dedup s.mp.up) (fun m => 2 ^ m))
  | 8 =>
    if i < cfgFlash s then
      w64 (maskOf ((s.fl.fences.filter (fun f => lunCh f.1 == i)).map (fun f => f.1 % 4)) * 2 ^ 36 +
        maskOf ((busyLuns s i).map (· % 4)) * 2 ^ 32 +
        ((s.fl.reads.find? (fun r => lunCh r.lun == i)).map (fun r => r.level % 16)).getD 0 * 2 ^ 8 + chOpcode s i)
    else 0
  | 9 =>
    w64 (sumBy (List.range 8) (fun p => (((slotPart s p).map (fun e => e.2.st.code)).getD 0) * 2 ^ (32 + 3 * p)) +
      sumBy (List.range 7) (fun k => (((s.slices.getD k {}).owner.bind (slotOfPart s)).getD 0xF) * 2 ^ (4 * k)))
  | 10 => w64 (tileBits s 0 32)
  | 11 => w64 (tileBits s 32 2)
  | _ => 0

/-- DEBUG_MUX as `A.0030` selects it. -/
def debugMux (s : State) : W64 := let w := (lastVal s 10 0x30 0).toNat; muxGroup s (fld w 5 0) (fld w 15 8)

/-! ## Read-only objects -/

/-- The field of the generation in force that a WO1 object shows (R346). -/
def wo1Read (s : State) (item index : Nat) : List W64 :=
  match s.otp.gen with
  | none => if item = 0x23 then [0, 0] else [0]
  | some g =>
    match item with
    | 0x20 => [w64 (genField s g 0 8)]
    | 0x21 => [w64 (genField s g 8 8)]
    | 0x22 => [w64 (genField s g 0x10 8)]
    | 0x23 => [w64 (genField s g (0x20 + 16 * index) 8), w64 (genField s g (0x28 + 16 * index) 8)]
    | _ => [w64 (genField s g 0x18 1)]

/-- Words of one read-only object of areas 0 to 2 (Tables OBJ-4, CORE-8, TIER-8, FLASH-7). -/
def roRead012 (s : State) (area item index : Nat) : W64 :=
  match area, item with
  | 0, 0x02 => w64 s.silicon
  | 0, 0x03 => w64 (otpNat s 0x300 8)
  | 0, 0x10 => s.built
  | 0, 0x11 => cfg s
  | 0, 0x12 => w64 s.otp.clipped
  | 0, 0x13 => w64 (2 ^ cfgQuads s - 1)
  | 0, 0x30 => w64 ((if s.core.bank = 0 then s.core.ver0 else s.core.ver1).getD 0)
  | 0, 0x31 => w64 ((if s.core.bank = 0 then s.core.ver1 else s.core.ver0).getD 0)
  | 0, 0x32 => w64 s.core.bank
  | 0, 0x33 => w64 s.core.st.code
  | 0, 0x34 => w64 ((s.otp.gen.map (fun g => genField s g 0x10 8)).getD 0)
  | 1, 0x03 => w64 s.boot.stage
  | 1, 0x14 =>
    let x := bundleOf s index
    w64 (x.scope % 256 * 256 + x.path.num * 16 + (match x.st with | .free => 0 | .isOpen => 1 | .committed => 2))
  | 1, 0x42 => w64 s.core.evHead
  | 2, 0x03 => if s.fl.present then 1 else 0
  | 2, 0x50 => w64 s.tm.xt.length
  | 2, 0x61 => if index < cfgFlash s then w64 (s.fl.found.getD index 0) else 0
  | 2, 0x62 => w64 (rho3 s)
  | 2, 0x63 => w64 s.fl.userMu
  | 2, 0x64 => w64 (allocMu s)
  | _, _ => w64 (((objRow area item).map (·.dflt)).getD 0)

/-- Words of one read-only object of areas 4 to 7 of the partition it belongs to. -/
def roRead47 (s : State) (area item index : Nat) (d : Nat) (P : Part) : W64 :=
  match area, item with
  | 4, 0x40 => w64 (((P.traits.tbls.find? (index % 64)).map (·.gen)).getD 0)
  | 4, 0x42 => w64 P.traits.lastNs
  | 5, 0x32 => w64 P.train.expHead
  | 5, 0x40 => w64 (P.train.groupStep.getD (index % 64) 0)
  | 5, 0x41 => w64 (P.train.norms.getD (index % 64) 0)
  | 5, 0x42 => w64 P.train.lastStep
  | 5, 0x43 => w64 P.train.pen.length
  | 6, 0x23 => w64 P.rqTail
  | 6, 0x26 => w64 P.cqHead
  | 7, 0x17 => w64 P.st.code
  | 7, 0x18 => w64 (P.slot.getD 0xFF)
  | 7, 0x51 => (match P.man with | some m => if m.target then 1 else 0 | none => 0)
  | 7, 0x52 => P.slack
  | 12, 0x13 => w64 P.bound
  | 12, 0x31 => w64 (P.dhat.getD (lastVal s 12 0x30 (P.slot.getD 0)).toNat)
  | _, _ => let _ := d; w64 (((objRow area item).map (·.dflt)).getD 0)

/-- TOD_NOW (R344). -/
def todNow (s : State) : List W64 :=
  match nowNs s with
  | some t => [w64 (t / 1000000000 % 2 ^ 48), w64 (t % 1000000000)]
  | none => [0, 0]

/-- Records of area A (R345). -/
def areaARead (s : State) (item index : Nat) : List W64 :=
  match item with
  | 0x20 => orZero 4 ((List.find? (fun (e : Nat × XEnt) => e.2.idx == index) s.tm.xt).map (fun e => xtWords e.1 e.2))
  | 0x21 => orZero 20 ((ctxOf s index).map ctxWords)
  | 0x22 => [((slotMan s (index / 2 ^ 20)).bind (fun x => (sortedTags x.2 x.1)[index % 2 ^ 20]?)).getD 0]
  | 0x23 => orZero 4 ((slotMan s (index / 2 ^ 18)).bind (fun x => (segDescs x.1 x.2 (index / 2 ^ 14 % 16))[index % 2 ^ 14]?))
  | 0x24 => orZero 2 ((slotMan s (index / 4096)).map (fun x => basisWords x.1 x.2 (index / 256 % 16) (index % 256)))
  | 0x25 => [w64 (s.pgdir.getD index 0)]
  | 0x32 => let e := s.dbg.trace.getD index (0, 0); [e.1, e.2]
  | 0x33 => [w64 s.dbg.wptr]
  | _ => [w64 (s.dbg.rrHead.getD index 0)]

/-- Words of a status object (R340). -/
def statWords (r : StatRec) : List W64 :=
  [w64 (r.code * 2 ^ 48 + r.state * 2 ^ 45 + r.tag % 2 ^ 16), w64 (r.step % 2 ^ 40 * 2 ^ 24), r.r0, r.r1]

/-- The partition an element belongs to; none for a device object. -/
def elemPart (s : State) (o : Obj) (index : Nat) : Option (Nat × Part) := ownerPart s (ownerOf o.ix index)

/-- The value that a read of an element returns (R315, R321). -/
def readObj (s : State) (o : Obj) (index : Nat) : List W64 :=
  match o.right with
  | .wo1 => wo1Read s o.item index
  | .ro =>
    if o.area = 9 && 0x1000 ≤ o.item then
      [if outside s o.ix index then 0 else s.cnt.getD (cntKey o.item index) 0]
    else if 0x0800 ≤ o.item then statWords (s.od.stats.getD (okey o.area o.item index) {})
    else if o.area < 3 then [roRead012 s o.area o.item index]
    else if o.area = 7 && o.item = 0x30 then [if (s.slices.getD index {}).slicing then 1 else 0]
    else if o.area = 7 && o.item = 0x53 then
      [w64 (granulesFree s)]
    else if o.area = 8 && o.item = 2 then [w64 (sumBy (dedup s.mp.up) (fun m => 2 ^ m))]
    else if o.area = 8 then [w64 (tagsUsed s index).length]
    else if o.area = 9 then
      [match o.item with
       | 0x10 => if s.rel.replace then 1 else 0
       | 0x11 => w64 (sparesLeft s).length
       | 0x12 => w64 (tileState s index)
       | _ => w64 (physTile s index)]
    else if o.area = 10 then areaARead s o.item index
    else if o.area = 11 then
      [match o.item with
       | 1 => w64 (s.otp.gen.getD 0xFF)
       | 2 => w64 (genState s index)
       | 3 => w64 s.otp.reject
       | _ => w64 (genNext s)]
    else if o.area = 12 && o.item = 1 then todNow s
    else if o.area = 12 && o.item = 2 then [if s.tod.valid then 1 else 0]
    else
      match elemPart s o index with
      | some (d, P) => [roRead47 s o.area o.item index d P]
      | none => [w64 o.dflt]
  | _ => [lastVal s o.area o.item index]

/-! ## The object block (R265, R423) -/

/-- Objects indexed by slot of areas 2 to 8 and C, in ascending object number, with the elements of one slot:
R265 names areas 2 to 7 and C; R423 counts the formats of area 8 among them (notes/assumptions/60.md). -/
def blockObjs : List Obj :=
  objTable.filter (fun o => (decide (2 ≤ o.area) && decide (o.area ≤ 8) || o.area == 12) &&
    (o.ix == .p || o.ix == .p64 || o.ix == .pm))

/-- The elements of an object that belong to slot `p`. -/
def slotElems (o : Obj) (p : Nat) : List Nat :=
  match o.ix with
  | .p => [p]
  | .p64 => (List.range 64).map (fun i => 64 * p + i)
  | .pm => (List.range 12).map (fun i => 12 * p + i)
  | _ => []

/-- The values of the object block of slot `p`, with their objects and element within the slot. -/
def slotBlock (s : State) (p : Nat) : List (Obj × Nat × W64) :=
  blockObjs.flatMap (fun o =>
    (List.zip (List.range 64) (slotElems o p)).map (fun e => (o, e.1, (readObj s o e.2).headD 0)))

/-- The object block as the 4,032 B of the header. -/
def objBlock (s : State) (p : Nat) : List W64 :=
  let l := (slotBlock s p).map (fun x => x.2.2)
  (l ++ List.replicate 504 0).take 504

end Sys2Proof.Machine
end

