-- ==== Sys2Proof/Machine/PartOps.lean ====
section
/-! DEFINITION. Partitions between slots (spec/12_partitions.md): what a slot holds, the effect point and the save of a
pre-emption (R261, R264 to R268), the restore (R267, R271, R127), the scheduler's choices (R262, R273). -/

namespace Sys2Proof.Machine

/-! ## Slots -/

/-- The object element that a key of `vals` names belongs to slot `p`. -/
def keyOfSlot (p k : Nat) : Bool :=
  match objRow (k / 2 ^ 40) (k / 2 ^ 24 % 2 ^ 16) with
  | some o => ownerOf o.ix (k % 2 ^ 24) == .slot p
  | none => false

/-- The object element that a key of `vals` names belongs to defined partition `d`. -/
def keyOfPart (d k : Nat) : Bool :=
  match objRow (k / 2 ^ 40) (k / 2 ^ 24 % 2 ^ 16) with
  | some o => ownerOf o.ix (k % 2 ^ 24) == .defined d
  | none => false

/-- Objects whose key passes a test go back to their defaults. -/
def forgetVals (s : State) (f : Nat → Bool) : State :=
  { s with od := { s.od with
      vals := s.od.vals.keepKeys (fun k => !f k)
      pend := s.od.pend.filter (fun v => !f (okey v.area v.item v.index)) } }

/-- What an engine holds for slot `p`, with slot 0 in its place; registers are those of the mask (R264, R280). -/
def engSave (e : Eng) (p mask : Nat) : Eng :=
  { len := match e.len.find? p with | some v => [(0, v)] | none => []
    sx := (e.sx.keepKeys (fun k => k / 64 == p)).map (fun x => (x.1 % 64, x.2))
    m := e.m.keepKeys (fun k => bitOf mask (k / 32))
    queue := match e.queue.find? p with | some v => [(0, v)] | none => []
    xfers := (e.xfers.filter (fun x => x.slot == p)).map (fun x => { x with slot := 0 })
    scl := (e.scl.filter (fun x => x.1 == p)).map (fun x => (0, x.2)) }

/-- The engine without what it holds for slot `p`; the registers keep their values. -/
def engClear (e : Eng) (p : Nat) : Eng :=
  { e with
    len := e.len.del p
    sx := e.sx.keepKeys (fun k => k / 64 != p)
    queue := e.queue.del p
    xfers := e.xfers.filter (fun x => x.slot != p)
    scl := e.scl.filter (fun x => x.1 != p) }

/-- Bring what was saved back, for slot `p`. -/
def engLoad (e x : Eng) (p mask : Nat) : Eng :=
  { e with
    len := match x.len.find? 0 with | some v => e.len.put p v | none => e.len.del p
    sx := x.sx.foldl (fun t y => t.put (p * 64 + y.1) y.2) (e.sx.keepKeys (fun k => k / 64 != p))
    m := x.m.foldl (fun t y => t.put y.1 y.2) (e.m.keepKeys (fun k => !bitOf mask (k / 32)))
    bad := e.bad.filter (fun k => !bitOf mask (k / 2048))
    queue := match x.queue.find? 0 with | some v => e.queue.put p v | none => e.queue.del p
    xfers := e.xfers ++ x.xfers.map (fun y => { y with slot := p })
    scl := e.scl ++ x.scl.map (fun y => (p, y.2)) }

/-- Every engine without slot `p`. -/
def engsClear (s : State) (p : Nat) : State :=
  forEach (List.range 8) s (fun s q => setEng s q (engClear (engOf s q) p))

/-- The slot is free: its objects read as their defaults again, its buckets and its engines hold nothing. -/
def freeSlotNow (s : State) (p : Nat) : State :=
  let s1 := engsClear (forgetVals s (keyOfSlot p)) p
  { s1 with mp := { s1.mp with
      rdBucket := s1.mp.rdBucket.keepKeys (fun k => k / 12 != p)
      wrBucket := s1.mp.wrBucket.keepKeys (fun k => k / 12 != p) } }

/-- The tile registers of a partition are cleared (R391). -/
def regsClear (s : State) (p : Nat) : State :=
  let mask := (lastVal s 7 0x24 p).toNat
  forEach ((List.range 8).filter (fun q => bitOf (lastVal s 7 0x20 p).toNat q)) s (fun s q =>
    let e := engOf s q
    setEng s q { e with m := e.m.keepKeys (fun k => !bitOf mask (k / 32)), bad := e.bad.filter (fun k => !bitOf mask (k / 2048)) })

/-! ## A firmware changeover reaches a partition (R305) -/

def updCore (s : State) (f : Core → Core) : State := { s with core := f s.core }

/-- VER of the image in a bank. -/
def bankVer (s : State) (b : Nat) : Option Nat := if b = 0 then s.core.ver0 else s.core.ver1

def setBankVer (s : State) (b : Nat) (v : Option Nat) : State :=
  updCore s (fun c => if b = 0 then { c with ver0 := v } else { c with ver1 := v })

/-- RUNNING, or STANDBY_READY where the standby bank holds a verified image. -/
def runState (s : State) : FwSt := if (bankVer s (1 - s.core.bank)).isSome then .standbyReady else .running

/-- The last partition has switched: the global services switch. -/
def changeDone (s : State) : State :=
  match s.core.change with
  | none => s
  | some c =>
    if (runningParts s).any (fun e => e.2.fwBank != c.bank) then s
    else
      let flip := c.bank != s.core.bank
      let s1 := updCore s (fun k => { k with bank := c.bank, change := none })
      let s2 := updCore s1 (fun k => { k with st := if k.st = .restarting then .restarting else runState s1, back := runState s1 })
      let s3 := if flip then post s2 Ev.fwSwitched none 0 c.bank ((bankVer s2 c.bank).getD 0) else s2
      match c.inst.bind (fun x => s3.od.insts.find? (fun i => i.area == 1 && i.item == x.1 && i.path == x.2.1 && i.cseq == x.2.2)) with
      | some i => finish s3 i none Code.ok 0 0
      | none => s3

/-- One partition switches to the bank of the changeover (R305; source 49). -/
def fwPartSwitch (s : State) (d : Nat) : State :=
  match s.core.change, partOf s d with
  | some c, some P => if P.fwBank = c.bank then s else latch (updPart s d (fun P => { P with fwBank := c.bank })) 49
  | _, _ => s

/-- Table ARCH-3 order 4 at a boundary of partition `d`. -/
def fwSwitchDue (s : State) (d : Nat) : State := if s.core.change.isSome then changeDone (fwPartSwitch s d) else s

/-! ## The effect point and the save (R261, R126, R264 to R266) -/

/-- A request that only the step needs: its data is discarded once the partition's share is dropped (R126). -/
def stepUse (d : Nat) (u : Use) : Bool :=
  match u with
  | .kindle d' _ _ => d' == d
  | .pool d' _ => d' == d
  | _ => false

/-- Requests of the step that are outstanding lose their user; those that wait are not issued. -/
def dropStepReqs (s : State) (d : Nat) : State :=
  let pins := ((partOf s d).bind (fun P => P.traits.phase)).elim [] (fun ph => (ph.parts.filter (·.pinned)).map (·.x))
  let s1 := updTraits (forEach pins s (fun s x => unpin s x 1)) d (fun t => { t with phase := t.phase.map (fun ph =>
    { ph with parts := ph.parts.map (fun x => { x with pinned := false }) }) })
  let strip (r : Req) : Req := if stepUse d r.use then { r with use := .misc } else r
  { s1 with
    mp := { s1.mp with waiting := s1.mp.waiting.filter (fun r => !stepUse d r.use), out := s1.mp.out.map strip }
    fl := { s1.fl with reads := s1.fl.reads.map (fun x => { x with req := strip x.req }) }
    parts := s1.parts.upd d (fun P => { P with
      lrb := P.lrb.map (fun e => (e.1, { e.2 with req := strip e.2.req }))
      lrbQueue := P.lrbQueue.map strip }) }

/-- The share is dropped: items that wait for a fill give up their pins (R126). -/
def dropShare (s : State) (d : Nat) : State :=
  match partOf s d with
  | none => s
  | some P =>
    let xs := P.units.flatMap (fun u => u.items.flatMap (·.xs))
    updPart (forEach xs (dropStepReqs s d) (fun s x => unpin s x 0)) d (fun P => { P with units := [], share := [], place := 0 })

/-- A write of the save: QoS 0, always eligible, never charged (R259). -/
def saveWrite (s : State) (d addr : Nat) (bs : List Byte) : State :=
  storeT1 s d 0 addr bs (.clamp d) true

/-- Dirty lines of the share go to their homes as part of the save (R126). -/
def saveDirty (s : State) (d : Nat) : State :=
  let conv (r : Req) : Req := match r.use with | .dirty d' _ => if d' = d then { r with free := true, qos := 0 } else r | _ => r
  let s0 := { s with mp := { s.mp with waiting := s.mp.waiting.map conv, out := s.mp.out.map conv } }
  match partOf s d with
  | none => s
  | some P =>
    forEach (P.units.filter (fun u => !u.wb)) s0 (fun s u =>
      bumpD (forEach u.dirty s (fun s l =>
        addReq { s with mem := storeBytes s.mem (memKey 0 l.2) (leBytes 64 (P.share.getD (u.place % 2 * 2 ^ 22 + l.1) 0)) } d true 0 (bareport s) 0 l.2 64
          (.dirty d u.place) true)) Cnt.lsWbLines d u.dirty.length)

/-- The unit index of a position of the step in progress (R112). -/
def unitAt (P : Part) : Nat :=
  match P.man, P.stream.last with
  | some m, some k =>
    ((stepUnits P m.target).findIdx? (fun u => u.1 == k.bwd && u.2.1 == k.layer && (match u.2.2 with | some t => t == k.tslot | none => true))).getD 0
  | _, _ => 0

/-- The parts of Table PART-6 behind the header that a partition has in use, by offset and bytes. How many granules of 4 KiB the
accumulators, the Interstage Buffers, the panels and firmware's state take, the spec does not fix: `n` (notes/assumptions/27.md). -/
def clampParts (P : Part) (mask quads : Nat) (n : Nat → Nat) : List (Nat × Nat) :=
  let ws := P.wins.filter (fun w => w.dead.isNone && w.stage != .merged && w.seen != 0)
  let upTo (i most : Nat) : Nat := 4096 * (1 + n i % most)
  (if ws.any (fun w => w.stage == .shrink) then [(0x010000, upTo 0 640)] else []) ++
  (if ws.any (fun w => w.stage != .shrink) then [(0x290000, upTo 1 768)] else []) ++
  (if ws.any (fun w => w.stage == .shrink && !w.key.bwd) then [(0x590000, upTo 2 128)] else []) ++
  [(0x610000, 16384 * ((List.range 16).filter (bitOf mask)).length * quads), (0x810000, 65536)] ++
  (if training P then [(0x820000, 65536)] else []) ++
  [(0x830000, 4096 * (n 3 % 465))]

/-- The 64 B map of the Clamp header (Table PART-7). -/
def clampHeader (s : State) (d : Nat) (P : Part) (kind kib : Nat) : List W64 :=
  let step := P.step
  let km := match P.man with | some m => m.target | none => false
  [w64 (0x434C4D50 * 2 ^ 32 + 0x0001 * 2 ^ 16 + kind * 2 ^ 13),
   w64 (step % 2 ^ 40 * 2 ^ 24 + (if km then 2 ^ 23 else 0) + unitAt P % 2 ^ 13 * 2 ^ 10 + step % 2 * 2 ^ 9),
   P.stream.ppWord, w64 (kib * 2 ^ 32 + (if (t1Base s d (valD s 6 0x28 d none20)).isSome then (ctxRange s d).2 else 0)), w64 ((P.lrb.length) * 2 ^ 53), 0, 0]

/-- The bytes of what the spec does not lay out: free values. -/
def freeBytes (s : State) (n : Nat) : List Byte × State :=
  ((List.range n).map (Config.freeByte s.free), { s with free := s.free + 1 })

/-- Write the header and the parts in use. The header is its map, the object block, and the windows and granule maps, whose bytes
the spec does not lay out; its CRC covers its 64 KiB (R264, R265). -/
def saveParts (s : State) (d p kind : Nat) (parts : List (Nat × Nat)) : State :=
  match partOf s d, t1Base s d (lastVal s 7 0x15 d).toNat with
  | some P, some base =>
    let (rest, s1) := freeBytes s (65536 - 4096)
    let kib := 64 + sumBy parts (fun x => x.2 / 1024)
    let bs := wordBytes (clampHeader s1 d P kind kib ++ [0] ++ objBlock s1 p) ++ rest
    forEach parts (saveWrite s1 d base (spliceBytes bs 56 (leBytes 8 (crc32 bs)))) (fun s x =>
      let (b, s2) := freeBytes s x.2
      saveWrite s2 d (base + x.1) b)
  | _, _ => s

/-- The numbers of a partition's range of contexts. -/
def ctxNumbers (s : State) (d : Nat) : List Nat := let r := ctxRange s d; (List.range r.2).map (fun i => r.1 + i)

/-- Each context record of the range goes to offset 3,072 of its slot in the context store (R266); that of a FREE context reads 0. -/
def saveCtxs (s : State) (d : Nat) : State :=
  if (t1Base s d (valD s 6 0x28 d none20)).isNone then s
  else forEach (ctxNumbers s d) s (fun s c =>
    saveWrite s d (ctxSlotAddr s d c + 3072) (wordBytes (((ctxOf s c).map ctxWords).getD (List.replicate 20 0))))

/-- Outstanding requests of the save or the restore: the write-back of dirty lines is the first part of the save (R126). -/
def clampOwed (s : State) (d : Nat) : Nat :=
  ((s.mp.waiting ++ s.mp.out).filter (fun r => r.use == .clamp d || (match r.use with | .dirty d' _ => d' == d | _ => false))).length

/-- The effect point of a pre-emption (R261): tiles, segments and Merge have stopped, unanswered requests are void, XP_HOLD
is H, and the save is issued; the partition no longer runs, so that a changeover in progress reaches it (R305). `kind` is that of the header: 0 quiesced, 1 ordinary, 2 urgent; it says which counter counts. -/
def effectPoint (s : State) (d kind : Nat) : State :=
  match partOf s d with
  | none => s
  | some P =>
    match P.slot with
    | none => s
    | some p =>
      let mask := (lastVal s 7 0x24 p).toNat
      let quads := (List.range 8).filter (fun q => bitOf (lastVal s 7 0x20 p).toNat q)
      let s0 := if kind = 1 then bumpD s Cnt.preemptOrd d 1 else if kind = 2 then bumpD s Cnt.preemptUrg d 1 else s
      let s1 := forEach P.holds s0 (fun s h => holdEnd s d h)
      let s2 := lrbDetach s1 d
      let parts := clampParts P mask quads.length (fun i => (Config.freeValue (s2.free + i)).toNat)
      let s3 := saveCtxs (saveParts (saveDirty { s2 with free := s2.free + 4 } d) d p kind parts) d
      let s4 := dropShare s3 d
      let clamp : Clamp :=
        { kind := kind
          vals := (slotBlock s p).filterMap (fun x => if x.1.right = .ro then none else some (x.1.area, x.1.item, x.2.1, x.2.2))
          unwritten := (slotBlock s p).filterMap (fun x =>
            if ((List.zip (List.range 64) (slotElems x.1 p)).any (fun e => e.1 == x.2.1 && (s.od.vals.find? (okey x.1.area x.1.item e.2)).isSome)) then none
            else some (x.1.area, x.1.item, x.2.1))
          engs := quads.map (fun q => (q, engSave (engOf s q) p mask))
          kmode := match P.man with | some m => m.target | none => false
          unit := unitAt P
          ppWord := P.stream.ppWord
          parts := parts }
      let s5 := engsClear { s4 with xp := { s4.xp with want := s4.xp.want.filter (fun r => r.d != d) } } p
      let last := P.stream.last.getD { step := P.step, bwd := false, layer := 0, tslot := 0, win := 0, tick := 0 }
      (fun t => fwSwitchDue t d) <| granulesReturn (updPart s5 d (fun Q => { Q with
        st := .clamping
        wasRunning := P.st == .running
        clamp := some clamp
        clampedBlocked := P.blocked
        blocked := false
        storeFailed := false
        holds := [{ kind := .clamp, key := last, cause := 0, periods := 0, ceil := 0 }]
        wins := Q.wins.map (fun w =>
          let w1 := if w.answered then w else { w with requested := false }
          if w1.stage = .merged then w1 else { w1 with chunks := w1.chunks.keepKeys (fun k => bufOfKey k == 1 || bufOfKey k == 2) })
        traits := match Q.traits.phase with
          | some f => if f.done then Q.traits else { Q.traits with phase := none, waiting := none }
          | none => Q.traits
        preempt := some { kind := kind, passed := true, owed := clampOwed s5 d, inStep := P.inStep } })) d

/-- The partition may be stopped: no segment of its slot runs on an engine, no tile is in a weight block of it, and no row is
in the middle of Merge. -/
def stopped (s : State) (P : Part) : Bool :=
  let runs := match P.slot with
    | some p => (List.range 8).any (fun q => match (engOf s q).run with | some sg => sg.slot == p | none => false) ||
        (match slotPart s p with | some (d, _) => blockRuns s d | none => false)
    | none => false
  !runs && !P.wins.any (fun w => w.stage == .scale && (match winShape P w with | some c => midRow c | none => false))

/-- An urgent pre-emption that is stopping reaches its effect point once Merge and the segments have stopped. -/
def effectDue (s : State) (d : Nat) : State :=
  match partOf s d with
  | some P =>
    (match P.preempt with
     | some q => if q.stopping && !q.passed && P.st == .running && stopped s P then effectPoint s d q.kind else s
     | none => s)
  | none => s

/-- A unit of the partition can run on a tile. -/
def tileWork (P : Part) : Bool :=
  P.wins.any (fun w => w.dead.isNone && !kindleHeld P w.key &&
    (match w.stage, winCtx P w with
     | .shrink, some c => (shrinkAll c).any (fun x => unitLive w x.2 && !w.shrunk.contains x.1 && (w.key.bwd || decide (x.1 < w.seen * (shrinkUnits c).length)))
     | .core, some c => !coreEnded c
     | .expand, some c => !expandEnded c
     | _, _ => false))

/-- The first PANEL record after the decision, or the timer, has come: the weight block in progress is the last. -/
def urgentArm (s : State) (d : Nat) : State :=
  match partOf s d with
  | some P =>
    (match P.preempt with
     | some q =>
       if q.kind = 2 && !q.passed then
         effectDue (updPart s d (fun P => { P with preempt := some { q with armed := true, stopping := q.stopping || !tileWork P } })) d
       else s
     | none => s)
  | none => s

/-- A weight block of the partition has ended. -/
def urgentBlock (s : State) (d : Nat) : State :=
  match partOf s d with
  | some P =>
    (match P.preempt with
     | some q => if q.kind = 2 && q.armed && !q.passed then effectDue (updPart s d (fun P => { P with preempt := some { q with stopping := true } })) d else s
     | none => s)
  | none => s

/-- The partition has a pre-emption decided that has not reached its effect point. -/
def preempting (P : Part) : Bool := match P.preempt with | some q => !q.passed | none => false

/-- Pre-emption of a resident partition is decided (R261): 1 ordinary, 2 urgent. A partition without work in progress
stops at once. -/
def preemptBegin (s : State) (d kind : Nat) : State :=
  match partOf s d with
  | none => s
  | some P =>
    if P.st = .quiesced then effectPoint s d 0
    else if P.st ≠ .running || preempting P then s
    else if !P.inStep then effectPoint s d kind
    else updPart s d (fun P => { P with preempt := some { kind := kind } })

/-- The last SQ_EV event (R263): 0 CLAMP, 1 RESTORE. -/
def sqEvent (s : State) (kind p d : Nat) (pp : W64) : State := { s with out := { s.out with sqEv := some (kind, p, d, pp) } }

/-- The save has ended (R266): the slot and the context range are free. -/
def saveEnd (s : State) (d : Nat) : State :=
  match partOf s d with
  | none => s
  | some P =>
    match P.slot, P.preempt with
    | some p, some q =>
      if P.st != .clamping || q.owed != 0 || !P.lrbQueue.isEmpty then s
      else
        let mine := ctxsOf s d
        let (o, s0) := takeOrder s
        let s1 := freeSlotNow { s0 with ctxs := s0.ctxs.filter (fun e => e.2.part != d) } p
        let s2 := updPart s1 d (fun P => { P with st := .clamped, slot := none, granules := [], saved := mine, preempt := none, holds := [], runnableOrder := o + 1 })
        let s3 := sqEvent s2 0 p d ((P.clamp.map (·.ppWord)).getD 0)
        if (partOf s3 d).any runnable then latch s3 45 else s3
    | _, _ => s

/-! ## Restore (R262, R267, R127, R271) -/

/-- The class of a partition: its slot's object, or the one its Clamp keeps. -/
def classOf (s : State) (d : Nat) (P : Part) : Nat :=
  match P.slot with
  | some p => valP s 7 0x21 p d
  | none => clampVal P 7 0x21 0 4

/-- Runnable partitions in the order of restore: the highest priority, then the one runnable longest. -/
def restoreOrder (s : State) : List Nat :=
  (sortBy (fun (e : Nat × Part) => classOf s e.1 e.2 * 2 ^ 60 + e.2.runnableOrder) (s.parts.filter (fun e => runnable e.2))).map (·.1)

/-- A CLAMPED partition fits with some resident partitions gone: a slot, granules and its context range. -/
def fitsWithout (s : State) (P : Part) (gone : List Nat) : Bool :=
  let stay := (residents s).filter (fun e => !gone.contains e.1)
  let used := sumBy stay (fun e => (lastVal s 7 0x50 (e.2.slot.getD 0)).toNat)
  decide (stay.length < 8) && decide (used + clampVal P 7 0x50 0 0 ≤ granules s) &&
    stay.all (fun e => !rangesMeet (clampVal P 6 0x10 0 0) (clampVal P 6 0x11 0 0) (lastVal s 6 0x10 (e.2.slot.getD 0)).toNat (lastVal s 6 0x11 (e.2.slot.getD 0)).toNat)

/-- A context of a partition that waits in its Clamp is close to its deadline (R262). -/
def urgentFor (s : State) (P : Part) : Bool :=
  decide (clampVal P 7 0x21 0 4 < 4) &&
    (match nowNs s with
     | some t => P.saved.any (fun e => e.2.deadline != 0 && decide (e.2.deadline.toNat ≤ t % 2 ^ 64 + clampVal P 7 0x33 0 0))
     | none => false)

/-- Take victims in order until the partition fits. -/
def takeVictims (s : State) (P : Part) : List Nat → List Nat → Option (List Nat)
  | gone, [] => if fitsWithout s P gone then some gone else none
  | gone, v :: t => if fitsWithout s P gone then some gone else takeVictims s P (gone ++ [v]) t

/-- Residents that leave already. -/
def leaving (s : State) : List Nat := ((residents s).filter (fun e => e.2.st == .clamping || preempting e.2)).map (·.1)

/-- A resident partition has a Clamp. -/
def hasClamp (s : State) (d : Nat) : Bool := (t1Base s d (lastVal s 7 0x15 d).toNat).isSome

/-- Room for a partition of priority `cls` (R262): QUIESCED partitions first, then the lowest priority, then the one
restored most recently. -/
def victims (s : State) (cls : Nat) : List Nat :=
  let l := (residents s).filter (fun e => !(leaving s).contains e.1 && decide (cls < classOf s e.1 e.2) && hasClamp s e.1 &&
    (e.2.st == .quiesced || e.2.st == .running))
  let key (e : Nat × Part) : Nat := (if e.2.st == .quiesced then 0 else 1) * 2 ^ 80 + (4 - classOf s e.1 e.2) * 2 ^ 64 + (2 ^ 63 - e.2.restoredOrder)
  (sortBy key l).map (·.1)

/-- Pre-empt what must leave for a partition. -/
def makeRoomFor (s : State) (P : Part) : State :=
  let now := leaving s
  match takeVictims s P now (victims s (clampVal P 7 0x21 0 4)) with
  | none => s
  | some gone => forEach (gone.filter (fun d => !now.contains d)) s (fun s d => preemptBegin s d (if urgentFor s P then 2 else 1))

/-- The blocked partitions, oldest wait first, then lowest slot (R273). -/
def blockedOrder (s : State) : List Nat :=
  (sortBy (fun (e : Nat × Part) => e.2.blockOrder * 8 + e.2.slot.getD 0) ((residents s).filter (fun e => e.2.blocked && !preempting e.2))).map (·.1)

/-- The outstanding TR requests of a partition fit the free entries of its bin. -/
def detachable (s : State) (d : Nat) (P : Part) : Bool :=
  let n := (s.mp.out.filter (fun r => r.part == d && r.tier == 3)).length
  (n == 0 || (binBase s d).isSome && decide (n + P.lrb.length ≤ 1024)) && hasClamp s d

/-- R273: with every resident partition blocked and a CLAMPED one runnable, the first detachable ones leave until it fits. -/
def swapBlocked (s : State) : State :=
  if !allBlocked s then s
  else match (restoreOrder s).head?.bind (partOf s) with
    | none => s
    | some P =>
      let now := leaving s
      let l := (blockedOrder s).filter (fun d => (partOf s d).any (detachable s d))
      match takeVictims s P now l with
      | none => s
      | some gone => forEach (gone.filter (fun d => !now.contains d)) s (fun s d => preemptBegin (bumpD s Cnt.swapBlocked d 1) d 2)

/-- The partition begins its restore into slot `p` (R267): its objects, records and parts are read back. -/
def restoreInto (s : State) (d p : Nat) : State :=
  match partOf s d with
  | none => s
  | some P =>
    match P.clamp with
    | none => s
    | some c =>
      let s1 := forEach c.vals s (fun s v =>
        let idx := match (objRow v.1 v.2.1).map (·.ix) with
          | some .p64 => 64 * p + v.2.2.1
          | some .pm => 12 * p + v.2.2.1
          | _ => p
        if c.unwritten.contains (v.1, v.2.1, v.2.2.1) then s else setVal s v.1 v.2.1 idx v.2.2.2)
      let s2 := { s1 with ctxs := P.saved.foldl (fun t e => t.put e.1 e.2) s1.ctxs }
      let mask := (lastVal s2 7 0x24 p).toNat
      let s3 := forEach c.engs s2 (fun s e => setEng s e.1 (engLoad (engOf s e.1) e.2 p mask))
      let s4 := (fun t => mapShare t d) <| updPart s3 d (fun P => { P with
        st := .restoring, slot := some p, saved := [],
        preempt := some { kind := c.kind, passed := true },
        holds := [{ kind := .clamp, key := P.stream.last.getD { step := P.step, bwd := false, layer := 0, tslot := 0, win := 0, tick := 0 }, cause := 0, periods := 0, ceil := 0 }] })
      let base := (t1Base s4 d (lastVal s4 7 0x15 d).toNat).getD 0
      let s5 := forEach (((0, 65536) :: c.parts).flatMap (fun x => reqPieces (base + x.1) x.2)) s4 (fun s q =>
        addReq s d false 0 (bareport s) 0 q.1 q.2 (.clamp d) true)
      let s6 := if (t1Base s5 d (valD s5 6 0x28 d none20)).isNone then s5
        else forEach (ctxNumbers s5 d) s5 (fun s c => forEach (reqPieces (ctxSlotAddr s d c + 3072) 160) s (fun s q =>
            addReq s d false 0 (bareport s) 0 q.1 q.2 (.clamp d) true))
      updPart s6 d (fun P => { P with preempt := P.preempt.map (fun q => { q with owed := clampOwed s6 d }) })

/-- The windows in flight as the restore finds them: Core and Expand run again where they had not ended (R267). -/
def rerun (w0 : Win) : Win :=
  let w := { w0 with prog := [] }
  match w.stage with
  | .core => { w with
      counted := dedup (w.counted ++ w.cored.map (2 * ·))
      cored := [], inter2 := [] }
  | .expand => { w with
      stage := .core
      counted := dedup (w.counted ++ w.cored.map (2 * ·) ++ w.expanded.map (2 * · + 1))
      cored := [], expanded := [], inter2 := [], delta := [], gx := [] }
  | _ => w

/-- The first unit that the windows in flight or the position still need (R127). -/
def restoreUnit (P : Part) : Nat :=
  match P.man with
  | none => 0
  | some m =>
    let us := stepUnits P m.target
    let idx (k : PosKey) : Nat :=
      (us.findIdx? (fun u => u.1 == k.bwd && u.2.1 == k.layer && (match u.2.2 with | some t => t == k.tslot | none => true))).getD us.length
    let open0 := (P.wins.filter (fun w => w.stage != .merged)).map (fun w => idx w.key)
    let here := match P.stream.last with | some k => idx k | none => 0
    open0.foldl Nat.min here

/-- The chunks a window still waits for are asked for again: what the host returned before the effect point is kept. -/
def xpAgain (s : State) (d : Nat) (k : PosKey) : State :=
  match (partOf s d).bind (fun P => (winOf P k).bind (winShape P)) with
  | none => s
  | some c =>
    let need := if c.w.stage = .merged || c.w.dead.isSome || c.w.seen = 0 then []
      else if c.w.key.bwd then gradReads s d c
      else if c.w.seen = panelsOf c.tgt then mergeList c else []
    let left := need.filter (fun x => (c.w.chunks.find? (chunkKey x.1 (x.2.1 % 256) x.2.2)).isNone &&
      (c.w.writes.find? (chunkKey x.1 (x.2.1 % 256) x.2.2)).isNone && !c.w.out.contains (x.2.1 % 256) &&
      !(s.xp.want ++ s.xp.out).any (fun r => r.d == d && r.key == k && r.buf == x.1 && r.row == x.2.1 % 256 && r.chunk == x.2.2))
    if left.isEmpty then s else xpWant s d k left

end Sys2Proof.Machine
end

