-- ==== Sys2Proof/Machine/CoreOps.lean ====
section
/-! DEFINITION. The control core as its interfaces show it (spec/14_control_core.md): firmware images and banks (R303 to
R307), interrupt lines (R371), and the replay that a need for its resources ends early (R431). -/

namespace Sys2Proof.Machine

/-- The core's timer counts at 100 MHz, derived from the MGMT clock of 400 MHz (R299). -/
def mtime (s : State) : Nat := s.mp.mgmt / 4

/-! ## Images and banks (R303, R304) -/

/-- The bank a load goes to: in the boot state the one that will run, else the standby bank (notes/assumptions/61.md). -/
def loadBank (s : State) : Nat := if s.core.st = .boot && s.core.ver0.isNone then 0 else 1 - s.core.bank

/-- Table CORE-3 after order 1: 0 or the code, and VER. -/
def fwCheck (s : State) (addr : Nat) : Nat × Nat :=
  let w := t1Words s addr 8
  let f (i hi lo : Nat) : Nat := wfld (w.getD i 0) hi lo
  let len := f 2 63 32
  let entry := f 2 31 0
  let ok := f 0 63 32 == 0x4D4F4148 && f 0 31 16 == 1 && f 0 15 0 == 0 && f 7 31 0 == 0 &&
    f 7 63 32 == crc32 (bytesAt s.mem (memKey 0 addr) 60) && decide (64 ≤ len) && decide (len ≤ 2097152) && len % 64 == 0 &&
    entry % 4 == 0 && decide (entry < len) && f 4 63 62 == 0
  if !ok then (Code.imageBad, 0)
  else
    let keyid := f 4 31 0
    if keyid = 0 then (Code.imageAuth, 0)
    else
      let img := bytesAt s.mem (memKey 0 addr) len
      let aad := byteNats (spliceBytes img 40 (leBytes 16 0))
      let key := deriveKey (rootKey s) keyid
      let tag := gcmTag key (nonceBytes (f 3 63 0 + f 4 63 32 * 2 ^ 64)) aad []
      if byteNats (bytesAt s.mem (memKey 0 (addr + 40)) 16) ≠ tag then (Code.imageAuth, 0)
      else if f 1 63 0 < (match s.otp.gen with | some g => genField s g 0x10 8 | none => 0) then (Code.fwFloor, 0)
      else (Code.ok, f 1 63 0)

/-! ## Replay ended early (R431) -/

/-- A running replay ends with REPLAY_BUSY. -/
def replayAbort (s : State) : State :=
  match s.dbg.replay with
  | none => s
  | some r =>
    let s1 := { s with dbg := { s.dbg with replay := none } }
    match s1.od.insts.find? (fun i => i.area == 10 && i.item == 0x43 && i.path == r.path && i.cseq == r.cseq) with
    | some i => refuse s1 i none Code.replayBusy
    | none => s1

/-- A slot, quads or granules that something else needs are a running replay's: it ends. -/
def replayYield (s : State) (p quads share : Nat) : State :=
  match s.dbg.replay with
  | some r =>
    let free := granules s - sumBy (residents s) (fun e => (lastVal s 7 0x50 (e.2.slot.getD 0)).toNat)
    if r.slot = p || (r.quads &&& quads) ≠ 0 || free < share + r.granules then replayAbort s else s
  | none => s

/-! ## Changeover (R305, R306) -/

/-- The instance that asked for a changeover which turns round ends with FW_BUSY. -/
def changeRefuse (s : State) : State :=
  match s.core.change.bind (·.inst) with
  | none => s
  | some x =>
    match s.od.insts.find? (fun i => i.area == 1 && i.item == x.1 && i.path == x.2.1 && i.cseq == x.2.2) with
    | some i => refuse s i none Code.fwBusy
    | none => s

/-- A changeover begins or turns round: resident partitions that are not RUNNING, or have no step in progress (R436),
switch at once. -/
def changeBegin (s : State) (bank : Nat) (inst : Option (Nat × Path × Nat)) : State :=
  let s1 := updCore (replayAbort (changeRefuse s)) (fun c =>
    { c with
      st := if c.st = .restarting then .restarting else .changeover
      back := .changeover
      change := some { bank := bank, inst := inst } })
  changeDone (forEach ((residents s1).filter (fun e => e.2.st != .running || !e.2.inStep)) s1 (fun s e => fwPartSwitch s e.1))

/-- Every partition switches at once (R307 step 4). -/
def changeAll (s : State) (bank : Nat) : State :=
  let same := match s.core.change with | some x => x.bank == bank | none => false
  let s0 := if same then s else changeRefuse s
  let s1 := updCore (replayAbort s0) (fun c => { c with change := some { bank := bank, inst := if same then c.change.bind (·.inst) else none } })
  changeDone (forEach (residents s1) s1 (fun s e => fwPartSwitch s e.1))

/-- Firmware runs and publishes (R302, R307). -/
def fwServing (s : State) : Bool := s.core.st != .boot && s.core.st != .restarting

/-! ## Interrupt lines (R371, Table PORT-13) -/

/-- Unread entries of the Event Ring. -/
def evUnread (s : State) : Nat :=
  if evEntries s = 0 then 0 else (s.core.evHead + evEntries s - evTail s) % evEntries s

/-- An unread entry of severity 2. -/
def evUnreadSevere (s : State) : Bool :=
  (List.range (evUnread s)).any (fun i => wfld (wordAt s.mem (memKey 0 (evBase s + 32 * ((evTail s + i) % evEntries s)))) 41 40 == 2)

/-- The condition of each interrupt line; every line is low before serving-ready (R385). -/
def irqLine (s : State) (i : Nat) : Bool :=
  ready s && !held s && bitOf (lastVal s 8 0x20 0).toNat i &&
  (match i with
   | 0 => evUnread s ≠ 0 && (decide ((lastVal s 1 0x44 0).toNat ≤ evUnread s) || s.core.evTimer)
   | 1 => evUnreadSevere s
   | 10 => (residents s).any (fun e => e.2.train.expHead != (lastVal s 5 0x33 (e.2.slot.getD 0)).toNat)
   | 11 => s.rel.replace
   | 12 => s.core.cpEnded
   | 13 => s.core.st == .restarting
   | _ => decide (2 ≤ i) && decide (i ≤ 9) && (match slotPart s (i - 2) with
       | some (_, P) => P.cqHead != (lastVal s 6 0x27 (i - 2)).toNat
       | none => false))

/-! ## Completion FIFOs and the interrupt controller (Table CORE-2, R309) -/

/-- Sources that follow their FIFOs. -/
def coreLevel (s : State) (i : Nat) : Bool :=
  if 1 ≤ i && i ≤ 8 then !(engOf s (i - 1)).segFifo.isEmpty
  else if 9 ≤ i && i ≤ 16 then !(engOf s (i - 9)).xferFifo.isEmpty
  else if 17 ≤ i && i ≤ 24 then !(engOf s (i - 17)).sigFifo.isEmpty
  else if 25 ≤ i && i ≤ 49 then bitOf s.core.intr i
  else false

end Sys2Proof.Machine
end

