-- ==== Sys2Proof/Machine/Boundary.lean ====
section
/-! DEFINITION. The freeze point (R10), the step boundary with its actions in the order of Table ARCH-3 (R9, R11, R437),
publication (R231, R232), slice sets (R255 to R257), the replay record (R422 to R424), and a partition without a step in
progress (R436). -/

namespace Sys2Proof.Machine

/-! ## Slice sets (R255 to R257) -/

def sliceOf (s : State) (n : Nat) : Slice := s.slices.getD n {}
def updSlice (s : State) (n : Nat) (f : Slice → Slice) : State := { s with slices := s.slices.set {} n (f (sliceOf s n)) }

/-- The members of a slice set: defined partition and slot. -/
def sliceMembers (s : State) (n : Nat) : List (Nat × Nat) :=
  (residents s).filterMap (fun e => e.2.slot.bind (fun p => if sliceSet s p e.1 = some n then some (e.1, p) else none))

/-- A member of the set has a step in progress. -/
def sliceBusy (s : State) (n : Nat) : Bool := (sliceMembers s n).any (fun e => (partOf s e.1).any (fun P => P.inStep))

/-- The Step Manifest that waits for a partition: the candidate set of its freeze point, or the manifest submitted. -/
def nextMan (P : Part) : Option Man := if P.modes.serveHost then P.hostNext else P.cand

/-- A PART_QUIESCE that is due: no manifest is published any more. -/
def quiesceInst (s : State) (d : Nat) : Option Inst :=
  s.od.insts.find? (fun i => i.area == 7 && i.item == 0x13 && i.part == d && i.st == .pending && i.wait == 0)

/-- A recovery or start-up sweep runs (R219). -/
def recovering (P : Part) : Bool := P.train.sweepInst.isNone && P.train.lists.any (·.sweep)

/-- A manifest of the partition may be published: it serves, firmware runs, and neither a quiesce nor a pre-emption is due. -/
def mayPublish (s : State) (d : Nat) (P : Part) : Bool :=
  P.st == .running && fwServing s && (quiesceInst s d).isNone && !preempting P && !recovering P

/-- The members whose turn may be next: those with work, of a round's unserved ones where there are any (R255, R257). -/
def nextTurn (s : State) (n : Nat) : Option (Nat × Nat) :=
  let sl := sliceOf s n
  let work := (sliceMembers s n).filter (fun e => (partOf s e.1).any (fun P => mayPublish s e.1 P && (nextMan P).isSome))
  let fresh := work.filter (fun e => !sl.served.contains e.1)
  let l := if fresh.isEmpty then work else fresh
  (sortBy (fun (e : Nat × Nat) => valP s 7 0x21 e.2 e.1 * 8 + (e.2 + 7 - sl.last) % 8) l).head?

/-- A turn is taken. -/
def takeTurn (s : State) (n d p : Nat) : State :=
  updSlice s n (fun sl =>
    { sl with
      owner := some d
      last := p
      served := if (sliceMembers s n).all (fun e => e.1 == d || sl.served.contains e.1 || !(partOf s e.1).any (fun P => (nextMan P).isSome))
        then [] else if sl.served.contains d then [d] else sl.served ++ [d] })

/-- R256 for the admitted step of a latency-critical partition at its freeze point. -/
def sliceEval (s : State) (p d : Nat) (m : Man) : State :=
  match partOf s d with
  | none => s
  | some P =>
    if valP s 7 0x21 p d = 4 then s
    else
      let b := holdBound s p d P m
      let target := valP s 7 0x31 p d
      match sliceSet s p d with
      | none => if target ≠ 0 && target < b then post (bumpD s Cnt.lcOver d 1) Ev.lcOver (some d) 0 b target else s
      | some n =>
        let sl := sliceOf s n
        let past := target = 0 || target < b
        if !sl.slicing then (if past then updSlice s n (fun x => { x with change := some true }) else s)
        else if past then updSlice s n (fun x => { x with within := 0, change := none })
        else
          let k := sl.within + 1
          updSlice s n (fun x => { x with within := k, change := if valU s 7 0x34 ≤ k then some false else x.change })

/-- A change of slicing comes into force at a boundary of a member (R256). -/
def sliceChange (s : State) (p d : Nat) : State :=
  match sliceSet s p d with
  | none => s
  | some n =>
    match (sliceOf s n).change with
    | none => s
    | some on =>
      let busy := ((sliceMembers s n).find? (fun e => e.1 != d && (partOf s e.1).any (fun P => P.inStep))).map (·.1)
      bumpAt (updSlice s n (fun x => { x with slicing := on, change := none, within := 0, served := [], owner := if on then busy else none }))
        (if on then Cnt.sliceOn else Cnt.sliceOff) n 1

/-! ## The freeze point (R10, R140, R162, R181, R190, R240) -/

/-- Extents that the working sets of a step name, in Kindling order. -/
def stepExtents (P : Part) (d : Nat) (m : Man) : List Nat :=
  (stepUnits P m.target).flatMap (fun u => (unitItems P m u).filterMap (fun k =>
    (itemSource P u.2.1 k.1).bind (fun g => if g.1.src = 1 then some (xKey d g.1.base (1 + sectIndex g.1 g.2)) else none)))

/-- What begins with the rows of a step known: lookahead promotion, the read fences, the pool phase. -/
def stepPrep (s : State) (d : Nat) (m : Man) : State :=
  match partOf s d with
  | none => s
  | some P => poolBegin (fenceStep (forEach (dedup (stepExtents P d m)) s promote) d m) d m

/-- The bindings in force of the contexts of some rows. -/
def bindsNow (s : State) (rows : List Row) : Tab (List W64 × Nat) :=
  (ascending (rows.filterMap (·.ctx))).foldl (fun t c =>
    match ctxOf s c with | some x => t.put c (x.bind, x.nbag) | none => t) []

/-- What a freeze point notes for Kindling: the bindings in force, and the generations as they stand for rows so bound (R12). -/
def freezeBinds (s : State) (d : Nat) (P : Part) (m : Man) : Tab (List W64 × Nat) × List (Nat × Nat × Nat) :=
  let b := bindsNow s m.rows
  (b, manGens s d P { m with binds := b })

/-- The Context Keeper builds the next step; the bindings and generations in force are noted for its Kindling (R12). -/
def buildCand (s : State) (p d : Nat) : State :=
  match partOf s d with
  | none => s
  | some P =>
    let (s1, m) := buildNext s p d P
    match m with
    | none => updPart s1 d (fun P => { P with cand := none })
    | some m =>
      let z := freezeBinds s1 d P m
      let m1 := { m with gens := z.2 }
      sliceEval (stepPrep (updPart s1 d (fun P => { P with cand := some m1, kbinds := z.1 })) d m1) p d m1

/-- What begins with an accepted host manifest at its freeze point: it is bound as its step will be, and the bindings and generations
in force are noted for its Kindling (R12, R233). -/
def manPrep (s : State) (p d : Nat) (m0 : Man) : State :=
  match partOf s d with
  | none => s
  | some P =>
    let z := freezeBinds s d P m0
    let m := { m0 with binds := knownBinds s d P m0, gens := z.2 }
    sliceEval (stepPrep (updPart s d (fun P => { P with hostNext := some m, kbinds := z.1 })) d m) p d m

/-- Contexts that a step build found unfit leave READY at the boundary that opens it (R123). -/
def unfitDue (s : State) (d : Nat) : State :=
  match partOf s d with
  | none => s
  | some P =>
    updPart (forEach P.unfitNext s (fun s c =>
      match ctxOf s c with
      | some x =>
        if x.st == .ready && x.part == d then
          noteEvent (updCtx s c (fun x => { x with st := .unfit })) d c 8 (if bindStreams P x.bind then Code.fitTarget else Code.fitLayer) (2 ^ 6)
        else s
      | none => s)) d (fun P => { P with unfitNext := [] })

/-- A build of a partition without a step in progress samples the time, and its deadline steps are computed from it (R103, R104). -/
def idleBuild (s : State) (d : Nat) : State :=
  match partOf s d with
  | none => s
  | some P => let tb := nowNs s
              updPart (deadlinesDue s d P.step tb) d (fun P => { P with tb := tb })

/-- The build of a partition without a step in progress is the freeze point of its next step (R436). A build that admits nothing
opens no step: the contexts it found unfit leave READY at once. -/
def idleFreeze (s : State) (p d : Nat) : State :=
  let s1 := latch (buildCand (redirsRetire (idleBuild (framesRelease s d) d) d) p d) (25 + p)
  match partOf s1 d with
  | some P => if P.cand.isNone then completions (unfitDue s1 d) d P.step none else s1
  | none => s1

/-- The freeze point of one partition. -/
def freezeOne (s : State) (p d : Nat) : State :=
  match partOf s d with
  | none => s
  | some P =>
    let s1 := updPart (redirsRetire (framesRelease s d) d) d (fun P => { P with frozen := true })
    let s2 := if P.modes.serveHost then
        (match P.hostNext with | some m => manPrep s1 p d m | none => s1)
      else buildCand s1 p d
    latch s2 (25 + p)

/-- The freeze point of a step in progress, and with it that of the members that wait for the slice set's owner (R255). -/
def freezePoint (s : State) (p d : Nat) : State :=
  match partOf s d with
  | none => s
  | some P =>
    if !P.inStep || P.frozen then s
    else
      let s1 := freezeOne s p d
      match slicingSet s1 p d with
      | none => s1
      | some n => forEach (sliceMembers s1 n) s1 (fun s e =>
          match partOf s e.1 with
          | some Q => if e.1 != d && mayPublish s e.1 Q && !Q.inStep && (nextMan Q).isNone && !Q.modes.serveHost then idleFreeze s e.2 e.1 else s
          | none => s)

/-- A position at or past the freeze point of the step. -/
def pastFreeze (P : Part) (k : PosKey) : Bool :=
  if hasBwd P then k.bwd && k.layer == 0 else !k.bwd && decide (P.shape.layers ≤ k.layer + 1)

/-! ## The replay record (R422 to R424) -/

def rrBytes (s : State) (d : Nat) : Nat := valX s 10 0x41 d

/-- A replay record opens with the publication of a step. -/
def recOpen (s : State) (p d : Nat) (m : Man) : State :=
  match partOf s d with
  | none => s
  | some P =>
    if (inForce s 10 0x42 d (some d)).toNat ≠ 1 || rrBytes s d = 0 then s
    else
      let h := valP s 6 0x50 p d
      let off := manHalf m.step
      let bytes := if m.host then objBytes s d h off (leNat (objBytes s d h (off + 40) 8)) else manBytes d m
      let r : RRec :=
        { step := m.step
          start := s.dbg.rrHead.getD d 0
          fwver := (bankVer s P.fwBank).getD 0
          tb := nowNs s
          dhat := P.dhat.getD (valP s 12 0x30 p d)
          objs := objBlock s p
          man := bytes }
      { s with dbg := { s.dbg with recs := s.dbg.recs.put d r } }

/-- The bytes of a closed record. -/
def recBytes (d : Nat) (r : RRec) (tb : Option Nat) : List Byte :=
  let ents := r.entries ++ r.digests
  let kept := ents.take 16384
  let body := padBytes (wordBytes r.objs) ++ padBytes r.man ++ padBytes (wordBytes (kept.flatMap (fun e => [e.1, e.2])))
  let flag (b : Bool) (k : Nat) : Nat := if b then 2 ^ k else 0
  let hdr := wordBytes [w64 (0x52505245 * 2 ^ 32 + 2 ^ 16 + flag (r.dropped || decide (16384 < ents.length)) 15 + flag r.tb.isSome 14 + flag tb.isSome 13),
    w64 (r.step % 2 ^ 40 * 2 ^ 24 + d * 2 ^ 19), w64 r.fwver, w64 (r.tb.getD 0), w64 (tb.getD 0), w64 r.dhat,
    w64 ((64 + body.length) * 2 ^ 32 + kept.length)]
  let crc := crc32 (hdr ++ leBytes 8 0 ++ body)
  hdr ++ leBytes 8 crc ++ body

/-- A write of a structure at QoS 3 that is charged to the partition. -/
def recWrite (s : State) (d addr : Nat) (bs : List Byte) : State :=
  storeT1 s d 3 addr bs .misc false

/-- The record of the step closes (Table ARCH-3 order 6): it is written to its ring, modulo the ring's size. -/
def recClose (s : State) (d : Nat) (tb : Option Nat) : State :=
  match s.dbg.recs.find? d with
  | none => s
  | some r =>
    let n := rrBytes s d
    let base := valX s 10 0x40 d
    let bs := recBytes d r tb
    let s1 := { s with dbg := { s.dbg with recs := s.dbg.recs.del d } }
    if n = 0 then s1
    else
      let pieces := chunks n (bs.take (n - r.start % n))
      let rest := chunks n (bs.drop (n - r.start % n))
      let s2 := forEach pieces s1 (fun s b => recWrite s d (base + r.start % n) b)
      let s3 := forEach rest s2 (fun s b => recWrite s d base b)
      { s3 with dbg := { s3.dbg with rrHead := s3.dbg.rrHead.set 0 d (a64 (r.start + bs.length) % n) } }

/-! ## Kindled again (R12) -/

/-- The generation that an item of a layer is read from, as the generation entries of a manifest name it. -/
def itemGen (gens : List (Nat × Nat × Nat)) (layer : Nat) (k : ItemKind) : Option Nat :=
  let key : Option (Nat × Nat) := match k with
    | .pooled _ => none
    | .unused => none
    | .basis t b => some (1, pairKey layer t b)
    | .sect _ id gs => some (0, gs * 2 ^ 24 + id)
  key.bind (fun k => (gens.find? (fun g => g.1 == k.1 && g.2.1 == k.2)).map (·.2.2))

/-- What the pool phase of the step has found missing before its record opened (R424). -/
def recPooled (s : State) (d : Nat) (m : Man) : State :=
  match partOf s d with
  | none => s
  | some P =>
    match P.traits.phase with
    | some ph => if ph.done && ph.step = m.step then recMissing s d P ph m else s
    | none => s

/-- Requests of items of a unit lose their user. -/
def dropUnitReqs (s : State) (d place : Nat) (which : Nat → Bool) : State :=
  let mine (u : Use) : Bool := match u with | .kindle d' pl i => d' == d && pl == place && which i | _ => false
  let strip (r : Req) : Req := if mine r.use then { r with use := .misc } else r
  { s with
    mp := { s.mp with waiting := s.mp.waiting.filter (fun r => !mine r.use), out := s.mp.out.map strip }
    fl := { s.fl with reads := s.fl.reads.map (fun x => { x with req := strip x.req }) } }

/-- An item holds, or is being sent, what `k` is under the generations now in force. -/
def sameData (old new : List (Nat × Nat × Nat)) (layer : Nat) (it : LsItem) (k : ItemKind × Nat) : Bool :=
  decide (k.2 ≤ it.lines) && (match it.kind, k.1 with
    | .pooled i, .pooled j => i == j
    | .basis t b, .basis t' b' => t == t' && b == b' && itemGen old layer it.kind == itemGen new layer k.1
    | .sect t id _, .sect t' id' _ => t == t' && id == id' && itemGen old layer it.kind == itemGen new layer k.1
    | _, _ => false)

/-- What becomes of an item of a unit at the boundary, and whether its block is kindled again: it stays as it is where its data
are still wanted (under the GSEL they now have), is kindled again in its own block where its key now names other data, and
otherwise keeps its block with nothing in it that any row needs. -/
def itemAfter (old new : List (Nat × Nat × Nat)) (u : LsUnit) (kinds : List (ItemKind × Nat)) (it : LsItem) : LsItem × Bool :=
  match kinds.find? (sameData old new u.layer it) with
  | some k => ({ it with kind := k.1 }, false)
  | none =>
    match kinds.find? (fun k => k.1 == it.kind && decide (k.2 ≤ it.lines) && !u.items.any (fun x => sameData old new u.layer x k)) with
    | some _ => ({ it with st := 0, owed := 0, data := 0, xs := [], again := true }, true)
    | none => ({ it with kind := .unused }, false)

/-- Units of a step already kindled take the data in force at its boundary (R10, R12): Kindling already done stays where it is, an
item that another generation or binding has changed is kindled again in its own block (R114), and an item that only the boundary
made needful is laid after the unit's last block, or, where the region has no room left there, with the whole unit laid anew in
issue order (log entry 104). `old` and `new` are the generation entries of the freeze point and of the boundary. -/
def reform (s : State) (p d : Nat) (m : Man) (old new : List (Nat × Nat × Nat)) : State :=
  match partOf s d with
  | none => s
  | some P =>
    forEach (P.units.filter (fun u => u.step == m.step)) s (fun s u =>
      let kinds := unitItems P m (u.bwd, u.layer, u.slot)
      let reg := (unitRegion s p u).2
      let kept := u.items.map (itemAfter old new u kinds)
      let lack := kinds.filter (fun k => !kept.any (fun x => x.1.kind == k.1))
      let line := maxBy u.items (fun it => it.line + it.lines)
      let line := if u.items.isEmpty then reg.1 else line
      let room := decide (line + sumBy lack (·.2) ≤ reg.1 + reg.2)
      let fresh (k : ItemKind) (l n : Nat) : LsItem := newItem P u.layer true k l n
      let items : List (LsItem × Bool) :=
        if room then kept ++ (layItems line lack fresh).map (fun it => (it, true)) else (layItems reg.1 kinds fresh).map (fun it => (it, true))
      let moved (i : Nat) : Bool := !room || (items[i]?.map (·.2)).getD false
      let ix := List.zip (List.range items.length) items
      let s1 := dropUnitReqs s d u.place moved
      let s2 := forEach (List.zip (List.range u.items.length) u.items) s1 (fun s x =>
        if moved x.1 then forEach x.2.xs s (fun s k => unpin s k 0) else s)
      let s3 := setUnits s2 d (fun v => if v.place = u.place then { v with items := items.map (·.1) } else v)
      forEach ix s3 (fun s x =>
        if x.2.2 then fetchItem s d u.place x.1 u.layer x.2.1.kind else s))

/-! ## Publication (Table ARCH-3 order 7) -/

/-- The Step Manifest of the next step is published and the step begins (R231, R232, R240). -/
def publish (s : State) (p d : Nat) (m0 : Man) : State :=
  match partOf s d with
  | none => s
  | some P0 =>
    let rows := finalRows s d m0
    let binds := bindsNow s rows
    let seed := if m0.host then m0.seed else stepSeed (valP s 6 0x52 p d) P0.step
    let m1 : Man := { m0 with step := P0.step, rows := rows, binds := binds, seed := seed }
    let m : Man := { m1 with gens := manGens s d P0 m1 }
    let s1 := allocRows s d m
    let s2 := if m.host then s1 else objWrite s1 d (valP s1 6 0x50 p d) (manHalf m.step) (manBytes d m)
    let s3 := reform s2 p d m m0.gens m.gens
    let s4 := updPart s3 d (fun P =>
      { P with
        man := some m
        inStep := true
        frozen := false
        cand := none
        hostNext := none
        outc := none
        merged := (passTgts P).isEmpty
        stream := {}
        flags := []
        wins := []
        heldStep := 0
        bound := holdBound s3 p d P m
        slack := kindSlack s3 p d P m
        train := if training P then
            { P.train with
              phases := []
              noGrad := []
              penFull := false
              accs := P.train.accs.filter (fun e => e.1 / 2 ^ 31 != m.step % 2)
              lists := P.train.lists ++ [{ step := m.step, items := stepItems P (indexList s3 d P m), runs := P.train.atts.map (fun e => (e.1, e.2.run)) }] }
          else P.train })
    let s5 := match slicingSet s4 p d with
      | some n => takeTurn (lrbRestore s4 d) n d p
      | none => s4
    penAll (recPooled (recOpen s5 p d m) d m) d

/-- A manifest of a partition without a step in progress is published: the contexts that its build found unfit leave READY at the
boundary that opens the step (R123), and a host-built step samples the time (R103, R104). -/
def publishIdle (s : State) (p d : Nat) (m : Man) : State :=
  publish (match partOf s d with
    | some P => completions (unfitDue (if m.host then idleBuild s d else s) d) d P.step none
    | none => s) p d m

/-! ## Contexts at a boundary (Table ARCH-3 order 1, R437) -/

/-- Writes of the context records that a boundary has changed to their mirrors (R400). -/
def mirrorCtxs (s : State) (d : Nat) (before : Tab Ctx) : State :=
  if (objOf s d (valD s 6 0x28 d none20)).isNone then s
  else forEach (ctxsOf s d) s (fun s e =>
    if (before.find? e.1).map ctxWords == some (ctxWords e.2) then s
    else writeT1 s d (ctxSlotAddr s d e.1 + 3072) (wordBytes (ctxWords e.2)))

/-- The host's outcome for one context with rows in the step, and the progress of its rows (R234, R245, Table CTX-2). -/
def outcomeCtx (s : State) (d : Nat) (m : Man) (outs : List (Nat × Nat × Nat)) (c : Nat) : State :=
  match ctxOf s c with
  | none => s
  | some x =>
    if x.part ≠ d || x.st != .ready then s
    else
      let e := outs.find? (fun e => e.1 == c)
      let out := (e.map (·.2.1)).getD 0
      let mask := (e.map (·.2.2)).getD 1
      let s1 := if x.phase && x.spec then treeAccept s d c mask else setCtx s c (knownProgress (some m) c x)
      if out = 1 then pauseCtx s1 d c false
      else if out = 2 then endCtx s1 d c 1 0 0
      else if out = 3 then endCtx s1 d c 1 0 (2 ^ 7)
      else s1

/-- Ring entries that take effect at the boundary go into the step's replay record (EKIND 1). -/
def recRequests (s : State) (d : Nat) : State :=
  match partOf s d with
  | none => s
  | some P => forEach (P.rqWait.filter (fun r => decide (r.wait ≤ 1))) s (fun s r => recEntry s d (w64 (2 ^ 59)) (w64 r.idx))

/-- A deadline that has passed. -/
def isLate (dl : W64) (tb : Option Nat) : Bool := match tb with | some t => dl != 0 && decide (dl.toNat < t % 2 ^ 64) | none => false

/-- LATE marking and the RETIRE policy (R105): `dls` the deadlines of the contexts with rows as they stood before. -/
def lateMark (s : State) (d : Nat) (m : Man) (tb : Option Nat) (dls : List (Nat × W64)) : State :=
  let judged (s : State) (c : Nat) : Bool := match ctxOf s c with | some x => x.st == .ready || x.st == .unfit | none => true
  let retire (s : State) (c : Nat) : State := match ctxOf s c with | some x => if x.policy then endCtx s d c 1 0 0 else s | none => s
  let s1 := forEach dls s (fun s e =>
    let rows := ctxRows m e.1
    if isLate e.2 tb && judged s e.1 then retire (bumpD (addFlags s d 0 rows) Cnt.late d rows.length) e.1 else s)
  forEach ((ctxsOf s1 d).filter (fun e => !dls.any (fun x => x.1 == e.1))) s1 (fun s e =>
    if isLate e.2.deadline tb && judged s e.1 then retire (noteFlags s d e.1 1) e.1 else s)

/-- A PAUSED context's time as such has passed (R242). -/
def emberTime (s : State) (d : Nat) (x : Ctx) (tb : Option Nat) : Bool :=
  match tb with | some t => valD s 6 0x40 d 0 ≠ 0 && decide (x.tmark + valD s 6 0x40 d 0 ≤ t) | none => false

/-- The other transitions of a context that are due: the loss of its pages, Ember, expiry, the ends of its page moves, the limit of
its pages. -/
def ctxTimers (s : State) (d c : Nat) (tb : Option Nat) : State :=
  match ctxOf s c, partOf s d with
  | some x, some P =>
    if x.kvLost then endCtx s d c 6 Code.kvLost 0
    else if x.st == .ember && (match tb with | some t => decide (x.tmark ≤ t) | none => false) &&
        !P.rqWait.any (fun r => r.op == 2 && r.ctx == c) then endCtx s d c 5 0 0
    else
      let s1 := if x.st == .paused && P.modes.ember && (x.emberDue || emberTime s d x tb) then emberEnter s d c else s
      kvEnd (pagesDue s1 d c) d c
  | _, _ => s

/-- Table ARCH-3 order 1, in the order of R437. -/
def boundaryCtxs (s : State) (d step : Nat) (m : Man) (outs : List (Nat × Nat × Nat)) (tb : Option Nat) : State :=
  let cs := manCtxs m
  let dls := cs.filterMap (fun c => (ctxOf s c).map (fun x => (c, x.deadline)))
  let s0 := forEach ((ctxsOf s d).map (·.1)) s (fun s c => adoptsDue s d c)
  let s1 := forEach cs s0 (fun s c => outcomeCtx s d m outs c)
  let s2 := requestsDue (recRequests s1 d) d
  let s3 := unfitDue (lateMark s2 d m tb dls) d
  let s4 := forEach ((ctxsOf s3 d).map (·.1)) s3 (fun s c => ctxTimers s d c tb)
  completions s4 d step (some m)

/-! ## Instances due at a boundary -/

/-- A pending instance takes effect. -/
def applyInst (s : State) (i : Inst) : State :=
  match i.area, i.item with
  | 2, 0x20 => applyObjAlloc s i
  | 2, 0x21 => applyObjFree s i
  | 2, 0x22 => if bitOf (i.arg 0) 8 then applyObjCancel s i else applyObjMove s i
  | 3, 0x10 => applyAdptLoad s i
  | 3, 0x11 => applyAdptUnload s i
  | 4, 0x10 => applyTblUsable s i
  | 4, 0x11 => applyTblDrop s i
  | 4, 0x12 => applyPoolDef s i
  | 5, 0x10 => applyTrainAttach s i
  | 5, 0x14 => applyExportSnap s i
  | 7, 0x13 => setInst s { i with wait := 0 }
  | _, _ => s

/-- Instances of `applyInst` that wait for boundaries of a partition. -/
def waitingInsts (s : State) (d : Nat) : List Inst :=
  s.od.insts.filter (fun i => i.st == .pending && i.part == d &&
    ((i.area == 2 && (i.item == 0x20 || i.item == 0x21 || i.item == 0x22)) || (i.area == 3 && (i.item == 0x10 || i.item == 0x11)) ||
     (i.area == 4 && (i.item == 0x10 || i.item == 0x11 || i.item == 0x12)) || (i.area == 5 && (i.item == 0x10 || i.item == 0x14)) ||
     (i.area == 7 && i.item == 0x13)))

/-- Those due at a boundary act, in the order of their acceptance; the others come one boundary nearer. -/
def instsDue (s : State) (d : Nat) : State :=
  let l := waitingInsts s d
  let s1 := forEach (l.filter (fun i => decide (i.wait ≤ 1))) s applyInst
  let s2 := forEach (l.filter (fun i => decide (1 < i.wait))) s1 (fun s i => setInst s { i with wait := i.wait - 1 })
  updPart s2 d (fun P =>
    let nearer (a : Adpt) : Adpt := { a with unload := a.unload.map (· - 1) }
    { P with adpts := P.adpts.map (fun e => (e.1, nearer e.2)), pairs := P.pairs.map (fun e => (e.1, nearer e.2)) })

/-! ## The prefill and decode split (R238) -/

/-- DEC_QUADS moves one quad toward the ratio that the candidates of the freeze point ask for. -/
def ratioDue (s : State) (p d : Nat) : State :=
  match partOf s d with
  | none => s
  | some P =>
    if valP s 6 0x32 p d ≠ 1 then s
    else
      let q := slotQuads s p
      let now := valP s 7 0x40 p d
      let (dec, pre) := P.asked
      let t0 := if dec + pre = 0 then now else (2 * q * dec + (dec + pre)) / (2 * (dec + pre))
      let t1 := Nat.min (Nat.max t0 (valP s 7 0x41 p d)) (valP s 7 0x42 p d)
      let t2 := if 2 ≤ q && 0 < dec then Nat.max t1 1 else t1
      let t3 := if 2 ≤ q && 0 < pre then Nat.min t2 (q - 1) else t2
      let t := if dec + pre = 0 then now else t3
      if t = now then s else setVal s 7 0x40 p (w64 (if now < t then now + 1 else now - 1))

/-! ## No step in progress (R436) -/

/-- What was kindled for a step that will not begin is dropped; units whose dirty lines are on their way home stay. -/
def candUnitsDrop (s : State) (d : Nat) : State :=
  match partOf s d with
  | none => s
  | some P =>
    let drop (u : LsUnit) : Bool := u.dirty.isEmpty && u.wbOwed == 0
    let s1 := forEach (P.units.filter drop) s (fun s u =>
      forEach (u.items.flatMap (·.xs)) (dropUnitReqs s d u.place (fun _ => true)) (fun s x => unpin s x 0))
    updPart s1 d (fun P => { P with units := P.units.filter (fun u => !drop u) })

/-- A quiesce is complete: no step in progress and every update acknowledged. -/
def quiesceSettle (s : State) (d : Nat) : State :=
  match quiesceInst s d, partOf s d with
  | some _, some P =>
    if P.st == .running && !P.inStep && updatesEnded P && P.preempt.isNone then
      let s1 := updPart (candUnitsDrop s d) d (fun P => { P with st := .quiesced, cand := none, frozen := false, nextUnit := 0, blocked := false })
      let is := s1.od.insts.filter (fun i => i.area == 7 && i.item == 0x13 && i.part == d && i.st == .pending)
      fwSwitchDue (forEach is s1 (fun s i => finish s i (some d) Code.ok 0 0)) d
    else s
  | _, _ => s

/-- The partition may begin a step at once: no other member of its slicing set has one in progress. -/
def turnFree (s : State) (p d : Nat) : Bool :=
  match slicingSet s p d with
  | some n => !sliceBusy s n && (match nextTurn s n with | some e => e.1 == d | none => true)
  | none => true

/-- A RUNNING partition without a step in progress builds its next step as soon as a context is a candidate, and publishes;
a host-built manifest that has been accepted is published at once. The build samples the time (R103, R104). -/
def idleTry (s : State) (d : Nat) : State :=
  match partOf s d with
  | none => s
  | some P =>
    match P.slot with
    | none => s
    | some p =>
      if P.inStep || !mayPublish s d P || (match slicingSet s p d with | some n => sliceBusy s n | none => false) then s
      else if P.modes.serveHost || P.cand.isSome then
        (match nextMan P with
         | some m => if turnFree s p d then publishIdle s p d m else s
         | none => s)
      else if (readyCands s P d).isEmpty then s
      else
        let s1 := idleFreeze s p d
        match (partOf s1 d).bind (·.cand) with
        | some m => if turnFree s1 p d then publishIdle s1 p d m else s1
        | none => s1

/-- A partition enters the condition of having no step in progress: what waited for a boundary of it takes effect. -/
def partIdle (s : State) (d : Nat) : State :=
  match partOf s d with
  | none => s
  | some P =>
    let s1 := stepWritesReleased s d
    let s2 := match P.slot with | some p => bundlesReleased s1 p | none => s1
    let s3 := forEach (waitingInsts s2 d) s2 applyInst
    let s4 := updPart s3 d (fun P => { P with rqWait := P.rqWait.map (fun r => { r with wait := 1 }) })
    let s5 := { s4 with od := { s4.od with insts := s4.od.insts.map (fun i =>
      if i.area = 3 && i.item = 0x12 && i.st = .pending && i.part = d then { i with wait := 1 } else i) } }
    let s6 := completions (requestsDue s5 d) d P.step none
    let s7 := flipsDue (updTraits s6 d (fun t => { t with flips := t.flips.map (fun f => if f.committed then { f with wait := 1 } else f) })) d
    let s8 := movesStart (movesSwitch s7 d) d
    let s9 := detachesDue (pubsDue s8 d) d
    quiesceSettle (idleTry s9 d) d

/-! ## The step boundary (R9, R11) -/

/-- The step ends: its number is used up, its windows, holds and reads are over, and its units can be released. -/
def endStep (s : State) (d : Nat) : State :=
  match partOf s d with
  | none => s
  | some P =>
    let n := match P.man with | some m => (stepUnits P m.target).length | none => 0
    let s1 := forEach P.holds s (fun s h => holdEnd s d h)
    let s2 := updXp s1 (fun x => { x with want := x.want.filter (fun r => r.d != d) })
    let late : Option LateStep := match P.man with
      | some m => if training P && !phasesOver P P.train.phases then some { man := m, phases := P.train.phases, noGrad := P.train.noGrad } else none
      | none => none
    let s3 := updPart s2 d (fun P =>
      { P with
        step := P.step + 1
        inStep := false
        frozen := false
        man := none
        outc := none
        merged := false
        wins := []
        stream := { ppWord := P.stream.ppWord }
        nextUnit := P.nextUnit - n
        flags := []
        train := { P.train with late := late, phases := [], noGrad := [] } })
    updPart s3 d (fun Q => dropReleased { Q with units := Q.units.map (fun u => if u.step = P.step && unitPhased Q u then { u with done := true } else u) })

/-- The step of partition `d` has ended: the time is sampled and the actions of Table ARCH-3 run in their order. -/
def boundary (s : State) (p d : Nat) : State :=
  match partOf s d with
  | none => s
  | some P =>
    match P.man with
    | none => s
    | some m =>
      let s0 := regrad (lateFinish 4097 (if P.frozen then s else freezePoint s p d) d) d
      -- a training step without targets has no phase whose end completes its list (R218)
      let s0 := if training P && P.shape.tgts.isEmpty then listComplete s0 d P P.step else s0
      let step := P.step
      let tb := nowNs s0
      let sT := match tb with
        | some t => estimate s0 d t
        | none => bumpD (updPart s0 d (fun P => { P with tb := none })) Cnt.todInvalid d 1
      let before := sT.ctxs
      let s1 := boundaryCtxs sT d step m ((P.outc.map (·.entries)).getD []) tb
      let s1 := mirrorCtxs (deadlinesDue s1 d (step + 1) tb) d before
      let s2 := bundlesDue (stepWritesDue s1 d) p d
      let s3 := instsDue (if training P then trainInstall s2 d step else s2) d
      let s3 := movesStart (movesSwitch (flipsDue s3 d) d) d
      let s3 := detachesDue (pubsDue s3 d) d
      let s4 := fwSwitchDue s3 d
      let s5 := ratioDue s4 p d
      let s6 := recClose s5 d tb
      let s6 := fencesDrop (ricksDue (usesDue s6 d step) d) d step
      let s7 := latch (sliceChange (endStep s6 d) p d) (33 + p)
      let set := slicingSet s7 p d
      let s7 := if set.isSome then lrbDetach s7 d else s7
      match partOf s7 d with
      | none => s7
      | some Q =>
        if preempting Q then effectPoint (updPart s7 d (fun P => { P with cand := none, nextUnit := 0 })) d 1  -- an urgent one is now ordinary (R261)
        else
          match set with
          | some n =>
            if sliceBusy s7 n then partIdle s7 d
            else match nextTurn s7 n with
              | none => partIdle s7 d
              | some e =>
                let s8 := match (partOf s7 e.1).bind nextMan with
                  | some m => if e.1 = d then publish s7 e.2 e.1 m else publishIdle s7 e.2 e.1 m
                  | none => s7
                if e.1 = d then s8 else partIdle s8 d
          | none =>
            if !mayPublish s7 d Q then partIdle s7 d
            else match nextMan Q with
              | some m => publish s7 p d m
              | none => partIdle s7 d

/-- Merge of the last target of the final pass has ended and the outcome record is here (R9). -/
def boundaryDue (P : Part) : Bool := P.st == .running && P.inStep && P.merged && P.outc.isSome

/-- The boundary of a partition, where it is due. -/
def boundaryTry (s : State) (p d : Nat) : State :=
  match partOf s d with
  | some P => if boundaryDue P then boundary s p d else s
  | none => s

/-- After an event: the windows of the running partitions go as far as they can, an urgent pre-emption that is stopping may
reach its effect point, and a step whose end has come ends. -/
def settlePart (s : State) (p d : Nat) : State := tilesTake (boundaryTry (effectDue (winsSettle s p d) d) p d)

def settle (s : State) : State :=
  forEach ((runningParts s).filter (fun e => e.2.inStep)) s (fun s e => match e.2.slot with | some p => settlePart s p e.1 | none => s)

end Sys2Proof.Machine
end

