-- ==== Sys2Proof/Machine/Transfers.lean ====
section
/-! DEFINITION. The rows and the requests of a transfer of an Element Engine (R293), which a restore issues again (Table EE-11). -/

namespace Sys2Proof.Machine

/-- The rows an instruction moves: how many, their columns and format, the bytes of each, its blocks with a scale, the
address of the first, their stride, and the address of the first scale row. -/
structure Rows where
  n : Nat
  cols : Nat
  fmt : Nat
  mxp : Bool
  size : Nat
  blocks : Nat
  base : Nat
  stride : Nat
  scale : Nat
  deriving DecidableEq, Repr

/-- Bits of `cols` elements of a format. -/
def colBits (fmt cols : Nat) : Nat := cols * elemBits fmt

/-- Bytes of a row: whole lines of the register's layout, or the elements of an MX row in whole blocks (R293). -/
def rowSize (fmt cols : Nat) (mxp : Bool) : Nat :=
  if mxp then ceilDiv (colBits fmt (p32 cols)) 8 else 64 * ceilDiv (colBits fmt cols) 512

/-! ## Requests -/

/-- The byte ranges of a transfer. -/
def Xfer.rowsOf (x : Xfer) : Rows :=
  { n := x.rows, cols := x.cols, fmt := x.fmt, mxp := x.mxp, size := rowSize x.fmt x.cols x.mxp,
    blocks := if x.mxp then p32 x.cols / 32 else 0, base := x.off, stride := x.stride, scale := x.scale }

/-- The address ranges that rows touch. -/
def Rows.spans (r : Rows) : List (Nat × Nat) :=
  (List.range r.n).flatMap (fun i =>
    (r.base + i * r.stride, r.size) :: (if r.mxp then [(r.scale + i * r.blocks, r.blocks)] else []))

/-- Two lists of ranges share a byte. -/
def spansMeet (a b : List (Nat × Nat)) : Bool := a.any (fun x => b.any (fun y => decide (x.1 < y.1 + y.2) && decide (y.1 < x.1 + x.2)))

/-- The extents of an object that ranges touch. -/
def spanExts (o : Objt) (l : List (Nat × Nat)) : List Nat :=
  dedup (l.flatMap (fun x => if x.2 = 0 then [] else
    List.range' (o.at x.1).1 ((o.at (x.1 + x.2 - 1)).1 - (o.at x.1).1 + 1)))

/-- The requests of an XLD for the rows that it loads, in the extents that `p` takes: from the T1 image where there is one, else
from the home. -/
def xldReads (s : State) (d : Nat) (x : Xfer) (p : Nat → Bool) : State :=
  match objOf s d x.handle with
  | none => s
  | some o =>
    let qos := fetchQos s d
    let s1 := forEach ((spanExts o x.rowsOf.spans).filter (fun xi => p (xKey d x.handle xi))) s (fun s xi => if (cachedCopy s (xKey d x.handle xi)).isSome then bumpD s Cnt.cacheHit d 1 else s)
    forEach ((x.rowsOf.spans.flatMap (fun b => objParts (b.2 + 1) o b.1 b.2)).filter (fun q => p (xKey d x.handle q.1))) s1 (fun s q =>
      let k := xKey d x.handle q.1
      if hasImage s k then readImage s d k q.2.1 q.2.2 qos .misc else readHomeAt s d k q.2.1 q.2.2 qos .misc)

/-- A transfer touches an extent a write to whose home has failed for good: its reads fail without being issued (R148). -/
def xferPoisoned (s : State) (d : Nat) (x : Xfer) : Bool :=
  match objOf s d x.handle with
  | some o => (spanExts o x.rowsOf.spans).any (fun xi => poisonedX s (xKey d x.handle xi))
  | none => false

/-- The XLDs in flight of the partition in slot `p` issue their reads again after a restore (Table EE-11); those of TR go on under
R269 and R271. -/
def xldsAgain (s : State) (d p : Nat) : State :=
  let again (s : State) (x : Xfer) : State :=
    if x.slot = p && !x.store && !xferPoisoned s d x then xldReads s d x (fun k => homeCode s k != 4 || hasImage s k) else s
  forEach (List.range 8) s (fun s q => forEach (engOf s q).xfers s again)

end Sys2Proof.Machine
end

