-- ==== Sys2Proof/Machine/PartCmds.lean ====
section
/-! DEFINITION. The commands and events of partitions (R249 to R251, R261 to R273, R391): plan load and unload, start, quiesce,
clamp, the per-partition reset, the ends of saves and restores, and the urgent timer. -/

namespace Sys2Proof.Machine

/-- A soft reload runs (R389). -/
def reloading (s : State) : Bool := s.boot.reload.isSome

/-- The defined partition in the low bits of an argument word. -/
def Inst.partArg (i : Inst) : Nat := i.arg 0 % 32

/-! ## PLAN_LOAD (R249) -/

/-- A field of a plan record's word. -/
def planFld (w : List W64) (i hi lo : Nat) : Nat := wfld (w.getD i 0) hi lo

def planModes (w : List W64) : Modes :=
  let b (i : Nat) : Bool := planFld w 1 i i == 1
  { servePenra := b 63, serveHost := b 62, bwdFrozen := b 61, trainAdpt := b 60, trainTrait := b 59, spec := b 58, ember := b 57, holdCeil := b 56 }

/-- Every selected mode against Table ARCH-6. -/
def modesCode (s : State) (m : Modes) : Nat :=
  if (m.trainAdpt || m.trainTrait) && !cfgTrain s then Code.optionAbsent
  else if (m.servePenra || m.spec || m.ember) && !cfgCkeep s then Code.optionAbsent
  else if m.ember && !tierPresent s 2 then Code.tierAbsent
  else Code.ok

/-- The resident slot a plan or a restore takes: the lowest free one, the slot of a running replay last (R431). -/
def slotFor (s : State) : Option Nat :=
  let free := (List.range 8).filter (fun p => (slotPart s p).isNone)
  let mine (p : Nat) : Bool := match s.dbg.replay with | some r => r.slot == p | none => false
  match free.find? (fun p => !mine p) with
  | some p => some p
  | none => free.head?

/-- Table PART-3 in order: 0 or the code. -/
def planCode (s : State) (w : List W64) (bs : List Byte) : Nat :=
  let m := planModes w
  let mask := planFld w 0 55 48
  let base := planFld w 2 47 34
  let count := planFld w 2 33 19
  let share := planFld w 2 63 48
  if planFld w 7 63 32 ≠ crc32 (bs.take 60) || planFld w 0 44 0 ≠ 0 || planFld w 1 55 0 ≠ 0 || planFld w 2 18 0 ≠ 0 ||
      (w.drop 3).take 4 ≠ [0, 0, 0, 0] || planFld w 7 31 0 ≠ 0 || m.servePenra == m.serveHost || 4 < planFld w 0 58 56 then Code.planBad
  else if (partOf s (planFld w 0 63 59)).isSome then Code.partState
  else match slotFor s with
    | none => Code.slotFull
    | some p =>
      let c := modesCode s m
      if c ≠ 0 then c
      else if mask = 0 || 2 ^ cfgQuads s ≤ mask || 16384 < base + count || !ctxRangeFree s p base count || !ratesOkWithClass s p (planFld w 0 58 56) then
        Code.limitRange
      else if granules s < slotSum s 7 0x50 p 0 + share then Code.lsOvercommit
      else Code.ok

/-- A key of the counters belongs to defined partition `d`. -/
def cntOfPart (d k : Nat) : Bool :=
  match counterIx (k / 2 ^ 24) with
  | some ix => ownerOf ix (k % 2 ^ 24) == .defined d
  | none => false

/-- The firmware bank that a partition entering service runs under (R305). -/
def bankNow (s : State) : Nat := match s.core.change with | some c => c.bank | none => s.core.bank

/-- The plan is installed in slot `p`: the partition is QUIESCED. -/
def planInstall (s : State) (p : Nat) (w : List W64) (shape : Shape) : State :=
  let d := planFld w 0 63 59
  let mask := planFld w 0 55 48
  let share := planFld w 2 63 48
  let s1 := freeSlotNow (replayYield s p mask share) p
  let s2 := { s1 with cnt := s1.cnt.keepKeys (fun k => !cntOfPart d k) }
  let set := fun (s : State) (v : Nat × Nat × Nat) => setVal s v.1 v.2.1 p (w64 v.2.2)
  let s3 := [(7, 0x20, mask), (7, 0x21, planFld w 0 58 56), (7, 0x22, planFld w 0 47 45), (7, 0x50, share), (6, 0x10, planFld w 2 47 34), (6, 0x11, planFld w 2 33 19)].foldl set s2
  mapShare { s3 with parts := s3.parts.put d { st := .quiesced, slot := some p, modes := planModes w, shape := shape, fwBank := bankNow s3 } } d

def planLoadAct (shape : Shape) (s : State) (i : Inst) : State :=
  if reloading s then refuse s i none Code.partState
  else
    let a := i.arg 0 % 2 ^ 52
    let w := t1Words s a 8
    let c := planCode s w (bytesAt s.mem (memKey 0 a) 64)
    match slotFor s with
    | some p =>
      if c ≠ 0 then refuse s i none c
      else finish (planInstall s p w shape) i (some (planFld w 0 63 59)) Code.ok (w64 p) 0
    | none => refuse s i none (if c ≠ 0 then c else Code.slotFull)

def execPlanLoad (shape : Shape) (s : State) : Out3 := .next (cmdRow s 7 0x10 (planLoadAct shape))

/-! ## PLAN_UNLOAD -/

/-- Requests of a partition that goes: those waiting are not issued, the others lose their user. -/
def dropPartReqs (s : State) (d : Nat) : State :=
  let strip (r : Req) : Req := if r.part = d then { r with use := .misc } else r
  { s with
    mp := { s.mp with waiting := s.mp.waiting.filter (fun r => r.part != d), out := s.mp.out.map strip }
    fl := { s.fl with reads := s.fl.reads.map (fun x => { x with req := strip x.req }) } }

/-- The contexts of a partition go with their page directory entries. -/
def dropCtxs (s : State) (d : Nat) : State :=
  let saved := ((partOf s d).map (·.saved)).getD []
  let blocks := (ctxsOf s d ++ saved).flatMap (fun e => e.2.map)
  { s with
    ctxs := s.ctxs.filter (fun e => e.2.part != d)
    pgdir := s.pgdir.keepKeys (fun k => !blocks.contains (k / 64)) }

/-- Tags that a bin's WAITING entries hold come under quarantine (R149, R391). -/
def lrbFree (s : State) (d : Nat) : State :=
  match partOf s d with
  | none => s
  | some P =>
    let s1 := forEach (P.lrb.vals.filter (fun e => e.st == 1)) s (fun s e => quarantine s e.req)
    let s2 := forEach P.lrbQueue s1 quarantine
    updPart s2 d (fun P => { P with lrb := List.filter (fun (e : Nat × Lrb) => e.2.st != 1) P.lrb, lrbQueue := [] })

/-- Everything that a partition owns is freed and it is UNDEFINED. -/
def planRemove (s : State) (d : Nat) : State :=
  match partOf s d with
  | none => s
  | some P =>
    let s1 := forEach (s.fl.pubs.filter (fun p => p.d == d)) s pubFail
    let s2 := forEach (s1.tm.moves.filter (fun m => m.d == d)) s1 (fun s m => moveAbort s m.x)
    let s3 := dropPartReqs (lrbFree s2 d) d
    let s4 := forEach (s3.tm.objs.keys.filter (fun k => k / 2 ^ 20 == d)) s3 (fun s k => objDrop s d (k % 2 ^ 20))
    let s5 := dropCtxs { s4 with tm := { s4.tm with
      xt := s4.tm.xt.keepKeys (fun x => xPart x != d)
      ricks := List.filter (fun (e : Nat × Rick) => xPart e.2.x != d) s4.tm.ricks
      moves := s4.tm.moves.filter (fun m => m.d != d)
      flog := s4.tm.flog.del d
      thawHigh := s4.tm.thawHigh.filter (· != d)
      used := s4.tm.used.filter (fun u => u.1 != d) } } d
    let s6 := match P.slot with | some p => freeSlotNow s5 p | none => s5
    let s7 := forgetVals s6 (keyOfPart d)
    { s7 with
      parts := s7.parts.del d
      dbg := { s7.dbg with recs := s7.dbg.recs.del d, rrHead := s7.dbg.rrHead.del d } }

/-- Work of a command of the partition still runs. -/
def partChecking (s : State) (d : Nat) : Bool :=
  s.od.insts.any (fun i => i.part == d && i.st != .issued && decide (3 ≤ i.area) && decide (i.area ≤ 5))

def planUnloadAct (s : State) (i : Inst) : State :=
  let d := i.partArg
  match partOf s d with
  | none => refuse s i none Code.partState
  | some P =>
    if !(P.st == .quiesced || P.st == .clamped) || partChecking s d then refuse s i (some d) Code.partState
    else finish (planRemove s d) i none Code.ok 0 0

def execPlanUnload (s : State) : Out3 := .next (cmdRow s 7 0x11 planUnloadAct)

/-! ## PART_START, PART_QUIESCE, PART_CLAMP -/

/-- A handle that R223 requires is missing. -/
def handlesMissing (s : State) (p d : Nat) (P : Part) : Bool :=
  let none' (item : Nat) : Bool := valP s 5 item p d == none20
  (training P && (none' 0x22 || none' 0x23 || none' 0x24 || none' 0x25)) || (P.modes.trainAdpt && (none' 0x20 || none' 0x21))

/-- The register mask meets that of a RUNNING or CLAMPED partition that shares a quad (R280). -/
def regsClash (s : State) (p d : Nat) : Bool :=
  let mask := valP s 7 0x24 p d
  let quads := valP s 7 0x20 p d
  s.parts.any (fun e => e.1 != d && (e.2.st == .running || e.2.st == .clamped) &&
    (match e.2.slot with
     | some p' => (valP s 7 0x20 p' e.1 &&& quads) != 0 && (valP s 7 0x24 p' e.1 &&& mask) != 0
     | none => (clampVal e.2 7 0x20 0 0 &&& quads) != 0 && (clampVal e.2 7 0x24 0 0 &&& mask) != 0))

/-- Sealed touched lists that the partition's list object holds when it first starts (R219). -/
def startLists (s : State) (d : Nat) : State :=
  match partOf s d with
  | none => s
  | some P =>
    if !training P || P.step ≠ 0 || !P.train.lists.isEmpty then s
    else
      let ls := [0, 1].filterMap (fun h => (t1Base s d (listPlace s d h).1).bind (fun base =>
        readList P s.mem 1048640 (memKey 0 (base + (listPlace s d h).2)) [] 0))
      updTrain s d (fun T => { T with lists := ls.filter (fun l => !l.items.isEmpty && !listOver l) })

/-- The first PART_START ends stage 10: Penra is serving-ready, and what waited for that comes into force (R381, R386);
a map that leaves a tile missing raises REPLACE_REQ (R412). -/
def servingReady (s : State) : State :=
  if s.boot.stage = 10 then
    let s1 := resetWritesDue { s with boot := { s.boot with stage := 11 } }
    if workingTiles s1 < cfgTiles s1 then replaceRise s1 else s1
  else s

def partStartAct (s : State) (i : Inst) : State :=
  let d := i.partArg
  match partOf s d with
  | none => refuse s i none Code.partState
  | some P =>
    match P.slot with
    | none => refuse s i (some d) Code.partState
    | some p =>
      if reloading s || P.st != .quiesced then refuse s i (some d) Code.partState
      else if handlesMissing s p d P || regsClash s p d then refuse s i (some d) Code.limitRange
      else
        let s1 := servingReady (updPart s d (fun P => { P with st := .running, fwBank := bankNow s, place := 0 }))
        partIdle (finish (startLists s1 d) i (some d) Code.ok 0 0) d

def execPartStart (s : State) : Out3 := .next (cmdRow s 7 0x12 partStartAct)

def partQuiesceAct (s : State) (i : Inst) : State :=
  let d := i.partArg
  match partOf s d with
  | none => refuse s i none Code.partState
  | some P =>
    if P.st != .running then refuse s i (some d) Code.partState
    else quiesceSettle (setInst s { i with st := .pending, part := d, wait := boundaries P }) d

def execPartQuiesce (s : State) : Out3 := .next (cmdRow s 7 0x13 partQuiesceAct)

def partClampAct (s : State) (i : Inst) : State :=
  let d := i.partArg
  match partOf s d with
  | none => refuse s i none Code.partState
  | some P =>
    if reloading s then refuse s i (some d) Code.partState
    else if P.st == .clamping || preempting P then finish s i (some d) Code.ok 0 0
    else if P.st != .running && P.st != .quiesced then refuse s i (some d) Code.partState
    else if !hasClamp s d then refuse s i (some d) Code.limitRange
    else preemptBegin (finish s i (some d) Code.ok 0 0) d (if bitOf (i.arg 0) 8 then 2 else 1)

def execPartClamp (s : State) : Out3 := .next (cmdRow s 7 0x14 partClampAct)

/-! ## RESET_PART (R391) -/

/-- KIND of a Clamp header becomes 0, and its CRC follows. -/
def clampKind0 (s : State) (d : Nat) : State :=
  match t1Base s d (lastVal s 7 0x15 d).toNat with
  | none => s
  | some base =>
    let old := bytesAt s.mem (memKey 0 base) 65536
    let w0 := leNat (old.take 8)
    let new := leBytes 8 (w0 - fld w0 15 13 * 2 ^ 13) ++ old.drop 8
    let crc := crc32 (new.take 56 ++ leBytes 8 0 ++ new.drop 64)
    writeT1 s d base ((new.take 56) ++ leBytes 8 crc)

/-- Provisional slots of the open trees are free at once. -/
def dropTrees (P : Part) : Part :=
  let slots := P.saved.vals.flatMap (fun x => x.tree.vals)
  { P with
    saved := P.saved.map (fun e => (e.1, { e.2 with tree := [] }))
    usedProv := P.usedProv.filter (fun f => !slots.contains f)
    freed := P.freed.filter (fun e => e.1 != 2 || !slots.contains e.2) }

/-- The step in progress of a CLAMPED partition is abandoned. -/
def abandonStep (s : State) (d : Nat) : State :=
  let s1 := clampKind0 { s with dbg := { s.dbg with recs := s.dbg.recs.del d } } d
  updPart s1 d (fun P =>
    let Q := dropTrees P
    { Q with
      wasRunning := false
      inStep := false
      frozen := false
      man := none
      cand := none
      hostNext := none
      outc := none
      merged := false
      wins := []
      flags := []
      stream := {}
      nextUnit := 0
      unfitNext := []
      traits := { P.traits with phase := none, prev := none }
      train := { P.train with late := none, phases := [], noGrad := [] }
      clamp := P.clamp.map (fun c => { c with kind := 0 }) })

def resetPartAct (s : State) (i : Inst) : State :=
  let d := i.partArg
  match partOf s d with
  | none => refuse s i none Code.partState
  | some P =>
    if reloading s || !(P.st == .quiesced || P.st == .clamped) then refuse s i (some d) Code.partState
    else if P.st == .clamped && P.train.atts.any (fun e => decide (0xFFFF ≤ e.2.run)) then refuse s i (some d) Code.limitRange
    else
      let s1 := match P.slot with
        | some p => regsClear s p
        | none => abandonStep s d
      let s2 := bumpD (dropShare s1 d) Cnt.penDrop d P.train.pen.length
      let s3 := updTrain s2 d (fun T => { T with pen := [], penFull := false })
      finish (listsRecover (lrbFree s3 d) d) i (some d) Code.ok 0 0

def execResetPart (s : State) : Out3 := .next (cmdRow s 1 2 resetPartAct)

/-! ## Saves and restores (R266, R267, R271) -/

/-- The save of a partition ends. -/
def execClampSaveEnd (d : Nat) (s : State) : Out3 := .next (if held s then s else saveEnd s d)

/-- Restore a partition into the slot it takes. -/
def restoreNow (s : State) (d p : Nat) (P : Part) : State :=
  restoreInto (replayYield s p (clampVal P 7 0x20 0 0) (clampVal P 7 0x50 0 0)) d p

/-- The scheduler's choice (R262, R273), or the next partition of a soft reload (R389). -/
def restorePick (s : State) : State :=
  match s.boot.reload with
  | some r =>
    if !r.worked then s
    else
      let l := sortBy (fun (e : Nat × Nat) => e.2) r.slots
      (match l.find? (fun e => (partOf s e.1).any (fun P => P.st == .clamped)) with
       | some e => (match partOf s e.1 with | some P => restoreNow s e.1 e.2 P | none => s)
       | none => s)
  | none =>
    match (restoreOrder s).head? with
    | none => s
    | some d =>
      match partOf s d with
      | none => s
      | some P =>
        if fitsWithout s P [] then (match slotFor s with | some p => restoreNow s d p P | none => s)
        else if fitsWithout s P (leaving s) then s
        else if allBlocked s then swapBlocked s
        else makeRoomFor s P

def execRestoreStart (s : State) : Out3 := .next (if held s || !ready s then s else restorePick s)

/-- The target of the restore point: a kindle hold stands until it is ready (R127). -/
def restoreHold (s : State) (d : Nat) : State :=
  match partOf s d with
  | none => s
  | some P =>
    match P.man with
    | none => s
    | some m =>
      let k := match P.stream.last with
        | some k => some (winKey k)
        | none => ((passTgts P).head?).map (fun x => ({ step := m.step, bwd := x.1, layer := x.2.layer, tslot := x.2.slot, win := 0, tick := 0 } : PosKey))
      match k with
      | some k => if (passTgt P k).isSome && !targetReady P k.step k.bwd k.layer k.tslot then holdStart s d .kindle k 0 else s
      | none => s

/-- The pool phase starts again where its vectors are not in the pool buffer (Table TRAIT-8). -/
def restorePool (s : State) (d : Nat) : State :=
  match partOf s d with
  | none => s
  | some P =>
    if P.traits.phase.isSome then s
    else
      let s1 := match P.man with
        | some m => if P.traits.prev.any (fun f => f.step == m.step) then s else poolBegin s d m
        | none => s
      match (if P.frozen then nextMan P else none) with
      | some m => poolBegin s1 d m
      | none => s1

/-- Pass 2 that was under way at a soft reload goes on as the sweep of R219. -/
def sweepSealed (s : State) (d : Nat) : State :=
  updTrain s d (fun T => { T with lists := T.lists.map (fun l => if l.isSealed && !l.ended then { l with sweep := true } else l) })

/-- The last restore of a soft reload has ended: RESET_SOFT ends (R389 step 4). -/
def reloadSettle (s : State) : State :=
  match s.boot.reload with
  | none => s
  | some r =>
    if !r.worked || r.slots.any (fun e => (partOf s e.1).any (fun P => P.st == .clamped || P.st == .restoring)) then s
    else
      let s1 := { s with boot := { s.boot with reload := none } }
      let s2 := match instAt s1 1 1 { path := r.path, cseq := r.cseq } with
        | some i => finish s1 i none Code.ok 0 0
        | none => s1
      if s.otp.gen = some r.oldGen then s2 else post s2 Ev.otpGenTaken none 0 (s.otp.gen.getD 0xFF) s.otp.reject

/-- The restore of a partition ends: SQ_EV reports RESTORE and the work goes on (R267). -/
def restoreDone (s : State) (d : Nat) : State :=
  match partOf s d with
  | none => s
  | some P =>
    match P.slot, P.preempt, P.clamp with
    | some p, some q, some c =>
      if P.st != .restoring || q.owed != 0 then s
      else
        let run := c.kind ≠ 0 && P.wasRunning
        let (o, s0) := takeOrder s
        let s1 := updPart (lrbRestore s0 d) d (fun P =>
          { P with
            st := if run then .running else .quiesced
            wins := P.wins.map rerun
            holds := []
            place := 0
            nextUnit := restoreUnit P
            stream := { P.stream with kindAt := none, kindUpto := unitAt P }
            preempt := none
            clamp := none
            runnableOrder := 0
            restoredOrder := o + 1
            fwBank := bankNow s0
            train := if c.kind = 0 then { P.train with atts := P.train.atts.map (fun e => (e.1, { e.2 with run := Nat.min (e.2.run + 1) 0xFFFF })) }
              else P.train })
        let s2 := if P.fwBank = bankNow s0 then s1 else latch s1 49
        let s3 := bumpD (sqEvent s2 1 p d c.ppWord) Cnt.restore d 1
        let s4 := xldsAgain (if s3.boot.reload.isSome then sweepSealed s3 d else s3) d p
        let s5 := if run && P.inStep then
            (let sA := restoreHold (restorePool s4 d) d
             winsSettle (forEach P.wins sA (fun s w => xpAgain s d w.key)) p d)
          else s4
        let s6 := reloadSettle s5
        let s7 := if run && !P.inStep then partIdle s6 d else s6
        match s7.boot.reload with
        | some r => if r.worked then s7 else preemptBegin s7 d 2
        | none => s7
    | _, _, _ => s

def execRestoreEnd (d : Nat) (s : State) : Out3 := .next (if held s then s else restoreDone s d)

/-! ## The urgent timer (R261) -/

/-- 5,700 ns have passed since an urgent pre-emption was decided. -/
def execUrgentTimer (d : Nat) (s : State) : Out3 := .next (if held s then s else urgentArm s d)

end Sys2Proof.Machine
end

