-- ==== Sys2Proof/Machine/StreamCmds.lean ====
section
/-! DEFINITION. What the host's pass does to the block: stream records (R85 to R92, R234, R357), epilogue requests (R95, R100),
XP data and writes (R195, R359, R360), weight blocks (R75), Kindling (R112, R125) and the hold ceiling (R99, R117). -/

namespace Sys2Proof.Machine

/-! ## Records -/

/-- A record of a partition that is not RUNNING in a slot: counted, but after an effect point (R263, R357). -/
def recordLost (s : State) (d beats : Nat) (P : Part) : State := if P.st = .quiesced then ppSeq s d (1 + beats) else s

/-- What follows every record that is taken: the freeze point at or after its position, and what can go on (R10, R88). -/
def recordEnd (s : State) (p d : Nat) (k : PosKey) : State :=
  match partOf s d with
  | none => s
  | some P => settlePart (if pastFreeze P k then freezePoint s p d else s) p d

/-- A stream record of a partition whose pass takes it. -/
def recordTake (s : State) (w0 w1 : W64) (beats due : Nat) (late : Part → PosKey → Bool)
    (take : State → Nat → Nat → Man → PosKey → State) : State :=
  let d := recPart w1
  let k := recKey w0 w1
  match partOf s d with
  | none => s
  | some P =>
    match P.slot, P.st with
    | some p, .running =>
      let s1 := ppSeq s d (beats - due)
      (match P.man with
       | some m =>
         if !P.inStep || k.step ≠ P.step || late P k then recordDrop s1 d k
         else recordEnd (take (markOverdue s1 p d m k) p d m k) p d k
       | none => recordDrop s1 d k)
    | _, _ => recordLost s d (beats - due) P

/-- A PANEL record, later than the one before it (R87, R88). -/
def panelTake (n : Nat) (payload : List (BitVec 2048)) (s : State) (p d : Nat) (_ : Man) (k : PosKey) : State :=
  let s1 := takePanel s p d k n payload
  let s2 := updPart (reached s1 d k) d (fun P =>
    { P with
      blocked := false
      stream := { P.stream with lastPanel := some k, ppWord := ppOf k } })
  urgentArm (winsSettle s2 p d) d

def panelEarly (P : Part) (k : PosKey) : Bool := match P.stream.lastPanel with | some l => decide (k.ord ≤ l.ord) | none => false
def posEarly (P : Part) (k : PosKey) : Bool := match P.stream.last with | some l => decide (k.ord < l.ord) | none => false

/-- A KIND 1 record with its payload beats (Table PORT-3). -/
def execPanelRecord (w0 w1 : W64) (payload : List (BitVec 2048)) (s : State) : Out3 :=
  .next (if held s || recKind w1 ≠ 1 then s
    else recordTake s w0 w1 payload.length (recRows w1) panelEarly (panelTake (recRows w1) payload))

/-- A KIND 2 record. -/
def execPosRecord (w0 w1 : W64) (s : State) : Out3 :=
  .next (if held s || recKind w1 ≠ 2 then s else recordTake s w0 w1 0 0 posEarly (fun s _ d _ k => reached s d k))

/-! ## The row outcome record (R234) -/

/-- The bytes of payload beats. -/
def beatBytes (payload : List (BitVec 2048)) : List Byte := payload.flatMap (fun b => leBytes 256 b.toNat)

/-- NENT of a row outcome record, from its first beat. -/
def outcomeEntries (bs : List Byte) : Nat := fld (leNat ((bs.drop 8).take 8)) 63 49

/-- Beats that an OUTCOME record has: the first one says how many. -/
def outcomeBeats (payload : List (BitVec 2048)) : Nat := ceilDiv (16 + 16 * outcomeEntries (beatBytes (payload.take 1))) 256

/-- The record is whole: its beats, its CRC, its STEP and its PART. -/
def outcomeOk (bs : List Byte) (step d : Nat) : Bool :=
  let n := 16 + 16 * outcomeEntries bs
  let w0 := leNat (bs.take 8)
  let crc := leNat ((bs.drop 8).take 4)
  decide (n ≤ bs.length) && crc32 (spliceBytes (bs.take n) 8 (leBytes 4 0)) == crc && fld w0 63 24 == step && fld w0 23 19 == d

/-- The entries: context, OUT, ACCMASK. -/
def outcomeList (bs : List Byte) : List (Nat × Nat × Nat) :=
  (List.range (outcomeEntries bs)).map (fun i =>
    let e := bs.drop (16 + 16 * i)
    let w := leNat (e.take 8)
    (fld w 63 50, fld w 49 47, leNat ((e.drop 8).take 8)))

/-- The outcome of the step is here: a record that fails says nothing, a stray entry says nothing of its context. -/
def outcomeTake (payload : List (BitVec 2048)) (s : State) (_ d : Nat) (m : Man) (k : PosKey) : State :=
  let s1 := reached s d k
  let bs := beatBytes payload
  if outcomeOk bs k.step d then
    let good (e : Nat × Nat × Nat) : Bool := decide (e.2.1 ≤ 3) && (manCtxs m).contains e.1
    let l := outcomeList bs
    updPart (ppSeq s1 d (l.filter (fun e => !good e)).length) d (fun P => { P with outc := some { entries := l.filter good } })
  else updPart (ppSeq s1 d 1) d (fun P => { P with outc := some { entries := [] } })

/-- A KIND 3 record with its payload beats. -/
def execOutcomeRecord (w0 w1 : W64) (payload : List (BitVec 2048)) (s : State) : Out3 :=
  .next (if held s || recKind w1 ≠ 3 then s
    else recordTake s w0 w1 payload.length (outcomeBeats payload) (fun _ _ => false) (outcomeTake (payload.take (outcomeBeats payload))))

/-! ## Epilogue requests (R94, R95, R100) -/

/-- The window is asked for: its answer comes as soon as its Merge has ended. -/
def request (s : State) (p d : Nat) (k : PosKey) : State :=
  match partOf s d with
  | none => s
  | some P =>
    match winOf P k with
    | none => s
    | some w => if w.stage = .merged then answerWin (setWin s d { w with requested := true }) d k
        else settlePart (setWin s d { w with requested := true }) p d

/-- A window of the step in progress that an epilogue request names. -/
def requestWin (s : State) (p d : Nat) (P : Part) (t : Tgt) (k : PosKey) : State :=
  match winOf P k with
  | none =>
    if (match P.stream.far with | some f => decide (k.ord < (winKey f).ord) | none => false) then answer s p k
    else request (missingPanel (ppSeq s d 1) p d k) p d k
  | some w =>
    if w.answered then answer s p k
    else if w.requested then s
    else if w.dead = some 4 then request s p d k
    else if w.seen < panelsOf t then request (missingPanel (ppSeq s d 1) p d k) p d k
    else if w.stage = .merged then request s p d k
    else if P.stream.ceilTgt.contains (k.bwd, k.layer, k.tslot) && k.win ≠ 0 && !w.miss.isEmpty then request (bypassRest s d w) p d k
    else
      let s1 := winsSettle (setWin s d { w with requested := true }) p d
      (match (partOf s1 d).bind (fun P => winOf P k) with
       | some v => if v.stage = .merged then settlePart s1 p d else settlePart (holdStart s1 d .epilogue k 2) p d
       | none => settlePart s1 p d)

/-- XP_EREQ (Table PORT-4). -/
def epilogueRequest (s : State) (e : Nat) : State :=
  let p := fld e 25 23
  match slotPart s p with
  | none => s
  | some (d, P) =>
    if P.st != .running then s
    else
      let k : PosKey :=
        { step := P.step, bwd := fld e 22 22 == 1, layer := fld e 21 14, tslot := fld e 13 10, win := fld e 9 0, tick := 0 }
      match P.inStep, P.man, passTgt P k with
      | true, some m, some t => if manWins m ≤ k.win then answer s p k else requestWin s p d P t k
      | _, _, _ => answer s p k

def execEpilogueRequest (ereq : Nat) (s : State) : Out3 := .next (if held s then s else epilogueRequest s ereq)

/-! ## XP reads and writes (R32, R195, R359, R360) -/

/-- A chunk as it is kept: values of G and y after substitution, in FP32; accumulators and dx bit for bit. -/
def xpValue (g16 : Bool) (buf v : Nat) : Nat × Census :=
  if buf = 1 || buf = 2 then
    (let (x, c) := if g16 then bf16.readSub (v % 65536) else in32 v
     ((rnd32 x).1, c))
  else (v, {})

/-- The data of a chunk is put into its window; the substitutions of G and y count for the groups that train on them (R207). -/
def xpTake (s : State) (d : Nat) (c : WinCtx) (buf row chunk : Nat) (data : List Nat) : State :=
  let dim := if buf = 3 then c.tgt.din else c.tgt.dout
  let g16 := valD s 8 0x31 d 0 == 1
  let vs := (List.range (Nat.min 512 (dim - 512 * chunk))).map (fun j => xpValue g16 buf (data.getD j 0))
  let s1 := setWin s d { c.w with chunks := c.w.chunks.put (chunkKey buf row chunk) (vs.map Prod.fst) }
  let i := 256 * c.w.key.win + row
  let gs := if c.w.key.bwd then
      dedup (tgtGroups c.P.train c.w.key.step c.w.key.layer c.w.key.tslot none ++
        (if c.P.modes.trainTrait && (poolTerm c.P (rowBind c.m i) c.w.key.layer c.w.key.tslot).isSome then bagGroups s d c.P c.m i else []))
    else []
  gradCensus s1 d c.w.key.step gs (vs.foldl (fun (k : Census) v => k.add v.2) {})

/-- Data of the oldest read returns. -/
def xpRead (s : State) (data : List (BitVec 32)) : State :=
  match s.xp.out with
  | [] => s
  | r :: t =>
    let s1 := updXp s (fun x => { x with out := t })
    match (partOf s1 r.d).bind (fun P => if P.st = .running then (winOf P r.key).bind (winShape P) else none) with
    | none => xpPump s1
    | some c =>
      if c.w.dead.isSome || c.w.out.contains r.row then xpPump s1
      else xpPump (xpTake s1 r.d c r.buf r.row r.chunk (data.map (·.toNat)))

def execXpReadData (data : List (BitVec 32)) (s : State) : Out3 := .next (if held s then s else xpRead s data)

/-- A partition is in the middle of a row's Merge. -/
def midMerge (P : Part) : Bool :=
  match (P.wins.find? (fun w => w.stage == .scale && mergeTurn P w)).bind (winShape P) with
  | some c => midRow c
  | none => false

/-- The partitions that present a write: slot, partition, window, chunk, and whether a row is in the middle of its Merge. A row
in the middle of its Merge is never interrupted between its chunks (R96): the port waits for it. -/
def writers (s : State) : List (Nat × Nat × WinCtx × (Nat × Nat × Nat)) :=
  let mid := (runningParts s).filter (fun e => midMerge e.2)
  let l := (if mid.isEmpty then runningParts s else mid).filterMap (fun e => match e.2.slot, presented e.2 with
    | some p, some (c, x) => if stoppingNow e.2 && !midRow c then none else some (p, e.1, c, x)
    | _, _ => none)
  sortBy (fun (x : Nat × Nat × WinCtx × (Nat × Nat × Nat)) => (if midRow x.2.2.1 then 0 else 8) + x.1) l

/-- The host accepts the write that Merge presents. -/
def xpWrite (s : State) : State :=
  match writers s with
  | [] => s
  | (p, d, c, x) :: _ =>
    let (data, cs, host) := mergeChunk c (valD s 8 0x31 d 0 == 1) x
    let s1 := setWin s d { c.w with writes := c.w.writes.put (chunkKey x.1 (x.2.1 % 256) x.2.2) data }
    settlePart (xpPump (bumpD (bumpCensus s1 d cs) Cnt.mergeHostNonfinite d host)) p d

def execXpWriteAccept (s : State) : Out3 := .next (if held s then s else xpWrite s)

/-! ## Weight blocks, Kindling and write-back -/

/-- The end of a weight block: of an urgent pre-emption that is armed, it is the last (R261). -/
def execWeightBlockEnd (p win unit : Nat) (fault : Bool) (s : State) : Out3 :=
  .next (if held s then s
    else match blockEnd s p win unit fault with
      | none => s
      | some (d, s1) => settlePart (urgentBlock (winsSettle s1 p d) d) p d)

/-- The Gather Engine begins the next unit whose place in the share is free (R112, R114). -/
def execKindlingStart (p : Nat) (s : State) : Out3 :=
  .next (if held s then s
    else match slotPart s p with
      | some (d, _) => settlePart (kindleSettle (kindleNext (winsSettle s p d) p) d) p d
      | none => s)

/-- Dirty lines of a unit go to their homes (R125). -/
def execDirtyWriteBack (p place : Nat) (s : State) : Out3 :=
  .next (if held s then s
    else match slotPart s p with
      | some (d, P) => if P.st = .running then writeBack s d place else s
      | none => s)

/-! ## The hold ceiling (R99, R117) -/

/-- A hold of the partition has lasted as long as its ceiling: 2.5 ns a period. -/
def holdFull (h : Hold) : Bool := h.kind != .clamp && h.ceil ≠ 0 && decide (2 * h.ceil ≤ 5 * h.periods)

/-- The ceiling of a hold acts once. -/
def holdSpent (s : State) (d : Nat) (h : Hold) : State :=
  bumpD (updPart s d (fun P =>
    { P with
      holds := P.holds.map (fun x => if x = h then { x with ceil := 0 } else x)
      stream := { P.stream with ceilTgt := dedup (P.stream.ceilTgt ++ [(h.key.bwd, h.key.layer, h.key.tslot)]) } })) Cnt.holdCeil d 1

/-- Rows that need an item that is not resident run without the target; the others proceed (R117). -/
def kindleCeiling (s : State) (d : Nat) (h : Hold) : State :=
  match partOf s d with
  | none => s
  | some P =>
    let s1 := forEach (P.wins.filter (fun w => sameTgt w.key h.key)) s (fun s w =>
      let late := rowsNeeding P w (fun it => it.st == 0)
      let w1 := { w with miss := late.map (· % 256) }
      bypassMissing (setWin s d w1) d w1 late)
    holdEnd s1 d h

/-- HOLD_CEILING of a slot. -/
def ceilingHit (s : State) (p : Nat) : State :=
  match slotPart s p with
  | none => s
  | some (d, P) =>
    match P.holds.find? holdFull with
    | none => s
    | some h =>
      let s1 := holdSpent s d h
      let h1 := { h with ceil := 0 }
      let s2 := match h.kind, winOf P h.key with
        | .kindle, _ => kindleCeiling s1 d h1
        | .epilogue, some w => bypassRest s1 d w
        | _, _ => s1
      settlePart s2 p d

def execHoldCeiling (p : Nat) (s : State) : Out3 := .next (if held s then s else ceilingHit s p)

end Sys2Proof.Machine
end

