-- ==== Sys2Proof/Machine/CtxCmds.lean ====
section
/-! DEFINITION. The commands and events of contexts (spec/11_contexts.md): Request Ring entries (R226, R227), rebindings (R59),
host manifests (R233), Embers and wakes (R242, R243), adoption (R245) and Page Port lookups (R241). -/

namespace Sys2Proof.Machine

/-- What waits for no boundary takes effect: completions are written, and the partition may begin a step (R436). -/
def ctxIdle (s : State) (d : Nat) : State :=
  match partOf s d with
  | some P => if P.inStep then s else idleTry (completions s d P.step none) d
  | none => s

/-! ## The Request Ring (R226) -/

/-- The entry that Penra reads next: slot, partition, ring index and words. -/
def ringNext (s : State) (p : Nat) : Option (Nat × Part × Nat × List W64) :=
  match slotPart s p with
  | none => none
  | some (d, P) =>
    let n := (lastVal s 6 0x21 p).toNat
    if P.st != .running || !cfgCkeep s || n = 0 || P.rqTail = (lastVal s 6 0x22 p).toNat then none
    else some (d, P, P.rqTail, t1Words s ((lastVal s 6 0x20 p).toNat + 128 * P.rqTail) 16)

def reqOp (w : List W64) : Nat := attWord w 0 63 60
def reqCtx (w : List W64) : Nat := attWord w 0 59 46
def reqBind (w : List W64) : List W64 := (w.drop 6).take 5

/-- Check 1 of Table CTX-4. -/
def reqWhole (w : List W64) : Bool :=
  attWord w 15 63 32 == crc32 (wordBytes (w.take 15) ++ leBytes 4 (attWord w 15 31 0)) && decide (1 ≤ reqOp w) && decide (reqOp w ≤ 4) &&
    attWord w 0 39 0 == 0 && attWord w 3 30 0 == 0 && (w.drop 11).take 4 == [0, 0, 0, 0] && attWord w 15 31 0 == 0

/-- A context as it will stand after every request that has been read. -/
def ctxAhead (P : Part) (c : Nat) (x : Ctx) : Option Ctx :=
  (P.rqWait.filter (fun r => r.ctx == c)).foldl (fun (a : Option Ctx) r => a.bind (fun y => knownRequest y r)) (some x)

/-- Check 2: the context and the OP that its state admits. -/
def reqAdmits (s : State) (d : Nat) (P : Part) (w : List W64) : Bool :=
  let c := reqCtx w
  let r := ctxRange s d
  decide (r.1 ≤ c) && decide (c < r.1 + r.2) &&
    (match (ctxOf s c).bind (fun x => if x.part = d then ctxAhead P c x else none) with
     | some x =>
       (match reqOp w with
        | 2 => x.st == .paused || x.st == .ember
        | 3 => x.st == .ready
        | _ => true)
     | none => false)

/-- The lowest FREE context of the range. -/
def freeCtxNo (s : State) (d : Nat) : Option Nat :=
  let r := ctxRange s d
  ((List.range r.2).map (fun i => r.1 + i)).find? (fun c => (ctxOf s c).isNone)

/-- Table CTX-4: 0 or the code. -/
def reqCheck (s : State) (p d : Nat) (P : Part) (w : List W64) : Nat :=
  let op := reqOp w
  let tpl := attWord w 5 63 0
  if !reqWhole w then Code.imageBad
  else if op ≠ 1 && !reqAdmits s d P w then Code.ctxState
  else if op ≤ 2 && attWord w 3 63 40 = 0 then Code.limitRange
  else if op ≠ 1 then Code.ok
  else if 256 < attWord w 3 39 31 || 4 < attWord w 0 45 43 || (tpl ≠ 0 && !tplOk (tplBytes s tpl)) then Code.limitRange
  else if tpl ≠ 0 && !P.modes.spec then Code.specOff
  else if (freeCtxNo s d).isNone then Code.ctxExhausted
  else
    let c := bindChecks s p P (reqBind w) (boundaries P)
    if c ≠ 0 then c else if pinsAttached P (reqBind w) then Code.genPinned else Code.ok

/-- A refused entry: its completion names the entry by its ring index (R227). -/
def reqRefuse (s : State) (d code idx : Nat) (w : List W64) : State :=
  if reqOp w = 1 then refuseEntry s d code idx (w.getD 1 0) none 0
  else match (ctxOf s (reqCtx w)).bind (fun x => if x.part = d then some x else none) with
    | some x => refuseEntry s d code idx x.rtag (some (reqCtx w)) (reqCtx w)
    | none => refuseEntry s d code idx 0 none (reqCtx w)

/-- A new context (Table CTX-2), with its bag and template in its slot of the context store (R224). -/
def ctxNew (s : State) (d : Nat) (P : Part) (c : Nat) (w : List W64) : State :=
  let tpl := attWord w 5 63 0
  let nbag := attWord w 3 39 31
  let x : Ctx :=
    { st := .ready
      cls := attWord w 0 45 43
      policy := attWord w 0 42 42 == 1
      phase := false
      spec := tpl != 0
      part := d
      pos := 0
      pend := attWord w 3 63 40
      rtag := w.getD 1 0
      deadline := w.getD 2 0
      dlstep := if attWord w 2 63 0 = 0 then 2 ^ 40 - 1 else buildStep P
      nbag := nbag
      arrseq := P.arrseq
      tmark := 0
      bind := reqBind w
      npage := 0
      tnodes := if tpl = 0 then 0 else tplNodes (tplBytes s tpl) - 1
      map := [] }
  let bag := bytesAt s.mem (memKey 0 (attWord w 4 63 0)) (8 * nbag)
  let body := bytesAt s.mem (memKey 0 tpl) 64
  let s1 := setCtx (updPart s d (fun P => { P with arrseq := P.arrseq + 1 })) c x
  if (objOf s1 d (valD s1 6 0x28 d none20)).isNone then s1
  else
    let s2 := if nbag = 0 then s1 else writeT1 s1 d (ctxSlotAddr s1 d c) bag
    let s3 := if tpl = 0 then s2 else writeT1 s2 d (ctxSlotAddr s2 d c + 2048) body
    writeT1 s3 d (ctxSlotAddr s3 d c + 3072) (wordBytes (ctxWords x))

/-- A request read in a step waits for the boundary at which it takes effect, and goes into that boundary's replay record (R227). -/
def reqQueue (s : State) (d idx c : Nat) (w : List W64) : State :=
  let (o, s1) := takeOrder s
  updPart s1 d (fun P => { P with rqWait := P.rqWait ++ [{ order := o, idx := idx, op := reqOp w, ctx := c, words := w, wait := boundaries P }] })

/-- An accepted request of an existing context: at its boundary, or at once, with the transitions that are then due. -/
def reqWait (s : State) (d : Nat) (P : Part) (idx : Nat) (w : List W64) : State :=
  if P.inStep then reqQueue s d idx (reqCtx w) w
  else ctxIdle (ctxTimers (applyRequest s d (reqOp w) (reqCtx w) w) d (reqCtx w) (nowNs s)) d

/-- An accepted NEW: its context stands at once (Table CTX-2), and in a step its entry waits for the record. -/
def reqNew (s : State) (d : Nat) (P : Part) (idx c : Nat) (w : List W64) : State :=
  let s1 := ctxNew s d P c w
  if P.inStep then reqQueue s1 d idx c w else ctxIdle s1 d

/-- Penra reads the next entry of a ring, where its OP is the row's. -/
def ringRead (s : State) (p : Nat) (mine : Nat → Bool) : State :=
  match ringNext s p with
  | none => s
  | some (d, P, idx, w) =>
    if !mine (reqOp w) then s
    else
      let code := reqCheck s p d P w
      let s1 := updPart s d (fun P => { P with rqTail := (idx + 1) % Nat.max (lastVal s 6 0x21 p).toNat 1 })
      if code ≠ 0 then reqRefuse s1 d code idx w
      else match reqOp w, freeCtxNo s1 d with
        | 1, some c => reqNew s1 d P idx c w
        | 1, none => s1
        | _, _ => reqWait s1 d P idx w

/-- OP 1, and the reserved values of OP, which every entry of which is refused. -/
def execNewReq (p : Nat) (s : State) : Out3 := .next (if held s then s else ringRead s p (fun op => op = 1 || op = 0 || decide (5 ≤ op)))
def execAppend (p : Nat) (s : State) : Out3 := .next (if held s then s else ringRead s p (· = 2))
def execPause (p : Nat) (s : State) : Out3 := .next (if held s then s else ringRead s p (· = 3))
def execCancel (p : Nat) (s : State) : Out3 := .next (if held s then s else ringRead s p (· = 4))

/-! ## CTX_REBIND and MAN_SUBMIT -/

def rebindRow (s : State) (i : Inst) : State :=
  let s1 := rebindAct s i
  match ctxOwner s (i.arg 0 % 2 ^ 14) with
  | some (_, d, _) => ctxIdle s1 d
  | none => s1

def execCtxRebind (s : State) : Out3 := .next (cmdRow s 3 0x12 rebindRow)

/-- Table CTX-10 for the submission of a step: the next one, with no manifest of it accepted before. -/
def manSubmitAct (s : State) (i : Inst) : State :=
  withSlot s i (fun d P =>
    if P.st != .running || !P.modes.serveHost then refuse s i (some d) Code.partState
    else
      let p := i.slotArg
      let step := i.arg 1 % 2 ^ 40
      if step ≠ buildStep P || P.hostNext.isSome then refuse s i (some d) Code.manBad
      else match manRead s d (valP s 6 0x50 p d) (manHalf step) step with
        | none => refuse s i (some d) Code.manBad
        | some m0 =>
          let (code, m) := manCheck s p d P m0
          if code ≠ 0 then refuse s i (some d) code
          else
            let s1 := finish (updPart s d (fun P => { P with hostNext := some m })) i (some d) Code.ok 0 0
            if !P.inStep || P.frozen then idleTry (manPrep s1 p d m) d else s1)

def execManSubmit (s : State) : Out3 := .next (cmdRow s 6 0x51 manSubmitAct)

/-! ## Embers, wakes and adoption -/

/-- A PAUSED context has been paused for `6.0040` (R242). -/
def execEmberAfter (d c : Nat) (s : State) : Out3 :=
  .next (if held s then s
    else match ctxOf s c, partOf s d with
      | some x, some P =>
        if x.part ≠ d || x.st != .paused || P.st != .running || !P.modes.ember || !emberTime s d x (nowNs s) then s
        else
          let s1 := updCtx s c (fun x => { x with emberDue := true })
          if P.inStep then s1 else ctxIdle (ctxTimers s1 d c (nowNs s)) d
      | _, _ => s)

/-- An Ember's time has come; a boundary frees it, or this event where there is none (R242). -/
def execEmberExpiry (d c : Nat) (s : State) : Out3 :=
  .next (if held s then s
    else match ctxOf s c, partOf s d with
      | some x, some P =>
        if x.part ≠ d || P.st != .running || P.inStep then s else ctxIdle (ctxTimers s d c (nowNs s)) d
      | _, _ => s)

/-- A context, resident or in the Clamp of a partition, whose copies go on (Table PART-8). -/
def ctxAway (s : State) (c : Nat) : Option Ctx :=
  (ctxOf s c).orElse (fun _ => s.parts.findSome? (fun e => if e.2.st = .clamped then e.2.saved.find? c else none))

/-- Change a context of partition `d`, where it is resident or in the Clamp. -/
def updAway (s : State) (d c : Nat) (f : Ctx → Ctx) : State :=
  if (ctxOf s c).isSome then updCtx s c f else updPart s d (fun P => { P with saved := P.saved.upd c f })

/-- The page copy ends: the bytes of the page stand in the new frame. -/
def pageCopied (s : State) (d c page : Nat) (x : Ctx) : State :=
  match x.copies.find? (fun q => q.page == page && !q.copied) with
  | none => s
  | some q =>
    let w := pageWord s x page
    let src := memKey (fld w 62 61) (64 * fld w 45 0)
    let dst := memKey q.tier (framePlace s d q.tier q.frame).2
    let s1 := { s with mem := storeBytes s.mem dst (bytesAt s.mem src (pageBytes s d)) }
    let s2 := updAway s1 d c (fun x => { x with copies := x.copies.map (fun v => if v.page = page then { v with copied := true } else v) })
    match partOf s2 d with
    | some P => if P.st = .running && !P.inStep then ctxIdle (ctxTimers s2 d c (nowNs s)) d else s2
    | none => s2

/-- The end of a page copy; it goes on while the partition is away, and its switch waits (Table PART-8). -/
def execEmberPageCopyEnd (c page : Nat) (s : State) : Out3 :=
  .next (if held s then s
    else match ctxAway s c with
      | some x => pageCopied s x.part c page x
      | none => s)

/-- The slot address of a committed position in its page, as a key of memory. -/
def slotKey (s : State) (d pos : Nat) (x : Ctx) : Nat :=
  let n := Nat.max (pageTokens s d) 1
  let w := pageWord s x (pos / n)
  memKey (fld w 62 61) (64 * fld w 45 0 + pos % n * kvSlotBytes s d)

/-- The copy of an adopted slot into its page ends (R245). -/
def adopted (s : State) (d c pos : Nat) (x : Ctx) : State :=
  match x.adopts.find? (fun a => a.pos == pos && !a.copied) with
  | none => s
  | some a =>
    let src := memKey 0 (framePlace s d 2 a.pslot).2
    let s1 := { s with mem := storeBytes s.mem (slotKey s d pos x) (bytesAt s.mem src (kvSlotBytes s d)) }
    let s2 := updAway s1 d c (fun x => { x with adopts := x.adopts.map (fun v => if v.pos = pos then { v with copied := true } else v) })
    match partOf s2 d with
    | some P => if P.st = .running && !P.inStep then ctxIdle (ctxTimers (adoptsFree s2 d c) d c (nowNs s)) d else s2
    | none => s2

def execAdoptionCopyEnd (c pos : Nat) (s : State) : Out3 :=
  .next (if held s then s
    else match ctxAway s c with
      | some x => adopted s x.part c pos x
      | none => s)

/-! ## Page Port lookups (R241) -/

/-- The context of a lookup with its partition: resident in the slot, not FREE. -/
def lookupCtx (s : State) (w : W64) : Option (Nat × Nat × Ctx) :=
  match slotPart s (wfld w 60 58) with
  | none => none
  | some (d, _) => (ctxOf s (wfld w 57 44)).bind (fun x => if x.part = d then some (d, wfld w 57 44, x) else none)

/-- The answer for a slot at an address. -/
def lookupWord (tier port addr : Nat) : Nat := 2 ^ 63 + tier * 2 ^ 61 + port * 2 ^ 57 + addr / 64 % 2 ^ 46

/-- A provisional slot. -/
def provWord (s : State) (d f : Nat) : Nat := let q := framePlace s d 2 f; lookupWord 2 q.1 q.2

/-- SLOT: an adopted position in its provisional slot, any other in its page. -/
def lookupSlot (s : State) (w : W64) : Nat :=
  match lookupCtx s w with
  | none => 0
  | some (d, _, x) =>
    let pos := wfld w 43 0
    match x.adopts.find? (fun a => a.pos == pos) with
    | some a => provWord s d a.pslot
    | none =>
      let n := Nat.max (pageTokens s d) 1
      let e := pageWord s x (pos / n)
      if bitOf e 63 then lookupWord (fld e 62 61) (fld e 60 57) (64 * fld e 45 0 + pos % n * kvSlotBytes s d) else 0

/-- NODE: the provisional slot of a node of the open tree. -/
def lookupNode (s : State) (w : W64) : Nat :=
  match lookupCtx s w with
  | none => 0
  | some (d, _, x) => match x.tree.find? (wfld w 43 0) with | some f => provWord s d f | none => 0

/-- PAGE: the directory entry, with OVL where a slot of the page is adopted. -/
def lookupPage (s : State) (w : W64) : Nat :=
  match lookupCtx s w with
  | none => 0
  | some (d, _, x) =>
    let i := wfld w 43 0
    let e := pageWord s x i
    if !bitOf e 63 then 0
    else if x.adopts.any (fun a => a.pos / Nat.max (pageTokens s d) 1 == i) then e ||| 2 ^ 56 else e

/-- MASK: the Verify Mask of a node of the open tree. -/
def lookupMask (s : State) (w : W64) : Nat :=
  match lookupCtx s w with
  | none => 0
  | some (d, c, x) => if (x.tree.find? (wfld w 43 0)).isSome then verifyMask (ctxTpl s d c) (wfld w 43 0) else 0

/-- A lookup of one KIND: its answer, counted where it is invalid. -/
def lookup (s : State) (kind : Nat) (w : W64) (f : State → W64 → Nat) : State :=
  if held s || !ready s || wfld w 63 61 ≠ kind then s
  else
    let a := f s w
    let s1 := { s with out := { s.out with pgp := w64 a } }
    if a = 0 then (match slotPart s (wfld w 60 58) with | some (d, _) => bumpD s1 Cnt.pgpInvalid d 1 | none => s1) else s1

def execSlotLookup (w : W64) (s : State) : Out3 := .next (lookup s 0 w lookupSlot)
def execNodeLookup (w : W64) (s : State) : Out3 := .next (lookup s 1 w lookupNode)
def execPageLookup (w : W64) (s : State) : Out3 := .next (lookup s 2 w lookupPage)
def execMaskLookup (w : W64) (s : State) : Out3 := .next (lookup s 3 w lookupMask)

end Sys2Proof.Machine
end

