-- ==== Sys2Proof/Machine/DictCmds.lean ====
section
/-! DEFINITION. The object dictionary as its paths use it (spec/15_dictionary.md): operations and their registers (R315 to
R325), WO1 programming (R346, R393), bundles (R329 to R334), CNT_CLEAR, and the doorbell page (R310). -/

namespace Sys2Proof.Machine

/-! ## The registers of a path (Tables OD-6 to OD-8) -/

def regsOf (s : State) (path : Path) : PathRegs :=
  match path with
  | .cp => s.od.cp
  | .i3c => s.od.i3c
  | .fw => s.od.fw

def setRegs (s : State) (path : Path) (r : PathRegs) : State :=
  { s with od := (match path with
    | .cp => { s.od with cp := r }
    | .i3c => { s.od with i3c := r }
    | .fw => { s.od with fw := r }) }

/-- ODSTS (Table OD-8). -/
def odstsWord (r : PathRegs) : W64 :=
  w64 ((if r.busy.isSome then 2 ^ 63 else 0) + (if r.ovr then 2 ^ 62 else 0) + (if r.pend then 2 ^ 61 else 0) +
    r.cseq % 16 * 2 ^ 57 + r.rlen % 32 * 2 ^ 48 + r.code % 2 ^ 16 * 2 ^ 32 + r.tag % 2 ^ 16)

/-- Fields of ODCMD (Table OD-7). -/
def cmdOp (w : W64) : Nat := wfld w 63 60
def cmdBid (w : W64) : Nat := wfld w 59 58
def cmdLen (w : W64) : Nat := wfld w 57 53
def cmdTag (w : W64) : Nat := wfld w 15 0

/-- Fields of ODSEL (Table OD-6). -/
def selArea (r : PathRegs) : Nat := wfld r.sel 63 60
def selItem (r : PathRegs) : Nat := wfld r.sel 59 44
def selIndex (r : PathRegs) : Nat := wfld r.sel 43 20

/-- Words 0 to LEN of ODDAT. -/
def datWords (r : PathRegs) (len : Nat) : List W64 := (List.range (len + 1)).map (fun i => r.dat.getD i 0)

/-- What an operation answers with. -/
structure OpRes where
  code : Nat
  pend : Bool := false
  cseq : Nat := 0
  rlen : Nat := 0
  dat : Option (List W64) := none
  /-- it programs OTP and goes on -/
  prog : Bool := false
  deriving DecidableEq, Repr

/-- The words of a value go to ODDAT. -/
def putDat (t : Tab W64) (ws : List W64) : Tab W64 :=
  (List.zip (List.range ws.length) ws).foldl (fun t e => t.set 0 e.1 e.2) t

/-- The operation ends: ODSTS carries its result; its path is told (R328, Table PORT-13). -/
def opEnd (s : State) (path : Path) (w : W64) (x : OpRes) : State :=
  let r := regsOf s path
  let s1 := setRegs s path { r with
    busy := none
    prog := false
    pend := x.pend
    cseq := x.cseq
    rlen := x.rlen
    code := x.code
    tag := cmdTag w
    dat := match x.dat with | some l => putDat r.dat l | none => r.dat }
  match path with
  | .cp => { s1 with core := { s1.core with cpEnded := true } }
  | .i3c => raiseIbi s1 0xA1
  | .fw => s1

/-! ## READ (R315, R316, R321, R338) -/

/-- What an element without its owner, or outside the enabled configuration, reads as: its object's default. -/
def absentRead (s : State) (o : Obj) (index : Nat) : List W64 :=
  let v := match o.right with
    | .ro => if o.area = 9 && o.item = 0x13 then w64 index else if o.area = 12 && o.item = 0x31 then dfltOf s 12 0x30 index else w64 o.dflt
    | _ => dfltOf s o.area o.item index
  v :: List.replicate (o.ty.words - 1) 0

def opRead (s : State) (path : Path) (o : Obj) (index : Nat) : OpRes :=
  let c := mayAccess path o .read
  if c ≠ 0 then { code := c }
  else
    let ws := if outside s o.ix index || !ownerThere s (ownerOf o.ix index) then absentRead s o index else readObj s o index
    { code := Code.ok, pend := pendFlag s o index, rlen := ws.length - 1, dat := some ws }

/-! ## WRITE -/

/-- The bits of a scalar or record that are not reserved (R5). -/
def liveBits (o : Obj) (w : W64) : W64 :=
  match o.area, o.item with
  | 10, 0x30 => w &&& 0xFFFFFFFFFFFFFF3F
  | 10, 0x31 => w &&& 0xFFFFFFFF0000FF03
  | 11, 0x20 => w &&& 0xFFFFFE0000000000
  | 11, 0x21 => w &&& 0x3FFFFFFFF
  | 11, 0x23 => w &&& 0xFFFFFFFFFFF00003
  | _, _ => w

/-- The share of a slot against the bindings in force (R110): 0 or the code. -/
def shareFits (s : State) (p n : Nat) : Nat :=
  match slotPart s p with
  | none => Code.ok
  | some (d, P) => ((bindingsOf s d P).map (fun b => rowFits P b (n * 65536) (n / 2 * 65536))).find? (· != 0) |>.getD Code.ok

/-- What follows the acceptance of a value: rings whose place or size is set start empty, pointers that move let a backlog
drain, and the trace buffer and the replay ring begin anew. -/
def written (s : State) (o : Obj) (index : Nat) : State :=
  match o.area, o.item with
  | 1, 0x41 => evDrain (setVal { s with core := { s.core with evHead := 0, evTimer := false } } 1 0x43 0 0)
  | 1, 0x43 => evDrain { s with core := { s.core with evTimer := false } }
  | 5, 0x31 =>
    (match slotPart s index with
     | some (d, _) => setVal (updTrain s d (fun T => { T with expHead := 0 })) 5 0x33 index 0
     | none => s)
  | 5, 0x33 => (match slotPart s index with | some (d, _) => expResync s d | none => s)
  | 6, 0x21 =>
    (match slotPart s index with
     | some (d, _) => setVal (updPart s d (fun P => { P with rqTail := 0 })) 6 0x22 index 0
     | none => s)
  | 6, 0x25 =>
    (match slotPart s index with
     | some (d, _) => cqDrain (setVal (updPart s d (fun P => { P with cqHead := 0 })) 6 0x27 index 0) d
     | none => s)
  | 6, 0x27 => (match slotPart s index with | some (d, _) => ctxIdle (cqDrain s d) d | none => s)
  | 7, 0x50 => (match slotPart s index with | some (d, _) => mapShare s d | none => s)
  | 10, 0x31 => { s with dbg := { s.dbg with fresh := true } }
  | 10, 0x41 => { s with dbg := { s.dbg with rrHead := s.dbg.rrHead.set 0 index 0 } }
  | _, _ => s

/-- The object has been written in the staging generation (R346). -/
def wo1Bit (item index : Nat) : Nat :=
  match item with
  | 0x20 => 0
  | 0x21 => 1
  | 0x22 => 2
  | 0x24 => 3
  | _ => 4 + index

/-- Where the field lies in a generation, and its bytes (Table BOOT-6). -/
def wo1Place (item index : Nat) : Nat × Nat :=
  match item with
  | 0x20 => (0, 8)
  | 0x21 => (8, 8)
  | 0x22 => (0x10, 8)
  | 0x24 => (0x18, 1)
  | _ => (0x20 + 16 * index, 16)

/-- A WO1 write past its other checks: it programs, or the code. -/
def wo1Check (s : State) (item index : Nat) : OpRes :=
  let g := genNext s
  if g = 0xFF then { code := Code.otpExhausted }
  else if bitOf (genField s g 0x2A0 8) (wo1Bit item index) then { code := Code.otpSealed }
  else { code := Code.ok, prog := true }

/-- A WRITE to an object that is no command. -/
def opWrite (s : State) (path : Path) (o : Obj) (index len : Nat) (w : W64) : OpRes × State :=
  let c := mayAccess path o .write
  if c ≠ 0 then ({ code := c }, s)
  else
    let v := liveBits o w
    let c1 := admitWrite s o index len v
    if c1 ≠ 0 then ({ code := c1 }, s)
    else if o.right = .wo1 then (wo1Check s o.item index, s)
    else
      let c2 := if o.area = 7 && o.item = 0x50 then shareFits s index v.toNat else Code.ok
      if c2 ≠ 0 then ({ code := c2 }, s)
      else
        let s1 := written (acceptVal s o index v) o index
        ({ code := Code.ok, pend := pendFlag s1 o index }, s1)

/-! ## Operations (R318, R325) -/

/-- The object and element that ODSEL names, where it exists. -/
def selObj (r : PathRegs) : Option (Obj × Nat) :=
  match objAt (selArea r) (selItem r) with
  | some o => if selIndex r < o.ix.count then some (o, selIndex r) else none
  | none => none

/-- Firmware serves the operation (R339). -/
def fwServesOp (s : State) (r : PathRegs) (w : W64) : Bool :=
  match selObj r with
  | some (o, i) =>
    if o.right = .cmd then cmdOp w == 2
    else (o.area == 4 && o.item == 0x42) || (o.area == 5 && (o.item == 0x40 || o.item == 0x41 || o.item == 0x42)) ||
      (o.area == 7 && o.item == 0x52) || (o.area == 12 && o.item == 0x13) ||
      (o.area == 7 && o.item == 0x40 && (lastVal s 6 0x32 i).toNat == 1)
  | none => false

/-- One operation with its registers: the answer and the state after it. -/
def opDo (s : State) (path : Path) (w : W64) : OpRes × State :=
  let r := regsOf s path
  let op := cmdOp w
  if op = 0 || 3 < op then ({ code := Code.opBad }, s)
  else if s.core.st = .boot && selArea r ≠ 0 && selArea r ≠ 1 && selArea r ≠ 11 then ({ code := Code.fwNotReady }, s)
  else match selObj r with
    | none => ({ code := Code.noObject }, s)
    | some (o, i) =>
      if op = 1 then (opRead s path o i, s)
      else if op = 3 then
        let x := bundleWrite s path (cmdBid w) o i (cmdLen w) (liveBits o (r.dat.getD 0 0))
        ({ code := x.1 }, x.2)
      else if o.right = .cmd then
        let x := issueCmd s path o (datWords r (cmdLen w)) (cmdTag w)
        ({ code := x.1, cseq := x.2.1 }, x.2.2)
      else opWrite s path o i (cmdLen w) (r.dat.getD 0 0)

/-- A path programs OTP. -/
def programming (s : State) : Bool := s.od.cp.prog || s.od.i3c.prog || s.od.fw.prog

/-- The operation waits: before stage 2 has ended (R382), while another operation programs OTP (R318), and where firmware
serves it while it restarts (R325). -/
def opWaits (s : State) (path : Path) (w : W64) : Bool :=
  (decide (s.boot.stage ≤ 2) && !s.boot.stopped) || (programming s && !(regsOf s path).prog) ||
    (s.core.st == .restarting && fwServesOp s (regsOf s path) w)

/-- The operation of a path waits, behind those that have arrived before it (R318). -/
def waitOn (s : State) (path : Path) : State :=
  if s.od.waitq.contains path then s else { s with od := { s.od with waitq := s.od.waitq ++ [path] } }

/-- The operation is carried out, or begins to program, or waits. -/
def opRun (s : State) (path : Path) (w : W64) : State :=
  let r := regsOf s path
  if r.prog then s
  else if opWaits s path w then waitOn (setRegs s path { r with busy := some w }) path
  else
    let x := opDo s path w
    if x.1.prog then setRegs x.2 path { regsOf x.2 path with
      busy := some w
      prog := true }
    else opEnd x.2 path w x.1

/-- A write of ODCMD (R325). -/
def opStart (s : State) (path : Path) (w : W64) : State :=
  let r := regsOf s path
  if r.busy.isSome then setRegs s path { r with ovr := true }
  else opRun (if fwServesOp s r w then latch s 42 else s) path w

/-- Operations that waited go on, in the order of their arrival (R318). -/
def resumeOps (s : State) : State :=
  forEach s.od.waitq { s with od := { s.od with waitq := [] } } (fun s path =>
    match (regsOf s path).busy with
    | some w => opRun s path w
    | none => s)

/-- ODCMD of a path is written with OP `op`; on the sideband, by the write that a frame carries (R326). -/
def opRow (op : Nat) (path : Path) (w : W64) (s : State) : State :=
  if held s || cmdOp w ≠ op then s else opStart s path w

def execRead (path : Path) (w : W64) (s : State) : Out3 := .next (opRow 1 path w s)
def execWrite (path : Path) (w : W64) (s : State) : Out3 := .next (opRow 2 path w s)
def execWriteB (path : Path) (w : W64) (s : State) : Out3 := .next (opRow 3 path w s)

/-- A read of ODSTS clears OVR (Table OD-8) and ends the condition of interrupt line 12. -/
def odstsRead (s : State) (path : Path) : State :=
  let r := regsOf s path
  let s1 := setRegs s path { r with ovr := false }
  match path with
  | .cp => { s1 with core := { s1.core with cpEnded := false }, out := { s1.out with cpData := odstsWord r, cpErr := false } }
  | .fw => { s1 with out := { s1.out with popped := odstsWord r } }
  | .i3c => s

def execOdstsRead (path : Path) (s : State) : Out3 := .next (if held s then s else odstsRead s path)

/-! ## Other register writes (R324, R325, R369) -/

/-- A region of the core's address space (Table CORE-1). -/
def coreRegion (a : Nat) : Bool :=
  a < 0x10000 || (0x01000000 ≤ a && a < 0x01400000) || (0x02000000 ≤ a && a < 0x02100000) || (0x03000000 ≤ a && a < 0x03080000) ||
    (0x03800000 ≤ a && a < 0x03808000) || (0x03900000 ≤ a && a < 0x03908000) || (0x04000000 ≤ a && a < 0x08000000) ||
    (0x08000000 ≤ a && a < 0x08100000) || (0x09000000 ≤ a && a < 0x09010000) || (0x1000000000 ≤ a && a < 0x2000000000)

/-- A write of a dictionary register of a path at its offset. -/
def odRegWrite (s : State) (path : Path) (offset : Nat) (w : W64) : State :=
  let r := regsOf s path
  if offset = 0 then (if r.busy.isSome then s else setRegs s path { r with sel := w &&& 0xFFFFFFFFFFF00000 })
  else if offset = 8 then (if cmdOp w = 0 || 3 < cmdOp w then opStart s path w else s)
  else if 0x100 ≤ offset && offset < 0x200 && offset % 8 = 0 then
    (if r.busy.isSome then s else setRegs s path { r with dat := r.dat.set 0 ((offset - 0x100) / 8) w })
  else s

/-- An offset below 0x1000 that holds a dictionary register. -/
def odOffset (offset : Nat) : Bool :=
  offset == 0 || offset == 8 || offset == 0x10 || (decide (0x100 ≤ offset) && decide (offset < 0x200) && offset % 8 == 0)

/-- An offset of the doorbell page that holds a register (Table CORE-5): its writes have rows of their own. -/
def dbOffset (offset : Nat) : Bool :=
  offset == 0x1200 || (decide (0x1000 ≤ offset) && decide (offset < 0x1200) && offset % 8 == 0 && decide (offset % 0x40 ≤ 0x10))

/-- A Control Port write (R369). -/
def cpWrite (s : State) (offset : Nat) (w : W64) (be : Nat) : State :=
  if be ≠ 0xFF || !(odOffset offset || dbOffset offset) then { s with out := { s.out with cpErr := true } }
  else if dbOffset offset then s
  else odRegWrite { s with out := { s.out with cpErr := false } } .cp offset w

/-- A core write at a physical address (R300): the dictionary service registers, APCTL, or an access fault. -/
def fwWrite (s : State) (a : Nat) (w : W64) : State :=
  if !coreRegion a then { s with core := { s.core with apFault := true } }
  else if a = 0x09000000 then { s with core := { s.core with apctl := w } }
  else if 0x08000000 ≤ a && a < 0x08001000 then odRegWrite s .fw (a - 0x08000000) w
  else s

/-- A register write: at an offset of the Control Port window, or at an address of the core. -/
def regWrite (s : State) (path : Path) (offset : Nat) (w : W64) (be : Nat) : State :=
  match path with
  | .cp => cpWrite s offset w be
  | .fw => fwWrite s offset w
  | .i3c => s

def execRegisterWrite (path : Path) (offset : Nat) (w : W64) (be : Nat) (s : State) : Out3 :=
  .next (if held s then s else regWrite s path offset w be)

/-! ## Doorbells (R310) -/

/-- A doorbell is written: `n` is the entry count of its ring, 0 where its slot is not resident. -/
def doorbell (s : State) (be n : Nat) (w : W64) (go : State → Nat → State) : State :=
  if held s then s
  else if be ≠ 0xFF then { s with out := { s.out with cpErr := true } }
  else
    let s0 := { s with out := { s.out with cpErr := false } }
    let v := wfld w 31 0
    if v < n then go s0 v else bump s0 Cnt.dbBad 1

/-- The size of a ring of slot `p`. -/
def slotRing (s : State) (area item p : Nat) : Nat := if (slotPart s p).isSome then (lastVal s area item p).toNat else 0

/-- A pointer of slot `p` moves. -/
def slotPointer (s : State) (area item p v : Nat) : State :=
  let s1 := setVal s area item p (w64 v)
  match objRow area item with
  | some o => written s1 o p
  | none => s1

def execRqDb (p : Nat) (w : W64) (be : Nat) (s : State) : Out3 :=
  .next (if 8 ≤ p then s else doorbell s be (slotRing s 6 0x21 p) w (fun s v => latch (slotPointer s 6 0x22 p v) 41))

def execCqDb (p : Nat) (w : W64) (be : Nat) (s : State) : Out3 :=
  .next (if 8 ≤ p then s else doorbell s be (slotRing s 6 0x25 p) w (fun s v => slotPointer s 6 0x27 p v))

def execExpDb (p : Nat) (w : W64) (be : Nat) (s : State) : Out3 :=
  .next (if 8 ≤ p then s else doorbell s be (slotRing s 5 0x31 p) w (fun s v => slotPointer s 5 0x33 p v))

def execEvDb (w : W64) (be : Nat) (s : State) : Out3 :=
  .next (doorbell s be (evEntries s) w (fun s v => slotPointer s 1 0x43 0 v))

/-! ## Bundles (R330, R332, R334) -/

def bdlOpenAct (s : State) (i : Inst) : State :=
  let scope := i.arg 0 % 256
  let open0 := s.od.bundles.any (fun e => e.2.st == .isOpen && e.2.path == i.path && e.2.scope == scope)
  if 8 ≤ scope && scope ≠ 0xFF then refuse s i none Code.limitRange
  else match (List.range 4).find? (fun b => (bundleOf s b).st == .free) with
    | none => refuse s i none Code.bundleFull
    | some b =>
      if open0 then refuse s i none Code.cmdBusy
      else finish (setBundle s b { st := .isOpen, path := i.path, scope := scope }) i none Code.ok (w64 b) 0

def execBdlOpen (s : State) : Out3 := .next (cmdRow s 1 0x10 bdlOpenAct)

/-- The boundaries a committed bundle waits for; 0 means none (R332, R436). -/
def bundleWaits (s : State) (scope : Nat) : Nat :=
  if scope = 0xFF then (if (stepWaits s).isEmpty then 0 else 1)
  else match slotPart s scope with
    | some (_, P) => boundaries P
    | none => 0

def bdlCommitAct (s : State) (i : Inst) : State :=
  let b := i.arg 0 % 4
  match ownBundle s i.path b with
  | none => refuse s i none Code.bundleNone
  | some x =>
    let n := bundleWaits s x.scope
    let s1 := setBundle s b { x with
      st := .committed
      order := s.od.commits
      wait := n
      frozen := if x.scope = 0xFF then frozenParts s else [] }
    let d := if x.scope < 8 then ((slotPart s x.scope).map (·.1)).getD 32 else 32
    let s2 := setInst { s1 with od := { s1.od with commits := s1.od.commits + 1 } } { i with st := .pending, part := d, aux := b }
    if n = 0 then bundleApply s2 b else s2

def execBdlCommit (s : State) : Out3 := .next (cmdRow s 1 0x11 bdlCommitAct)

def bdlAbortAct (s : State) (i : Inst) : State :=
  let b := i.arg 0 % 4
  let x := bundleOf s b
  if x.st = .free || x.path ≠ i.path then refuse s i none Code.bundleNone
  else finish (bundleDiscard s b) i none Code.ok 0 0

def execBdlAbort (s : State) : Out3 := .next (cmdRow s 1 0x12 bdlAbortAct)

/-- `1.0013` milliseconds have passed since the BDL_OPEN of a bundle that is still open. -/
def execBundleExpired (b : Nat) (s : State) : Out3 :=
  .next (if held s || (bundleOf s b).st != .isOpen then s else post (bundleDiscard s b) Ev.bundleExpired none 0 b 0)

/-! ## CNT_CLEAR (R350, R351) -/

/-- A counter falls in a scope: 0 device, 1 partition `n`, 2 slice set `n`, 3 everything. -/
def cntScope (scope n k : Nat) : Bool :=
  match counterIx (k / 2 ^ 24) with
  | some .one => scope == 0 || scope == 3
  | some .s => (scope == 2 && k % 2 ^ 24 == n) || scope == 3
  | some ix => (scope == 1 && ownerOf ix (k % 2 ^ 24) == .defined n) || scope == 3
  | none => false

def cntClearAct (s : State) (i : Inst) : State :=
  let scope := i.arg 0 % 4
  let n := fld (i.arg 0) 12 8
  if scope = 2 && 7 ≤ n then refuse s i none Code.limitRange
  else finish { s with cnt := s.cnt.keepKeys (fun k => !cntScope scope n k) } i (if scope = 1 && (partOf s n).isSome then some n else none) Code.ok 0 0

def execCntClear (s : State) : Out3 := .next (cmdRow s 9 0x15 cntClearAct)

/-! ## The end of a WO1 write (R346, R393) -/

/-- Program bytes of the generation `g`: bits go from 0 to 1 only. -/
def otpProgram (s : State) (off : Nat) (bs : List Byte) : State :=
  let old := (List.range bs.length).map (fun i => s.otp.bytes.getD (off + i) 0)
  { s with otp := { s.otp with bytes := otpPut s.otp.bytes off (List.zipWith (· ||| ·) old bs) } }

/-- The bytes of a field whose programming did not verify: each is a free value between what it held and what it was to
hold. -/
def otpTorn (s : State) (bs : List Byte) : List Byte × State :=
  let (_, s1) := draw s
  ((List.zip (List.range bs.length) bs).map (fun e => e.2 &&& Config.freeByte s.free e.1), s1)

/-- The field and its written-map bit are programmed. -/
def wo1Program (s : State) (item index : Nat) (ws : List W64) (ok : Bool) : State :=
  let g := genNext s
  if g = 0xFF then s
  else
    let pl := wo1Place item index
    let bs := (wordBytes ws).take pl.2
    let (out, s1) := if ok then (bs, s) else otpTorn s bs
    let map0 := genField s1 g 0x2A0 8
    otpProgram (otpProgram s1 (genBase g + pl.1) out) (genBase g + 0x2A0) (leBytes 8 (map0 ||| 2 ^ wo1Bit item index))

/-- What a path's WO1 write has to program. -/
def wo1Words (r : PathRegs) (w : W64) : List W64 :=
  match selObj r with
  | some (o, _) => (match datWords r (cmdLen w) with | [] => [] | a :: t => liveBits o a :: t)
  | none => []

def wo1End (s : State) (path : Path) (ok : Bool) : State :=
  let r := regsOf s path
  match r.prog, r.busy with
  | true, some w =>
    let s1 := wo1Program s (selItem r) (selIndex r) (wo1Words r w) ok
    resumeOps (opEnd s1 path w { code := if ok then Code.ok else Code.otpProgFail })
  | _, _ => s

def execOtpWo1Write (path : Path) (ok : Bool) (s : State) : Out3 := .next (if held s then s else wo1End s path ok)

end Sys2Proof.Machine
end

