-- ==== Sys2Proof/Machine/CoreCmds.lean ====
section
/-! DEFINITION. The commands and events of the control core (spec/14_control_core.md): firmware load and changeover (R303 to
R306), the watchdog (R307), latched interrupt sources (R299), the host-memory aperture (R301), the event timer (R311). -/

namespace Sys2Proof.Machine

/-! ## Firmware images (R304) -/

/-- A load is under way. -/
def fwLoading (s : State) : Bool := s.od.insts.any (fun i => i.area == 1 && i.item == 0x20 && i.st == .checking)

/-- The load begins: the copy overwrites the bank. -/
def fwLoadAct (s : State) (i : Inst) : State :=
  if s.core.change.isSome then refuse s i none Code.fwBusy
  else
    let s1 := setBankVer s (loadBank s) none
    let st' (st : FwSt) : FwSt := if st = .standbyReady then .running else st
    setInst (updCore s1 (fun c => { c with st := st' c.st, back := st' c.back })) { i with st := .checking }

/-- FW_LOAD acts once stage 9 has begun and no other load runs (R381). -/
def execFwLoad (s : State) : Out3 :=
  .next (if s.boot.stage < 9 || s.boot.stopped || fwLoading s then s else cmdRow s 1 0x20 fwLoadAct)

/-- A verified image with AUTO = 1 goes on as a FW_SWITCH; a core without a usable bank takes it at once. -/
def fwAuto (s : State) (bank : Nat) : State :=
  if s.core.st = .restarting && (bankVer s s.core.bank).isNone then changeAll s bank else changeBegin s bank none

/-- The copy and the checks have ended; source 49. -/
def fwLoadEndAct (s : State) (i : Inst) : State :=
  let (code, ver) := fwCheck s (i.arg 0 % 2 ^ 52)
  if code ≠ 0 then latch (refuse s i none code) 49
  else
    let b := loadBank s
    let s1 := finish (setBankVer s b (some ver)) i none Code.ok 0 0
    let st' (st : FwSt) : FwSt := if st = .running then .standbyReady else st
    let s2 := latch (updCore s1 (fun c => { c with st := st' c.st, back := st' c.back })) 49
    if s.core.st ≠ .boot && bitOf (i.arg 1) 0 then fwAuto s2 b else s2

def execFwLoadEnd (r : CmdRef) (s : State) : Out3 := .next (endRow s 1 0x20 r .checking fwLoadEndAct)

/-! ## FW_SWITCH and FW_REVERT (R305, R306) -/

/-- A changeover toward `bank` for the instance. -/
def changeFor (s : State) (i : Inst) (bank : Nat) : State :=
  changeBegin (setInst s { i with st := .pending, part := 32 }) bank (some (i.item, i.path, i.cseq))

def fwSwitchAct (s : State) (i : Inst) : State :=
  if s.core.change.isSome || s.core.st = .boot || (bankVer s (1 - s.core.bank)).isNone then refuse s i none Code.fwBusy
  else changeFor s i (1 - s.core.bank)

def execFwSwitch (s : State) : Out3 := .next (cmdRow s 1 0x21 fwSwitchAct)

def fwRevertAct (s : State) (i : Inst) : State :=
  match s.core.change with
  | some c => changeFor s i (1 - c.bank)
  | none =>
    if s.core.st = .boot || (bankVer s (1 - s.core.bank)).isNone then refuse s i none Code.fwBusy
    else changeFor s i (1 - s.core.bank)

def execFwRevert (s : State) : Out3 := .next (cmdRow s 1 0x22 fwRevertAct)

/-! ## The watchdog (R307) -/

/-- Firmware runs and can be late. -/
def fwAlive (s : State) : Bool := !held s && s.core.st != .boot

/-- The watchdog expires; `second` where it follows another within 1 s. -/
def wdogExpire (s : State) (second : Bool) : State :=
  let s1 := post (bump s Cnt.fwWdog 1) Ev.fwWdog none 0 (if second then 2 else 1) ((bankVer s s.core.bank).getD 0)
  let s2 := updCore s1 (fun c => { c with
    back := if c.st = .restarting then c.back else c.st
    st := .restarting
    expired := true
    wdogHalf := false })
  if second && (bankVer s (1 - s.core.bank)).isSome then changeAll s2 (1 - s.core.bank) else s2

def execWatchdogExpiry (within1s : Bool) (s : State) : Out3 := .next (if fwAlive s then wdogExpire s within1s else s)

/-- Half of FW_WDOG_US since the last watchdog write: source 48. -/
def execWatchdogHalf (s : State) : Out3 :=
  .next (if fwAlive s && !s.core.wdogHalf then latch (updCore s (fun c => { c with wdogHalf := true })) 48 else s)

/-- The period begins again; the value written has no meaning. -/
def execWatchdogWrite (w : W64) (s : State) : Out3 :=
  let _ := w
  .next (if fwAlive s then updCore s (fun c => { c with wdogHalf := false }) else s)

/-- An engine has stalled on a full completion FIFO for longer than FW_WDOG_US (R309). Whether an expiry before it lies within 1 s
is a free value: the row does not say (notes/assumptions/56.md). -/
def stallExpire (s : State) : State := if s.core.expired then let (x, s1) := draw s; wdogExpire s1 (bitOf x.toNat 0) else wdogExpire s false

def execFifoStallTimeout (q : Nat) (s : State) : Out3 := .next (if fwAlive s && (engOf s q).stalled then stallExpire s else s)

/-- The restarted core runs again: what waited for firmware goes on (R307, R325). -/
def fwRestarted (s : State) : State :=
  let s1 := resumeOps (updCore s (fun c => { c with st := c.back }))
  forEach (runningParts s1) s1 (fun s e => idleTry s e.1)

def execFwRestartEnd (s : State) : Out3 :=
  .next (if held s || s.core.st != .restarting || (bankVer s s.core.bank).isNone then s else fwRestarted s)

/-! ## Interrupts (R299, R311) -/

/-- A write of 1 clears a latched source. -/
def execIntStatusClear (w : W64) (s : State) : Out3 :=
  .next (if held s then s else updCore s (fun c => { c with intr := (List.range 50).foldl (fun a i => if bitOf c.intr i && !bitOf w.toNat i then a + 2 ^ i else a) 0 }))

/-- An entry has been unread for 100 µs. -/
def execEventIrqTimer (s : State) : Out3 :=
  .next (if held s || evUnread s = 0 then s else updCore s (fun c => { c with evTimer := true }))

/-! ## The aperture (R301) -/

/-- The object of a resident partition that an aperture access names, and the offset in it. -/
def apTarget (s : State) (offset : Nat) : Option (Nat × Nat × Nat) :=
  let tier := (Config.apctlField 0 s.core.apctl).toNat
  let d := (Config.apctlField 1 s.core.apctl).toNat
  let a := ((Config.apctlField 2 s.core.apctl).toNat + offset / 8 * 8) % 2 ^ 52
  if !(tier == 1 || tier == 2) || !(partOf s d).any (fun P => P.slot.isSome) then none
  else (List.find? (fun (e : Nat × Objt) => e.1 / 2 ^ 20 == d && e.2.home == tier && decide (e.2.base ≤ a) && decide (a + 8 ≤ e.2.base + e.2.bytes)) s.tm.objs).map
    (fun e => (d, e.1 % 2 ^ 20, a - e.2.base))

/-- A read of 8 B of an object with QoS 1: the 64 B line that holds them (R133), from the T1 image where there is one. A read of a
poisoned extent fails without being issued (R148). -/
def apRead (s : State) (d h off : Nat) : State :=
  match objOf s d h with
  | none => s
  | some o =>
    let (xi, o1) := o.at off
    let x := xKey d h xi
    if poisonedX s x then updCore s (fun c => { c with apFault := true })
    else
      let g := imagePlace s x none o1
      addReq (updCore s (fun c => { c with apOff := g.2.2 % 64 })) d false g.1 g.2.1 1 (g.2.2 / 64 * 64) 64 .aperture false

/-- A core access through the aperture. -/
def apAccess (s : State) (write : Bool) (offset : Nat) (w : W64) : State :=
  match apTarget s offset with
  | none => updCore s (fun c => { c with apFault := true })
  | some (d, h, off) =>
    let s1 := updCore s (fun c => { c with apFault := false })
    if write then objWrite s1 d h off (leBytes 8 w.toNat) else apRead s1 d h off

def execApertureAccess (write : Bool) (offset : Nat) (w : W64) (s : State) : Out3 :=
  .next (if fwAlive s && s.core.st != .restarting then apAccess s write offset w else s)

end Sys2Proof.Machine
end

