-- ==== Sys2Proof/Machine/RelCmds.lean ====
section
/-! DEFINITION. The commands and events of reliability (spec/19_reliability.md): the scrubber and what it finds (R397 to R404),
tile scores and tests (R405, R406), map-out and substitution (R408, R409). -/

namespace Sys2Proof.Machine

/-! ## Tiles (R405 to R409) -/

def tileMapoutAct (s : State) (i : Inst) : State :=
  let t := fld (i.arg 0) 5 0
  if 2 ≤ tileState s t then refuse s i none Code.limitRange
  else
    let (s1, sp, missing) := mapOut s t
    finish s1 i none (if missing then Code.noSpare else Code.ok) (w64 sp) 0

def execTileMapout (s : State) : Out3 := .next (cmdRow s 9 0x14 tileMapoutAct)

/-- A spare takes the number of the tile that was mapped out, at a window boundary of its group (R81). -/
def execSpareSubstitution (l : Nat) (s : State) : Out3 :=
  .next (if held s || tileInUse s l then s
    else match s.rel.subst.find? (fun x => x.1 == l) with
      | some x => substitute s x.1 x.2
      | none => s)

/-- An active tile has a ready unit: its known-answer test is abandoned without result (R406). -/
def tileReady (s : State) (t : Nat) : Bool :=
  match logicalOf s t with
  | some l => (s.rel.runs.getD l {}).run.isSome
  | none => false

/-- A known-answer test of a tile in the map ends. -/
def katEnd (s : State) (t : Nat) (pass : Bool) : State :=
  if held s || 2 ≤ tileState s t || tileReady s t then s
  else
    let s1 := updRel s (fun r => { r with katFail := (if pass then [] else [t]) ++ r.katFail.filter (· != t) })
    if pass then s1 else mapOutTile s1 t

def execKnownAnswerTest (tile : Nat) (pass : Bool) (s : State) : Out3 := .next (katEnd s tile pass)

/-- Every score is halved, rounding down. -/
def execErrorScoreHalving (s : State) : Out3 :=
  .next (if held s then s
    else updRel s (fun r => { r with score := r.score.map (fun e => (e.1, e.2 / 2)) }))

/-! ## The scrubber (R404) -/

/-- Structures marked "Yes" in Table REL-1. -/
def scrubbed (n : Nat) : Bool := [1, 2, 3, 4, 6, 7, 0xA, 0xB, 0xC, 0xD, 0xF, 0x10, 0x11].contains n

/-- Lines of 64 B in every scrubbed structure (Table REL-2). -/
def scrubLines (s : State) : Nat :=
  let b := s.built
  let tiles := wfld b 63 56 + wfld b 55 54
  let engines := wfld b 63 56 / 4
  524288 * 2 ^ wfld b 53 52 + 16384 * tiles + 512 * tiles + 49152 + 4096 * engines + 1024 * engines + 40960 + 524288 + 65536 + 81920

/-- A correctable error (R398): in a tile's own structures it adds to the tile's score, which may map it out. -/
def scrubCorr (s : State) (st idx : Nat) : State :=
  let s1 := bump s Cnt.eccCorr 1
  if st = 2 || st = 3 then
    let t := idx / (if st = 2 then 16384 else 512)
    let n := s1.rel.score.getD t 0 + 1
    let s2 := updRel s1 (fun r => { r with score := r.score.put t n })
    if valU s 9 0x21 ≤ n && tileState s2 t < 2 then mapOutTile s2 t else s2
  else s1

/-- The part of some requests that covers a byte. -/
def covering (l : List (Nat × Nat)) (a : Nat) : Option (Nat × Nat) := l.find? (fun p => decide (p.1 ≤ a) && decide (a < p.1 + p.2))

/-- The 4 KiB request that covers byte `o` of what an item brings: the extent and the bytes in it, or the T1 address and bytes of an
image that no object holds. -/
def lineSource (s : State) (d : Nat) (P : Part) (u : LsUnit) (k : ItemKind) (o : Nat) : Option (Option Nat × Nat × Nat) :=
  match k with
  | .pooled r =>
    (manOfStep P u.step).bind (fun m => (pooledParts s d P m r u.layer).findSome? (fun q =>
      (covering (extPieces s q.1 q.2.1 q.2.2) (q.2.1 + o)).map (fun p => (some q.1, p))))
  | _ =>
    (itemSource P u.layer k).bind (fun ge =>
      let o := Nat.min o (ge.2.plen - 1)
      if ge.1.src = 0 then (covering (reqPieces (ge.1.base + ge.2.poff) ge.2.plen) (ge.1.base + ge.2.poff + o)).map (fun p => (none, p))
      else
        let x := xKey d ge.1.base (1 + sectIndex ge.1 ge.2)
        (covering (extPieces s x 0 ge.2.plen) o).map (fun p => (some x, p)))

/-- That request is read again, from where R140 has it come, and the item is not resident until it has ended (R402). -/
def fetchLine (s : State) (d : Nat) (P : Part) (u : LsUnit) (i : Nat) (k : ItemKind) (o : Nat) : State :=
  let use := Use.kindle d u.place i
  match lineSource s d P u k o with
  | none => s
  | some (src, p) =>
    let s1 := setItem s d u.place i (fun it => { it with st := 0, owed := 0, xs := [] })
    match src with
    | none => addReq (setItem s1 d u.place i (fun it => { it with owed := 1 })) d false 0 (bareport s) (fetchQos s d) p.1 p.2 use false
    | some x =>
      let r := serveRead s1 d x p.1 p.2 0 (fetchQos s d) use
      if r.fail then itemEnd r.s d u.place i false else itemServed d u.place i x r

/-- A line of a share (R402): a dirty one is given up with the rows whose state it holds, a clean one of a resident item is
fetched again. -/
def scrubShare (s : State) (d bank line : Nat) : State :=
  match partOf s d with
  | none => s
  | some P =>
    let covers (it : LsItem) : Bool := decide (it.line ≤ line) && decide (line < it.line + it.lines)
    match P.units.find? (fun u => u.place % 2 == bank && ((u.dirty.find? line).isSome || u.items.any covers)) with
    | none => s
    | some u =>
      if (u.dirty.find? line).isSome then
        let s1 := setUnits s d (fun v => if v.place = u.place then { v with dirty := v.dirty.del line } else v)
        forEach P.wins s1 (fun s w =>
          if w.dead.isSome || w.stage = .merged || w.key.bwd != u.bwd || w.key.layer != u.layer then s
          else faultRows s d w.key (rowsNeeding P w covers) 1)
      else match u.items.findIdx? covers with
        | none => s
        | some i =>
          match u.items[i]? with
          | some it => if it.st = 1 then fetchLine s d P u i it.kind ((line - it.line) * 64) else s
          | none => s

/-- A word of the Interstage Buffer: the row whose values it holds (R82). Two quarters belong to each group. -/
def scrubInter (s : State) (line : Nat) : State :=
  let quarter := line / 12288
  let row := line % 12288 / 48
  forEach (residents s) s (fun s e =>
    match e.2.man with
    | none => s
    | some m =>
      forEach e.2.wins s (fun s w =>
        if (w.stage == .core || w.stage == .expand) && w.key.win % 2 == quarter % 2 && decide (row < w.n) &&
            decodeWindow m w.key.win w.n == decide (quarter < 2) then faultRows s e.1 w.key [256 * w.key.win + row] 4
        else s))

/-- A word of an engine's tile registers is poisoned until it is written again: its elements are +0, and the instructions that
read them count them as NaN substitutions (Table REL-1, R399). -/
def scrubReg (s : State) (q w : Nat) : State :=
  let e := engOf s q
  let r := w / 2048
  let row := w % 2048 / 64
  let e1 := setRow e r row (rowPut (rowOf e r row) 64 (w % 64) [0])
  setEng s q { e1 with bad := if e.bad.contains w then e.bad else w :: e.bad }

/-- A page directory entry reads invalid, and its context ends at the next boundary (Table REL-1). -/
def scrubPage (s : State) (k : Nat) : State :=
  let w := s.pgdir.getD k 0
  if !bitOf w 63 then s
  else
    let s1 := { s with pgdir := s.pgdir.set 0 k 0 }
    let mine (x : Ctx) : Bool := x.map.contains (k / 64)
    match List.find? (fun (e : Nat × Ctx) => mine e.2) s.ctxs with
    | some (c, x) =>
      let (t, f) := wordFrame s x.part w
      let s2 := updCtx (freeFrame s1 x.part t f) c (fun x => { x with kvLost := true })
      (match partOf s2 x.part with
       | some P => if P.inStep then s2 else ctxIdle (ctxTimers s2 x.part c (nowNs s2)) x.part
       | none => s2)
    | none =>
      match List.find? (fun (e : Nat × Part) => List.any e.2.saved (fun (y : Nat × Ctx) => mine y.2)) s.parts with
      | some (d, _) =>
        let (t, f) := wordFrame s d w
        updPart (freeFrame s1 d t f) d (fun P => { P with saved := P.saved.map (fun y => if mine y.2 then (y.1, { y.2 with kvLost := true }) else y) })
      | none => s1

/-- Both copies of an Extent Table entry have failed (R401): the entry goes, its lines stay allocated, and what waited for it
is read from the home. -/
def scrubExtent (s : State) (idx : Nat) : State :=
  match List.find? (fun (e : Nat × XEnt) => e.2.idx == idx) s.tm.xt with
  | none => s
  | some (x, e) =>
    let s1 := usersLost (delXt (dissolveRick (moveAbort s x) x) x) (fun u => u == .fill x)
    let lost := if e.size = 0 || homeCode s x = 1 then s1.tm.lost else (e.port, e.addr, e.size) :: s1.tm.lost
    let s2 := { s1 with tm := { s1.tm with lost := lost, thawWait := s1.tm.thawWait.filter (· != x) } }
    let d := xPart x
    match partOf s2 d with
    | none => s2
    | some P =>
      let s2 := updTraits s2 d (fun t => { t with phase := t.phase.map (fun ph => { ph with parts := ph.parts.map (fun y =>
        if y.x = x then { y with pinned := false, st := if y.st = 2 then 0 else y.st } else y) }) })
      updatesResume (forEach P.units s2 (fun s u =>
        forEach (List.zip (List.range u.items.length) u.items) s (fun s it =>
          if it.2.xs.contains x then
            let s3 := setItem s d u.place it.1 (fun y => { y with xs := y.xs.filter (· != x) })
            if it.2.st = 0 && it.2.owed = 0 then fetchItem s3 d u.place it.1 u.layer it.2.kind else s3
          else s))) d

/-- Both copies of a record of the Rick, Move or Redirect Table have failed (R401). -/
def scrubTable (s : State) (idx : Nat) : State :=
  if idx < 4096 then (match s.tm.ricks.find? idx with | some r => dissolveRick s r.x | none => s)
  else if idx < 4352 then (match (s.tm.moves.filter (·.opened))[idx - 4096]? with | some m => moveAbort s m.x | none => s)
  else
    let k := idx - 4352
    match (residents s).find? (fun e => e.2.traits.redirs.any (fun r => r.slot == k)) with
    | some (d, _) => updTraits s d (fun t => { t with
        redirs := t.redirs.filter (fun r => r.slot != k)
        puts := t.puts.filter (fun u => u.slot != k) })
    | none => s

/-- The core restarts (R307 steps 2 and 3). -/
def coreRestart (s : State) : State :=
  if s.core.st = .boot then s
  else updCore s (fun c => { c with back := if c.st = .restarting then c.back else c.st, st := .restarting })

/-- A firmware bank is lost: the standby bank is emptied; the active one leaves the core restarting, on the other bank
where that holds a verified image (Table REL-1). -/
def scrubBank (s : State) (b : Nat) : State :=
  if (bankVer s b).isNone || s.core.st = .boot then setBankVer s b none
  else if b ≠ s.core.bank then
    let st' (x : FwSt) : FwSt := if x = .standbyReady then .running else x
    updCore (setBankVer s b none) (fun c => { c with st := st' c.st, back := st' c.back })
  else
    let s1 := coreRestart (setBankVer s b none)
    if (bankVer s1 (1 - b)).isSome then changeAll s1 (1 - b) else s1

/-- Both copies of a dictionary value have failed: the object takes its resolved default. -/
def scrubValue (s : State) (k : Nat) : State := forgetVals s (fun j => j == k)

/-- Lines of a bank of the Layer Store, its reserve of 16 granules included (Table LS-1). -/
def bankLines (s : State) : Nat := 1024 * (granules s + 16)

/-- The bank, tile or engine that ECC_UNCORR names, and its line or entry (R399). -/
def scrubPlace (s : State) (st idx : Nat) : Nat × Nat :=
  match st with
  | 1 => (idx / bankLines s, idx % bankLines s)
  | 2 => (idx / 16384, idx % 16384)
  | 3 => (idx / 512, idx % 512)
  | 6 => (idx / 32768, idx % 32768)
  | 7 => (idx / 8192, idx % 8192)
  | 0x10 => (idx / 32768, idx % 32768)
  | _ => (0, idx)

/-- An uncorrectable error that the scrubber finds (Table REL-1). -/
def scrubUncorr (s0 : State) (st idx : Nat) : State :=
  let pl := scrubPlace s0 st idx
  let s := eccUncorr s0 st pl.1 true (if st = 6 || st = 7 then pl.2 / 8 else pl.2)
  match st with
  | 1 => match shareLineOf s pl.1 pl.2 with | some x => scrubShare s x.1 pl.1 x.2 | none => s
  | 4 => scrubInter s idx
  | 6 => scrubReg s pl.1 pl.2
  | 7 => updRel s (fun r => { r with poison := if r.poison.contains (7, idx) then r.poison else (7, idx) :: r.poison })
  | 0xB => scrubPage s idx
  | 0xC => scrubExtent s idx
  | 0xD => scrubTable s idx
  | 0xF => coreRestart s
  | 0x10 => scrubBank s pl.1
  | 0x11 => scrubValue s idx
  | 0xA => s
  | _ =>
    match logicalOf s pl.1 with
    | some l => mapOutTile (tileFault s l st pl.2) pl.1
    | none => mapOutTile s pl.1

/-- The indices that a structure has. -/
def scrubRange (s : State) (st : Nat) : Nat :=
  match st with
  | 1 => 2 * bankLines s
  | 2 => 34 * 16384
  | 3 => 34 * 512
  | 4 => 49152
  | 6 => cfgQuads s * 32768
  | 7 => cfgQuads s * 8192
  | 0xA => 16384
  | 0xB => 4194304
  | 0xC => 131072
  | 0xD => 4352 + 65536
  | 0xF => 16384
  | 0x10 => 65536
  | _ => 2 ^ 44

/-- One find of the scrubber: structure, index, whether it is uncorrectable. -/
def scrubFind (s : State) (f : Nat × Nat × Bool) : State :=
  if !scrubbed f.1 || scrubRange s f.1 ≤ f.2.1 then s
  else if f.2.2 then scrubUncorr s f.1 f.2.1 else scrubCorr s f.1 f.2.1

/-- A period of the scrubber: its place advances by SCRUB_LINES, and it handles what it finds. -/
def scrubPeriod (s : State) (finds : List (Nat × Nat × Bool)) : State :=
  let n := scrubLines s
  let at' := s.rel.scrub + valU s 9 0x31
  bump (updRel (forEach finds s scrubFind) (fun r => { r with scrub := at' % n })) Cnt.scrubRounds (at' / n)

def execScrubPeriod (finds : List (Nat × Nat × Bool)) (s : State) : Out3 :=
  .next (if held s || s.boot.stage < 6 then s else scrubPeriod s finds)

end Sys2Proof.Machine
end

