-- ==== Sys2Proof/Machine/BootCmds.lean ====
section
/-! DEFINITION. Resets, bring-up and OTP (spec/18_bringup.md), the resolution of defaults (R347, R348), flash enumeration and
mount (R154, R169), the tile map (R384), the soft reload (R388 to R390), and the time-of-day input (R370). -/

namespace Sys2Proof.Machine

/-! ## Defaults from OTP (R347) -/

/-- Override entries of a generation that are in use, in order. -/
def ovrEntries (s : State) (g : Nat) : List (Nat × Nat) :=
  (List.range 40).filterMap (fun i =>
    let w0 := genField s g (0x20 + 16 * i) 8
    if bitOf w0 0 then some (w0, genField s g (0x28 + 16 * i) 8) else none)

/-- The object that an entry may override. -/
def ovrObj (w0 : Nat) : Option Obj :=
  let area := fld w0 63 60
  if area = 0 || area = 3 || area = 10 || area = 11 then none
  else (objRow area (fld w0 59 44)).bind (fun o =>
    if (match o.right with | .rw => true | .rws => true | .rwq => true | .rwb => true | _ => false) && (bitOf w0 1 || decide (fld w0 43 20 < o.ix.count))
    then some o else none)

/-- The part of an object's range that stands at a reset, where no slot holds a partition: a hold ceiling is not yet held against a
plan's HOLDCEIL, nor a number of quads against a plan's. -/
def ovrRange (s : State) (o : Obj) (i n : Nat) : Bool :=
  match o.area, o.item with
  | 12, 0x20 => rngOk (.zeroOr 1000 100000000) (w64 n)
  | 7, 0x40 => decide (n ≤ cfgQuads s)
  | 7, 0x41 => decide (n ≤ cfgQuads s)
  | 7, 0x42 => decide (n ≤ cfgQuads s)
  | _, _ => dynRange s o i n == 0

/-- Step 1 of R347 for one entry, but for the rules that relate members of a set. -/
def ovrTake (x : State × Nat) (e : Nat × Nat) : State × Nat :=
  let s := x.1
  match ovrObj e.1 with
  | none => (s, x.2 + 1)
  | some o =>
    let i := fld e.1 43 20
    let w := w64 e.2
    let ok := widthOk o.ty w && rngOk o.rng w && ovrRange s o i e.2
    let v : Ovr := { area := o.area, item := o.item, index := i, all := bitOf e.1 1, value := w, ok := ok }
    ({ s with od := { s.od with ovrs := s.od.ovrs ++ [v] } }, if ok then x.2 else x.2 + 1)

/-- The consistency sets (Table OD-10). -/
def setMembers : List (List (Nat × Nat)) := [[(12, 0x40), (12, 0x41)], [(9, 0x20), (9, 0x21)], [(9, 0x30), (9, 0x31)]]

/-- The rule of one set over the resolved defaults. -/
def setResolved (s : State) (ms : List (Nat × Nat)) : Bool :=
  setsHold (fun a i => if ms.contains (a, i) then dfltOf s a i 0 else w64 (((objRow a i).map (·.dflt)).getD 0))

/-- Mark the override at a place of the list. -/
def ovrMark (s : State) (k : Nat) (ok : Bool) : State :=
  { s with od := { s.od with ovrs := (List.zip (List.range s.od.ovrs.length) s.od.ovrs).map (fun e => if e.1 = k then { e.2 with ok := ok } else e.2) } }

/-- Places of the last entries in range of the members of a set. -/
def setLasts (s : State) (ms : List (Nat × Nat)) : List Nat :=
  let l := List.zip (List.range s.od.ovrs.length) s.od.ovrs
  (l.filter (fun e => e.2.ok && ms.contains (e.2.area, e.2.item) &&
    !l.any (fun f => decide (e.1 < f.1) && f.2.area == e.2.area && f.2.item == e.2.item))).map (·.1)

/-- The members' overrides of a set apply together where its rule holds; else each in turn, where it holds with those before. -/
def setSettle (x : State × Nat) (ms : List (Nat × Nat)) : State × Nat :=
  let s := x.1
  if setResolved s ms then x
  else
    let ks := setLasts s ms
    let s0 := ks.foldl (fun s k => ovrMark s k false) s
    ks.foldl (fun (y : State × Nat) k =>
      let t := ovrMark y.1 k true
      if setResolved t ms then (t, y.2) else (y.1, y.2 + 1)) (s0, x.2)

/-- Select the generation in force and resolve every default (R347, R395); none leaves things as they were. -/
def otpSelect (s : State) : State :=
  match genSelect s with
  | none => s
  | some g =>
    let s1 := { s with otp := { s.otp with gen := some g, clipped := (enabledOf s.built (genField s g 0 8)).2 }, od := { s.od with ovrs := [] } }
    let x := setMembers.foldl setSettle ((ovrEntries s1 g).foldl ovrTake (s1, 0))
    { x.1 with otp := { x.1.otp with reject := x.2 % 2 ^ 16 } }

/-! ## Hard reset, reset release, PLLs (R375, R378, R387) -/

/-- A field whose programming a hard reset cuts counts as written (R393). -/
def otpCut (s : State) : State :=
  forEach [Path.cp, Path.i3c] s (fun s path =>
    let r := regsOf s path
    match r.prog, r.busy with
    | true, some w => wo1Program s (selItem r) (selIndex r) (wo1Words r w) false
    | _, _ => s)

/-- What a hard reset leaves: OTP, host memory, what is durable on flash, the tester's registers, and the queue. Open blocks
and erases cut short are settled by the next mount. -/
def afterReset (s0 : State) : State :=
  let s := otpCut s0
  { State.reset with
    pending := s.pending
    built := s.built
    silicon := s.silicon
    otp := { bytes := s.otp.bytes }
    mem := s.mem
    fl := {
      formatted := s.fl.formatted
      userMu := s.fl.userMu
      bseq := s.fl.bseq
      dur := s.fl.dur
      blocks := s.fl.blocks.map (fun e => if e.2.st = 3 then (e.1, { erases := e.2.erases + 1 : Blk }) else e)
      base := s.fl.base
      copies := s.fl.copies.filter (fun c => (s.fl.blocks.getD (blkKey c.lun c.block) {}).st != 3)
      journal := s.fl.journal
      ckArea := s.fl.ckArea
      nextJ := s.fl.nextJ }
    dbg := { ir := s.dbg.ir, dr := s.dbg.dr, mbist := s.dbg.mbist, ring := s.dbg.ring }
    boot := { prstLow := s.boot.prstLow, testMode := s.boot.testMode, testHeld := s.boot.testHeld }
    free := s.free }

def execHardReset (s : State) : Out3 :=
  .next (let t := afterReset s; { t with boot := { t.boot with prstLow := true, testHeld := false } })

/-- PRST_N rises: bring-up begins at stage 1, unless TEST_MODE holds every domain (R380, R418). -/
def execResetRelease (s : State) : Out3 :=
  .next (if s.boot.prstLow then { s with boot := { s.boot with prstLow := false, stage := if s.boot.testMode then 0 else 1 } } else s)

/-- The PLLs that Penra sources: TILE 0, CORE 1, CKEEP 2, MGMT 3, FLG0 to FLG3 4 to 7 as built (Table BOOT-1). -/
def pllsBuilt (s : State) : List Nat := [0, 1, 2, 3] ++ (List.range (wfld s.built 47 43 / 4)).map (· + 4)

def execPllLock (pll : Nat) (s : State) : Out3 :=
  .next (if held s || !(pllsBuilt s).contains pll || s.boot.plls.contains pll then s
    else { s with boot := { s.boot with plls := s.boot.plls ++ [pll] } })

/-! ## The tile map (R384) -/

/-- Physical tiles built. -/
def tilesBuilt (s : State) : Nat := wfld s.built 63 56 + wfld s.built 55 54

/-- OTP_TILE_DIS of the generation in force. -/
def tileDis (s : State) : Nat := (s.otp.gen.map (fun g => genField s g 8 8)).getD 0

/-- The token comes round the ring: `post` are the tiles that fail their self-test. -/
def enumTiles (s : State) (post : List Nat) : State :=
  let all := List.range (tilesBuilt s)
  let bist (t : Nat) : Bool := s.boot.tileFails.contains t
  let good := all.filter (fun t => !bitOf (tileDis s) t && !bist t && !post.contains t)
  let n := cfgTiles s
  let state (t : Nat) : Nat :=
    match good.findIdx? (· == t) with
    | some k => if k < n then 0 else if k < n + cfgSpares s then 1 else 3
    | none => if bitOf (tileDis s) t then 3 else 2
  let s1 := updRel s (fun r => { r with
    tiles := all.map (fun t => (t, state t))
    map := (List.range n).map (fun l => (l, good.getD l 0xFF)) })
  { s1 with dbg := { s1.dbg with ring := all.map (fun t => (t, !bist t, !post.contains t)) } }

/-! ## Flash enumeration and mount (R154, R169) -/

/-- The ONFI signature. -/
def onfiSignature : Nat := 0x4F4E4649

/-- A copy of a chip enable's parameter page as numbers: the signature that Read ID returned, 1 where its CRC-16 is correct, NV-LPDDR4
supported, page bytes, spare bytes, pages per block, blocks per LUN, LUNs, planes, tR in ns, tBERS in µs, read-retry levels, transfer
rate in MT/s; after them the blocks that carry the factory's bad-block mark, as LUN × 2^20 + block. -/
def paramGeo (l : List Nat) : Geo :=
  let f (i : Nat) : Nat := l.getD (i + 2) 0
  { page := f 1, spare := f 2, pages := f 3, blocks := f 4, luns := f 5, planes := f 6, tr := f 7, tbers := f 8, retry := f 9, rate := f 10 }

/-- Table FLASH-2. -/
def paramOk (l : List Nat) : Bool :=
  let g := paramGeo l
  l.getD 2 0 == 1 && ((g.page == 16384 && decide (2048 ≤ g.spare)) || (g.page == 32768 && decide (4096 ≤ g.spare))) &&
    g.pages != 0 && g.pages % 4 == 0 && decide (g.pages ≤ 4096) && decide (1 ≤ g.blocks) && decide (g.blocks ≤ 1048576) &&
    decide (1 ≤ g.luns) && decide (g.luns ≤ 4) && (g.planes == 1 || g.planes == 2 || g.planes == 4) &&
    decide (g.tr ≤ 60000) && decide (g.tbers ≤ 10000) && decide (g.retry ≤ 15)

def sameGeo (a b : Geo) : Bool :=
  a.page == b.page && a.spare == b.spare && a.pages == b.pages && a.blocks == b.blocks && a.luns == b.luns && a.planes == b.planes

/-- Channels that Penra uses. -/
def flashOn (s : State) (ch : Nat) : Bool := decide (ch < cfgFlash s) && bitOf (valU s 2 0x60) ch

/-- What enumeration finds of chip enable `k` of the tier (channel × 8 + chip enable): none where it gives no signature, else the first
of its parameter-page copies whose CRC is correct, if there is one (R154). -/
def chipPage (flash : List (Nat × Nat × List Nat)) (k : Nat) : Option (Option (List Nat)) :=
  let copies := (flash.filter (fun x => x.1 == k / 8 && x.2.1 == k % 8 && x.2.2.headD 0 == onfiSignature)).map (·.2.2)
  if copies.isEmpty then none else some (copies.find? (fun l => l.getD 1 0 == 1))

/-- Enumeration of the enabled channels that have not been enumerated since reset, chip enable by chip enable in ascending order
(R154): one without a signature is unpopulated; the first populated one sets the tier geometry; one that fails a requirement, or
differs from the tier geometry, is not mounted. -/
def flashEnum (s : State) (flash : List (Nat × Nat × List Nat)) : State :=
  let chs := (List.range 16).filter (fun ch => flashOn s ch && (s.fl.ces.find? ch).isNone)
  let chips := chs.flatMap (fun ch => (List.range 8).filterMap (fun ce => (chipPage flash (8 * ch + ce)).map (fun l => (8 * ch + ce, l))))
  let set := if s.fl.ces.all (fun e => e.2.isEmpty) then none else s.fl.geo
  let geo := set.orElse (fun _ => (chips.findSome? (·.2)).map paramGeo)
  let good (x : Nat × Option (List Nat)) : Bool :=
    match x.2, geo with | some l, some g => paramOk l && sameGeo (paramGeo l) g | _, _ => false
  let s1 := forEach (chips.filter (fun x => !good x)) s (fun s x =>
    bump (post s Ev.flashCeReject none 0 (x.1 % 8 + x.1 / 8 * 16) 0) Cnt.flashCeReject 1)
  let ok := chips.filter good
  let of (ch : Nat) : List Nat := (ok.filter (fun x => x.1 / 8 == ch)).map (·.1 % 8)
  let s2 := forEach chs s1 (fun s ch => onfi s ch ((List.range 8).flatMap (fun ce => if chips.any (fun x => x.1 == 8 * ch + ce) then onfiEnum else onfiAbsent)))
  updFl s2 (fun f => { f with
    geo := geo
    ces := chs.foldl (fun t ch => t.put ch (of ch)) f.ces
    found := chs.foldl (fun t ch => t.set 0 ch (maskOf (of ch))) f.found
    ceRate := ok.foldl (fun t x => t.put x.1 (paramGeo (x.2.getD [])).rate) f.ceRate
    factory := f.factory ++ ok.flatMap (fun x => ((x.2.getD []).drop 13).map (fun b => blkKey (lunKey (x.1 / 8) (x.1 % 8) (b / 2 ^ 20)) (b % 2 ^ 20))) })

/-! ## Mount (R169) -/

/-- Units of open blocks without a durable record are discarded. -/
def openDiscard (s : State) : State :=
  updFl s (fun f => { f with copies := f.copies.filter (fun c =>
    (blkOf s c.lun c.block).st != 1 || f.dur.find? c.mu == some (entryWord c.lun c.block c.page c.bseq)) })

/-- One codeword of every closed block is read; `samples` are the map units of those that decoded with errors, and how many: one near
the limit is relocated under R159. -/
def retentionSample (s : State) (samples : List (Nat × Nat)) : State :=
  let closed := s.fl.blocks.filter (fun e => e.2.st == 2 && (allLuns s).contains (e.1 / 2 ^ 20))
  forEach samples (forEach closed s (fun s e => blkRead s (e.1 / 2 ^ 20) (e.1 % 2 ^ 20) 1)) (fun s x => if nearLimit s x.2 then relocate s x.1 5 else s)

/-- Closed blocks of a LUN with no valid unit are erased, the least worn first, until it has `2.006D` free blocks. -/
def lunFree (s : State) (k : Nat) : State :=
  let l := sortBy (fun (e : Nat × Blk) => e.2.erases) (s.fl.blocks.filter (fun e => e.1 / 2 ^ 20 == k && e.2.st == 2 && !e.2.jr && (blkMus s k (e.1 % 2 ^ 20)).isEmpty))
  forEach (l.take (valU s 2 0x6D - freeBlks s k)) s (fun s e => blkErased s k (e.1 % 2 ^ 20))

/-- The mount's last stages: T3 is present, with the durable map and the block table in the translation region. -/
def mountInstall (s : State) (samples : List (Nat × Nat)) : State :=
  let s1 := regionInstall (updFl (openDiscard s) (fun f => { f with present := true, rebuild := false, capLow := false }))
  capCheck (forEach (allLuns s1) (retentionSample s1 samples) lunFree)

/-- Mount: `readable` where a checkpoint copy can be read. -/
def flashMount (s : State) (readable : Bool) (samples : List (Nat × Nat)) : State :=
  let s0 := updFl s (fun f => { f with present := false, rebuild := false })
  if (allLuns s0).isEmpty || !s0.fl.formatted then post s0 Ev.flashUnformatted none 0 0 0
  else if valU s0 2 0x66 < regionNeeds s0 then post s0 Ev.flashMapSmall none 0 (regionNeeds s0) 0
  else if !readable then updFl s0 (fun f => { f with rebuild := true })
  else mountInstall s0 samples

/-- The copy of a map unit with the highest bake sequence number, on the LUNs that are mounted. -/
def newestCopy (s : State) (mu : Nat) : Option Copy :=
  (s.fl.copies.filter (fun c => c.mu == mu && (allLuns s).contains c.lun)).foldl (fun (a : Option Copy) c => match a with
    | none => some c
    | some x => if x.bseq < c.bseq then some c else some x) none

/-- The map as the metadata of every codeword give it: for each map unit the copy with the highest BSEQ (R169). -/
def mapRebuild (s : State) : State :=
  let best := (dedup (s.fl.copies.map (·.mu))).filterMap (newestCopy s)
  updFl { s with mem := best.foldl (fun m c => storeBytes m (memKey 2 (65536 * c.mu)) c.bytes) s.mem } (fun f => { f with
    dur := best.foldl (fun t c => t.put c.mu (entryWord c.lun c.block c.page c.bseq)) [] })

def execMapRebuildEnd (s : State) : Out3 := .next (if held s || !s.fl.rebuild then s else mountInstall (mapRebuild s) [])

/-- A channel that the tier no longer uses. -/
def channelsOff (s : State) : State :=
  updFl s (fun f => { f with ces := f.ces.filter (fun e => flashOn s e.1), found := f.found.filter (fun e => flashOn s e.1) })

/-- A mount that a soft reload has begun ends (R390): channels that it has enabled are enumerated first. -/
def execFlashMountEnd (readable : Bool) (flash : List (Nat × Nat × List Nat)) (samples : List (Nat × Nat)) (s : State) : Out3 :=
  .next (if held s || !s.boot.mountDue then s
    else flashMount (flashEnum (channelsOff { s with boot := { s.boot with mountDue := false } }) flash) readable samples)

/-! ## Bring-up (R380 to R386) -/

def setStage (s : State) (n : Nat) : State := { s with boot := { s.boot with stage := n } }
def stopStage (s : State) : State := { s with boot := { s.boot with stopped := true } }

/-- Stage 2 begins: the generation is selected, and the TILE PLL relocks where its frequency differs. -/
def enterSelect (s : State) : State :=
  let s1 := otpSelect (setStage s 2)
  let mhz := valU s1 1 4
  { s1 with boot := { s1.boot with tileMhz := mhz, plls := if mhz = 1500 then s1.boot.plls else s1.boot.plls.filter (· != 0) } }

/-- The fixed area of OTP is whole (R382). -/
def fixedOk (s : State) : Bool :=
  crc32 ((List.range 0x3FC).map (fun i => s.otp.bytes.getD i 0)) == otpNat s 0x3FC 4

/-- A flash channel is built and enabled. -/
def anyFlash (s : State) : Bool := (List.range 16).any (flashOn s)

/-- The end of a stage: `fails` are the tiles that fail their memory test in stage 4 or their self-test in stage 5, and in
stage 8 are not empty where no checkpoint copy can be read; `flash` is what stage 7 finds, and in stage 8 the retention sample: map
units with their bit errors. -/
def stageEnd (s : State) (fails : List Nat) (flash : List (Nat × Nat × List Nat)) : State :=
  match s.boot.stage with
  | 1 => if (pllsBuilt s).all (fun x => s.boot.plls.contains x) then enterSelect s else s
  | 2 =>
    if s.otp.gen.isNone then resumeOps (stopStage s)
    else if !s.boot.plls.contains 0 then s
    else resumeOps (setStage s 3)
  | 3 => if fixedOk s then setStage s 4 else stopStage s
  | 4 =>
    let l := if valU s 1 6 = 1 then fails else []
    setStage { s with boot := { s.boot with tileFails := l } } 5
  | 5 =>
    let s1 := setStage (enumTiles s fails) 6
    { s1 with mp := { s1.mp with initReq := portsEnabled s1 } }
  | 6 =>
    if s.mp.initReq.all (fun m => s.mp.up.contains m) then evDrain (if anyFlash s then setStage s 7 else setStage s 9) else s
  | 7 => setStage (flashEnum s flash) 8
  | 8 => setStage (flashMount s fails.isEmpty (flash.map (fun x => (x.1, x.2.1)))) 9
  | 9 =>
    if s.core.ver0.isSome && !fwLoading s then setStage (updCore s (fun c => { c with st := runState s })) 10 else s
  | _ => s

def execBringupStageEnd (fails : List Nat) (flash : List (Nat × Nat × List Nat)) (s : State) : Out3 :=
  .next (if held s || s.boot.stopped then s else stageEnd s fails flash)

/-! ## OTP_SEAL (R393) -/

def otpSealAct (s : State) (i : Inst) : State :=
  let g := genNext s
  if g = 0xFF then refuse s i none Code.otpExhausted
  else if !bitOf (genField s g 0x2A0 8) 0 || licInvalid (genField s g 0 8) then refuse s i none Code.limitRange
  else
    let crc := crc32 ((List.range 0x2A8).map (fun k => s.otp.bytes.getD (genBase g + k) 0))
    let s1 := otpProgram (otpProgram s (genBase g + 0x2AC) (leBytes 4 crc)) (genBase g + 0x2A8) (leBytes 4 sealWord)
    finish s1 i none Code.ok (w64 g) 0

def otpVoidAct (s : State) (i : Inst) : State :=
  let g := genNext s
  if g = 0xFF then refuse s i none Code.otpExhausted
  else finish (otpProgram s (genBase g + 0x2A8) (leBytes 4 voidWord)) i none Code.ok (w64 g) 0

/-- The array programs one thing at a time. -/
def otpRow (s : State) (c : Nat) (go : State → Inst → State) : State :=
  if programming s then s else cmdRowIf s 11 0x10 (fun i => i.arg 0 % 2 ^ 32 == c) go

def execOtpSeal (s : State) : Out3 := .next (otpRow s sealWord otpSealAct)
def execOtpVoid (s : State) : Out3 := .next (otpRow s voidWord otpVoidAct)

/-! ## The soft reload (R388 to R390) -/

/-- The state as a soft reload would leave generation, defaults and RESET-class values. -/
def reloadView (s : State) : State := resetWritesDue (otpSelect s)

/-- Flash objects that would change. -/
def flashChanges (s v : State) : Bool := [0x60, 0x65, 0x66].any (fun i => valU v 2 i != valU s 2 i)

/-- Table BOOT-4: 0 or the code. -/
def reloadCode (s : State) : Nat :=
  let v := reloadView s
  let floor := (v.otp.gen.map (fun g => genField v g 0x10 8)).getD 0
  let res := residents s
  if reloading s then Code.partState
  else if s.core.change.isSome then Code.fwBusy
  else if ((bankVer s s.core.bank).getD 0) < floor then Code.fwFloor
  else if res.any (fun e => ((e.2.modes.trainAdpt || e.2.modes.trainTrait) && !cfgTrain v) ||
      ((e.2.modes.servePenra || e.2.modes.spec || e.2.modes.ember) && !cfgCkeep v)) then Code.optionAbsent
  else if res.any (fun e => decide (2 ^ cfgQuads v ≤ (lastVal s 7 0x20 (e.2.slot.getD 0)).toNat) || !hasClamp s e.1) ||
      s.mp.up.any (fun m => !(portsEnabled v).contains m) then Code.limitRange
  else if flashChanges s v && !(t3Objs s).isEmpty then Code.objBusy
  else Code.ok

/-- A resident partition leaves at once: an ordinary pre-emption in progress becomes urgent. -/
def reloadLeave (s : State) (d : Nat) : State :=
  match partOf s d with
  | some P => if preempting P then updPart s d (fun P => { P with preempt := P.preempt.map (fun q => { q with kind := 2 }) }) else preemptBegin s d 2
  | none => s

def resetSoftAct (s : State) (i : Inst) : State :=
  let c := reloadCode s
  if c ≠ 0 then refuse s i none c
  else
    let s1 := replayAbort (setInst s { i with st := .pending, part := 32 })
    let r : Reload := {
      path := i.path, cseq := i.cseq, worked := false
      slots := (residents s).filterMap (fun e => e.2.slot.map (fun p => (e.1, p)))
      oldGen := s.otp.gen.getD 0xFF }
    let s2 := { s1 with boot := { s1.boot with reload := some r } }
    forEach (residents s2) s2 (fun s e => reloadLeave s e.1)

def execResetSoft (s : State) : Out3 := .next (cmdRow s 1 1 resetSoftAct)

/-- The reload work of R390, with the handshakes and the mount that follow it. -/
def reloadWork (s : State) (r : Reload) : State :=
  let changed := flashChanges s (reloadView s)
  let s1 := otpSelect s
  let off := (List.range 34).filter (fun t => bitOf (tileDis s1) t && decide (tileState s1 t < 2))
  let s2 := forEach off s1 mapOutTile
  let s3 := resetWritesDue (updCore s2 (fun c => { c with wdogHalf := false }))
  let mhz := valU s3 1 4
  let fresh := (portsEnabled s3).filter (fun m => !s3.mp.initReq.contains m)
  let mount := anyFlash s3 && (changed || !s3.fl.present)
  let s4 := { s3 with
    mp := { s3.mp with initReq := s3.mp.initReq ++ fresh }
    boot := { s3.boot with
      tileMhz := mhz
      plls := if mhz = s.boot.tileMhz then s3.boot.plls else s3.boot.plls.filter (· != 0)
      mountDue := mount
      reload := some { r with worked := true } } }
  reloadSettle (if mount || changed then updFl s4 (fun f => { f with present := false }) else s4)

def execSoftReloadWork (s : State) : Out3 :=
  .next (match s.boot.reload with
    | some r => if held s || r.worked || !(residents s).isEmpty then s else reloadWork s r
    | none => s)

/-! ## The time-of-day input (R370) -/

/-- A sample, and source 47 where its validity changes. -/
def todSample (s : State) (sec ns : Nat) (lock : Bool) : State :=
  let sec' := sec % 2 ^ 48
  let ns' := ns % 2 ^ 32
  let late := s.tod.any && decide (sec' * 1000000000 + ns' < s.tod.sec * 1000000000 + s.tod.ns)
  let ok := lock && decide (ns' < 1000000000) && !late
  let s1 := { s with tod := if ok then { valid := true, sec := sec', ns := ns', any := true } else { s.tod with valid := false } }
  if ok = s.tod.valid then s1 else latch s1 47

def execTodSample (sec ns : Nat) (lock : Bool) (s : State) : Out3 := .next (if held s then s else todSample s sec ns lock)

end Sys2Proof.Machine
end

