-- ==== Sys2Proof/Machine/Replay.lean ====
section
/-! DEFINITION. A replay (R426 to R433): the record and the capture as they are read, the step run again from them on a copy of
the state that nothing of the machine sees, and what the run gives: digests, export records, the writes of a dumped target. -/

namespace Sys2Proof.Machine

/-- A word of a structure in T1. -/
def t1Word (s : State) (addr n : Nat) : Nat := (wordAt s.mem (memKey 0 (addr + 8 * n))).toNat

/-- Bytes of T1. -/
def t1Raw (s : State) (addr n : Nat) : List Byte := bytesAt s.mem (memKey 0 addr) n

/-! ## The record (R422 to R424) -/

/-- The record's LEN, NEV, and the address of its event entries. -/
def recLen (s : State) (a : Nat) : Nat := fld (t1Word s a 6) 63 32
def recNev (s : State) (a : Nat) : Nat := fld (t1Word s a 6) 31 0
def recEvents (s : State) (a : Nat) : Nat := a + recLen s a - a64 (16 * recNev s a)

/-- The address of the record's manifest. -/
def recMan (a : Nat) : Nat := a + 64 + 4032

/-- The generation entries of the record's manifest (Tables CTX-6 and CTX-9). -/
def recGens (s : State) (a : Nat) : List Nat :=
  let m := recMan a
  let at0 := m + 64 + a64 (16 * fld (t1Word s m 2) 63 45) + a64 (64 * fld (t1Word s m 4) 31 0)
  (List.range (fld (t1Word s m 4) 63 32)).map (fun i => t1Word s at0 i)

/-- The event entries of a record, the DIGEST entries among them, and the others. -/
def recAll (s : State) (a : Nat) : List (W64 × W64) :=
  (List.range (recNev s a)).map (fun i =>
    (wordAt s.mem (memKey 0 (recEvents s a + 16 * i)), wordAt s.mem (memKey 0 (recEvents s a + 16 * i + 8))))

def recDigests (s : State) (a : Nat) : List (W64 × W64) := (recAll s a).filter (fun e => wfld e.1 63 59 == 13)
def recDecisions (s : State) (a : Nat) : List (W64 × W64) := (recAll s a).filter (fun e => wfld e.1 63 59 != 13)

/-- The values of the object block, each with its object and element in slot `p`. -/
def recObjs (s : State) (a p : Nat) : List (Nat × W64) :=
  let names := blockObjs.flatMap (fun o => (slotElems o p).map (fun e => okey o.area o.item e))
  (List.zip (List.range names.length) names).map (fun x => (x.2, w64 (t1Word s (a + 64) x.1)))

/-! ## Decisions (R429) -/

/-- An entry names a window. -/
def entryAt (k : PosKey) (e : W64 × W64) : Bool :=
  wfld e.1 58 58 == (if k.bwd then 1 else 0) && wfld e.1 57 50 == k.layer && wfld e.1 49 46 == k.tslot && wfld e.1 45 36 == k.win

/-- An entry of a decision that leaves rows without terms: BYPASS, OVERRUN, PP_SEQ, TILE_FAULT, KINDLE_FAIL, CAPACITY. -/
def entryLoses (e : W64 × W64) : Bool := decide (3 ≤ wfld e.1 63 59) && decide (wfld e.1 63 59 ≤ 8)

def entryAll (e : W64 × W64) : Bool := wfld e.1 17 17 == 1

/-- Every row of the window has lost its terms. -/
def recDead (l : List (W64 × W64)) (k : PosKey) : Bool := l.any (fun e => entryAt k e && entryLoses e && entryAll e)

/-- The host rows of the window that have lost their terms one by one. A PP_SEQ entry of no whole window is that of a record
that was discarded. -/
def recLost (l : List (W64 × W64)) (k : PosKey) : List Nat :=
  (l.filter (fun e => entryAt k e && entryLoses e && !entryAll e && wfld e.1 63 59 != 5)).map (fun e => wfld e.1 35 18)

/-- The touched-list indices that PEN_DROP entries name. -/
def recPenDrops (l : List (W64 × W64)) : List Nat := (l.filter (fun e => wfld e.1 63 59 == 10)).map (fun e => e.2.toNat)

/-- The missing entries of bags: the bag's first row and the entry (EKIND 11). -/
def recMissed (l : List (W64 × W64)) : List (Nat × Nat) := (l.filter (fun e => wfld e.1 63 59 == 11)).map (fun e => (wfld e.1 35 18, wfld e.2 8 0))

/-! ## The capture (R426) -/

/-- A record of the AP section with its payload beats. -/
structure ApRec where
  w0 : W64
  w1 : W64
  payload : List (BitVec 2048)
  deriving DecidableEq, Repr

/-- Beats with their AP_SOR, as records in arrival order: a beat before the first record belongs to none. -/
def apSplit (l : List (Bool × BitVec 2048)) : List ApRec :=
  (l.foldr (fun (b : Bool × BitVec 2048) (a : List ApRec × List (BitVec 2048)) =>
    if b.1 then ({ w0 := w64 (b.2.toNat % 2 ^ 64), w1 := w64 (b.2.toNat / 2 ^ 64 % 2 ^ 64), payload := a.2 } :: a.1, []) else (a.1, b.2 :: a.2))
    ([], [])).1

/-- The AP section of a capture. -/
def capAp (s : State) (c : Nat) : List ApRec :=
  apSplit ((List.range (fld (t1Word s c 2) 63 32)).map (fun i =>
    (bitOf (leNat (t1Raw s (c + t1Word s c 5 + i / 8) 1)) (i % 8), BitVec.ofNat 2048 (leNat (t1Raw s (c + t1Word s c 4 + 256 * i) 256)))))

/-- Panel `j` of a window of `n` rows in the AP section. -/
def apPanel (l : List ApRec) (k : PosKey) (n j : Nat) : Option Panel :=
  (l.find? (fun r => recKind r.w1 == 1 && recKey r.w0 r.w1 == { k with tick := 8 * j } && recRows r.w1 == n && decide (n ≤ r.payload.length))).map
    (fun r => { num := j, rows := r.payload.take n })

/-- Every panel of a window; none where the AP section lacks one. -/
def apPanels (l : List ApRec) (k : PosKey) (n panels : Nat) : Option (List Panel) :=
  let ps := (List.range panels).filterMap (apPanel l k n)
  if ps.length = panels then some ps else none

/-- The AP section ends with the step's OUTCOME record, whole. -/
def apOutcome (l : List ApRec) (step : Nat) : Bool :=
  l.any (fun r => recKind r.w1 == 3 && (recKey r.w0 r.w1).step == step && decide (outcomeBeats r.payload ≤ r.payload.length))

/-- The key of a chunk in the XP section. -/
def xpKeyWord (k : PosKey) (buf row chunk : Nat) : Nat :=
  (if k.bwd then 2 ^ 63 else 0) + k.layer * 2 ^ 55 + k.tslot * 2 ^ 51 + k.win * 2 ^ 41 + buf * 2 ^ 39 + row * 2 ^ 31 + chunk * 2 ^ 25

/-- The data that the XP section gives for a chunk. -/
def capXp (s : State) (c key : Nat) : Option (List Nat) :=
  let base := c + t1Word s c 6
  ((List.range (fld (t1Word s c 2) 31 0)).find? (fun i => t1Word s (base + 2112 * i) 0 / 2 ^ 25 == key / 2 ^ 25)).map (fun i =>
    let w := leNat (t1Raw s (base + 2112 * i + 64) 2048)
    (List.range 512).map (fun j => elemAt w 32 j))

/-- The override entries: handle, extent, bytes, T1 address. -/
def capOvrs (s : State) (c : Nat) : List (Nat × Nat × Nat × Nat) :=
  let base := c + t1Word s c 7
  (List.range (fld (t1Word s c 3) 63 32)).map (fun i =>
    let e := base + 32 * i
    (fld (t1Word s e 0) 63 44, fld (t1Word s e 1) 63 32, t1Word s e 2, t1Word s e 3))

/-- The target of a DUMP. -/
def capDumps (s : State) (c : Nat) (k : PosKey) : Bool :=
  let w := t1Word s c 1
  bitOf w 18 && bitOf w 17 == k.bwd && fld w 16 9 == k.layer && fld w 8 5 == k.tslot

/-! ## Generations (R427) -/

/-- The generation of an adapter or a basis pair that is current or previous. -/
def genKept (a : Adpt) (gen : Nat) : Option AGen := (a.cur.toList ++ a.prev.toList).find? (fun g => g.gen == gen)

/-- A generation that the record names can be read as that generation. -/
def genThere (s : State) (d g : Nat) : Bool :=
  match partOf s d with
  | none => false
  | some P =>
    let gid := fld g 61 16
    let gen := fld g 15 0
    match fld g 63 62 with
    | 0 => (genKept (P.adpts.getD (gid % 2 ^ 24) {}) gen).isSome
    | 1 => (genKept (P.pairs.getD gid {}) gen).isSome
    | _ => ((P.traits.tbls.find? gid).map (·.gen)) == some gen

/-- The objects that the bytes of a named generation lie in. -/
def genHandles (s : State) (d g : Nat) : List Nat :=
  match partOf s d with
  | none => []
  | some P =>
    let gid := fld g 61 16
    let image (a : AGen) : List Nat :=
      if a.src = 1 then [a.base]
      else (s.tm.objs.filter (fun o => o.1 / 2 ^ 20 == d && o.2.home == 1 && o.2.base == a.base)).map (fun o => o.1 % 2 ^ 20)
    let both (a : Adpt) : List Nat := (a.cur.toList ++ a.prev.toList).flatMap image
    match fld g 63 62 with
    | 0 => both (P.adpts.getD (gid % 2 ^ 24) {})
    | 1 => both (P.pairs.getD gid {})
    | _ => ((P.traits.tbls.find? gid).map (fun t => [tblHandle t.desc false, tblHandle t.desc true])).getD []

/-- A generation fails under R427: it cannot be read, and no override covers its bytes. -/
def genFails (s : State) (d c g : Nat) : Bool :=
  !genThere s d g && !(capOvrs s c).any (fun o => (genHandles s d g).contains o.1)

/-- The generation that the run reads under a number: the one kept, or, its bytes coming from overrides, the current one's sections. -/
def genRead (a : Adpt) (gen : Nat) : Option AGen :=
  match genKept a gen with
  | some g => some g
  | none => a.cur.map (fun g => { g with gen := gen })

/-! ## The copy that the step is run on -/

/-- The bytes of the overrides stand in place of the extents' own (R426). -/
def ovrApply (s : State) (d c : Nat) : State :=
  forEach (capOvrs s c) s (fun t o =>
    let x := xKey d o.1 o.2.1
    let bs := t1Raw s o.2.2.2 (Nat.min o.2.2.1 (extSize s x))
    let t1 := { t with tm := { t.tm with xt := t.tm.xt.del x } }
    { t1 with mem := storeBytes t1.mem (homeAt t1 x 0).2.2 bs })

/-- Where the run collects its export records: a ring of its own. -/
def replayRing : Nat := 2 ^ 51

/-- The objects of the replay partition: the record's values, with R429's in place of its plan and of its export ring. -/
def replayVals (s : State) (r : Replay) : Tab W64 :=
  let own : List (Nat × W64) := [(okey 7 0x20 r.slot, w64 r.quads), (okey 7 0x40 r.slot, 0), (okey 5 0x30 r.slot, w64 replayRing),
    (okey 5 0x31 r.slot, w64 (2 ^ 44)), (okey 5 0x33 r.slot, 0), (okey 5 0x34 r.slot, 7)]
  (recObjs s r.recAt r.slot ++ own).foldl (fun t e => t.put e.1 e.2) s.od.vals

/-- The bindings of a manifest's contexts, as the mirrors of their records hold them (R400; log entry 72). -/
def replayBinds (s : State) (d : Nat) (m : Man) : Tab (List W64 × Nat) :=
  (manCtxs m).foldl (fun t c =>
    let a := ctxSlotAddr s d c + 3072
    t.put c ((List.range 5).map (fun i => w64 (t1Word s a (6 + i))), fld (t1Word s a 3) 23 15)) []

/-- The adapters and basis pairs of the generations that the record names. -/
def replayAdpts (P : Part) (gens : List Nat) : Part :=
  gens.foldl (fun (P : Part) g =>
    let gid := fld g 61 16
    let gen := fld g 15 0
    match fld g 63 62 with
    | 0 =>
      let a := P.adpts.getD (gid % 2 ^ 24) {}
      let x := genRead a gen
      { P with adpts := P.adpts.put (gid % 2 ^ 24) (if gid < 2 ^ 24 then { cur := x, prev := a.cur.toList.head? } else { a with prev := x }) }
    | 1 => let a := P.pairs.getD gid {}; { P with pairs := P.pairs.put gid { cur := genRead a gen } }
    | _ => P) P

/-- The replay partition before its units are kindled: the recorded step in progress on it, and nothing else. -/
def replayPart (P : Part) (r : Replay) (m : Man) (gens steps : List Nat) : Part :=
  let Q := replayAdpts P gens
  { Q with
    st := .running, slot := some r.slot, step := m.step, inStep := true, man := some m, frozen := false, cand := none, hostNext := none,
    outc := none, merged := false, stream := {}, flags := [], wins := [], units := [], share := [], holds := [], preempt := none,
    traits := { P.traits with phase := none, prev := none, waiting := none }
    train := { atts := P.train.atts, groupStep := (List.zip (List.range 64) steps).foldl (fun t e => t.set 0 e.1 e.2) [] } }

/-- A copy of the state in which the replay partition alone is resident, with the record's objects and the capture's overrides. -/
def replayCopy (s : State) (d : Nat) (r : Replay) : State :=
  let s1 := ovrApply { s with
    od := { s.od with vals := replayVals s r, ovrs := [], pend := [], bundles := [] }
    mp := { s.mp with waiting := [], out := [] }
    xp := {}
    dbg := { s.dbg with recs := [], replay := none } } d r.capAt
  match partOf s d with
  | none => s1
  | some P =>
    let m0 := manParse (fld (t1Word s r.recAt 1) 63 24) (t1Raw s (recMan r.recAt) (t1Word s (recMan r.recAt) 5))
    let s2 := { s1 with parts := [(d, { P with slot := some r.slot })] }
    let m1 := { m0 with binds := replayBinds s2 d m0 }
    let steps := (List.range 64).map (fun g => (lastVal s2 5 0x40 (64 * r.slot + g)).toNat)
    let Q := replayPart P r m1 (recGens s r.recAt) steps
    let m := { m1 with target := (dedup (manBinds m1)).any (bindStreams Q) }
    { s2 with parts := [(d, { Q with man := some m })] }

/-- The rows of tables that were missing in the recorded step: those of the missing entries that no entry which was pooled reads. -/
def replayMissing (s : State) (d : Nat) (P : Part) (m : Man) (missed : List (Nat × Nat)) : List (Nat × Nat × Nat) :=
  let rowsOf (gone : Bool) : List (Nat × Nat × Nat) := (bagsOf s d P m).flatMap (fun b =>
    (List.zip (List.range b.n) (bagEntries s b)).flatMap (fun e =>
      if missed.contains (b.row, e.1) != gone then []
      else match entryTbl P b e.2 with
        | some w => (physRows w e.2.2).map (fun r => (e.2.1, (if r.1 then 1 else 0), r.2))
        | none => []))
  let kept := rowsOf false
  dedup ((rowsOf true).filter (fun x => !kept.contains x))

/-- Pooling, and the units of the step with every item in the share. -/
def replayKindle (s : State) (d : Nat) (decs : List (W64 × W64)) : State :=
  match (partOf s d).bind (fun P => P.man.map (fun m => (P, m))) with
  | none => s
  | some (P, m) =>
    let ph : PoolPhase := { step := m.step, rows := indexList s d P m, owed := 0, missing := replayMissing s d P m (recMissed decs), done := false }
    let list : TList := { step := m.step, items := stepItems P ph.rows, complete := true, runs := P.train.atts.map (fun e => (e.1, e.2.run)) }
    let s1 := poolFinish (updPart s d (fun P => { P with
      traits := { P.traits with phase := some ph }
      train := { P.train with lists := if training P then [list] else [] } })) d
    let us := (stepUnits P m.target)
    let units := ((List.zip (List.range us.length) us).foldl (fun (a : List LsUnit × Nat) x =>
      let kinds := unitItems P m x.2
      let items := layItems a.2 kinds (fun k line n =>
        { newItem P x.2.2.1 false k line n with st := 1, data := leNat (itemBytes s1 d ((partOf s1 d).getD P) m.step x.2.2.1 k) })
      let u : LsUnit := { step := m.step, idx := x.1, place := 2 * x.1, bwd := x.2.1, layer := x.2.2.1, slot := x.2.2.2, items := items, dirty := [] }
      (a.1 ++ [u], a.2 + sumBy kinds (·.2))) ([], 0)).1
    updPart s1 d (fun P => { P with units := units })

/-! ## The windows -/

/-- The chunks that the run reads for a window: buffer, host row, chunk. -/
def replayReads (s : State) (d : Nat) (c : WinCtx) : List (Nat × Nat × Nat) :=
  if c.w.key.bwd then gradReads s d c ++ (mergeList c).filter (fun x => x.1 == 3) else mergeList c

/-- The units of a stage of a window, one after the other (R71 to R73). -/
def replayStage (s : State) (p d : Nat) (c : WinCtx) (stage : Stage) (units : List Nat) : State × WinCtx :=
  let c0 := { c with w := { c.w with stage := stage } }
  units.foldl (fun (a : State × WinCtx) u => (unitCensus a.1 d a.2 u, { a.2 with w := (unitValues a.1 p d a.2 u).1 })) (s, c0)

/-- What Scale hands to Merge for a chunk (R45, R46). -/
def replayScale (c : WinCtx) (x : Nat × Nat × Nat) : List Nat × List Nat :=
  if x.1 = 3 then ([], [])
  else
    let cols := (List.range (Nat.min 512 (c.tgt.dout - 512 * x.2.2))).map (fun q => 512 * x.2.2 + q)
    (cols.filterMap (fun j => (rowScale c x.2.1 j).map (·.1)), cols.filterMap (fun j => (rowBias c x.2.1 j).map (·.1)))

/-- The values of a window, from its panels and chunks to the chunks that Merge writes (R27 to R31, R196, R197). -/
def replayValues (s : State) (p d : Nat) (c : WinCtx) : State × WinCtx :=
  let (s1, c1) := replayStage s p d c .shrink ((shrinkAll c).map (·.1))
  let c2 := { c1 with w := { c1.w with inter := (interAll c1).1 } }
  let (s2, c3) := replayStage s1 p d c2 .core (List.range (coreUnits c2).length)
  let (s3, c4) := replayStage s2 p d c3 .expand (List.range (expandCount c3.w (outDim c3)))
  let l := mergeList c4
  let key (x : Nat × Nat × Nat) : Nat := chunkKey x.1 (x.2.1 % 256) x.2.2
  let c5 := { c4 with w := { c4.w with scaled := l.foldl (fun t x => t.put (key x) (replayScale c4 x)) [] } }
  let g16 := valD s 8 0x31 d 0 == 1
  (s3, { c5 with w := { c5.w with stage := .merged, writes := l.foldl (fun t x => t.put (key x) (mergeChunk c5 g16 x).1) [] } })

/-- The state of a run: the copy, the digests in order, the writes of the dumped target, whether the capture has run short. -/
structure RRun where
  s : State
  digests : List (W64 × W64) := []
  dump : List Byte := []
  short : Bool := false
  deriving DecidableEq, Repr

/-- What training keeps of a window that has merged, and the weight-gradient phase behind the last of its target (R199, R200, R205). -/
def replayTrain (s : State) (d : Nat) (k : PosKey) (last : Bool) : State :=
  match partOf s d with
  | none => s
  | some P =>
    match (winOf P k).bind (winShape P) with
    | none => s
    | some c =>
      let s1 :=
        if k.bwd then
          (let sA := if P.modes.trainAdpt then keepStash s d c (valD s 8 0x30 d 4) else s
           if P.modes.trainTrait then poolAccumulate sA d c else sA)
        else if P.modes.trainAdpt then keepSave s d c else s
      if last && k.bwd && training P then
        (match (partOf s1 d).bind (fun P => phaseCtx s1 d P k.layer k.tslot) with
         | some c => phaseGrads s1 d c
         | none => s1)
      else s1

/-- One window of the pass. -/
def replayWin (p d cap : Nat) (aps : List ApRec) (decs : List (W64 × W64)) (a : RRun) (k : PosKey) : RRun :=
  match partOf a.s d with
  | none => a
  | some P =>
    match tgtOf P k.layer k.tslot, P.man with
    | some t, some m =>
      if a.short then a
      else
        let n := winSize m k.win
        let last := decide (k.win + 1 = manWins m)
        let w0 : Win := { key := k, n := n, tiles := groupTiles a.s p d false, dead := if recDead decs k then some 4 else none,
                          out := (recLost decs k).map (· % 256), seen := panelsOf t }
        let s1 := updPart a.s d (fun P => { P with wins := [w0] })
        match (partOf s1 d).bind (fun P => winShape P w0) with
        | none => a
        | some c0 =>
          if (liveRows c0).isEmpty then { a with s := replayTrain (setWin s1 d { w0 with stage := .merged }) d k last }
          else
            let reads := replayReads s1 d c0
            let data := reads.filterMap (fun x => (capXp s1 cap (xpKeyWord k x.1 (x.2.1 % 256) x.2.2)).map (fun v => (x, v)))
            match apPanels aps k n (panelsOf t) with
            | none => { a with short := true }
            | some panels =>
              if data.length ≠ reads.length then { a with short := true }
              else
                let s2 := setWin s1 d { w0 with panels := panels }
                let s3 := forEach data s2 (fun s x =>
                  match (partOf s d).bind (fun P => (winOf P k).bind (winShape P)) with
                  | some c => xpTake s d c x.1.1 (x.1.2.1 % 256) x.1.2.2 x.2
                  | none => s)
                match (partOf s3 d).bind (fun P => (winOf P k).bind (winShape P)) with
                | none => a
                | some c1 =>
                  let (s4, c) := replayValues s3 p d c1
                  let g16 := valD s4 8 0x31 d 0 == 1
                  { a with
                    s := replayTrain (setWin s4 d c.w) d k last
                    digests := a.digests ++ (digestEntry g16 c).toList
                    dump := a.dump ++ (if capDumps s4 cap k then
                      c.w.writes.flatMap (fun e => leBytes 2048 (packElems (if g16 && e.1 / 16384 == 1 then 16 else 32) e.2)) else []) }
    | _, _ => a

/-! ## Training (R206 to R211) -/

/-- Pass 2 of one item of the recorded step, but for one that the record's PEN_DROP entries name; the number of records exported. -/
def replayItem (d step : Nat) (drops : List Nat) (a : State × Nat) (it : Item) : State × Nat :=
  match partOf a.1 d with
  | none => a
  | some P =>
    match listOf P.train step, P.train.atts.find? it.att with
    | some l, some att =>
      let gone := drops.contains (listIndex l it)
      let s1 := match itemRes l it with
        | some r => if gone then a.1 else if it.trait then updateRow a.1 d P att l it r else updateTensor a.1 d P att l it r
        | none => a.1
      let mark (x : Item) : Item := if x == it then { it with done := !gone, dropped := gone } else x
      let s2 := updTrain s1 d (fun T => setList T { l with items := l.items.map mark })
      let head (s : State) : Nat := ((partOf s d).map (fun P => P.train.expHead)).getD 0
      (s2, if head s2 = head a.1 then a.2 else a.2 + 1)
    | _, _ => a

/-- The updates of the recorded step, in key order: trait gradients, pass 1 of every group, pass 2 of every item. -/
def replayUpdates (s : State) (d : Nat) (decs : List (W64 × W64)) : State × Nat :=
  match (partOf s d).bind (fun P => P.man.bind (fun m => (listOf P.train m.step).map (fun l => (P, m, l)))) with
  | none => (s, 0)
  | some (P, m, l) =>
    let s1 := match stepPhase P m.step with
      | some ph => traitGrads s d P m ph l
      | none => s
    let s2 := forEach (listGroups l) s1 (fun s g =>
      match (partOf s d).bind (fun P => (listOf P.train m.step).map (fun l => (P, l))) with
      | some (P, l) => groupPut s d P l g (groupDecide s d P.train l g)
      | none => s)
    l.items.foldl (replayItem d m.step (recPenDrops decs)) (s2, 0)

/-! ## The run and its output (R430) -/

/-- The rows that the record's decisions leave without a gradient (R201). -/
def replayNoGrad (P : Part) (m : Man) (decs : List (W64 × W64)) : List Nat :=
  dedup ((passWins P m).flatMap (fun k =>
    if recDead decs k then usedRows P { key := k, n := winSize m k.win } else recLost decs k))

/-- What a run gives: digests, export records with their number, the dump, and whether the capture ran short. -/
structure ROut where
  digests : List (W64 × W64)
  exports : Nat
  bytes : List Byte
  dump : List Byte
  short : Bool
  deriving DecidableEq, Repr

/-- Run the recorded step. -/
def replayStep (s : State) (r : Replay) : ROut :=
  let d := fld (t1Word s r.recAt 1) 23 19
  let decs := recDecisions s r.recAt
  let s1 := replayKindle (replayCopy s d r) d decs
  match (partOf s1 d).bind (fun P => P.man.map (fun m => (P, m))) with
  | none => { digests := [], exports := 0, bytes := [], dump := [], short := true }
  | some (P, m) =>
    let s2 := noGradient s1 d (replayNoGrad P m decs)
    let aps := capAp s r.capAt
    let a := (passWins P m).foldl (replayWin r.slot d r.capAt aps decs) { s := s2 }
    if a.short || !apOutcome aps m.step then { digests := a.digests, exports := 0, bytes := [], dump := [], short := true }
    else
      let u := replayUpdates a.s d decs
      let n := ((partOf u.1 d).map (fun P => P.train.expHead)).getD 0
      { digests := a.digests, exports := u.2, bytes := t1Raw u.1 replayRing n, dump := a.dump, short := false }

/-- The output header. -/
def replayHeader (step code written differ first exports : Nat) : List W64 :=
  [w64 (0x52504F55 * 2 ^ 32 + 2 ^ 16), w64 (step % 2 ^ 40 * 2 ^ 24 + code % 2 ^ 16), w64 (written % 2 ^ 32 * 2 ^ 32 + differ % 2 ^ 32),
   w64 (first % 2 ^ 32 * 2 ^ 32 + exports % 2 ^ 32), 0, 0, 0, 0]

/-- The digests of a run that are not the record's, by their places. -/
def digestsDiffer (recorded run : List (W64 × W64)) : List Nat :=
  (List.range run.length).filter (fun k => recorded[k]? != run[k]?)

/-- The output of a run: a capture that ran short, or a region too small, ends it with REPLAY_MISSING at the digest where it
stopped. -/
def replayOutput (s : State) (r : Replay) : State × Nat :=
  let o := replayStep s r
  let region := r.capAt + t1Word s r.capAt 8
  let room := t1Word s r.capAt 9
  let step := fld (t1Word s r.capAt 1) 63 24
  let fits := decide (64 + 16 * o.digests.length + o.bytes.length + o.dump.length ≤ room)
  let ok := !o.short && fits
  let shown := if ok then o.digests else o.digests.take ((room - 64) / 16)
  let bad := digestsDiffer (recDigests s r.recAt) shown
  let code := if ok then Code.ok else Code.replayMissing
  let first := if ok then bad.headD 0xFFFFFFFF else shown.length
  let all := wordBytes (replayHeader step code shown.length bad.length first (if ok then o.exports else 0)) ++
    wordBytes (shown.flatMap (fun e => [e.1, e.2])) ++ (if ok then o.bytes ++ o.dump else [])
  (((chunks 4096 (all.take room)).foldl (fun (x : State × Nat) b => (writeT1 x.1 32 x.2 b, x.2 + b.length)) (s, region)).1, code)

end Sys2Proof.Machine
end

