-- ==== Sys2Proof/Machine/DebugCmds.lean ====
section
/-! DEFINITION. Test, debug and replay (spec/20_debug_replay.md): REPLAY_RUN and its end (R428 to R431), the TAP (R416,
R417) and TEST_MODE (R418). -/

namespace Sys2Proof.Machine

/-! ## REPLAY_RUN (R428) -/

/-- Quads that no resident QMASK holds. -/
def quadsFree (s : State) : List Nat :=
  (List.range (cfgQuads s)).filter (fun q =>
    !(residents s).any (fun e => bitOf (lastVal s 7 0x20 (e.2.slot.getD 0)).toNat q))

/-- Working tiles that lie in free quads. -/
def tilesFree (s : State) : Nat :=
  ((List.range (cfgTiles s)).filter (fun l => (quadsFree s).contains (l / 4) && physTile s l != 0xFF)).length

/-- The word of the object block that holds an object indexed by slot. -/
def blockWord (area item : Nat) : Nat :=
  sumBy (blockObjs.filter (fun o => decide (o.area * 2 ^ 16 + o.item < area * 2 ^ 16 + item))) (fun o => (slotElems o 0).length)

/-- A replay record that is whole (Table DBG-4). -/
def recWhole (s : State) (a : Nat) : Bool :=
  let n := recLen s a
  let bs := bytesAt s.mem (memKey 0 a) n
  fld (t1Word s a 0) 63 32 == 0x52505245 && fld (t1Word s a 0) 31 16 == 1 && decide (64 ≤ n) &&
    crc32 (bs.take 56 ++ List.replicate 4 0 ++ bs.drop 60) == fld (t1Word s a 7) 31 0

/-- A capture header that is whole (Table DBG-7). -/
def capWhole (s : State) (a : Nat) : Bool :=
  fld (t1Word s a 0) 63 32 == 0x52504341 && fld (t1Word s a 0) 31 16 == 1 &&
    crc32 (bytesAt s.mem (memKey 0 a) 124) == fld (t1Word s a 15) 63 32

/-- R428: 0 or the code. -/
def replayCode (s : State) (i : Inst) : Nat :=
  let d := i.arg 0 % 32
  let step := i.arg 1 % 2 ^ 40
  let r := i.arg 2 % 2 ^ 52
  let c := i.arg 3 % 2 ^ 52
  let names (a : Nat) : Bool := fld (t1Word s a 1) 63 24 == step && fld (t1Word s a 1) 23 19 == d
  if !recWhole s r || !capWhole s c || bitOf (t1Word s r 0) 15 || !names r || !names c then Code.replayMissing
  else if t1Word s r 2 ≠ (bankVer s s.core.bank).getD 0 then Code.replayMissing
  else if (recGens s r).any (genFails s d c) then Code.replayMissing
  else if s.dbg.replay.isSome || (freeSlot s).isNone || tilesFree s < 3 ||
      granulesFree s < t1Word s (r + 64) (blockWord 7 0x50) then Code.replayBusy
  else Code.ok

/-- The replay begins on the lowest free slot, with every free quad (R429). -/
def replayRunAct (s : State) (i : Inst) : State :=
  let c := replayCode s i
  if c ≠ 0 then refuse s i none c
  else
    let s1 := setInst s { i with st := .pending, part := 32 }
    let r : Replay :=
      { path := i.path
        cseq := i.cseq
        slot := (freeSlot s).getD 0
        recAt := i.arg 2 % 2 ^ 52
        capAt := i.arg 3 % 2 ^ 52
        granules := t1Word s (i.arg 2 % 2 ^ 52 + 64) (blockWord 7 0x50)
        quads := (quadsFree s).foldl (fun a q => a + 2 ^ q) 0 }
    { s1 with dbg := { s1.dbg with replay := some r } }

def execReplayRun (s : State) : Out3 := .next (cmdRow s 10 0x43 replayRunAct)

/-! ## The end of a replay (R430) -/

/-- The run ends: its output is in the region, and its command with it. What the run takes from the bandwidth of the ports is
timing (log entry 72). -/
def replayEnd (s : State) : State :=
  match s.dbg.replay with
  | none => s
  | some r =>
    match s.od.insts.find? (fun i => i.area == 10 && i.item == 0x43 && i.path == r.path && i.cseq == r.cseq) with
    | none => s
    | some i =>
      let x := replayOutput s r
      finish { x.1 with dbg := { x.1.dbg with replay := none } } i none x.2 (if x.2 = Code.ok then w64 r.slot else 0) 0

def execReplayEnd (s : State) : Out3 := .next (if held s then s else replayEnd s)

/-! ## The TAP (R416, R417) -/

/-- A TAP instruction and what its data register then shifts out. -/
def tapSet (s : State) (ir : Nat) (dr : W64) : State := { s with dbg := { s.dbg with ir := ir, dr := dr } }

/-- The IDCODE of Table DBG-1. -/
def idcodeWord (s : State) : W64 :=
  w64 (s.silicon % 16 * 2 ^ 28 + 0x9E17 * 2 ^ 12 + Config.tapMfr.toNat * 2 + 1)

def execIdcode (s : State) : Out3 := .next (tapSet s 0x01 (idcodeWord s))
def execBypass (s : State) : Out3 := .next (tapSet s 0xFF 0)

/-- The data of the network, or of the scan chains: its layout comes with the netlist. -/
def tapDraw (s : State) (ir : Nat) : State := let (v, s1) := draw s; tapSet s1 ir v

/-- The network of Table DBG-2: `sibs` the instruments opened, `mbist` a run of a memory test controller with its result,
`sel` what is shifted into the DEBUG_MUX selector. -/
def ijtag (s : State) (sibs : Nat) (mbist : Option (Nat × Bool)) (sel : Option W64) : State :=
  let s1 := tapDraw s 0x10
  let s2 := match mbist with
    | some r =>
      if bitOf sibs 0 && s.boot.testMode then { s1 with dbg := { s1.dbg with mbist := s1.dbg.mbist.filter (fun x => x.1 != r.1) ++ [r] } }
      else s1
    | none => s1
  match sel with
  | some w => if bitOf sibs 5 && !held s then setVal s2 10 0x30 0 (w &&& 0xFF3F) else s2
  | none => s2

def execIjtag (sibs : Nat) (mbist : Option (Nat × Bool)) (sel : Option W64) (s : State) : Out3 := .next (ijtag s sibs mbist sel)

/-- SCAN shifts and captures only while TEST_MODE is high (R418). -/
def execScan (s : State) : Out3 := .next (if s.boot.testMode then tapDraw s 0x20 else tapSet s 0x20 s.dbg.dr)

/-! ## TEST_MODE (R418) -/

/-- Every domain is held as though PRST_N were low. -/
def testRise (s : State) : State :=
  if s.boot.testMode then s
  else let t := afterReset s; { t with boot := { t.boot with testMode := true } }

/-- The block stays held until the next hard reset. -/
def testFall (s : State) : State :=
  if s.boot.testMode then { s with boot := { s.boot with testMode := false, testHeld := !s.boot.prstLow } } else s

def execTestModeRise (s : State) : Out3 := .next (testRise s)
def execTestModeFall (s : State) : Out3 := .next (testFall s)

end Sys2Proof.Machine
end

