-- ==== Sys2Proof/Machine/Engine.lean ====
section
/-! DEFINITION. The Element Engine's arithmetic, conversion, reduction, scalar and control instructions
(Table EE-6), and the core's side of an engine: descriptors, FIFOs and scalar writes (R282, R308, R309). -/

namespace Sys2Proof.Machine

/-- R283. -/
def execSegmentStart (q p : Nat) (s : State) : Out3 := .next (startSegment s q p)

/-- END (R283). -/
def execEndSeg (q : Nat) (w : W64) (s : State) : Out3 :=
  .next (issueWord s q w.toNat 0x01 (fun _ _ => bitOf w.toNat 32) [] (fun _ sg => endSegment s q sg.control 0 sg.idx))

/-- SETLEN: LEN from IMM, or from SX[SXN] (Table EE-5e). -/
def execSetlen (q : Nat) (w : W64) (s : State) : Out3 :=
  .next (issueWord s q w.toNat 0x02 (fun _ _ => bitOf w.toNat 32) [] (fun e sg =>
    let v := if bitOf w.toNat 33 then (sxOf e sg.slot (fld w.toNat 55 50)).toNat else fld w.toNat 31 0
    let e1 := setLen e sg.slot v
    setEng s q { e1 with run := some sg.control.next }))

/-- SIG: post IMM [15:0] to the signal FIFO; a full FIFO stalls the engine (R309). -/
def execSig (q : Nat) (w : W64) (s : State) : Out3 :=
  .next (issueWord s q w.toNat 0x03 (fun _ _ => bitOf w.toNat 32) [] (fun e sg =>
    if 64 ≤ e.sigFifo.length then setEng s q { e with stalled := true }
    else setEng s q { e with sigFifo := e.sigFifo ++ [w64 (sg.slot * 2 ^ 16 + fld w.toNat 15 0)], stalled := false,
                             run := some sg.control.next }))

/-- FENCE: wait until every transfer of the slot on this engine has ended. -/
def execFence (q : Nat) (w : W64) (s : State) : Out3 :=
  .next (issueWord s q w.toNat 0x04 (fun _ _ => bitOf w.toNat 32) [] (fun e sg =>
    if e.xfers.any (fun x => x.slot == sg.slot) then s
    else setEng s q { e with run := some sg.control.next }))

/-- SXSET: SX[SXN] ← IMM, zero-extended. -/
def execSxset (q : Nat) (w : W64) (s : State) : Out3 :=
  .next (issueWord s q w.toNat 0x08 (fun _ _ => bitOf w.toNat 32) [] (fun e sg =>
    let e1 := setSx e sg.slot (fld w.toNat 55 50) (w64 (fld w.toNat 31 0))
    setEng s q { e1 with run := some sg.control.next }))

/-- SXGET: SX[SXN] ← element (GROW, GCOL) of MS, raw 32 bits, zero-extended. -/
def execSxget (q : Nat) (w : W64) (s : State) : Out3 :=
  .next (issueWord s q w.toNat 0x09 (fun _ sg => bitOf w.toNat 32 || !regOk s sg.slot (fld w.toNat 49 46)) [fld w.toNat 49 46]
    (fun e sg =>
      let v := elemAt (rowOf e (fld w.toNat 49 46) (fld w.toNat 45 41)) 32 (fld w.toNat 40 34)
      let e1 := setSx e sg.slot (fld w.toNat 55 50) (w64 v)
      let rd : List RegSpan := [{ reg := fld w.toNat 49 46, row := fld w.toNat 45 41, bits := 32, off := fld w.toNat 40 34, n := 1 }]
      setEng (plainRead s sg.slot e rd) q { e1 with run := some sg.control.next }))

/-- ADD. -/
def execAdd (q : Nat) (w : W64) (s : State) : Out3 := .next (eltwise s q w.toNat 0x10 true false .fp false (fun a b _ => f32Add a b))
/-- SUB. -/
def execSub (q : Nat) (w : W64) (s : State) : Out3 := .next (eltwise s q w.toNat 0x11 true false .fp false (fun a b _ => f32Sub a b))
/-- MUL. -/
def execMul (q : Nat) (w : W64) (s : State) : Out3 := .next (eltwise s q w.toNat 0x12 true false .fp false (fun a b _ => f32Mul a b))
/-- DIV: Slow with a register divisor (Table EE-6). -/
def execDiv (q : Nat) (w : W64) (s : State) : Out3 :=
  .next (eltwise s q w.toNat 0x13 true false .fp (fBsel w.toNat == 0) (fun a b _ => f32Div a b))
/-- SQRT. -/
def execSqrt (q : Nat) (w : W64) (s : State) : Out3 := .next (eltwise s q w.toNat 0x14 false false .fp true (fun a _ _ => f32Sqrt a))
/-- MIN. -/
def execMin (q : Nat) (w : W64) (s : State) : Out3 := .next (eltwise s q w.toNat 0x15 true false .fp false (fun a b _ => f32Min a b))
/-- MAX. -/
def execMax (q : Nat) (w : W64) (s : State) : Out3 := .next (eltwise s q w.toNat 0x16 true false .fp false (fun a b _ => f32Max a b))
/-- ABS. -/
def execAbs (q : Nat) (w : W64) (s : State) : Out3 := .next (eltwise s q w.toNat 0x17 false false .fp false (fun a _ _ => f32Abs a))
/-- NEG. -/
def execNeg (q : Nat) (w : W64) (s : State) : Out3 := .next (eltwise s q w.toNat 0x18 false false .fp false (fun a _ _ => f32Neg a))
/-- CMPLT. -/
def execCmplt (q : Nat) (w : W64) (s : State) : Out3 :=
  .next (eltwise s q w.toNat 0x19 true false .fp false (fun a b _ => f32Cmp Dy.lt a b))
/-- CMPLE. -/
def execCmple (q : Nat) (w : W64) (s : State) : Out3 :=
  .next (eltwise s q w.toNat 0x1A true false .fp false (fun a b _ => f32Cmp dyLe a b))
/-- CMPEQ. -/
def execCmpeq (q : Nat) (w : W64) (s : State) : Out3 :=
  .next (eltwise s q w.toNat 0x1B true false .fp false (fun a b _ => f32Cmp dyEq a b))
/-- SEL. -/
def execSel (q : Nat) (w : W64) (s : State) : Out3 := .next (eltwise s q w.toNat 0x1C true true .fp false selOp)
/-- IADD. -/
def execIadd (q : Nat) (w : W64) (s : State) : Out3 :=
  .next (eltwise s q w.toNat 0x20 true false .int false (fun a b _ => i32Op (· + ·) a b))
/-- ISUB. -/
def execIsub (q : Nat) (w : W64) (s : State) : Out3 :=
  .next (eltwise s q w.toNat 0x21 true false .int false (fun a b _ => i32Op (· - ·) a b))
/-- IMUL. -/
def execImul (q : Nat) (w : W64) (s : State) : Out3 :=
  .next (eltwise s q w.toNat 0x22 true false .int false (fun a b _ => i32Op (· * ·) a b))
/-- AND. -/
def execAnd (q : Nat) (w : W64) (s : State) : Out3 :=
  .next (eltwise s q w.toNat 0x23 true false .raw false (fun a b _ => bits32 (fun x y => x &&& y) a b))
/-- OR. -/
def execOr (q : Nat) (w : W64) (s : State) : Out3 :=
  .next (eltwise s q w.toNat 0x24 true false .raw false (fun a b _ => bits32 (fun x y => x ||| y) a b))
/-- XOR. -/
def execXor (q : Nat) (w : W64) (s : State) : Out3 :=
  .next (eltwise s q w.toNat 0x25 true false .raw false (fun a b _ => bits32 (fun x y => x ^^^ y) a b))
/-- SHL: by b [4:0]. -/
def execShl (q : Nat) (w : W64) (s : State) : Out3 :=
  .next (eltwise s q w.toNat 0x26 true false .raw false (fun a b _ => bits32 (fun x y => x <<< (y % 32)) a b))
/-- SHR: logical, by b [4:0]. -/
def execShr (q : Nat) (w : W64) (s : State) : Out3 :=
  .next (eltwise s q w.toNat 0x27 true false .raw false (fun a b _ => bits32 (fun x y => x >>> (y % 32)) a b))
/-- SAR: arithmetic, by b [4:0]. -/
def execSar (q : Nat) (w : W64) (s : State) : Out3 :=
  .next (eltwise s q w.toNat 0x28 true false .raw false (fun a b _ => bits32 (fun x y => sar32 x (y % 32)) a b))
/-- IMIN. -/
def execImin (q : Nat) (w : W64) (s : State) : Out3 :=
  .next (eltwise s q w.toNat 0x29 true false .int false (fun a b _ => i32Op (fun x y => if y < x then y else x) a b))
/-- IMAX. -/
def execImax (q : Nat) (w : W64) (s : State) : Out3 :=
  .next (eltwise s q w.toNat 0x2A true false .int false (fun a b _ => i32Op (fun x y => if x < y then y else x) a b))
/-- MOV: raw 32-bit lanes. -/
def execMov (q : Nat) (w : W64) (s : State) : Out3 := .next (eltwise s q w.toNat 0x30 false false .raw false (fun a _ _ => (a, {})))
/-- CVT. -/
def execCvt (q : Nat) (w : W64) (s : State) : Out3 := .next (convert s q w.toNat)
/-- RED. -/
def execRed (q : Nat) (w : W64) (s : State) : Out3 := .next (reduction s q w.toNat)

/-! ## The core's side -/

/-- A push to a full queue is discarded and counted (R308); an engine that is not built ignores writes (R300). -/
def execSegmentPush (q p : Nat) (w0 w1 : W64) (s : State) : Out3 :=
  let e := engOf s q
  if held s || !(decide (q < cfgQuads s) && decide (p < 8)) then .next s
  else if 32 ≤ (e.queue.getD p []).length then .next (bump s Cnt.eeQfull 1)
  else .next (setEng s q { e with queue := e.queue.set [] p (e.queue.getD p [] ++ [(w0, w1)]) })

/-- A read of a completion FIFO (R309): 0 segments, 1 transfers, 2 signals; an empty FIFO reads 0. -/
def execFifoPop (q which : Nat) (s : State) : Out3 :=
  let e := engOf s q
  let l := if which = 0 then e.segFifo else if which = 1 then e.xferFifo else e.sigFifo
  let e1 := if which = 0 then { e with segFifo := l.tail } else if which = 1 then { e with xferFifo := l.tail } else { e with sigFifo := l.tail }
  .next <| if held s then s else { setEng s q { e1 with stalled := e.stalled && l.isEmpty } with out := { s.out with popped := l.headD 0 } }

/-- A core write to SX: held while a segment of the slot runs (R282). -/
def execSxCoreWrite (q p i : Nat) (w : W64) (s : State) : Out3 :=
  let e := engOf s q
  if held s || !(decide (q < cfgQuads s) && decide (p < 8) && decide (i < 64)) then .next s
  else match e.run with
    | some sg =>
      if sg.slot = p then .next (setEng s q { e with run := some { sg with held := sg.held ++ [(i, w)] } })
      else .next (setEng s q (setSx e p i w))
    | none => .next (setEng s q (setSx e p i w))

end Sys2Proof.Machine
end

