-- ==== Sys2Proof/Machine/I3cCmds.lean ====
section
/-! DEFINITION. The I3C sideband (spec/15_dictionary.md R326 to R328): its common command codes and its frames. -/

namespace Sys2Proof.Machine

def updI3c (s : State) (f : I3c → I3c) : State := { s with i3c := f s.i3c }

/-! ## Common command codes (R326) -/

/-- A supported code acts on the target. -/
def cccRow (s : State) (f : I3c → I3c) : Out3 :=
  .next (if held s then s else updI3c s (fun c => f { c with nack := false }))

/-- A directed code that reads: a target without a dynamic address is not addressed. -/
def cccGet (s : State) (answer : I3c → List Nat) : Out3 :=
  .next (if held s || s.i3c.dyn.isNone then s
    else updI3c s (fun c => { c with nack := false, answer := (answer c).map (fun n => BitVec.ofNat 8 n) }))

/-- The static address held in OTP (`B.0024`); none where it is zero. -/
def staticAddr (s : State) : Option Nat :=
  (s.otp.gen.map (fun g => genField s g 0x18 1)).bind (fun a => if a = 0 then none else some a)

/-- ENTDAA assigns the dynamic address to a target that has none. -/
def execEntdaa (addr : Nat) (s : State) : Out3 := cccRow s (fun c => { c with dyn := some (c.dyn.getD addr) })

/-- SETDASA assigns it to the target of that static address. -/
def execSetdasa (saddr addr : Nat) (s : State) : Out3 :=
  if staticAddr s = some saddr then cccRow s (fun c => { c with dyn := some (c.dyn.getD addr) }) else .next s

def execRstdaa (s : State) : Out3 := cccRow s (fun c => { c with dyn := none })

/-- Bit 0 of the events byte names in-band interrupts. -/
def execEnec (events : Nat) (s : State) : Out3 := cccRow s (fun c => { c with ibiOn := c.ibiOn || bitOf events 0 })
def execDisec (events : Nat) (s : State) : Out3 := cccRow s (fun c => { c with ibiOn := c.ibiOn && !bitOf events 0 })

def execGetpid (s : State) : Out3 := cccGet s (fun _ => beBytes 6 Config.i3cPid.toNat)
def execGetbcr (s : State) : Out3 := cccGet s (fun _ => [0x06])
def execGetdcr (s : State) : Out3 := cccGet s (fun _ => [0x00])

/-- The spec gives no layout of the status word: its value is free. -/
def execGetstatus (s : State) : Out3 :=
  if held s || s.i3c.dyn.isNone then .next s else let (v, s1) := draw s; cccGet s1 (fun _ => beBytes 2 (v.toNat % 2 ^ 16))

def execSetmwl (n : Nat) (s : State) : Out3 := cccRow s (fun c => { c with mwl := n })
def execGetmwl (s : State) : Out3 := cccGet s (fun c => beBytes 2 c.mwl)
def execSetmrl (n : Nat) (s : State) : Out3 := cccRow s (fun c => { c with mrl := n })

/-- A target whose interrupts carry a payload answers with its length too: the mandatory byte alone. -/
def execGetmrl (s : State) : Out3 := cccGet s (fun c => beBytes 2 c.mrl ++ [1])

/-- RSTACT resets the sideband target only; action 0 resets nothing. An OTP field whose programming has begun completes. -/
def execRstact (action : Nat) (s : State) : Out3 :=
  .next (if held s then s
    else if action = 0 then updI3c s (fun c => { c with nack := false })
    else
      let s1 := { s with i3c := {} }
      if s.od.i3c.prog then s1
      else setRegs { s1 with od := { s1.od with waitq := s1.od.waitq.filter (· != .i3c) } } .i3c {})

/-- The codes of R326, broadcast and directed. -/
def cccKnown : List Nat :=
  [0x00, 0x80, 0x01, 0x81, 0x06, 0x07, 0x87, 0x09, 0x89, 0x0A, 0x8A, 0x8B, 0x8C, 0x8D, 0x8E, 0x8F, 0x90, 0x2A, 0x9A]

/-- Every other code is NACKed. -/
def execCccNack (code : Nat) (s : State) : Out3 :=
  .next (if held s || cccKnown.contains code then s else updI3c s (fun c => { c with nack := true }))

/-! ## Frames (R327) -/

/-- The CRC that ends a frame agrees. -/
def frameCrcOk (bs : List Byte) : Bool := crc32 (bs.take (bs.length - 4)) == leNat (bs.drop (bs.length - 4))

/-- The length of a write frame that its OP and LEN give; a reserved OP gives none. -/
def frameLen (bs : List Byte) : Option Nat :=
  let op := (bs.headD 0).toNat
  if op = 1 then some 16
  else if op = 2 || op = 3 then some (16 + 8 * ((bs.getD 9 0).toNat % 32 + 1))
  else none

/-- A write frame that is taken. -/
def frameOk (bs : List Byte) : Bool :=
  decide (16 ≤ bs.length) && frameCrcOk bs && (match frameLen bs with | some n => bs.length == n | none => true)

/-- The ODCMD word of a frame. -/
def frameCmd (bs : List Byte) : W64 :=
  let op := Nat.min (bs.headD 0).toNat 15
  let b := (bs.getD 9 0).toNat
  w64 (op * 2 ^ 60 + b / 32 % 4 * 2 ^ 58 + b % 32 * 2 ^ 53 + leNat ((bs.drop 10).take 2))

/-- The data words of a frame. -/
def frameData (bs : List Byte) : List W64 :=
  (chunks 8 ((bs.drop 12).take (bs.length - 16))).map (fun b => w64 (leNat b))

/-- A private write frame. -/
def writeFrame (s : State) (bs : List Byte) : State :=
  if !frameOk bs then bump (updI3c s (fun c => { c with frameBad := true })) Cnt.i3cFrameBad 1
  else
    let r := s.od.i3c
    let w := frameCmd bs
    if r.busy.isSome then opStart (updI3c s (fun c => { c with frameBad := false })) .i3c w
    else
      let s1 := updI3c s (fun c => { c with frameBad := false, wasRead := cmdOp w == 1 })
      opStart (setRegs s1 .i3c { r with
        sel := w64 (leNat ((bs.drop 1).take 8)) &&& 0xFFFFFFFFFFF00000
        dat := if cmdOp w = 1 then r.dat else putDat r.dat (frameData bs) }) .i3c w

def execSidebandWriteFrame (bytes : List Byte) (s : State) : Out3 :=
  .next (if held s || s.i3c.dyn.isNone then s else writeFrame s bytes)

/-- The bytes of a read frame before it is cut at MRL. -/
def readFrame (s : State) : List Byte :=
  let r := s.od.i3c
  let st := odstsWord (if s.i3c.frameBad then { r with
    code := Code.opBad
    rlen := 0 } else r)
  let data := if r.busy.isNone && s.i3c.wasRead && !s.i3c.frameBad && r.code == Code.ok then wordBytes (datWords r r.rlen) else []
  let body := leBytes 8 st.toNat ++ data
  body ++ leBytes 4 (crc32 body)

/-- A private read frame; a read of ODSTS clears OVR. -/
def execSidebandReadFrame (s : State) : Out3 :=
  .next (if held s || s.i3c.dyn.isNone then s
    else
      let s1 := updI3c s (fun c => { c with answer := (readFrame s).take c.mrl, frameBad := false })
      setRegs s1 .i3c { s1.od.i3c with ovr := false })

end Sys2Proof.Machine
end

