-- ==== Sys2Proof/Machine/TickCmds.lean ====
section
/-! DEFINITION. What happens in every period of the MGMT clock, 2.5 ns: buckets (R258), waits and holds that are counted in
periods (R97, R116, R147, R216, R269), a partition that is blocked (R272), the trace buffer (R421); with it sketch ageing (R138) and pass 2 of an item (R211). -/

namespace Sys2Proof.Machine

/-! ## Buckets (R258) -/

/-- One bucket after a period: an offset from its depth, in parts of 1/400 byte. -/
def refillOne (s : State) (item : Nat) (e : Nat × Int) : Option (Nat × Int) :=
  match slotPart s (e.1 / 12) with
  | some (d, _) =>
    let v := e.2 + (valP s 7 item e.1 d : Nat)
    if v < 0 then some (e.1, v) else none
  | none => none

def refill (s : State) : State :=
  { s with mp := { s.mp with
      rdBucket := s.mp.rdBucket.filterMap (refillOne s 0x70)
      wrBucket := s.mp.wrBucket.filterMap (refillOne s 0x71) } }

/-- Partitions with a request that waits for tokens and for nothing else. -/
def tokenWaits (s : State) : List Nat :=
  dedup ((s.mp.waiting.filter (fun r => r.tier != 2 && !eligible s r && mayIssue s r && !trStopped s r &&
    !(outstanding s).any (conflicts r) && s.mp.up.contains r.port && (freeTag s r.port).isSome)).map (·.part))

/-! ## Holds (R97, R116) -/

/-- A request that brings item `i` of a unit: its data, or the fill that it waits for. -/
def bringsItem (d : Nat) (u : LsUnit) (i : Nat) (it : LsItem) (r : Req) : Bool :=
  match r.use with
  | .kindle d' place j => d' == d && place == u.place && j == i
  | .fill x => it.xs.contains x
  | _ => false

/-- Where the first missing item of a target, in issue order, is to come from: the tier, port and address of its oldest request, or of
the request that the Tier Manager keeps from being issued, as it does for a block whose pooling has not ended (R116, R184). -/
def kindleFrom (s : State) (d : Nat) (P : Part) (u : LsUnit) (slot : Nat) : Option (Nat × Nat × Nat) :=
  ((List.zip (List.range u.items.length) u.items).find? (fun x => itemFor slot x.2 && x.2.st == 0)).bind (fun x =>
    let all := s.mp.waiting ++ s.mp.out ++ s.fl.reads.map (·.req)
    match (sortBy (fun (r : Req) => r.id) (all.filter (bringsItem d u x.1 x.2))).head? with
    | some r => some (r.tier, r.port, r.addr)
    | none =>
      (lineSource s d P u x.2.kind 0).map (fun q =>
        match q.1 with
        | none => (0, bareport s, q.2.1)
        | some e => imagePlace s e none q.2.1))

/-- The counter of Table LS-3 that a period of a kindle hold at a target is charged to: its element per partition, and how
many elements it has (0 for a counter that is no array). -/
def kindleCharge (s : State) (d : Nat) (P : Part) (k : PosKey) : Nat × Nat × Nat :=
  match unitOf P k.step k.bwd k.layer k.tslot with
  | none =>
    let before := match P.slot, P.man.bind (fun m => ((stepUnits P m.target).findIdx? (fun x => x.1 == k.bwd && x.2.1 == k.layer &&
        (match x.2.2 with | some t => t == k.tslot | none => true))).map (fun j => region s (P.slot.getD 0) (P.place + (j - P.nextUnit)) m.target)) with
      | some p, some reg => P.units.filter (fun v => regionsMeet reg (unitRegion s p v))
      | _, _ => []
    if before.any (fun u => u.done && (!u.dirty.isEmpty || u.wbOwed != 0)) then (Cnt.holdKindleWb, 0, 0)
    else if before.isEmpty then (Cnt.holdKindleFill, 0, 0) else (Cnt.holdKindleRelease, 0, 0)
  | some u =>
    if !stashFree P u then (Cnt.holdKindleRelease, 0, 0)
    else
      match kindleFrom s d P u k.tslot with
      | none => (Cnt.holdKindleFill, 0, 0)
      | some (tier, port, addr) =>
        match tier with
        | 0 => (Cnt.holdKindleT1, 12, port % 12)
        | 1 => (Cnt.holdKindleT2, 12, port % 12)
        | 3 => (Cnt.holdKindleTR, 12, port % 12)
        | _ => (Cnt.holdKindleT3, 16, lunCh (entryLun (mapEntry s (addr / 65536))) % 16)

/-- The period of a hold with cause KINDLE. -/
def chargeKindle (s : State) (d : Nat) (P : Part) (k : PosKey) : State :=
  let (c, per, i) := kindleCharge s d P k
  let s1 := bumpD s Cnt.holdKindle d 1
  if per = 0 then bumpD s1 c d 1 else bumpArr s1 c d per i 1

/-- A period of XP_HOLD: it is charged once, to the first cause of Table R97 that applies. -/
def chargeHolds (s : State) (d : Nat) (P : Part) : State :=
  let live := P.holds.filter (fun h => h.kind != .clamp)
  if live.isEmpty then s
  else
    let s1 := updPart s d (fun P => { P with
      heldStep := P.heldStep + 1
      holds := P.holds.map (fun h => if h.kind != .clamp then { h with periods := h.periods + 1 } else h) })
    let s2 := bumpD s1 Cnt.holdNs d 1
    match live.find? (fun h => h.cause == 0) with
    | some h => chargeKindle s2 d P h.key
    | none => bumpD s2 (if live.any (fun h => h.cause == 1) then Cnt.holdRekindle else Cnt.holdMerge) d 1

/-! ## Blocked partitions (R272, R273) -/

/-- The partition waits on TR replies alone, in one of the forms of R272: a kindle hold charged to TR; a pool phase or pass 2 whose every
awaited request is TR; no ready work on a tile or an Element Engine. -/
def trAlone (s : State) (d : Nat) (P : Part) : Bool :=
  let all := s.mp.waiting ++ s.mp.out ++ s.fl.reads.map (·.req)
  let pool := all.filter (fun r => match r.use with | .pool d' _ => d' == d | _ => false)
  let upd := all.filter (fun r => match r.use with | .upd x => xPart x == d | _ => false)
  P.holds.any (fun h => h.kind == .kindle && (kindleCharge s d P h.key).1 == Cnt.holdKindleTR) ||
    (!pool.isEmpty && pool.all (fun r => r.tier == 3)) || (!upd.isEmpty && upd.all (fun r => r.tier == 3)) ||
    (!tileWork P && !(match P.slot with
      | some p => (List.range 8).any (fun q => segReady s q p || (match (engOf s q).run with | some sg => sg.slot == p | none => false))
      | none => false))

/-- A partition has waited `7.0060` on TR replies alone. -/
def partBlock (s : State) (d : Nat) : State :=
  match partOf s d with
  | none => s
  | some P =>
    if P.st != .running || P.blocked || !s.mp.out.any (fun r => r.part == d && r.tier == 3) || !trAlone s d P then s
    else
      let (o, s1) := takeOrder s
      swapBlocked (latch (updPart s1 d (fun P => { P with blocked := true, blockOrder := o + 1 })) 45)

def execPartitionBlocked (d : Nat) (s : State) : Out3 := .next (if held s then s else partBlock s d)

/-! ## Other waits -/

/-- The Pen is full and a final gradient waits for it (R216). -/
def penWaits (s : State) (d : Nat) (P : Part) : Bool :=
  decide (8192 ≤ P.train.pen.length) &&
    P.train.lists.any (fun l => l.complete && l.items.any (fun it => wantsPen s P d l.step it && !it.pen && !it.done && !it.dropped))

/-- A clamped partition becomes, or ceases to be, runnable (R262). -/
def runnableKeep (s : State) (d : Nat) (P : Part) : State :=
  if P.st ≠ .clamped then s
  else if !runnable P then updPart s d (fun P => { P with runnableOrder := 0 })
  else if P.runnableOrder = 0 then
    (let (o, s1) := takeOrder s
     latch (updPart s1 d (fun P => { P with runnableOrder := o + 1 })) 45)
  else s

/-- The period of one partition. -/
def tickPart (s : State) (d : Nat) : State :=
  match partOf s d with
  | none => s
  | some P =>
    let s1 := chargeHolds s d P
    let s2 := if penWaits s1 d P then bumpD s1 Cnt.penFullNs d 1 else s1
    let s3 := lrbPlace s2 d
    let s4 := bumpD s3 Cnt.lrbWait d (((partOf s3 d).map (fun P => P.lrbQueue.length)).getD 0)
    -- a read that waited for a pin counter to fall tries again (R136)
    let s5 := effectDue (updatesResume s4 d) d
    match partOf s5 d with
    | some Q => runnableKeep s5 d Q
    | none => s5

/-! ## The trace buffer (R421) -/

/-- The group of Table DBG-3 that the trace samples. -/
def traceSample (s : State) : W64 := muxGroup s (fld (lastVal s 10 0x31 0).toNat 15 8) (fld (lastVal s 10 0x30 0).toNat 15 8)

/-- The sample of this period is written where it differs from that of the period before. -/
def tickTrace (s : State) : State :=
  if !bitOf (lastVal s 10 0x31 0).toNat 0 then { s with dbg := { s.dbg with last := none } }
  else
    let v := traceSample s
    if !s.dbg.fresh && s.dbg.last == some v then s
    else
      let w0 := w64 (s.mp.mgmt % 2 ^ 63 + (if s.dbg.fresh then 2 ^ 63 else 0))
      { s with dbg := { s.dbg with
          trace := s.dbg.trace.put s.dbg.wptr (w0, v)
          wptr := (s.dbg.wptr + 1) % 4096
          last := some v
          fresh := false } }

/-! ## The rows -/

/-- One period of the MGMT clock. -/
def mgmtTick (s0 : State) : State :=
  let s1 := { s0 with mp := { s0.mp with mgmt := (s0.mp.mgmt + 1) % 2 ^ 64 } }
  let s2 := forEach (tokenWaits s1) s1 (fun s d => bumpD s Cnt.regWait d 1)
  let s3 := thawRetry (settleT3 (refill s2))
  let s4 := forEach s3.tm.thawWait s3 (fun s x => bumpD s Cnt.thawWait (xPart x) 1)
  let s5 := forEach (s4.parts.map (·.1)) s4 tickPart
  tickTrace s5

def execBucketRefill (s : State) : Out3 := .next (if held s then s else mgmtTick s)

/-- The sketch ages after 131,072 increments (R138). -/
def execSketchAgeing (s : State) : Out3 := .next (if held s || s.tm.sketchIncs < 131072 then s else sketchAge s)

/-- Pass 2 of one item; a quiesce that waited for it completes, and a partition whose sweep after a recovery has ended may go
on. -/
def updateItem (s : State) (p : Nat) : State :=
  match slotPart s p with
  | none => s
  | some (d, P) =>
    let s1 := quiesceSettle (updateOne s p) d
    match partOf s1 d with
    | some Q => if !P.train.lists.isEmpty && Q.train.lists.isEmpty then idleTry s1 d else s1
    | none => s1

def execUpdateItem (p : Nat) (s : State) : Out3 := .next (if held s then s else updateItem s p)

end Sys2Proof.Machine
end

