-- ==== Sys2Proof/Machine/EngineMem.lean ====
section
/-! DEFINITION. Data movement and Scale of the Element Engine (R293 to R295): LDA, LDL, STL, LDS, STS, XLD, XST with the end
of a transfer, and SCL. -/

namespace Sys2Proof.Machine

/-! ## Format M (Table EE-5d) -/

def mFmt (w : Nat) : Nat := fld w 51 48
def mSxa (w : Nat) : Nat := fld w 47 42
def mMxp (w : Nat) : Bool := bitOf w 41 && isMxCode (mFmt w)
def mUser (w : Nat) : Nat := if bitOf w 40 then 1 else 2
def mTile (w : Nat) : Nat := fld w 39 38
def mXtag (w : Nat) : Nat := fld w 37 32
def mOff (w : Nat) : Nat := fld w 31 0

/-- The rows of an instruction over a space whose addresses are bytes. -/
def mRows (e : Eng) (p w base scale : Nat) : Rows :=
  let cols := lenCols e p
  { n := lenRows e p
    cols := cols
    fmt := mFmt w
    mxp := mMxp w
    size := rowSize (mFmt w) cols (mMxp w)
    blocks := if mMxp w then p32 cols / 32 else 0
    base := base
    stride := (sxOf e p (mSxa w + 1)).toNat
    scale := scale }

/-- The rows of LDL, STL, LDS and STS: the base address and OFF in lines. -/
def lineRows (e : Eng) (p w : Nat) : Rows :=
  mRows e p w ((sxOf e p (mSxa w)).toNat / 64 * 64 + 64 * mOff w) (sxOf e p (mSxa w + 2)).toNat

/-- The rows of XLD and XST: the offset within the object. -/
def objRows (e : Eng) (p w : Nat) : Rows :=
  mRows e p w (64 * (wfld (sxOf e p (mSxa w)) 43 0 + mOff w)) (64 * wfld (sxOf e p (mSxa w + 2)) 43 0)

/-- The handle that XLD and XST name. -/
def mHandle (e : Eng) (p w : Nat) : Nat := wfld (sxOf e p (mSxa w)) 63 44

/-- The end of what the rows reach. -/
def Rows.top (r : Rows) : Nat :=
  Nat.max (r.base + (r.n - 1) * r.stride + r.size) (if r.mxp then r.scale + r.n * r.blocks else 0)

/-- Format M: registers, formats, SX range, stride and addresses (R284). -/
def badM (s : State) (w : Nat) (r : Rows) (limit : Nat) (sg : Seg) : Bool :=
  !regOk s sg.slot (fMd w) || decide (0xC < mFmt w) || decide (63 < mSxa w + (if mMxp w then 2 else 1)) ||
    decide (limit < r.top)

/-- The bytes of a register row as they leave it: what lies outside LEN is no input and goes as +0. -/
def packRow (r : Rows) (row : Nat) : List Byte := leBytes r.size (row % 2 ^ colBits r.fmt r.cols)

/-- The scales of a register row. -/
def packScales (r : Rows) (row : Nat) : List Byte := (List.range r.blocks).map (fun b => BitVec.ofNat 8 (elemAt row 8 (480 + b)))

/-- A register row with the elements of LEN replaced. -/
def unpackRow (r : Rows) (old : Nat) (bs scales : List Byte) : Nat :=
  let v := rowPut old (colBits r.fmt r.cols) 0 [leNat bs]
  if r.mxp then rowPut v 8 480 (byteNats scales) else v

/-- The elements of a register that rows move. -/
def Rows.regs (r : Rows) (reg : Nat) : List RegSpan := regSpans reg r.n (codeBits r.fmt) 0 r.cols r.mxp

/-- Load every row from a space that reads bytes. -/
def loadRows (e : Eng) (reg : Nat) (r : Rows) (read : Nat → Nat → List Byte) : Eng :=
  wipe (setRows e reg ((List.range r.n).map (fun i =>
    unpackRow r (rowOf e reg i) (read (r.base + i * r.stride) r.size) (read (r.scale + i * r.blocks) r.blocks)))) (r.regs reg)

/-- A row of a register as a store reads it. -/
def storeRow (e : Eng) (reg : Nat) (r : Rows) (i : Nat) : Nat :=
  seenRow e { reg := reg, row := i, bits := codeBits r.fmt, off := 0, n := r.cols, mx := r.mxp }

/-- The pieces that a store writes, in row order: address and bytes. -/
def storeRows (e : Eng) (reg : Nat) (r : Rows) : List (Nat × List Byte) :=
  (List.range r.n).flatMap (fun i =>
    (r.base + i * r.stride, packRow r (storeRow e reg r i)) :: (if r.mxp then [(r.scale + i * r.blocks, packScales r (rowOf e reg i))] else []))

/-- A load or store has issued: its cycles depend on the port it shares (R109, R278). -/
def issueLoad (sg : Seg) (r : Rows) (load : Bool) (reg : Nat) : Seg :=
  { (sg.issue (groupsOf r.n) 1 10 (fun g => if load then 0 else readyAt sg reg g) (if load then some reg else none) id).next with loose := true }

/-! ## Spaces of 64 B lines -/

/-- `n` bytes at an address of a space of lines. -/
def lineRead (line : Nat → Nat) (a n : Nat) : List Byte :=
  (List.range n).map (fun i => BitVec.ofNat 8 (elemAt (line ((a + i) / 64)) 8 ((a + i) % 64)))

/-- The lines that bytes at an address fall in, with what the line then holds. -/
def lineWrites (line : Nat → Nat) (a : Nat) (bs : List Byte) : List (Nat × Nat) :=
  if bs.isEmpty then []
  else
    (List.range ((a + bs.length - 1) / 64 - a / 64 + 1)).map (fun k =>
      let l := a / 64 + k
      (l, leNat ((List.range 64).map (fun j =>
        let x := 64 * l + j
        if a ≤ x && x < a + bs.length then bs.getD (x - a) 0 else BitVec.ofNat 8 (elemAt (line l) 8 j)))))

/-! ## Scratch (R277, R293) -/

def scratchLine (sg : Seg) (l : Nat) : Nat := sg.scratch.getD l 0

def execLds (q : Nat) (w : W64) (s : State) : Out3 :=
  .next (issueWord s q w.toNat 0x53 (fun e sg => badM s w.toNat (lineRows e sg.slot w.toNat) 32768 sg) [fMd w.toNat] (fun e sg =>
    let r := lineRows e sg.slot w.toNat
    setEng s q { loadRows e (fMd w.toNat) r (lineRead (scratchLine sg)) with run := some (issueLoad sg r true (fMd w.toNat)) }))

/-- Write pieces into scratch. -/
def scratchPut (sg : Seg) (l : List (Nat × List Byte)) : Seg :=
  l.foldl (fun sg x => { sg with scratch := (lineWrites (scratchLine sg) x.1 x.2).foldl (fun t y => t.set 0 y.1 y.2) sg.scratch }) sg

def execSts (q : Nat) (w : W64) (s : State) : Out3 :=
  .next (issueWord s q w.toNat 0x54 (fun e sg => badM s w.toNat (lineRows e sg.slot w.toNat) 32768 sg) [fMd w.toNat] (fun e sg =>
    let r := lineRows e sg.slot w.toNat
    setEng (plainRead s sg.slot e (r.regs (fMd w.toNat))) q { e with run := some (issueLoad (scratchPut sg (storeRows e (fMd w.toNat) r)) r false (fMd w.toNat)) }))

/-! ## The share (R110, R125, R293, R294) -/

/-- The unit that feeds the tiles of a partition: that of the target it runs. -/
def feedUnit (P : Part) : Option LsUnit := P.stream.last.bind (fun k => unitOf P k.step k.bwd k.layer k.tslot)

/-- The feeding bank. -/
def feedBank (P : Part) : Nat := ((feedUnit P).map (fun u => u.place % 2)).getD 0

/-- The item of the unit that covers a line. -/
def itemAtLine (u : LsUnit) (l : Nat) : Option LsItem :=
  u.items.find? (fun it => decide (it.line ≤ l) && decide (l < it.line + it.lines))

/-- A line of the share in the feeding bank: what engines or gradients wrote there, else what was kindled. -/
def shareLine (P : Part) (l : Nat) : Nat :=
  match P.share.find? (feedBank P * 2 ^ 22 + l) with
  | some v => v
  | none =>
    match (feedUnit P).bind (fun u => itemAtLine u l) with
    | some it => elemAt it.data 512 (l - it.line)
    | none => 0

/-- Where a line has its home in T1: the gradient buffer for a gradient accumulator, the image or the extent for a
section or a basis pair. -/
def lineHome (s : State) (d : Nat) (P : Part) (u : LsUnit) (l : Nat) : Option Nat :=
  match itemAtLine u l with
  | none => none
  | some it =>
    match it.kind with
    | .pooled i =>
      (match P.man with
       | some m =>
         let w := (u.slot.bind (fun t => poolTerm P (rowBind m i) u.layer t)).orElse (fun _ =>
           (slotsOf P u.layer).findSome? (fun t => poolTerm P (rowBind m i) u.layer t))
         (match w with
          | some pw =>
            let first := it.line + a64 (2 * poolW pw) / 64
            if training P && u.bwd && decide (first ≤ l) then some (accHome s d P m u.step u.idx i + 64 * (l - first)) else none
          | none => none)
       | none => none)
    | k =>
      match itemSource P u.layer k with
      | none => none
      | some (g, e) =>
        if g.src = 0 then some (g.base + e.poff + 64 * (l - it.line))
        else
          let h := homeAt s (xKey d g.base (1 + sectIndex g e)) (64 * (l - it.line))
          if h.1 = 0 then some (h.2.2 % 2 ^ 52) else none

/-- Engine `q` writes a line of the feeding bank: it is marked dirty with its home; where two engines write one line in one
unit, the higher-numbered engine's data stays (R294). -/
def shareWrite (s : State) (d q l v : Nat) : State :=
  match partOf s d with
  | none => s
  | some P =>
    let key := feedBank P * 2 ^ 22 + l
    match feedUnit P with
    | none => updPart s d (fun P => { P with share := P.share.put key v })
    | some u =>
      let was := u.writers.find? l
      let keep := match was with | some k => decide (q < k % 8) | none => false
      let meets := match was with | some k => k % 8 != q | none => false
      let new := match was with | some k => (if meets || 8 ≤ k then 8 else 0) + Nat.max q (k % 8) | none => q
      let s1 := updPart s d (fun P => { P with share := if keep then P.share else P.share.put key v })
      let s2 := setUnits s1 d (fun x =>
        if x.place = u.place then { x with
          writers := x.writers.put l new
          dirty := match lineHome s d P u l with | some a => x.dirty.put l a | none => x.dirty } else x)
      if meets && (match was with | some k => decide (k < 8) | none => false) then bumpD s2 Cnt.eeWconflict d 1 else s2

/-- Write pieces into the share. -/
def sharePut (s : State) (d q : Nat) (l : List (Nat × List Byte)) : State :=
  forEach l s (fun s x =>
    match partOf s d with
    | some P => forEach (lineWrites (shareLine P) x.1 x.2) s (fun s y => shareWrite s d q y.1 y.2)
    | none => s)

def execLdl (q : Nat) (w : W64) (s : State) : Out3 :=
  .next (issueWord s q w.toNat 0x51 (fun e sg => badM s w.toNat (lineRows e sg.slot w.toNat) (shareBytes s sg.slot) sg) [fMd w.toNat] (fun e sg =>
    match slotPart s sg.slot with
    | none => s
    | some (_, P) =>
      let r := lineRows e sg.slot w.toNat
      setEng s q { loadRows e (fMd w.toNat) r (lineRead (shareLine P)) with run := some (issueLoad sg r true (fMd w.toNat)) }))

def execStl (q : Nat) (w : W64) (s : State) : Out3 :=
  .next (issueWord s q w.toNat 0x52 (fun e sg => badM s w.toNat (lineRows e sg.slot w.toNat) (shareBytes s sg.slot) sg) [fMd w.toNat] (fun e sg =>
    match slotPart s sg.slot with
    | none => s
    | some (d, P) =>
      let r := lineRows e sg.slot w.toNat
      let l := storeRows e (fMd w.toNat) r
      let sg1 := { sg with stl := dedup (sg.stl ++ l.flatMap (fun x => (lineWrites (shareLine P) x.1 x.2).map (fun y => feedBank P * 2 ^ 22 + y.1))) }
      sharePut (setEng (plainRead s sg.slot e (r.regs (fMd w.toNat))) q { e with run := some (issueLoad sg1 r false (fMd w.toNat)) }) d q l))

/-! ## The accumulator file (R278, R293) -/

/-- The rows of LDA: unit OFF of the tile's file. -/
def accRows (e : Eng) (p w : Nat) : Rows := mRows e p w (64 * mOff w) 0

/-- LDA's words come from the accumulator file, whose layout the spec does not give: each is a free value. -/
def ldaBytes (n0 a n : Nat) : List Byte := (List.range n).map (fun i => Config.freeByte n0 (a + i))

/-- The issue of LDA: fixed in P32, and at the tiles' pace elsewhere (R278). -/
def issueLda (s : State) (sg : Seg) (r : Rows) (reg : Nat) : Seg :=
  let sg1 := (sg.issue (groupsOf r.n) (if cfgTiles s = 32 then 1 else 2) 10 (fun _ => 0) (some reg) id).next
  { sg1 with loose := sg1.loose || decide (cfgTiles s ≠ 32) }

def execLda (q : Nat) (w : W64) (s : State) : Out3 :=
  .next (issueWord s q w.toNat 0x50
    (fun e sg => mFmt w.toNat != 0xA || badM s w.toNat (accRows e sg.slot w.toNat) 1048576 sg) [fMd w.toNat] (fun e sg =>
      let r := accRows e sg.slot w.toNat
      let s1 := { s with free := s.free + 1 }
      setEng s1 q { loadRows e (fMd w.toNat) r (ldaBytes s.free) with run := some (issueLda s sg r (fMd w.toNat)) }))

/-! ## Transfers (R293) -/

/-- Bytes of the partition's object that a handle names; 0 where there is none. -/
def objSize (s : State) (p h : Nat) : Nat :=
  match slotD s p with
  | some d => ((objOf s d h).map (·.bytes)).getD 0
  | none => 0

/-- The transfer that an instruction describes. -/
def xferOf (e : Eng) (sg : Seg) (w : Nat) (store : Bool) : Xfer :=
  let r := objRows e sg.slot w
  { slot := sg.slot, tag := mXtag w, segid := sg.segid, store := store, reg := fMd w, mxp := r.mxp, fmt := r.fmt,
    rows := r.n, cols := r.cols, handle := mHandle e sg.slot w, off := r.base, stride := r.stride, scale := r.scale, pin := mUser w }

/-- A transfer has issued: one cycle, and its extents are pinned and noted as used. -/
def xferBegin (s : State) (d q : Nat) (e : Eng) (sg : Seg) (x : Xfer) : State :=
  let s1 := setEng s q { e with xfers := e.xfers ++ [x], run := some { sg.control.next with loose := true } }
  match objOf s d x.handle with
  | none => s1
  | some o => forEach (spanExts o x.rowsOf.spans) s1 (fun s xi => pin (noteUse s (xKey d x.handle xi)) (xKey d x.handle xi) x.pin)

/-- XLD waits for a place, and for an XST in flight from the same engine that it overlaps. -/
def xldWaits (e : Eng) (x : Xfer) : Bool :=
  decide (16 ≤ e.xfers.length) ||
    e.xfers.any (fun y => y.store && y.slot == x.slot && y.handle == x.handle && spansMeet y.rowsOf.spans x.rowsOf.spans)

def execXld (q : Nat) (w : W64) (s : State) : Out3 :=
  .next (issueWord s q w.toNat 0x58
    (fun e sg => badM s w.toNat (objRows e sg.slot w.toNat) (objSize s sg.slot (mHandle e sg.slot w.toNat)) sg) [fMd w.toNat] (fun e sg =>
      match slotD s sg.slot with
      | none => s
      | some d =>
        let x := xferOf e sg w.toNat false
        if xldWaits e x then s
        else if xferPoisoned s d x then xferBegin s d q e sg x else xldReads (xferBegin s d q e sg x) d x (fun _ => true)))

/-- XST reads its source rows while it issues. -/
def execXst (q : Nat) (w : W64) (s : State) : Out3 :=
  .next (issueWord s q w.toNat 0x59
    (fun e sg => badM s w.toNat (objRows e sg.slot w.toNat) (objSize s sg.slot (mHandle e sg.slot w.toNat)) sg) [fMd w.toNat] (fun e sg =>
      match slotD s sg.slot with
      | none => s
      | some d =>
        let x := xferOf e sg w.toNat true
        if 16 ≤ e.xfers.length then s
        else forEach (storeRows e (fMd w.toNat) x.rowsOf) (xferBegin (plainRead s sg.slot e (x.rowsOf.regs (fMd w.toNat))) d q e sg x) (fun s b => objWriteQ s (fetchQos s d) d x.handle b.1 b.2)))

/-- The word of a transfer completion (R309). -/
def xferWord (x : Xfer) (ok : Bool) : W64 :=
  w64 (x.tag * 2 ^ 58 + x.slot * 2 ^ 55 + (if ok then 0 else 2 ^ 53) + x.segid)

/-- A loaded register: the object's bytes as reads find them, or +0 rows after a failure. -/
def xldFill (s : State) (d : Nat) (e : Eng) (x : Xfer) (ok : Bool) : Eng :=
  loadRows e x.reg x.rowsOf (fun a n => if ok then objBytes s d x.handle a n else List.replicate n 0)

/-- A transfer has failed for good. -/
def xferFailed (s : State) (d : Nat) (x : Xfer) : State :=
  match partOf s d with
  | some P =>
    let key := P.stream.last.getD { step := P.step, bwd := false, layer := 0, tslot := 0, win := 0, tick := 0 }
    recEvent (bumpD s Cnt.eeXfail d 1) d 12 key none (x.handle * 2 ^ 44 + x.off / 64)
  | none => s

/-- The oldest transfer of a tag ends; with the completion FIFO full the engine stalls (R309). -/
def transferEnd (s : State) (q xtag : Nat) (ok0 : Bool) : State :=
  let e := engOf s q
  match e.xfers.find? (fun x => x.tag == xtag) with
  | none => s
  | some x =>
    if 64 ≤ e.xferFifo.length then setEng s q { e with stalled := true }
    else
      match slotD s x.slot with
      | none => s
      | some d =>
        let ok := ok0 && (x.store || !xferPoisoned s d x)
        let e1 := if x.store then e else xldFill s d e x ok
        let s1 := setEng s q { e1 with
          xfers := e1.xfers.erase x
          xferFifo := e1.xferFifo ++ [xferWord x ok]
          stalled := false }
        let s2 := if ok then s1 else xferFailed s1 d x
        match objOf s2 d x.handle with
        | some o => forEach (spanExts o x.rowsOf.spans) s2 (fun s xi => unpin s (xKey d x.handle xi) x.pin)
        | none => s2

def execTransferEnd (q xtag : Nat) (ok : Bool) (s : State) : Out3 := .next (if held s then s else transferEnd s q xtag ok)

/-! ## SCL (R295) -/

def xTmask (w : Nat) : Nat := fld w 55 52
def xGroup (w : Nat) : Nat := fld w 51 42 + 1
def xDout (w : Nat) : Nat := 64 * fld w 41 32
def xSxl (w : Nat) : Nat := fld w 31 26

/-- The first entry and the count. -/
def sclFirst (e : Eng) (p w : Nat) : Nat := wfld (sxOf e p (xSxl w)) 43 32
def sclCount (e : Eng) (p w : Nat) : Nat := wfld (sxOf e p (xSxl w)) 11 0

/-- Format X: reserved bits, d_out outside 256 to 32,768, entries past the buffer (R284). -/
def badX (w : Nat) (e : Eng) (sg : Seg) : Bool :=
  fld w 25 0 != 0 || decide (fld w 41 32 < 4) || decide (512 < fld w 41 32) || decide (2048 < sclFirst e sg.slot w + sclCount e sg.slot w)

/-- The entry at a place of the list of a slot: window and host row. -/
def sclEntry (e : Eng) (p k : Nat) : Option (Nat × Nat) :=
  ((e.scl.filter (fun x => x.1 == p && x.2.1 % 8 == k / 256))[k % 256]?).map (fun x => x.2)

/-- Column chunks of a row that tiles in TMASK of engine `q` hold: buffer and chunk, in ascending chunk (R73). In direction B
a GRAD chunk is handed on by the tile of the block of its number. -/
def sclChunks (c : WinCtx) (q w i : Nat) : List (Nat × Nat) :=
  let dim := if c.w.key.bwd then outDim c else xDout w
  let parts := Nat.max (expandParts c.w dim) 1
  let np := partRows dim c.w.n c.w.tiles.length
  let mine (k : Nat) : Bool :=
    let l := blockTile c.w (k % Nat.max (ceilDiv dim 512) 1 * parts + i % 256 / np)
    l / 4 == q && bitOf (xTmask w) (l % 4)
  if c.w.key.bwd then
    ((List.range (ceilDiv (xDout w) 512)).filter mine).map (fun k => (1, k)) ++ ((List.range (ceilDiv c.tgt.din 512)).filter mine).map (fun k => (3, k))
  else ((List.range (ceilDiv (xDout w) 512)).filter mine).map (fun k => (0, k))

/-- s and β of a chunk, each empty where the row has none, with the census. -/
def sclChunk (c : WinCtx) (w i k : Nat) : (List Nat × List Nat) × Census :=
  let cols := (List.range (Nat.min 512 (xDout w - 512 * k))).map (fun j => 512 * k + j)
  let sv := cols.filterMap (fun j => scaleFold (storedAt c i j ++ (match rowPool c i with | some pw => [poolScaleG (xGroup w) pw j] | none => [])))
  let bv := cols.filterMap (fun j => biasFold (biasAt c i j (xDout w)))
  ((sv.map (·.1), bv.map (·.1)), (sv ++ bv).foldl (fun a x => a.add x.2) {})

/-- One entry: its chunks are handed to Merge. The answer carries how many there were. -/
def sclRow (s : State) (d q w win i : Nat) : State × Nat :=
  match partOf s d with
  | none => (s, 0)
  | some P =>
    match P.wins.find? (fun x => x.key.win == win && scaleOpen P q x) with
    | none => (s, 0)
    | some x =>
      match winShape P x with
      | none => (s, 0)
      | some c =>
        if x.out.contains (i % 256) || x.dead.isSome then (s, 0)
        else
          let l := sclChunks c q w i
          let y := l.foldl (fun (a : Tab (List Nat × List Nat) × Census) b =>
            let z := if b.1 = 3 then (([], []), {}) else sclChunk c w i b.2
            (a.1.put (chunkKey b.1 (i % 256) b.2) z.1, a.2.add z.2)) (x.scaled, {})
          (bumpCensus (setWin s d { x with scaled := y.1 }) d y.2, l.length)

/-- The windows that the entries name wait for no item. -/
def sclReady (P : Part) (q : Nat) (l : List (Nat × Nat)) : Bool :=
  l.all (fun x => match P.wins.find? (fun v => v.key.win == x.1 && scaleOpen P q v) with | some v => !kindleHeld P v.key | none => true)

def execScl (q : Nat) (w : W64) (s : State) : Out3 :=
  .next (issueWord s q w.toNat 0x60 (badX w.toNat) [] (fun e sg =>
    match slotPart s sg.slot with
    | none => s
    | some (d, P) =>
      let l := (List.range (sclCount e sg.slot w.toNat)).filterMap (fun k => sclEntry e sg.slot (sclFirst e sg.slot w.toNat + k))
      if !sclReady P q l then s
      else
        let y := l.foldl (fun (a : State × Nat) x => let (s1, n) := sclRow a.1 d q w.toNat x.1 x.2; (s1, a.2 + n)) (s, 0)
        let sg1 := { sg with now := sg.now + y.2, lat := 12 }
        winsSettle (setEng y.1 q { engOf y.1 q with run := some sg1.next }) sg.slot d))

end Sys2Proof.Machine
end

