-- ==== Sys2Proof/Machine/MpRows.lean ====
section
/-! DEFINITION. The events of the memory ports and of flash reads (R148, R149, R159, R270, R363 to R366, R413). -/

namespace Sys2Proof.Machine

/-- The host accepts the request that port `m` issues next (R259, R363). A port that is not up issues none (R366). -/
def mpAccept (s : State) (m : Nat) : State :=
  if !(portsUp s).contains m || 2048 ≤ (s.mp.out.filter (fun r => r.port == m)).length then s
  else match nextIssue s m with
    | some (r, b) => issueReq s r b
    | none => s

def execMpRequestAccept (m : Nat) (s : State) : Out3 := .next (if held s then s else mpAccept s m)

def execMpReadResponse (m tag beat st : Nat) (s : State) : Out3 := .next (if held s then s else settle (replyOn s m tag st false beat))

def execMpWriteAck (m tag st : Nat) (s : State) : Out3 := .next (if held s then s else settle (replyOn s m tag st true 0))

/-- A request's lifetime ends: its tag is quarantined and it is reissued or fails for good. Ports 16 and above name a flash
channel, with the request's number as the tag; there the lifetime stands while the LUN is busy (R160). -/
def lifetimeEnd (s : State) (m tag : Nat) : State :=
  if 16 ≤ m then
    match s.fl.reads.find? (fun x => lunCh x.lun == m - 16 && x.req.id == tag) with
    | some x =>
      if lunBusy s x.lun then s else flRetry s x
    | none => s
  else match s.mp.out.find? (fun r => r.port == m && r.tag == tag && r.tier != 2) with
    | some r => reqRetry (quarantine s r) r
    | none => s

def execReplyLifetimeExpiry (m tag : Nat) (s : State) : Out3 := .next (if held s then s else settle (lifetimeEnd s m tag))

/-- Four lifetimes after its issue a quarantined tag is free (R149). -/
def execQuarantineExpiry (m tag : Nat) (s : State) : Out3 :=
  .next (if held s then s else { s with mp := { s.mp with quar := s.mp.quar.filter (fun q => !(q.port == m && q.tag == tag)) } })

/-- Four lifetimes after its issue a WAITING entry of a partition that is away expires (R270). -/
def lrbExpire (s : State) (d entry : Nat) : State :=
  match partOf s d with
  | none => s
  | some P =>
    match P.lrb.find? entry with
    | some x => if x.st = 1 then bumpD (setLrb s d entry { x with st := 3 }) Cnt.lrbExpired d 1 else s
    | none => s

def execLrbExpiry (d entry : Nat) (s : State) : Out3 := .next (if held s then s else lrbPlace (lrbExpire s d entry) d)

/-- Every reserved port is ready, after the last of which bring-up may end stage 6; the handshake itself (R366). -/
def execMpInitAck (m : Nat) (s : State) : Out3 :=
  .next (if held s || !s.mp.initReq.contains m || s.mp.up.contains m then s else { s with mp := { s.mp with up := s.mp.up ++ [m] } })

/-- A flash read completes: decoded or not, the bit errors that decoding took, and the DCRC that the codeword carries; `lunLost` says
that the channel has missed its data three times in a row (R413). -/
def execFlashReadDone (ch : Nat) (ok : Bool) (errs crc : Nat) (lunLost : Bool) (s : State) : Out3 :=
  .next (if held s then s else if lunLost then settle (channelGone (settleT3 s) ch) else settle (flashRead s ch ok errs crc))

def execLunLost (ch ce lun : Nat) (s : State) : Out3 := .next (if held s then s else settle (lunGone (settleT3 s) ch ce lun))

end Sys2Proof.Machine
end

