-- ==== Sys2Proof/Machine/Dispatch.lean ====
section
/-! DEFINITION. The dispatch: one arm for each command, each arm one direct call of its meaning. -/

namespace Sys2Proof.Machine

/-- The effect of a command on everything but the queue. -/
def exec (i : Instr) (s : State) : Host.Outcome State Fault Refusal :=
  match i with
  | .resetSoft => Sys2Proof.Machine.execResetSoft s
  | .softReloadWork => Sys2Proof.Machine.execSoftReloadWork s
  | .resetPart => Sys2Proof.Machine.execResetPart s
  | .bdlOpen => Sys2Proof.Machine.execBdlOpen s
  | .bdlCommit => Sys2Proof.Machine.execBdlCommit s
  | .bdlAbort => Sys2Proof.Machine.execBdlAbort s
  | .bundleExpired b => Sys2Proof.Machine.execBundleExpired b s
  | .fwLoad => Sys2Proof.Machine.execFwLoad s
  | .fwLoadEnd r => Sys2Proof.Machine.execFwLoadEnd r s
  | .fwSwitch => Sys2Proof.Machine.execFwSwitch s
  | .fwRevert => Sys2Proof.Machine.execFwRevert s
  | .objAlloc => Sys2Proof.Machine.execObjAlloc s
  | .objFree => Sys2Proof.Machine.execObjFree s
  | .objMove => Sys2Proof.Machine.execObjMove s
  | .objMoveCancel => Sys2Proof.Machine.execObjMoveCancel s
  | .moveCopyEnd d handle xidx ok => Sys2Proof.Machine.execMoveCopyEnd d handle xidx ok s
  | .publishImage => Sys2Proof.Machine.execPublishImage s
  | .publishThawed => Sys2Proof.Machine.execPublishThawed s
  | .publishReadBack mu crcs => Sys2Proof.Machine.execPublishReadBack mu crcs s
  | .flFormat => Sys2Proof.Machine.execFlFormat s
  | .adptLoad => Sys2Proof.Machine.execAdptLoad s
  | .adptLoadChecksEnd r => Sys2Proof.Machine.execAdptLoadChecksEnd r s
  | .adptUnload => Sys2Proof.Machine.execAdptUnload s
  | .ctxRebind => Sys2Proof.Machine.execCtxRebind s
  | .tblDefine => Sys2Proof.Machine.execTblDefine s
  | .tblDrop => Sys2Proof.Machine.execTblDrop s
  | .poolDef => Sys2Proof.Machine.execPoolDef s
  | .trowPut => Sys2Proof.Machine.execTrowPut s
  | .trowPutCopyEnd r ok => Sys2Proof.Machine.execTrowPutCopyEnd r ok s
  | .trowFlip => Sys2Proof.Machine.execTrowFlip s
  | .foldBackEnd d tid row ok => Sys2Proof.Machine.execFoldBackEnd d tid row ok s
  | .trainAttach => Sys2Proof.Machine.execTrainAttach s
  | .trainDetach => Sys2Proof.Machine.execTrainDetach s
  | .trainSweep => Sys2Proof.Machine.execTrainSweep s
  | .trainDiscard => Sys2Proof.Machine.execTrainDiscard s
  | .exportSnap => Sys2Proof.Machine.execExportSnap s
  | .manSubmit => Sys2Proof.Machine.execManSubmit s
  | .planLoad shape => Sys2Proof.Machine.execPlanLoad shape s
  | .planUnload => Sys2Proof.Machine.execPlanUnload s
  | .partStart => Sys2Proof.Machine.execPartStart s
  | .partQuiesce => Sys2Proof.Machine.execPartQuiesce s
  | .partClamp => Sys2Proof.Machine.execPartClamp s
  | .tileMapout => Sys2Proof.Machine.execTileMapout s
  | .cntClear => Sys2Proof.Machine.execCntClear s
  | .replayRun => Sys2Proof.Machine.execReplayRun s
  | .replayEnd => Sys2Proof.Machine.execReplayEnd s
  | .otpSeal => Sys2Proof.Machine.execOtpSeal s
  | .otpVoid => Sys2Proof.Machine.execOtpVoid s
  | .otpWo1Write path ok => Sys2Proof.Machine.execOtpWo1Write path ok s
  | .read path w => Sys2Proof.Machine.execRead path w s
  | .write path w => Sys2Proof.Machine.execWrite path w s
  | .writeB path w => Sys2Proof.Machine.execWriteB path w s
  | .odstsRead path => Sys2Proof.Machine.execOdstsRead path s
  | .registerWrite path offset w be => Sys2Proof.Machine.execRegisterWrite path offset w be s
  | .rqDb p w be => Sys2Proof.Machine.execRqDb p w be s
  | .cqDb p w be => Sys2Proof.Machine.execCqDb p w be s
  | .expDb p w be => Sys2Proof.Machine.execExpDb p w be s
  | .evDb w be => Sys2Proof.Machine.execEvDb w be s
  | .watchdogWrite w => Sys2Proof.Machine.execWatchdogWrite w s
  | .intStatusClear w => Sys2Proof.Machine.execIntStatusClear w s
  | .segmentPush q p w0 w1 => Sys2Proof.Machine.execSegmentPush q p w0 w1 s
  | .fifoPop q which => Sys2Proof.Machine.execFifoPop q which s
  | .sxCoreWrite q p n w => Sys2Proof.Machine.execSxCoreWrite q p n w s
  | .apertureAccess write offset w => Sys2Proof.Machine.execApertureAccess write offset w s
  | .sidebandWriteFrame bytes => Sys2Proof.Machine.execSidebandWriteFrame bytes s
  | .sidebandReadFrame => Sys2Proof.Machine.execSidebandReadFrame s
  | .entdaa addr => Sys2Proof.Machine.execEntdaa addr s
  | .setdasa saddr addr => Sys2Proof.Machine.execSetdasa saddr addr s
  | .rstdaa => Sys2Proof.Machine.execRstdaa s
  | .enec events => Sys2Proof.Machine.execEnec events s
  | .disec events => Sys2Proof.Machine.execDisec events s
  | .getpid => Sys2Proof.Machine.execGetpid s
  | .getbcr => Sys2Proof.Machine.execGetbcr s
  | .getdcr => Sys2Proof.Machine.execGetdcr s
  | .getstatus => Sys2Proof.Machine.execGetstatus s
  | .setmwl n => Sys2Proof.Machine.execSetmwl n s
  | .getmwl => Sys2Proof.Machine.execGetmwl s
  | .setmrl n => Sys2Proof.Machine.execSetmrl n s
  | .getmrl => Sys2Proof.Machine.execGetmrl s
  | .rstact action => Sys2Proof.Machine.execRstact action s
  | .cccNack code => Sys2Proof.Machine.execCccNack code s
  | .idcode => Sys2Proof.Machine.execIdcode s
  | .ijtag sibs mbist sel => Sys2Proof.Machine.execIjtag sibs mbist sel s
  | .scan => Sys2Proof.Machine.execScan s
  | .bypass => Sys2Proof.Machine.execBypass s
  | .testModeRise => Sys2Proof.Machine.execTestModeRise s
  | .testModeFall => Sys2Proof.Machine.execTestModeFall s
  | .hardReset => Sys2Proof.Machine.execHardReset s
  | .resetRelease => Sys2Proof.Machine.execResetRelease s
  | .pllLock pll => Sys2Proof.Machine.execPllLock pll s
  | .bringupStageEnd fails flash => Sys2Proof.Machine.execBringupStageEnd fails flash s
  | .mapRebuildEnd => Sys2Proof.Machine.execMapRebuildEnd s
  | .mpInitAck m => Sys2Proof.Machine.execMpInitAck m s
  | .panelRecord w0 w1 payload => Sys2Proof.Machine.execPanelRecord w0 w1 payload s
  | .posRecord w0 w1 => Sys2Proof.Machine.execPosRecord w0 w1 s
  | .outcomeRecord w0 w1 payload => Sys2Proof.Machine.execOutcomeRecord w0 w1 payload s
  | .epilogueRequest ereq => Sys2Proof.Machine.execEpilogueRequest ereq s
  | .xpReadData data => Sys2Proof.Machine.execXpReadData data s
  | .xpWriteAccept => Sys2Proof.Machine.execXpWriteAccept s
  | .emberAfter d c => Sys2Proof.Machine.execEmberAfter d c s
  | .emberExpiry d c => Sys2Proof.Machine.execEmberExpiry d c s
  | .emberPageCopyEnd c page => Sys2Proof.Machine.execEmberPageCopyEnd c page s
  | .adoptionCopyEnd c pos => Sys2Proof.Machine.execAdoptionCopyEnd c pos s
  | .newReq p => Sys2Proof.Machine.execNewReq p s
  | .append p => Sys2Proof.Machine.execAppend p s
  | .pause p => Sys2Proof.Machine.execPause p s
  | .cancel p => Sys2Proof.Machine.execCancel p s
  | .mpReadResponse m tag beat st => Sys2Proof.Machine.execMpReadResponse m tag beat st s
  | .mpWriteAck m tag st => Sys2Proof.Machine.execMpWriteAck m tag st s
  | .replyLifetimeExpiry m tag => Sys2Proof.Machine.execReplyLifetimeExpiry m tag s
  | .quarantineExpiry m tag => Sys2Proof.Machine.execQuarantineExpiry m tag s
  | .lrbExpiry d entry => Sys2Proof.Machine.execLrbExpiry d entry s
  | .slotLookup w => Sys2Proof.Machine.execSlotLookup w s
  | .nodeLookup w => Sys2Proof.Machine.execNodeLookup w s
  | .pageLookup w => Sys2Proof.Machine.execPageLookup w s
  | .maskLookup w => Sys2Proof.Machine.execMaskLookup w s
  | .todSample sec ns lock => Sys2Proof.Machine.execTodSample sec ns lock s
  | .flashReadDone ch ok errs crc lunLost => Sys2Proof.Machine.execFlashReadDone ch ok errs crc lunLost s
  | .flashProgramDone ch ce lun block ok => Sys2Proof.Machine.execFlashProgramDone ch ce lun block ok s
  | .flashEraseDone ch ce lun block ok => Sys2Proof.Machine.execFlashEraseDone ch ce lun block ok s
  | .checkpoint => Sys2Proof.Machine.execCheckpoint s
  | .gcReclaim ch ce lun => Sys2Proof.Machine.execGcReclaim ch ce lun s
  | .wearLevel => Sys2Proof.Machine.execWearLevel s
  | .readDisturbRelocate ch ce lun block => Sys2Proof.Machine.execReadDisturbRelocate ch ce lun block s
  | .fenceBreak ch ce lun => Sys2Proof.Machine.execFenceBreak ch ce lun s
  | .zqShort => Sys2Proof.Machine.execZqShort s
  | .lunLost ch ce lun => Sys2Proof.Machine.execLunLost ch ce lun s
  | .kindlingStart p => Sys2Proof.Machine.execKindlingStart p s
  | .dirtyWriteBack p place => Sys2Proof.Machine.execDirtyWriteBack p place s
  | .weightBlockEnd p win unit fault => Sys2Proof.Machine.execWeightBlockEnd p win unit fault s
  | .spareSubstitution l => Sys2Proof.Machine.execSpareSubstitution l s
  | .holdCeiling p => Sys2Proof.Machine.execHoldCeiling p s
  | .urgentTimer d => Sys2Proof.Machine.execUrgentTimer d s
  | .clampSaveEnd d => Sys2Proof.Machine.execClampSaveEnd d s
  | .restoreStart => Sys2Proof.Machine.execRestoreStart s
  | .restoreEnd d => Sys2Proof.Machine.execRestoreEnd d s
  | .partitionBlocked d => Sys2Proof.Machine.execPartitionBlocked d s
  | .weightGradientPhase p tslot => Sys2Proof.Machine.execWeightGradientPhase p tslot s
  | .updatePass1 p group => Sys2Proof.Machine.execUpdatePass1 p group s
  | .updateItem p => Sys2Proof.Machine.execUpdateItem p s
  | .segmentStart q p => Sys2Proof.Machine.execSegmentStart q p s
  | .endSeg q w => Sys2Proof.Machine.execEndSeg q w s
  | .setlen q w => Sys2Proof.Machine.execSetlen q w s
  | .sig q w => Sys2Proof.Machine.execSig q w s
  | .fence q w => Sys2Proof.Machine.execFence q w s
  | .sxset q w => Sys2Proof.Machine.execSxset q w s
  | .sxget q w => Sys2Proof.Machine.execSxget q w s
  | .add q w => Sys2Proof.Machine.execAdd q w s
  | .sub q w => Sys2Proof.Machine.execSub q w s
  | .mul q w => Sys2Proof.Machine.execMul q w s
  | .div q w => Sys2Proof.Machine.execDiv q w s
  | .sqrt q w => Sys2Proof.Machine.execSqrt q w s
  | .min q w => Sys2Proof.Machine.execMin q w s
  | .max q w => Sys2Proof.Machine.execMax q w s
  | .abs q w => Sys2Proof.Machine.execAbs q w s
  | .neg q w => Sys2Proof.Machine.execNeg q w s
  | .cmplt q w => Sys2Proof.Machine.execCmplt q w s
  | .cmple q w => Sys2Proof.Machine.execCmple q w s
  | .cmpeq q w => Sys2Proof.Machine.execCmpeq q w s
  | .sel q w => Sys2Proof.Machine.execSel q w s
  | .iadd q w => Sys2Proof.Machine.execIadd q w s
  | .isub q w => Sys2Proof.Machine.execIsub q w s
  | .imul q w => Sys2Proof.Machine.execImul q w s
  | .and q w => Sys2Proof.Machine.execAnd q w s
  | .or q w => Sys2Proof.Machine.execOr q w s
  | .xor q w => Sys2Proof.Machine.execXor q w s
  | .shl q w => Sys2Proof.Machine.execShl q w s
  | .shr q w => Sys2Proof.Machine.execShr q w s
  | .sar q w => Sys2Proof.Machine.execSar q w s
  | .imin q w => Sys2Proof.Machine.execImin q w s
  | .imax q w => Sys2Proof.Machine.execImax q w s
  | .mov q w => Sys2Proof.Machine.execMov q w s
  | .cvt q w => Sys2Proof.Machine.execCvt q w s
  | .red q w => Sys2Proof.Machine.execRed q w s
  | .lda q w => Sys2Proof.Machine.execLda q w s
  | .ldl q w => Sys2Proof.Machine.execLdl q w s
  | .stl q w => Sys2Proof.Machine.execStl q w s
  | .lds q w => Sys2Proof.Machine.execLds q w s
  | .sts q w => Sys2Proof.Machine.execSts q w s
  | .xld q w => Sys2Proof.Machine.execXld q w s
  | .xst q w => Sys2Proof.Machine.execXst q w s
  | .scl q w => Sys2Proof.Machine.execScl q w s
  | .transferEnd q xtag ok => Sys2Proof.Machine.execTransferEnd q xtag ok s
  | .watchdogExpiry within1s => Sys2Proof.Machine.execWatchdogExpiry within1s s
  | .watchdogHalf => Sys2Proof.Machine.execWatchdogHalf s
  | .eventIrqTimer => Sys2Proof.Machine.execEventIrqTimer s
  | .scrubPeriod finds => Sys2Proof.Machine.execScrubPeriod finds s
  | .errorScoreHalving => Sys2Proof.Machine.execErrorScoreHalving s
  | .knownAnswerTest tile pass => Sys2Proof.Machine.execKnownAnswerTest tile pass s
  | .sketchAgeing => Sys2Proof.Machine.execSketchAgeing s
  | .flashMountEnd readable flash samples => Sys2Proof.Machine.execFlashMountEnd readable flash samples s
  | .fwRestartEnd => Sys2Proof.Machine.execFwRestartEnd s
  | .bucketRefill => Sys2Proof.Machine.execBucketRefill s
  | .mpRequestAccept m => Sys2Proof.Machine.execMpRequestAccept m s
  | .fifoStallTimeout q => Sys2Proof.Machine.execFifoStallTimeout q s

end Sys2Proof.Machine
end

