-- ==== Sys2Proof/Safety.lean ====
section
/-! DEFINITION. What the statements speak of: the invariant of every step, what a post and the end of a command may change,
and the forms in which a command is seen to act. -/

namespace Sys2Proof.Machine

/-- What every step keeps: memory, the counters and the OTP array list no zero and no key twice, in rising order, and the
tables of defined partitions and of contexts have one entry for each key. -/
structure Inv (s : State) : Prop where
  mem : memWf s.mem = true
  cnt : s.cnt.wf 0 = true
  otp : s.otp.bytes.wf 0 = true
  parts : Tab.sortedFrom none s.parts = true
  ctxs : Tab.sortedFrom none s.ctxs = true

/-- The place that EV_HEAD has after one more entry. -/
def evNext (s : State) : Nat := (s.core.evHead + 1) % evEntries s

/-- The bytes that posting an event may write: the entry at EV_HEAD, and the one after it where an EV_OVERFLOW goes first
(R311). -/
def EventByte (s : State) (k : Nat) : Prop :=
  (memKey 0 (evBase s + 32 * s.core.evHead) ≤ k ∧ k < memKey 0 (evBase s + 32 * s.core.evHead) + 32) ∨
  (memKey 0 (evBase s + 32 * evNext s) ≤ k ∧ k < memKey 0 (evBase s + 32 * evNext s) + 32)

/-- All that posting events changes: EV_HEAD, the backlog and the count of dropped events, EV_DROP, the bytes of the
ring's next entries with the requests that write them, pending in-band interrupts, and the run bit of the trace buffer.
Everything else stays. -/
structure Posted (s t : State) : Prop where
  rest : t = { s with od := t.od, cnt := t.cnt, core := t.core, mp := t.mp, mem := t.mem, i3c := t.i3c }
  od : t.od = { s.od with vals := t.od.vals }
  vals : ∀ k, k ≠ okey 10 0x31 0 → t.od.vals.find? k = s.od.vals.find? k
  cnt : ∀ k, k ≠ cntKey Cnt.evDrop 0 → t.cnt.getD k 0 = s.cnt.getD k 0
  core : t.core = { s.core with evHead := t.core.evHead, backlog := t.core.backlog, evDropped := t.core.evDropped }
  mp : t.mp = { s.mp with nextId := t.mp.nextId, waiting := t.mp.waiting }
  i3c : t.i3c = { s.i3c with ibis := t.i3c.ibis }
  mem : ∀ k, ¬ EventByte s k → byteAt t.mem k = byteAt s.mem k

/-- From `u` to `t` the watchdog expires: FW_WDOG counts and is posted, and the core is RESTARTING, to go on as it was; where the expiry
follows another within 1 s and the standby bank holds a verified image, every partition changes over to it at once (R307). -/
def Expired (u : State) (again : Bool) (t : State) : Prop :=
  ∃ v w : State, Posted (bump u Cnt.fwWdog 1) v ∧
    v = post (bump u Cnt.fwWdog 1) Ev.fwWdog none 0 (if again then 2 else 1) ((bankVer u u.core.bank).getD 0) ∧
    w = { v with core := { v.core with
      st := .restarting, back := (if u.core.st = .restarting then u.core.back else u.core.st), expired := true, wdogHalf := false } } ∧
    t = (if again && (bankVer u (1 - u.core.bank)).isSome then changeAll w (1 - u.core.bank) else w)

/-- The instance has left its queue, and its status record says how it ended (R323, R340): state 3 DONE or 4 REFUSED, the
code, the step of the partition it names, and two result words. -/
def endedState (s : State) (i : Inst) (d : Option Nat) (code : Nat) (r0 r1 : W64) : State :=
  { s with od := { s.od with
    insts := s.od.insts.filter (fun j => !i.same j)
    stats := s.od.stats.put (statKey i)
      { code := code, state := if code = 0 then 3 else 4, tag := i.tag, step := ((d.bind (partOf s)).map (·.step)).getD 0, r0 := r0, r1 := r1 } } }

/-- From `s` a command ends: its CMD_RESULT is posted, and nothing happens beside it but what a post does. -/
structure Ends (s : State) (i : Inst) (d : Option Nat) (code : Nat) (r0 r1 : W64) (t : State) : Prop where
  told : t = post (endedState s i d code r0 r1) Ev.cmdResult d code (i.obj + i.cseq * 2 ^ 20 + i.path.num * 2 ^ 24) r0.toNat
  posted : Posted (endedState s i d code r0 r1) t

/-- The status record of an instance. -/
def statusOf (t : State) (i : Inst) : Option StatRec := t.od.stats.find? (statKey i)

/-- No live instance is `i`. -/
def Gone (t : State) (i : Inst) : Prop := ∀ j ∈ t.od.insts, i.same j = false

/-! ## Operations of the dictionary -/

/-- The block is up, and an operation of this path that begins with `w` can be carried out at once: none is in progress on
the path, and nothing makes it wait (R318, R325, R382). -/
def OpFree (s : State) (path : Path) (w : W64) : Prop :=
  held s = false ∧ (regsOf s path).busy = none ∧ (regsOf s path).prog = false ∧ opWaits s path w = false

/-- ODSEL of the path names element `x` of object `o`, and the path reaches its area (R302). -/
def Names (s : State) (path : Path) (o : Obj) (x : Nat) : Prop :=
  selObj (regsOf s path) = some (o, x) ∧
  (s.core.st = .boot → selArea (regsOf s path) = 0 ∨ selArea (regsOf s path) = 1 ∨ selArea (regsOf s path) = 11)

/-- The state in which an operation is carried out: source 42 is latched for one that firmware serves (Table CORE-2). -/
def served (s : State) (path : Path) (w : W64) : State := if fwServesOp s (regsOf s path) w then latch s 42 else s

/-- From `u` an operation ends with the answer `x`: the registers of its path say so and the path is told (Table OD-8, R328);
nothing else happens. -/
structure Answered (u : State) (path : Path) (w : W64) (x : OpRes) (t : State) : Prop where
  regs : regsOf t path = { regsOf u path with
    busy := none
    prog := false
    pend := x.pend
    cseq := x.cseq
    rlen := x.rlen
    code := x.code
    tag := cmdTag w
    dat := match x.dat with | some l => putDat (regsOf u path).dat l | none => (regsOf u path).dat }
  others : ∀ q : Path, q ≠ path → regsOf t q = regsOf u q
  rest : t = { u with od := { u.od with cp := t.od.cp, i3c := t.od.i3c, fw := t.od.fw }, core := t.core, i3c := t.i3c }
  core : t.core = { u.core with cpEnded := if path = .cp then true else u.core.cpEnded }
  i3c : t.i3c = { u.i3c with ibis := if path = .i3c && u.i3c.ibiOn then u.i3c.ibis ++ [0xA1] else u.i3c.ibis }

/-! ## Commands and bundles -/

/-- The block is up, and `i` is the oldest instance of the command whose row has not acted. -/
def Due (s : State) (area item : Nat) (i : Inst) : Prop := held s = false ∧ oldest s area item = some i

/-- The value that a list of writes gives the key of an element: the last of them prevails. -/
def lastWrite (l : List (Nat × Nat × Nat × W64)) (k : Nat) : Option W64 :=
  (l.reverse.find? (fun e => okey e.1 e.2.1 e.2.2.1 == k)).map (fun e => e.2.2.2)

/-- The state with bundle `b` free. -/
def bundleFreed (s : State) (b : Nat) : State := { s with od := { s.od with bundles := s.od.bundles.set {} b {} } }

/-! ## The Element Engine -/

/-- Word `w`, of opcode `op`, is the next of the segment `sg` that engine `q` runs, and nothing holds it back: the block is up,
the word is not poisoned, it is not the last unless it is END (R308), none of the tile registers `regs` waits for an XLD
(R293), and no word of the engine's registers is poisoned (R399). -/
structure Issues (s : State) (q : Nat) (w : W64) (op : Nat) (regs : List Nat) (sg : Seg) : Prop where
  up : held s = false
  runs : (engOf s q).run = some sg
  opcode : fOp w.toNat = op
  last : op = 1 ∨ sg.idx + 1 ≠ sg.n
  clean : s.rel.poison.contains (7, 8192 * q + sg.start + sg.idx) = false
  loaded : regs.any (loading (engOf s q)) = false
  sound : (engOf s q).bad = []

/-- Lane (i, j) of tile register `r`: its 32-bit element. -/
def lane (s : State) (q r i j : Nat) : Nat := elemAt (rowOf (engOf s q) r i) 32 j

/-- Operand B at element (i, j), by BSEL: the register, an SX scalar, one row or one column of the register (Table EE-5a). -/
def laneB (s : State) (q p w i j : Nat) : Nat :=
  match fBsel w with
  | 0 => lane s q (fMb w) i j
  | 1 => sxScalar (engOf s q) p (fSxi w)
  | 2 => lane s q (fMb w) (fld (sxOf (engOf s q) p (fSxi w)).toNat 4 0) j
  | _ => lane s q (fMb w) i (fld (sxOf (engOf s q) p (fSxi w)).toNat 6 0)

/-- The counters after a census of slot `p`: those of Table NUM-4 of its partition have grown by it. -/
def counted (s : State) (p : Nat) (c : Census) : Tab W64 :=
  match slotD s p with
  | some d => (bumpCensus s d c).cnt
  | none => s.cnt

/-- From `s` the next instruction of segment `sg` has been executed, and nothing has changed but: the first `n` rows of tile
register `md`, the entries `sxs` of the slot's SX, the counters by the census `c`, and the place and times of the segment. -/
structure Executed (s : State) (q : Nat) (sg : Seg) (md n : Nat) (sxs : List Nat) (c : Census) (t : State) : Prop where
  rest : t = { s with ee := t.ee, cnt := t.cnt, free := t.free }
  cnt : ∀ k, t.cnt.getD k 0 = (counted s sg.slot c).getD k 0
  others : ∀ r, r ≠ q → engOf t r = engOf s r
  eng : engOf t q = { engOf s q with m := (engOf t q).m, sx := (engOf t q).sx, run := (engOf t q).run }
  rows : ∀ r i, i < 32 → ¬ (r = md ∧ i < n) → rowOf (engOf t q) r i = rowOf (engOf s q) r i
  sx : ∀ k, (∀ x ∈ sxs, k ≠ sxKey sg.slot x) → (engOf t q).sx.getD k 0 = (engOf s q).sx.getD k 0
  run : ∃ g : Seg, (engOf t q).run = some g ∧ g = { sg with idx := sg.idx + 1, now := g.now, ready := g.ready, lat := g.lat, loose := g.loose }

/-- A row of Format A: its opcode, its command, which operands it has beside A, and the value it gives an element. -/
structure LaneRow where
  op : Nat
  cmd : Nat → W64 → Instr
  useB : Bool
  useC : Bool
  val : Nat → Nat → Nat → Nat

/-- The tile registers that an instruction of Format A reads or writes. -/
def LaneRow.regs (x : LaneRow) (w : Nat) : List Nat :=
  [fMd w, fMa w] ++ (if x.useB && fBsel w ≠ 1 then [fMb w] else []) ++ (if x.useC then [fMc w] else [])

/-- The value of element (i, j). -/
def LaneRow.at (x : LaneRow) (s : State) (q p w i j : Nat) : Nat :=
  x.val (lane s q (fMa w) i j) (if x.useB then laneB s q p w i j else lane s q (fMa w) i j)
    (if x.useC then lane s q (fMc w) i j else lane s q (fMa w) i j)

/-- What an elementwise instruction does: every element of MD within LEN gets its value, the others of the row keep theirs, and
with SUM set three SX entries get the summary of R291, over the results as `reading` has them as FP32 numbers. -/
def LaneRow.Acts (x : LaneRow) (reading : Option (Nat → Nat)) : Prop :=
  ∀ (q : Nat) (w : W64) (s : State) (sg : Seg), Issues s q w x.op (x.regs w.toNat) sg →
    badA s w.toNat x.useB x.useC (engOf s q) sg = false →
    ∀ n m, n = lenRows (engOf s q) sg.slot → m = lenCols (engOf s q) sg.slot →
    ∃ (t : State) (c : Census), exec (x.cmd q w) s = .next t ∧
      Executed s q sg (fMd w.toNat) n (if fSum w.toNat then [fSxd w.toNat, fSxd w.toNat + 1, fSxd w.toNat + 2] else []) c t ∧
      (∀ i j, i < n → j < m → lane t q (fMd w.toNat) i j = x.at s q sg.slot w.toNat i j % 2 ^ 32) ∧
      (∀ i j, i < n → m ≤ j → j < 128 → lane t q (fMd w.toNat) i j = lane s q (fMd w.toNat) i j) ∧
      (fSum w.toNat = true → sxOf (engOf t q) sg.slot (fSxd w.toNat + 2) = w64 (censusWord c) ∧
        ∀ read, reading = some read →
          ∀ rows, rows = (List.range n).map (fun i => (List.range m).map (fun j => read (x.at s q sg.slot w.toNat i j))) →
          sxOf (engOf t q) sg.slot (fSxd w.toNat) = w64 (maxMag rows.flatten) ∧
          sxOf (engOf t q) sg.slot (fSxd w.toNat + 1) = w64 (treeSum (placed 0 0 rows)).1)

/-- An FP32 value rounded once, to nearest even, and saturated (R288). -/
def near (v : Dy) : Nat := (rnd32 v).1

/-- An FP32 operand after the substitutions of Table NUM-4. -/
def num (a : Nat) : Dy := (in32 a).1

/-- An integer saturated to INT32, as its 32 bits (Table NUM-4). -/
def sat32 (i : Int) : Nat := (max (-(2 : Int) ^ 31) (min ((2 : Int) ^ 31 - 1) i) % (2 : Int) ^ 32).toNat

/-- The segment has ended with a status at an index: the engine runs none, the core's held writes of SX are in force, and the
completion FIFO has the word of Table EE-4 with some number of cycles (R282, R283, R309). -/
structure SegEnded (s : State) (q : Nat) (sg : Seg) (status index : Nat) (t : State) : Prop where
  rest : t = { s with ee := t.ee, cnt := t.cnt, free := t.free }
  others : ∀ r, r ≠ q → engOf t r = engOf s r
  eng : ∃ cyc, engOf t q = { engOf s q with
    sx := (sg.held.foldl (fun e x => setSx e sg.slot x.1 x.2) (engOf s q)).sx
    run := none
    stalled := false
    segFifo := (engOf s q).segFifo ++ [segWord sg status index cyc] }

/-- The instructions of Table EE-6. -/
def eeRows (q : Nat) (w : W64) : List Instr :=
  [.endSeg q w, .setlen q w, .sig q w, .fence q w, .sxset q w, .sxget q w, .add q w, .sub q w, .mul q w, .div q w, .sqrt q w,
   .min q w, .max q w, .abs q w, .neg q w, .cmplt q w, .cmple q w, .cmpeq q w, .sel q w, .iadd q w, .isub q w, .imul q w,
   .and q w, .or q w, .xor q w, .shl q w, .shr q w, .sar q w, .imin q w, .imax q w, .mov q w, .cvt q w, .red q w, .lda q w,
   .ldl q w, .stl q w, .lds q w, .sts q w, .xld q w, .xst q w, .scl q w]

/-- The byte that a list of pieces, each an address with bytes, writes at `a`: that of the last piece that covers it. -/
def pieceAt (l : List (Nat × List Byte)) (a : Nat) : Option Byte :=
  match l.reverse.find? (fun x => decide (x.1 ≤ a) && decide (a < x.1 + x.2.length)) with
  | some x => some (x.2.getD (a - x.1) 0)
  | none => none

/-- A byte of the scratch of a segment. -/
def scratchByte (sg : Seg) (a : Nat) : Byte := BitVec.ofNat 8 (elemAt (scratchLine sg (a / 64)) 8 (a % 64))

/-- From `s` the rows `r` have been loaded into tile register `reg` from a space of bytes: a row's elements within LEN, and its
block scales, are those bytes, and the rest of the row is as it was; nothing else has changed (R293). -/
def Loaded (s : State) (q : Nat) (sg : Seg) (reg : Nat) (r : Rows) (read : Nat → Nat → List Byte) (t : State) : Prop :=
  Executed s q sg reg r.n [] {} t ∧
  ∀ i, i < r.n → rowOf (engOf t q) reg i =
    unpackRow r (rowOf (engOf s q) reg i) (read (r.base + i * r.stride) r.size) (read (r.scale + i * r.blocks) r.blocks) % 2 ^ 4096

/-- The segment after a store has issued. -/
def stored (sg : Seg) (g : Seg) : Prop :=
  g = { sg with idx := sg.idx + 1, now := g.now, ready := g.ready, lat := g.lat, loose := true, scratch := g.scratch, stl := g.stl }

/-- A command for the resident slot that its arguments name: PART_STATE where no partition is resident there, the code of its checks
where that is not 0, and else what it does. -/
def SlotCommand (s : State) (i : Inst) (code : Nat → Part → Nat) (go : Nat → Part → State) (t : State) : Prop :=
  (slotPart s i.slotArg = none → Ends s i none Code.partState 0 0 t) ∧
  ∀ d P, slotPart s i.slotArg = some (d, P) → (code d P ≠ 0 → Ends s i (some d) (code d P) 0 0 t) ∧ (code d P = 0 → t = go d P)

end Sys2Proof.Machine
end

