-- ==== Sys2Proof/Certificates/Slice0/Obligations.lean ====
section
/-! DEFINITION. The statements for the provers. -/

open Sys2Proof Sys2Proof.Machine

/-! ## The block as a machine -/

/-- A step is the command at the front of the queue, acting on the state with the queue's rest. -/
def Obligations.StepRunsFront : Prop :=
  ∀ (c : Instr) (rest : List Instr) (s : State), step { s with pending := c :: rest } = exec c { s with pending := rest }

/-- No step stops: a run of any length from any state answers a state. -/
def Obligations.NoRunStops : Prop :=
  ∀ (k : Nat) (s : State), ∃ t, Host.Core.run Sys2Proof.core k s = .next t

/-- A step takes the front command off the queue, adds none, and leaves what is built as it is.
With no command waiting the block idles (log entry 1). -/
def Obligations.StepConsumesFront : Prop :=
  (∀ (c : Instr) (rest : List Instr) (s t : State), s.pending = c :: rest → step s = .next t →
     t.pending = rest ∧ t.built = s.built ∧ t.silicon = s.silicon) ∧
  (∀ s : State, s.pending = [] → step s = .next s)

/-- The state after reset has the invariant. -/
def Obligations.ResetHasInv : Prop := Inv State.reset

/-- Every step keeps the invariant. -/
def Obligations.StepKeepsInv : Prop :=
  ∀ s t : State, Inv s → step s = .next t → Inv t

/-- OTP bits program from 0 to 1 only: no step clears a bit of any byte of the array. -/
def Obligations.OtpBitsOnlyRise : Prop :=
  ∀ s t : State, step s = .next t → ∀ k : Nat, byteAt s.otp.bytes k &&& byteAt t.otp.bytes k = byteAt s.otp.bytes k

/-- The rows that act on a block held by PRST_N or TEST_MODE: those two inputs themselves and the TAP. -/
def reachesHeld : Instr → Bool
  | .hardReset => true
  | .resetRelease => true
  | .testModeRise => true
  | .testModeFall => true
  | .idcode => true
  | .bypass => true
  | .ijtag _ _ _ => true
  | .scan => true
  | _ => false

/-- While PRST_N is low, or TEST_MODE is high, or since it fell, no other command changes anything. -/
def Obligations.HeldBlockIgnores : Prop :=
  ∀ (c : Instr) (s : State), held s = true → reachesHeld c = false → exec c s = .next s

/-! ## The object dictionary -/

/-- A READ of an object that ODSEL names answers at once: NO_RIGHT for a command, else code 0 with the object's whole value
in ODDAT and its length in RLEN; it changes nothing but the registers of its own path (R316, R317, R325). -/
def Obligations.ReadAnswers : Prop :=
  ∀ (path : Path) (w : W64) (s : State) (o : Obj) (x : Nat), OpFree s path w → cmdOp w = 1 → Names s path o x →
    ∃ t, exec (.read path w) s = .next t ∧
      (o.right = .cmd → Answered (served s path w) path w { code := Code.noRight } t) ∧
      (o.right ≠ .cmd → ∃ ws : List W64,
        ws = (if outside s o.ix x || !ownerThere s (ownerOf o.ix x) then absentRead (served s path w) o x else readObj (served s path w) o x) ∧
        Answered (served s path w) path w
          { code := Code.ok, pend := pendFlag s o x, rlen := ws.length - 1, dat := some ws } t)

/-- A WRITE to an object that is no command: refused with the code of its path's right or of the first check it fails, or
accepted, and then nothing changes but what the acceptance of the value does; a write of a write-once object goes on
programming, with BUSY set (R316, R317, R319, R325, R346). -/
def Obligations.WriteAnswers : Prop :=
  ∀ (path : Path) (w : W64) (s : State) (o : Obj) (x : Nat), OpFree s path w → cmdOp w = 2 → Names s path o x → o.right ≠ .cmd →
    ∃ (t u : State) (v : W64), u = served s path w ∧ v = liveBits o ((regsOf s path).dat.getD 0 0) ∧
      exec (.write path w) s = .next t ∧
      (mayAccess path o .write ≠ Code.ok → Answered u path w { code := mayAccess path o .write } t) ∧
      (mayAccess path o .write = Code.ok → admitWrite u o x (cmdLen w) v ≠ Code.ok →
        Answered u path w { code := admitWrite u o x (cmdLen w) v } t) ∧
      (mayAccess path o .write = Code.ok → admitWrite u o x (cmdLen w) v = Code.ok → o.right = .wo1 →
        (wo1Check u o.item x).prog = false → Answered u path w { code := (wo1Check u o.item x).code } t) ∧
      (mayAccess path o .write = Code.ok → admitWrite u o x (cmdLen w) v = Code.ok → o.right = .wo1 →
        (wo1Check u o.item x).prog = true → t = setRegs u path { regsOf u path with busy := some w, prog := true }) ∧
      (mayAccess path o .write = Code.ok → admitWrite u o x (cmdLen w) v = Code.ok → o.right ≠ .wo1 →
        o.area = 7 ∧ o.item = 0x50 → shareFits u x v.toNat ≠ Code.ok → Answered u path w { code := shareFits u x v.toNat } t) ∧
      (mayAccess path o .write = Code.ok → admitWrite u o x (cmdLen w) v = Code.ok → o.right ≠ .wo1 →
        (o.area = 7 ∧ o.item = 0x50 → shareFits u x v.toNat = Code.ok) →
        Answered (written (acceptVal u o x v) o x) path w
          { code := Code.ok, pend := pendFlag (written (acceptVal u o x v) o x) o x } t)

/-- An accepted value is the one a read returns from then on, of no other element the value changes, and for a partition for
which it waits the value in force is unchanged (R319, R321). -/
def Obligations.AcceptedValueWaits : Prop :=
  ∀ (s : State) (o : Obj) (x : Nat) (v : W64),
    lastVal (acceptVal s o x v) o.area o.item x = v ∧
    (∀ k, k ≠ okey o.area o.item x → (acceptVal s o x v).od.vals.find? k = s.od.vals.find? k) ∧
    (acceptVal s o x v = { s with od := { s.od with vals := (acceptVal s o x v).od.vals, pend := (acceptVal s o x v).od.pend } }) ∧
    (o.cls = .reset → ∀ d, inForce (acceptVal s o x v) o.area o.item x d = inForce s o.area o.item x d) ∧
    (∀ l u fr d, o.cls = .step → stepKind s (ownerOf o.ix x) = some (.parts l u fr) → (l.any (fun e => e.1 == d)) = true →
      inForce (acceptVal s o x v) o.area o.item x (some d) = inForce s o.area o.item x (some d)) ∧
    (o.cls = .step → stepKind s (ownerOf o.ix x) = none →
      s.od.pend.any (fun y => y.area == o.area && y.item == o.item && y.index == x) = false →
      ∀ d, inForce (acceptVal s o x v) o.area o.item x d = v)

/-- A WRITE to a command issues an instance: refused with its code, or queued behind every instance there is, under a CSEQ
that no live instance of the command on the path has (R323, R341). -/
def Obligations.CommandIssues : Prop :=
  ∀ (path : Path) (w : W64) (s : State) (o : Obj) (x : Nat), OpFree s path w → cmdOp w = 2 → Names s path o x → o.right = .cmd →
    ∃ (t u : State) (args : List W64), u = served s path w ∧ args = datWords (regsOf s path) (cmdLen w) ∧
      exec (.write path w) s = .next t ∧
      (mayAccess path o .issue ≠ Code.ok → Answered u path w { code := mayAccess path o .issue } t) ∧
      (mayAccess path o .issue = Code.ok → args.length ≠ o.ty.words → Answered u path w { code := Code.accessSize } t) ∧
      (mayAccess path o .issue = Code.ok → args.length = o.ty.words → argsOk o args = false →
        Answered u path w { code := Code.limitRange } t) ∧
      (mayAccess path o .issue = Code.ok → args.length = o.ty.words → argsOk o args = true →
        16 ≤ (liveInsts s o.area o.item path).length → Answered u path w { code := Code.cmdBusy } t) ∧
      (mayAccess path o .issue = Code.ok → args.length = o.ty.words → argsOk o args = true →
        (liveInsts s o.area o.item path).length < 16 →
        ∃ i : Inst, i = { area := o.area, item := o.item, path := path, cseq := i.cseq, tag := cmdTag w, args := args } ∧
          i.cseq < 16 ∧ (∀ j ∈ liveInsts s o.area o.item path, j.cseq ≠ i.cseq) ∧
          Answered { u with od := { u.od with
            insts := u.od.insts ++ [i]
            lastCseq := u.od.lastCseq.put (okey o.area o.item path.num) i.cseq
            stats := u.od.stats.put (statKey i) { state := 1, tag := cmdTag w } } } path w { code := Code.ok, cseq := i.cseq } t)

/-- A WRITE_B: its code is that of the first rule it breaks, and then nothing changes; else the bundle holds the value in place
of any it held for the element, and no object changes (R329 to R331). -/
def Obligations.WriteBAnswers : Prop :=
  ∀ (path : Path) (w : W64) (s : State) (o : Obj) (x : Nat), OpFree s path w → cmdOp w = 3 → Names s path o x →
    ∃ (t u : State) (v : W64), u = served s path w ∧ v = liveBits o ((regsOf s path).dat.getD 0 0) ∧
      exec (.writeB path w) s = .next t ∧
      (ownBundle s path (cmdBid w) = none → Answered u path w { code := Code.bundleNone } t) ∧
      ∀ b : Bundle, ownBundle s path (cmdBid w) = some b →
        (mayAccess path o .writeB ≠ Code.ok → Answered u path w { code := mayAccess path o .writeB } t) ∧
        (mayAccess path o .writeB = Code.ok → bundleAllows b o x = false → Answered u path w { code := Code.bundleScope } t) ∧
        (mayAccess path o .writeB = Code.ok → bundleAllows b o x = true → admitWrite u o x (cmdLen w) v ≠ Code.ok →
          Answered u path w { code := admitWrite u o x (cmdLen w) v } t) ∧
        (mayAccess path o .writeB = Code.ok → bundleAllows b o x = true → admitWrite u o x (cmdLen w) v = Code.ok →
          ∃ held : List (Nat × Nat × Nat × W64),
            held = b.writes.filter (fun e => !(e.1 == o.area && e.2.1 == o.item && e.2.2.1 == x)) ∧
            (64 ≤ held.length → Answered u path w { code := Code.bundleFull } t) ∧
            (held.length < 64 → Answered { u with od := { u.od with
              bundles := u.od.bundles.set {} (cmdBid w) { b with writes := held ++ [(o.area, o.item, x, v)] } } } path w
              { code := Code.ok } t))

/-- A read of ODSTS clears OVR of its path alone and returns the register as it was (Table OD-8).
An operation that finds BUSY set on its path is discarded and sets OVR (R325). -/
def Obligations.PathRegisters : Prop :=
  (∀ (path : Path) (s : State), held s = false → path ≠ .i3c →
     ∃ t, exec (.odstsRead path) s = .next t ∧
       regsOf t path = { regsOf s path with ovr := false } ∧ (∀ q : Path, q ≠ path → regsOf t q = regsOf s q) ∧
       (path = .cp → t.out = { s.out with cpData := odstsWord (regsOf s .cp), cpErr := false } ∧
         t.core = { s.core with cpEnded := false }) ∧
       (path = .fw → t.out = { s.out with popped := odstsWord (regsOf s .fw) } ∧ t.core = s.core) ∧
       t = { s with od := { s.od with cp := t.od.cp, i3c := t.od.i3c, fw := t.od.fw }, out := t.out, core := t.core }) ∧
  (∀ (path : Path) (w : W64) (s : State), held s = false → (regsOf s path).busy.isSome →
     (cmdOp w = 1 → exec (.read path w) s = .next (setRegs s path { regsOf s path with ovr := true })) ∧
     (cmdOp w = 2 → exec (.write path w) s = .next (setRegs s path { regsOf s path with ovr := true })) ∧
     (cmdOp w = 3 → exec (.writeB path w) s = .next (setRegs s path { regsOf s path with ovr := true })))

/-- Control Port writes of ODSEL, ODDAT and ODCMD: while BUSY is 0 the first two set their register, while it is 1 they are
discarded and a write of ODCMD sets OVR; a reserved OP is refused with OP_BAD; an offset without a register, or a write of
less than eight bytes, has an error response and no other effect (R324, R325, R369).
Core writes: ODSEL and ODDAT of the dictionary service at 0x0800_0000, APCTL at 0x0900_0000, and outside every region of
the map an access fault alone (R300, R324). -/
def Obligations.RegisterWrites : Prop :=
  (∀ (offset : Nat) (w : W64) (be : Nat) (s : State), held s = false →
     ∃ t, exec (.registerWrite .cp offset w be) s = .next t ∧
       (be ≠ 0xFF ∨ (odOffset offset = false ∧ dbOffset offset = false) → t = { s with out := { s.out with cpErr := true } }) ∧
       (be = 0xFF → offset = 0 → s.od.cp.busy = none →
         t = { s with out := { s.out with cpErr := false }, od := { s.od with cp := { s.od.cp with sel := w &&& 0xFFFFFFFFFFF00000 } } }) ∧
       (be = 0xFF → ∀ n, n < 32 → offset = 0x100 + 8 * n → s.od.cp.busy = none →
         t = { s with out := { s.out with cpErr := false }, od := { s.od with cp := { s.od.cp with dat := s.od.cp.dat.set 0 n w } } }) ∧
       (be = 0xFF → (offset = 0 ∨ ∃ n, n < 32 ∧ offset = 0x100 + 8 * n) → s.od.cp.busy.isSome → 
         t = { s with out := { s.out with cpErr := false } }) ∧
       (be = 0xFF → offset = 8 → cmdOp w = 0 ∨ 3 < cmdOp w → s.od.cp.busy.isSome →
         t = { s with out := { s.out with cpErr := false }, od := { s.od with cp := { s.od.cp with ovr := true } } }) ∧
       (be = 0xFF → offset = 8 → cmdOp w = 0 ∨ 3 < cmdOp w → OpFree s .cp w → fwServesOp s s.od.cp w = false →
         Answered { s with out := { s.out with cpErr := false } } .cp w { code := Code.opBad } t)) ∧
  (∀ (a : Nat) (w : W64) (be : Nat) (s : State), held s = false →
     ∃ t, exec (.registerWrite .fw a w be) s = .next t ∧
       (coreRegion a = false → t = { s with core := { s.core with apFault := true } }) ∧
       (a = 0x09000000 → t = { s with core := { s.core with apctl := w } }) ∧
       (a = 0x08000000 → s.od.fw.busy = none → t = { s with od := { s.od with fw := { s.od.fw with sel := w &&& 0xFFFFFFFFFFF00000 } } }) ∧
       (∀ n, n < 32 → a = 0x08000100 + 8 * n → s.od.fw.busy = none →
         t = { s with od := { s.od with fw := { s.od.fw with dat := s.od.fw.dat.set 0 n w } } }))

/-- OTP_SEAL and OTP_VOID, which are one command with two constants: the staging generation gets its CRC and its seal word, or
its void word, and nothing else of OTP changes; without a staging generation, or with a licence that was never written or is
invalid, the command is refused (R393). -/
def Obligations.OtpSealAndVoid : Prop :=
  ∀ (s : State) (i : Inst), Due s 11 0x10 i → programming s = false →
    (i.arg 0 % 2 ^ 32 = sealWord → ∃ t, exec .otpSeal s = .next t ∧
      (genNext s = 0xFF → Ends s i none Code.otpExhausted 0 0 t) ∧
      (∀ g, genNext s = g → g ≠ 0xFF → bitOf (genField s g 0x2A0 8) 0 = false ∨ licInvalid (genField s g 0 8) = true →
        Ends s i none Code.limitRange 0 0 t) ∧
      (∀ g, genNext s = g → g ≠ 0xFF → bitOf (genField s g 0x2A0 8) 0 = true → licInvalid (genField s g 0 8) = false →
        Ends (otpProgram (otpProgram s (genBase g + 0x2AC)
          (leBytes 4 (crc32 ((List.range 0x2A8).map (fun k => s.otp.bytes.getD (genBase g + k) 0)))))
          (genBase g + 0x2A8) (leBytes 4 0x5345414C)) i none Code.ok (w64 g) 0 t)) ∧
    (i.arg 0 % 2 ^ 32 = voidWord → ∃ t, exec .otpVoid s = .next t ∧
      (genNext s = 0xFF → Ends s i none Code.otpExhausted 0 0 t) ∧
      (∀ g, genNext s = g → g ≠ 0xFF →
        Ends (otpProgram s (genBase g + 0x2A8) (leBytes 4 0x564F4944)) i none Code.ok (w64 g) 0 t))

/-- Programming bytes of OTP: each byte named has the bits that it had and those given, and no other byte changes (R393).
The end of a write-once write: the field and its bit of the written map are programmed in the staging generation, the
operation answers, and operations that waited for it go on (R318, R346, R393). -/
def Obligations.OtpWrites : Prop :=
  (∀ (s : State) (off : Nat) (bs : List Byte) (k : Nat),
     byteAt (otpProgram s off bs).otp.bytes k =
       (if off ≤ k ∧ k < off + bs.length then byteAt s.otp.bytes k ||| bs.getD (k - off) 0 else byteAt s.otp.bytes k) ∧
     otpProgram s off bs = { s with otp := { s.otp with bytes := (otpProgram s off bs).otp.bytes } }) ∧
  (∀ (path : Path) (ok : Bool) (s : State) (w : W64), held s = false → (regsOf s path).prog = true → (regsOf s path).busy = some w →
     ∃ (t u v : State) (bs : List Byte),
       exec (.otpWo1Write path ok) s = .next t ∧ t = resumeOps v ∧
       Answered u path w { code := if ok then Code.ok else Code.otpProgFail } v ∧
       u = { s with otp := u.otp, free := u.free } ∧
       (genNext s = 0xFF → u = s) ∧
       (∀ g, genNext s = g → g ≠ 0xFF → ∀ pl, pl = wo1Place (selItem (regsOf s path)) (selIndex (regsOf s path)) →
         u.otp.bytes = (otpProgram (otpProgram s (genBase g + pl.1) bs) (genBase g + 0x2A0)
           (leBytes 8 (genField s g 0x2A0 8 ||| 2 ^ wo1Bit (selItem (regsOf s path)) (selIndex (regsOf s path))))).otp.bytes ∧
         (ok = true → bs = (wordBytes (wo1Words (regsOf s path) w)).take pl.2) ∧
         (ok = false → bs = (otpTorn s ((wordBytes (wo1Words (regsOf s path) w)).take pl.2)).1)))

/-- BDL_OPEN opens the lowest free bundle, with its path and scope, and returns its number; a scope that names neither a slot
nor the device, a fifth bundle, and a second bundle of one path and scope are refused (R330).
BDL_COMMIT: a bundle that the path does not hold open is refused; one that has a boundary to wait for is COMMITTED, and the
instance is PENDING, with no value changed (R330, R332). -/
def Obligations.BundleCommits : Prop :=
  (∀ (s : State) (i : Inst), Due s 1 0x10 i → ∀ scope, scope = i.arg 0 % 256 →
     ∃ t, exec .bdlOpen s = .next t ∧
       (8 ≤ scope → scope ≠ 0xFF → Ends s i none Code.limitRange 0 0 t) ∧
       (scope < 8 ∨ scope = 0xFF → (∀ b, b < 4 → (bundleOf s b).st ≠ .free) → Ends s i none Code.bundleFull 0 0 t) ∧
       (scope < 8 ∨ scope = 0xFF → ∀ b, b < 4 → (bundleOf s b).st = .free → (∀ c, c < b → (bundleOf s c).st ≠ .free) →
         (s.od.bundles.any (fun e => e.2.st == .isOpen && e.2.path == i.path && e.2.scope == scope) = true →
           Ends s i none Code.cmdBusy 0 0 t) ∧
         (s.od.bundles.any (fun e => e.2.st == .isOpen && e.2.path == i.path && e.2.scope == scope) = false →
           Ends { s with od := { s.od with bundles := s.od.bundles.set {} b { st := .isOpen, path := i.path, scope := scope } } }
             i none Code.ok (w64 b) 0 t))) ∧
  (∀ (s : State) (i : Inst), Due s 1 0x11 i → ∀ b, b = i.arg 0 % 4 →
     ∃ t, exec .bdlCommit s = .next t ∧
       (ownBundle s i.path b = none → Ends s i none Code.bundleNone 0 0 t) ∧
       (∀ x, ownBundle s i.path b = some x → bundleWaits s x.scope ≠ 0 →
         (bundleOf t b).st = .committed ∧ (bundleOf t b).writes = x.writes ∧ (bundleOf t b).scope = x.scope ∧
         (∀ c, c ≠ b → bundleOf t c = bundleOf s c) ∧
         statusOf t i = some { state := 2, tag := i.tag } ∧
         t = { s with od := { s.od with bundles := t.od.bundles, commits := t.od.commits, insts := t.od.insts, stats := t.od.stats } }))

/-- A committed bundle with no boundary to wait for is applied at the commit, all of it or nothing: every write comes into force
where the rules of the consistency sets hold over the values with the writes applied; else no value changes and the command
ends with BUNDLE_CONFLICT. The bundle is free again (R332). -/
def Obligations.BundleAllOrNone : Prop :=
  ∀ (s : State) (i : Inst) (x : Bundle), Due s 1 0x11 i → ∀ b, b = i.arg 0 % 4 → ownBundle s i.path b = some x →
    bundleWaits s x.scope = 0 → s.od.insts.any (fun j => j.area == 1 && j.item == 0x11 && j.st == .pending) = false →
    ∀ ok, ok = setsHold (fun a m => (x.value a m 0).getD (inForce s a m 0 none)) →
    ∃ t, exec .bdlCommit s = .next t ∧
      (∀ k, k ≠ okey 10 0x31 0 →
        t.od.vals.find? k = if ok then (lastWrite x.writes k).or (s.od.vals.find? k) else s.od.vals.find? k) ∧
      (∀ path, ownBundle t path b = none) ∧ Gone t i ∧
      ((statusOf t i).map (fun r => (r.code, r.state)) = if ok then some (Code.ok, 3) else some (Code.bundleConflict, 4)) ∧
      t = { s with od := t.od, cnt := t.cnt, core := t.core, mp := t.mp, mem := t.mem, i3c := t.i3c } ∧
      ((∀ e ∈ x.writes, okey e.1 e.2.1 e.2.2.1 ≠ okey 1 0x40 0 ∧ okey e.1 e.2.1 e.2.2.1 ≠ okey 1 0x41 0) →
        ∀ k, ¬ EventByte s k → byteAt t.mem k = byteAt s.mem k)

/-- BDL_ABORT discards an open or committed bundle of its path; a commit that waits for the bundle ends REFUSED with BUNDLE_NONE.
A bundle left open too long is discarded in the same way and BUNDLE_EXPIRED is posted. Either way any later WRITE_B or commit
that names it is refused with BUNDLE_NONE (R334). -/
def Obligations.BundleAborts : Prop :=
  (∀ (s : State) (i : Inst), Due s 1 0x12 i → ∀ b, b = i.arg 0 % 4 →
    ∃ t, exec .bdlAbort s = .next t ∧
      ((bundleOf s b).st = .free ∨ (bundleOf s b).path ≠ i.path → Ends s i none Code.bundleNone 0 0 t) ∧
      ((bundleOf s b).st ≠ .free → (bundleOf s b).path = i.path →
        (∀ path, ownBundle t path b = none) ∧
        (commitInst s b = none → Ends (bundleFreed s b) i none Code.ok 0 0 t) ∧
        (∀ j, commitInst s b = some j → ∃ u, Ends (bundleFreed s b) j none Code.bundleNone 0 0 u ∧ Ends u i none Code.ok 0 0 t))) ∧
  (∀ (s : State) (b : Nat), held s = false → (bundleOf s b).st = .isOpen →
    ∃ t u, exec (.bundleExpired b) s = .next t ∧ t = post u Ev.bundleExpired none 0 b 0 ∧ Posted u t ∧
      (∀ path, ownBundle t path b = none) ∧
      (commitInst s b = none → u = bundleFreed s b) ∧
      (∀ j, commitInst s b = some j → Ends (bundleFreed s b) j none Code.bundleNone 0 0 u))

/-- CNT_CLEAR sets every counter of its scope to 0 and no other (R350, R351); a slice set that does not exist is refused.
A counter adds each increment modulo 2^64, and no other counter changes (R350). -/
def Obligations.Counters : Prop :=
  (∀ (s : State) (i : Inst), Due s 9 0x15 i → ∀ scope n, scope = i.arg 0 % 4 → n = fld (i.arg 0) 12 8 →
     ∃ t, exec .cntClear s = .next t ∧
       (scope = 2 → 7 ≤ n → Ends s i none Code.limitRange 0 0 t) ∧
       (¬ (scope = 2 ∧ 7 ≤ n) → ∃ u : State,
         Ends u i (if scope = 1 && (partOf s n).isSome then some n else none) Code.ok 0 0 t ∧ u = { s with cnt := u.cnt } ∧
         ∀ k, u.cnt.getD k 0 = if cntScope scope n k then 0 else s.cnt.getD k 0)) ∧
  (∀ (s : State) (item index n : Nat),
     (bumpAt s item index n).cnt.getD (cntKey item index) 0 = s.cnt.getD (cntKey item index) 0 + BitVec.ofNat 64 n ∧
     (∀ k, k ≠ cntKey item index → (bumpAt s item index n).cnt.getD k 0 = s.cnt.getD k 0) ∧
     bumpAt s item index n = { s with cnt := (bumpAt s item index n).cnt })

/-- Doorbell writes: one that is not of eight bytes has an error response alone; one for a slot without a resident partition,
or with a value not below the ring's entry count, is ignored and counted in CNT_DB_BAD (R310, R369).
Doorbell writes that are taken: each writes the pointer of its ring; RQ_DB latches source 41, CQ_DB and EV_DB let their
backlogs drain, EXP_DB lets a dropped batch be reported (R310, R311). -/
def Obligations.Doorbells : Prop :=
  (∀ (p : Nat) (w : W64) (be : Nat) (s : State), held s = false → p < 8 →
     (be ≠ 0xFF → ∀ c ∈ [Instr.rqDb p w be, .cqDb p w be, .expDb p w be, .evDb w be],
       exec c s = .next { s with out := { s.out with cpErr := true } }) ∧
     (be = 0xFF → ∃ u : State, u = bump { s with out := { s.out with cpErr := false } } Cnt.dbBad 1 ∧
       ((slotPart s p).isNone ∨ (lastVal s 6 0x21 p).toNat ≤ wfld w 31 0 → exec (.rqDb p w be) s = .next u) ∧
       ((slotPart s p).isNone ∨ (lastVal s 6 0x25 p).toNat ≤ wfld w 31 0 → exec (.cqDb p w be) s = .next u) ∧
       ((slotPart s p).isNone ∨ (lastVal s 5 0x31 p).toNat ≤ wfld w 31 0 → exec (.expDb p w be) s = .next u) ∧
       (evEntries s ≤ wfld w 31 0 → exec (.evDb w be) s = .next u))) ∧
  (∀ (p : Nat) (w : W64) (s s0 : State) (v : W64), held s = false → p < 8 → v = w64 (wfld w 31 0) →
     s0 = { s with out := { s.out with cpErr := false } } →
     (∀ d P, slotPart s p = some (d, P) → wfld w 31 0 < (lastVal s 6 0x21 p).toNat →
       exec (.rqDb p w 0xFF) s = .next { s0 with
         od := { s.od with vals := s.od.vals.put (okey 6 0x22 p) v }, core := { s.core with intr := s.core.intr ||| 2 ^ 41 } }) ∧
     (∀ d P, slotPart s p = some (d, P) → wfld w 31 0 < (lastVal s 6 0x25 p).toNat →
       exec (.cqDb p w 0xFF) s = .next (ctxIdle (cqDrain { s0 with od := { s.od with vals := s.od.vals.put (okey 6 0x27 p) v } } d) d)) ∧
     (∀ d P, slotPart s p = some (d, P) → wfld w 31 0 < (lastVal s 5 0x31 p).toNat →
       exec (.expDb p w 0xFF) s = .next (expResync { s0 with od := { s.od with vals := s.od.vals.put (okey 5 0x33 p) v } } d)) ∧
     (wfld w 31 0 < evEntries s →
       exec (.evDb w 0xFF) s = .next (evDrain { s0 with
         od := { s.od with vals := s.od.vals.put (okey 1 0x43 0) v }, core := { s.core with evTimer := false } })))

/-- An event that finds room, no backlog and no drop before it is written at EV_HEAD as the four words of Table CORE-6, and
EV_HEAD moves on by one; one that finds no room or a backlog goes to the end of the backlog while that holds fewer than 1,024
entries; beyond, it is dropped and counted (R311).
The backlog of the Event Ring drains in order while the ring has room: what is left is the newer end of what there was, and
as many entries as have gone have been written (R311). -/
def Obligations.EventsPosted : Prop :=
  (∀ (s : State) (num : Nat) (d : Option Nat) (code arg0 arg1 : Nat), s.core.evDropped = 0 → Ev.sev num code ≠ 2 →
     ∃ t, t = post s num d code arg0 arg1 ∧ Posted s t ∧
       (s.core.backlog = [] → evRoom s = true →
         t1Words t (evBase s + 32 * s.core.evHead) 4 = evEntry s num d code arg0 arg1 ∧
         t.core.evHead = (s.core.evHead + 1) % evEntries s ∧ t.core.backlog = []) ∧
       (s.core.backlog ≠ [] ∨ evRoom s = false → s.core.backlog.length < 1024 →
         t = { s with core := { s.core with backlog := s.core.backlog ++ [evEntry s num d code arg0 arg1] } }) ∧
       (s.core.backlog ≠ [] ∨ evRoom s = false → 1024 ≤ s.core.backlog.length →
         t = bump { s with core := { s.core with evDropped := 1 } } Cnt.evDrop 1)) ∧
  (∀ s : State, evEntries s ≠ 0 →
     ∃ gone, gone ++ (evDrain s).core.backlog = s.core.backlog ∧
       ((evDrain s).core.backlog = [] ∨ evRoom (evDrain s) = false) ∧
       (evDrain s).core.evHead % evEntries s = (s.core.evHead + gone.length) % evEntries s)

/-! ## The control core -/

/-- The watchdog of a core that runs firmware: a write begins its period again; half a period without one latches source 48; an expiry is
that of R307; and an engine that has stalled on a full FIFO longer than FW_WDOG_US is treated as one, as the second of two within 1 s or not
where one has come before: the row does not say which (R307, R309, Table CORE-2; log entry 56). -/
def Obligations.WatchdogRows : Prop :=
  ∀ s : State, held s = false → s.core.st ≠ .boot →
    (∀ w, exec (.watchdogWrite w) s = .next { s with core := { s.core with wdogHalf := false } }) ∧
    (s.core.wdogHalf = false →
      exec .watchdogHalf s = .next { s with core := { s.core with wdogHalf := true, intr := s.core.intr ||| 2 ^ 48 } }) ∧
    (s.core.wdogHalf = true → exec .watchdogHalf s = .next s) ∧
    (∀ again : Bool, ∃ t, exec (.watchdogExpiry again) s = .next t ∧ Expired s again t) ∧
    (∀ q, (engOf s q).stalled = true → ∃ t u again, exec (.fifoStallTimeout q) s = .next t ∧ Expired u again t ∧
      (s.core.expired = false → u = s ∧ again = false) ∧ (s.core.expired = true → u = { s with free := s.free + 1 }))

/-- A write of 1 clears each latched interrupt source that it names and no other; an entry unread for 100 µs raises the event
line's condition (R299, R311). -/
def Obligations.InterruptRows : Prop :=
  (∀ (w : W64) (s : State), held s = false → ∃ t, exec (.intStatusClear w) s = .next t ∧
    (∀ n, n < 50 → bitOf t.core.intr n = (bitOf s.core.intr n && !bitOf w.toNat n)) ∧
    t = { s with core := { s.core with intr := t.core.intr } }) ∧
  (∀ s : State, held s = false → evUnread s ≠ 0 →
    exec .eventIrqTimer s = .next { s with core := { s.core with evTimer := true } })

/-- FW_LOAD empties the bank it goes to and is CHECKING; its end finds the image good, and then the bank holds its version, or
ends with the code of the first check that fails; source 49 either way (R303, R304).
FW_SWITCH and FW_REVERT: refused with FW_BUSY where there is nothing to switch to; else a changeover begins, or turns round,
and where no partition is resident it is complete at once: the bank flips and the command has ended (R305, R306). A restart that
has ended leaves the core in the state it had before (R307). -/
def Obligations.FirmwareCommands : Prop :=
  ((∀ (s : State) (i : Inst), Due s 1 0x20 i → 9 ≤ s.boot.stage → s.boot.stopped = false → fwLoading s = false →
     ∃ t, exec .fwLoad s = .next t ∧
       (s.core.change.isSome → Ends s i none Code.fwBusy 0 0 t) ∧
       (s.core.change = none → bankVer t (loadBank s) = none ∧ statusOf t i = some { state := 1, tag := i.tag } ∧
         (∀ b, b < 2 → loadBank s < 2 → b ≠ loadBank s → bankVer t b = bankVer s b) ∧
         t = { s with
           core := { s.core with ver0 := t.core.ver0, ver1 := t.core.ver1, st := t.core.st, back := t.core.back }
           od := { s.od with insts := t.od.insts, stats := t.od.stats } })) ∧
   (∀ (s : State) (i : Inst) (r : CmdRef), held s = false → instAt s 1 0x20 r = some i → i.st = .checking →
     ∀ code ver, fwCheck s (i.arg 0 % 2 ^ 52) = (code, ver) →
     ∃ t, exec (.fwLoadEnd r) s = .next t ∧
       (code ≠ 0 → ∃ u, Ends s i none code 0 0 u ∧ t = latch u 49) ∧
       (code = 0 → ∃ u v, Ends (setBankVer s (loadBank s) (some ver)) i none Code.ok 0 0 u ∧
         v = { u with core := { u.core with
           intr := u.core.intr ||| 2 ^ 49
           st := if u.core.st = .running then .standbyReady else u.core.st
           back := if u.core.back = .running then .standbyReady else u.core.back } } ∧
         t = (if s.core.st ≠ .boot && bitOf (i.arg 1) 0 then fwAuto v (loadBank s) else v)))) ∧
  ((∀ (s : State) (i : Inst), Due s 1 0x21 i →
     ∃ t, exec .fwSwitch s = .next t ∧
       (s.core.change.isSome ∨ s.core.st = .boot ∨ bankVer s (1 - s.core.bank) = none → Ends s i none Code.fwBusy 0 0 t) ∧
       (s.core.change = none → s.core.st ≠ .boot → (bankVer s (1 - s.core.bank)).isSome →
         t = changeFor s i (1 - s.core.bank) ∧
         (residents s = [] → runningParts s = [] → s.dbg.replay = none →
           t.core.bank = 1 - s.core.bank ∧ t.core.change = none ∧ Gone t i))) ∧
   (∀ (s : State) (i : Inst), Due s 1 0x22 i →
     ∃ t, exec .fwRevert s = .next t ∧
       (∀ c, s.core.change = some c → t = changeFor s i (1 - c.bank)) ∧
       (s.core.change = none → s.core.st = .boot ∨ bankVer s (1 - s.core.bank) = none → Ends s i none Code.fwBusy 0 0 t) ∧
       (s.core.change = none → s.core.st ≠ .boot → (bankVer s (1 - s.core.bank)).isSome → t = changeFor s i (1 - s.core.bank))) ∧
   (∀ s : State, held s = false → s.core.st = .restarting → (bankVer s s.core.bank).isSome →
     exec .fwRestartEnd s = .next (fwRestarted s)))

/-! ## The sideband, the TAP, resets and bring-up -/

/-- The common command codes: addresses, event enables, lengths, answers, RSTACT, and a NACK for every other code (R326).
Frames of the sideband: a write frame whose CRC or length is wrong is discarded and counted, and the next read frame answers
OP_BAD; a good one on an idle sideband sets its registers and starts its operation; a read frame is ODSTS and the data of a READ
that succeeded, with their CRC, cut at MRL, 12 bytes while BUSY (R327).
The TAP: IDCODE and BYPASS; IJTAG and SCAN shift data of a layout that the spec does not give; a SCAN while TEST_MODE is L
shifts nothing; the DEBUG_MUX selector is `A.0030` (R416 to R418). -/
def Obligations.SidebandAndTap : Prop :=
  (∀ s : State, held s = false →
     (∀ a, exec (.entdaa a) s = .next { s with i3c := { s.i3c with nack := false, dyn := some (s.i3c.dyn.getD a) } }) ∧
     (∀ sa a, staticAddr s = some sa →
       exec (.setdasa sa a) s = .next { s with i3c := { s.i3c with nack := false, dyn := some (s.i3c.dyn.getD a) } }) ∧
     exec .rstdaa s = .next { s with i3c := { s.i3c with nack := false, dyn := none } } ∧
     (∀ e, exec (.enec e) s = .next { s with i3c := { s.i3c with nack := false, ibiOn := s.i3c.ibiOn || bitOf e 0 } }) ∧
     (∀ e, exec (.disec e) s = .next { s with i3c := { s.i3c with nack := false, ibiOn := s.i3c.ibiOn && !bitOf e 0 } }) ∧
     (∀ n, exec (.setmwl n) s = .next { s with i3c := { s.i3c with nack := false, mwl := n } }) ∧
     (∀ n, exec (.setmrl n) s = .next { s with i3c := { s.i3c with nack := false, mrl := n } }) ∧
     (s.i3c.dyn.isSome →
       exec .getbcr s = .next { s with i3c := { s.i3c with nack := false, answer := [0x06] } } ∧
       exec .getdcr s = .next { s with i3c := { s.i3c with nack := false, answer := [0x00] } } ∧
       (∃ l, l.length = 6 ∧ exec .getpid s = .next { s with i3c := { s.i3c with nack := false, answer := l } }) ∧
       exec .getmwl s = .next { s with i3c := { s.i3c with nack := false, answer := [BitVec.ofNat 8 (s.i3c.mwl / 256), BitVec.ofNat 8 s.i3c.mwl] } } ∧
       exec .getmrl s = .next { s with i3c := { s.i3c with
         nack := false
         answer := [BitVec.ofNat 8 (s.i3c.mrl / 256), BitVec.ofNat 8 s.i3c.mrl, 1] } } ∧
       (∃ l, l.length = 2 ∧ exec .getstatus s = .next { s with i3c := { s.i3c with nack := false, answer := l }, free := s.free + 1 })) ∧
     (∀ a, a ≠ 0 → s.od.i3c.prog = false → exec (.rstact a) s =
       .next { s with i3c := {}, od := { s.od with i3c := {}, waitq := s.od.waitq.filter (· != .i3c) } }) ∧
     (∀ c, cccKnown.contains c = false → exec (.cccNack c) s = .next { s with i3c := { s.i3c with nack := true } })) ∧
  (∀ s : State, held s = false → s.i3c.dyn.isSome →
     (∀ bs, frameOk bs = false → ∃ t u, exec (.sidebandWriteFrame bs) s = .next t ∧
       t = bump { s with i3c := { s.i3c with frameBad := true } } Cnt.i3cFrameBad 1 ∧
       exec .sidebandReadFrame t = .next u ∧
       u.i3c.answer = ((leBytes 8 (odstsWord { s.od.i3c with code := Code.opBad, rlen := 0 }).toNat ++
         leBytes 4 (crc32 (leBytes 8 (odstsWord { s.od.i3c with code := Code.opBad, rlen := 0 }).toNat)))).take s.i3c.mrl) ∧
     (∀ bs, frameOk bs = true → s.od.i3c.busy = none →
       exec (.sidebandWriteFrame bs) s = .next (opStart { s with
         i3c := { s.i3c with frameBad := false, wasRead := cmdOp (frameCmd bs) == 1 }
         od := { s.od with i3c := { s.od.i3c with
           sel := w64 (leNat ((bs.drop 1).take 8)) &&& 0xFFFFFFFFFFF00000
           dat := if cmdOp (frameCmd bs) = 1 then s.od.i3c.dat else putDat s.od.i3c.dat (frameData bs) } } } .i3c (frameCmd bs))) ∧
     (∃ t, exec .sidebandReadFrame s = .next t ∧
       t = { s with i3c := { s.i3c with answer := t.i3c.answer, frameBad := false }, od := { s.od with i3c := { s.od.i3c with ovr := false } } } ∧
       ∃ body, t.i3c.answer = (body ++ leBytes 4 (crc32 body)).take s.i3c.mrl ∧
         (s.od.i3c.busy.isSome → body.length = 8) ∧
         (s.i3c.frameBad = false → s.od.i3c.busy = none → s.i3c.wasRead = true → s.od.i3c.code = Code.ok →
           body = leBytes 8 (odstsWord s.od.i3c).toNat ++ wordBytes (datWords s.od.i3c s.od.i3c.rlen)))) ∧
  (∀ s : State,
     (exec .idcode s = .next { s with dbg := { s.dbg with ir := 0x01, dr := idcodeWord s } } ∧
       wfld (idcodeWord s) 0 0 = 1 ∧ wfld (idcodeWord s) 27 12 = 0x9E17 ∧ wfld (idcodeWord s) 31 28 = s.silicon % 16) ∧
     exec .bypass s = .next { s with dbg := { s.dbg with ir := 0xFF, dr := 0 } } ∧
     (s.boot.testMode = false → exec .scan s = .next { s with dbg := { s.dbg with ir := 0x20 } }) ∧
     (s.boot.testMode = true → ∃ v, exec .scan s = .next { s with dbg := { s.dbg with ir := 0x20, dr := v }, free := s.free + 1 }) ∧
     (∀ sibs mbist sel, ∃ t v, exec (.ijtag sibs mbist sel) s = .next t ∧
       t = { s with dbg := { s.dbg with ir := 0x10, dr := v, mbist := t.dbg.mbist }, od := t.od, free := s.free + 1 } ∧
       (bitOf sibs 0 = false ∨ s.boot.testMode = false → t.dbg.mbist = s.dbg.mbist) ∧
       (sel = none ∨ bitOf sibs 5 = false ∨ held s = true → t.od = s.od) ∧
       (∀ w, sel = some w → bitOf sibs 5 = true → held s = false →
         t.od = { s.od with vals := s.od.vals.put (okey 10 0x30 0) (w &&& 0xFF3F) })))

/-- PRST_N low ends every request, tag, context, object, partition and bundle; OTP, flash contents and host memory survive, and
bring-up then runs from stage 1 (R387). A field of OTP that was being programmed is the exception of R393. -/
def Obligations.HardResetLeaves : Prop :=
  ∀ s : State, ∃ t, exec .hardReset s = .next t ∧
    t.mp = State.reset.mp ∧ t.ctxs = [] ∧ t.pgdir = [] ∧ t.tm = State.reset.tm ∧ t.parts = [] ∧ t.od = State.reset.od ∧
    t.cnt = [] ∧ t.core = State.reset.core ∧ t.ee = [] ∧ t.rel = State.reset.rel ∧ t.xp = State.reset.xp ∧ t.slices = [] ∧
    t.i3c = State.reset.i3c ∧ t.tod = State.reset.tod ∧ t.out = State.reset.out ∧
    t.mem = s.mem ∧ t.pending = s.pending ∧ (programming s = false → t.otp.bytes = s.otp.bytes) ∧
    t.fl.dur = s.fl.dur ∧ t.fl.formatted = s.fl.formatted ∧ t.fl.userMu = s.fl.userMu ∧ t.fl.journal = s.fl.journal ∧
    held t = true ∧
    ∃ u, exec .resetRelease t = .next u ∧ u = { t with boot := { t.boot with prstLow := false, stage := u.boot.stage } } ∧
      (s.boot.testMode = false → u.boot.stage = 1 ∧ held u = false)

/-- TEST_MODE high holds every domain as though PRST_N were low, with every output at its reset value; when it falls the block
stays so until the next hard reset; SCAN shifts only while it is high (R418). -/
def Obligations.TestModeHolds : Prop :=
  ∀ s : State, s.boot.testMode = false → programming s = false →
    ∃ t u, exec .testModeRise s = .next t ∧ exec .testModeFall t = .next u ∧
      t.od = State.reset.od ∧ t.out = State.reset.out ∧ t.parts = [] ∧ t.mp = State.reset.mp ∧ t.mem = s.mem ∧
      t.otp.bytes = s.otp.bytes ∧ held t = true ∧
      (∀ c, reachesHeld c = false → exec c t = .next t) ∧
      exec .scan s = .next { s with dbg := { s.dbg with ir := 0x20 } } ∧
      u.boot.testMode = false ∧ held u = true ∧ (∀ c, reachesHeld c = false → exec c u = .next u) ∧
      ∃ v x, exec .hardReset u = .next v ∧ exec .resetRelease v = .next x ∧ held x = false

/-- Bring-up: a PLL locks; each stage ends where its condition holds, and then the next begins (R380 to R386, R395).
A time-of-day sample is taken where it is locked, has less than 10^9 ns and does not run backwards; otherwise the input is
not valid until the next; a change of validity latches source 47 (R370). -/
def Obligations.BringUpStages : Prop :=
  (∀ s : State, held s = false →
     (∀ n, (pllsBuilt s).contains n = true → s.boot.plls.contains n = false →
       exec (.pllLock n) s = .next { s with boot := { s.boot with plls := s.boot.plls ++ [n] } }) ∧
     (∀ m, s.mp.initReq.contains m = true → s.mp.up.contains m = false →
       exec (.mpInitAck m) s = .next { s with mp := { s.mp with up := s.mp.up ++ [m] } }) ∧
     (s.fl.rebuild = true → exec .mapRebuildEnd s = .next (mountInstall (mapRebuild s) [])) ∧
     (s.boot.mountDue = true → ∀ readable flash samples, exec (.flashMountEnd readable flash samples) s =
       .next (flashMount (flashEnum (channelsOff { s with boot := { s.boot with mountDue := false } }) flash) readable samples)) ∧
     (s.boot.stopped = false → ∀ (fails : List Nat) (flash : List (Nat × Nat × List Nat)),
       ∃ t, exec (.bringupStageEnd fails flash) s = .next t ∧
         (s.boot.stage = 1 → ((pllsBuilt s).all (fun x => s.boot.plls.contains x) = true → t = enterSelect s) ∧
           ((pllsBuilt s).all (fun x => s.boot.plls.contains x) = false → t = s)) ∧
         (s.boot.stage = 2 → s.otp.gen = none → t = resumeOps { s with boot := { s.boot with stopped := true } }) ∧
         (s.boot.stage = 2 → s.otp.gen.isSome → s.boot.plls.contains 0 = true →
           t = resumeOps { s with boot := { s.boot with stage := 3 } }) ∧
         (s.boot.stage = 3 → fixedOk s = true → t = { s with boot := { s.boot with stage := 4 } }) ∧
         (s.boot.stage = 3 → fixedOk s = false → t = { s with boot := { s.boot with stopped := true } }) ∧
         (s.boot.stage = 4 → t.boot.stage = 5 ∧ t.boot.tileFails = (if valU s 1 6 = 1 then fails else [])) ∧
         (s.boot.stage = 5 → t.boot.stage = 6 ∧ t.rel.map.length = cfgTiles s ∧ t.mp.initReq = portsEnabled s) ∧
         (s.boot.stage = 6 → s.mp.initReq.all (fun m => s.mp.up.contains m) = true →
           t = evDrain { s with boot := { s.boot with stage := if anyFlash s then 7 else 9 } }) ∧
         (s.boot.stage = 7 → t = { flashEnum s flash with boot := { (flashEnum s flash).boot with stage := 8 } }) ∧
         (s.boot.stage = 8 → ∀ u, u = flashMount s fails.isEmpty (flash.map (fun x => (x.1, x.2.1))) →
           t = { u with boot := { u.boot with stage := 9 } }) ∧
         (s.boot.stage = 9 → s.core.ver0.isSome → fwLoading s = false →
           t = { s with boot := { s.boot with stage := 10 }, core := { s.core with st := runState s } }))) ∧
  (∀ (sec ns : Nat) (lock : Bool) (s : State), held s = false → sec < 2 ^ 48 → ns < 2 ^ 32 →
     ∀ ok : Bool, (ok = true ↔ lock = true ∧ ns < 1000000000 ∧
       ¬ (s.tod.any = true ∧ sec * 1000000000 + ns < s.tod.sec * 1000000000 + s.tod.ns)) →
     exec (.todSample sec ns lock) s = .next { s with
       tod := (if ok then { valid := true, sec := sec, ns := ns, any := true } else { s.tod with valid := false })
       core := (if ok = s.tod.valid then s.core else { s.core with intr := s.core.intr ||| 2 ^ 47 }) })

/-- RESET_SOFT: refused with the code of the first case of Table BOOT-4 that applies; else every resident partition is
pre-empted, and once none is resident the reload work is done (R388 to R390). -/
def Obligations.SoftReload : Prop :=
  (∀ (s : State) (i : Inst), Due s 1 1 i →
    ∃ t, exec .resetSoft s = .next t ∧
      (reloadCode s ≠ Code.ok → Ends s i none (reloadCode s) 0 0 t) ∧
      (reloadCode s = Code.ok → s.dbg.replay = none → residents s = [] →
        t = { setInst s { i with st := .pending, part := 32 } with
          boot := { s.boot with reload := some { path := i.path, cseq := i.cseq, worked := false, slots := [], oldGen := s.otp.gen.getD 0xFF } } }) ∧
      (reloadCode s = Code.ok → ∃ u : State,
        (s.dbg.replay = none → u = setInst s { i with st := .pending, part := 32 }) ∧
        (∃ r : Reload, r.path = i.path ∧ r.cseq = i.cseq ∧ r.worked = false ∧
          t = forEach (residents u) { u with boot := { u.boot with reload := some r } } (fun s e => reloadLeave s e.1)))) ∧
  (∀ (s : State) (r : Reload), held s = false → s.boot.reload = some r → r.worked = false → residents s = [] →
    exec .softReloadWork s = .next (reloadWork s r))

/-! ## The Element Engine -/

/-- The FP32 rows of Format A (Table EE-6, R288). -/
def floatRows : List LaneRow :=
  [ { op := 0x10, cmd := .add, useB := true, useC := false, val := fun a b _ => near ((num a).add (num b)) },
    { op := 0x11, cmd := .sub, useB := true, useC := false, val := fun a b _ => near ((num a).add (num b).negate) },
    { op := 0x12, cmd := .mul, useB := true, useC := false, val := fun a b _ => near ((num a).mul (num b)) },
    { op := 0x13, cmd := .div, useB := true, useC := false,
      val := fun a b _ => if (num b).m = 0 then fp32.maxCode ((num a).neg != (num b).neg) else near ((num a).div (num b)) },
    { op := 0x14, cmd := .sqrt, useB := false, useC := false,
      val := fun a _ _ => if (num a).m ≠ 0 ∧ (num a).neg = false then near (num a).sqrt else if (num a).m = 0 then near (num a) else 0 },
    { op := 0x15, cmd := .min, useB := true, useC := false,
      val := fun a b _ => near (if ltTotal (num b) (num a) then num b else num a) },
    { op := 0x16, cmd := .max, useB := true, useC := false,
      val := fun a b _ => near (if ltTotal (num a) (num b) then num b else num a) },
    { op := 0x17, cmd := .abs, useB := false, useC := false, val := fun a _ _ => near { num a with neg := false } },
    { op := 0x18, cmd := .neg, useB := false, useC := false, val := fun a _ _ => near (num a).negate },
    { op := 0x19, cmd := .cmplt, useB := true, useC := false, val := fun a b _ => if (num a).lt (num b) then 0x3F800000 else 0 },
    { op := 0x1A, cmd := .cmple, useB := true, useC := false, val := fun a b _ => if (num b).lt (num a) then 0 else 0x3F800000 },
    { op := 0x1B, cmd := .cmpeq, useB := true, useC := false,
      val := fun a b _ => if (num a).lt (num b) || (num b).lt (num a) then 0 else 0x3F800000 },
    { op := 0x1C, cmd := .sel, useB := true, useC := true, val := fun a b c => near (if (num c).m = 0 then num b else num a) } ]

/-- Elementwise FP32 instructions: each element of MD within LEN is the operation on the substituted operands, rounded once, and
nothing else of MD changes (Table EE-6, R281, R287, R288, R291). -/
def Obligations.FloatLanes : Prop := ∀ x ∈ floatRows, x.Acts (some id)

/-- The INT32 rows of Format A (Table EE-6, R288). -/
def integerRows : List LaneRow :=
  [ { op := 0x20, cmd := .iadd, useB := true, useC := false, val := fun a b _ => sat32 (signed 32 a + signed 32 b) },
    { op := 0x21, cmd := .isub, useB := true, useC := false, val := fun a b _ => sat32 (signed 32 a - signed 32 b) },
    { op := 0x22, cmd := .imul, useB := true, useC := false, val := fun a b _ => sat32 (signed 32 a * signed 32 b) },
    { op := 0x29, cmd := .imin, useB := true, useC := false, val := fun a b _ => sat32 (Min.min (signed 32 a) (signed 32 b)) },
    { op := 0x2A, cmd := .imax, useB := true, useC := false, val := fun a b _ => sat32 (Max.max (signed 32 a) (signed 32 b)) } ]

/-- The rows of Format A that move bits (Table EE-6). -/
def bitRows : List LaneRow :=
  [ { op := 0x23, cmd := .and, useB := true, useC := false, val := fun a b _ => a &&& b },
    { op := 0x24, cmd := .or, useB := true, useC := false, val := fun a b _ => a ||| b },
    { op := 0x25, cmd := .xor, useB := true, useC := false, val := fun a b _ => a ^^^ b },
    { op := 0x26, cmd := .shl, useB := true, useC := false, val := fun a b _ => a * 2 ^ (b % 32) },
    { op := 0x27, cmd := .shr, useB := true, useC := false, val := fun a b _ => a / 2 ^ (b % 32) },
    { op := 0x28, cmd := .sar, useB := true, useC := false, val := fun a b _ => (signed 32 a / 2 ^ (b % 32) % (2 : Int) ^ 32).toNat },
    { op := 0x30, cmd := .mov, useB := false, useC := false, val := fun a _ _ => a } ]

/-- Elementwise instructions on INT32 lanes, which saturate, and on raw bits; the summary reads INT32 results as their values
in FP32, and of raw bits the spec fixes the census alone (Table EE-6, R288, R291; log entry 18). -/
def Obligations.IntegerLanes : Prop :=
  (∀ x ∈ integerRows, x.Acts (some (fun v => near (Dy.ofInt (signed 32 v))))) ∧ (∀ x ∈ bitRows, x.Acts none)

/-- A word whose opcode is not of Table EE-6, whatever the command that brings it, and a word of Format A that is bad, is not
executed: it ends its segment with status EE_BAD and its own index (R284, R287). -/
def Obligations.BadWordsEndSegments : Prop :=
  ∀ (q : Nat) (w : W64) (s : State) (sg : Seg), held s = false → (engOf s q).run = some sg → (engOf s q).segFifo.length < 64 →
    (fOp w.toNat ∉ opcodes → ∀ c ∈ eeRows q w, ∃ t, exec c s = .next t ∧ SegEnded s q sg 1 sg.idx t) ∧
    (∀ x ∈ floatRows ++ integerRows ++ bitRows, fOp w.toNat = x.op → badA s w.toNat x.useB x.useC (engOf s q) sg = true →
      ∃ t, exec (x.cmd q w) s = .next t ∧ SegEnded s q sg 1 sg.idx t)

/-- The control instructions: END ends the segment with status 0 and its index; SETLEN writes LEN from IMM or SX; SIG appends its
word to the signal FIFO; SXSET and SXGET write one SX entry; FENCE goes on when no transfer of the slot is in flight. SIG at a
full FIFO, and END at a full completion FIFO, stall the engine (R283, R287, R309, Tables EE-5e and EE-6). -/
def Obligations.ControlWords : Prop :=
  ∀ (q : Nat) (w : W64) (s : State) (sg : Seg), bitOf w.toNat 32 = false →
    (Issues s q w 0x01 [] sg →
      ((engOf s q).segFifo.length < 64 → ∃ t, exec (.endSeg q w) s = .next t ∧ SegEnded s q sg 0 sg.idx t) ∧
      (64 ≤ (engOf s q).segFifo.length → exec (.endSeg q w) s = .next (setEng s q { engOf s q with stalled := true }))) ∧
    (Issues s q w 0x02 [] sg → ∀ v, v = (if bitOf w.toNat 33 then (sxOf (engOf s q) sg.slot (fld w.toNat 55 50)).toNat else fld w.toNat 31 0) →
      exec (.setlen q w) s = .next (setEng s q { engOf s q with
        len := (engOf s q).len.set lenReset sg.slot (fld v 14 8 * 256 + fld v 4 0)
        run := some { sg with idx := sg.idx + 1, now := sg.now + 1 } })) ∧
    (Issues s q w 0x03 [] sg →
      ((engOf s q).sigFifo.length < 64 → exec (.sig q w) s = .next (setEng s q { engOf s q with
        sigFifo := (engOf s q).sigFifo ++ [w64 (sg.slot * 2 ^ 16 + fld w.toNat 15 0)]
        stalled := false
        run := some { sg with idx := sg.idx + 1, now := sg.now + 1 } })) ∧
      (64 ≤ (engOf s q).sigFifo.length → exec (.sig q w) s = .next (setEng s q { engOf s q with stalled := true }))) ∧
    (Issues s q w 0x04 [] sg →
      ((engOf s q).xfers.any (fun x => x.slot == sg.slot) = false →
        exec (.fence q w) s = .next (setEng s q { engOf s q with run := some { sg with idx := sg.idx + 1, now := sg.now + 1 } })) ∧
      ((engOf s q).xfers.any (fun x => x.slot == sg.slot) = true → exec (.fence q w) s = .next s)) ∧
    (Issues s q w 0x08 [] sg →
      exec (.sxset q w) s = .next (setEng s q { engOf s q with
        sx := (engOf s q).sx.set 0 (sxKey sg.slot (fld w.toNat 55 50)) (w64 (fld w.toNat 31 0))
        run := some { sg with idx := sg.idx + 1, now := sg.now + 1 } })) ∧
    (Issues s q w 0x09 [fld w.toNat 49 46] sg → regOk s sg.slot (fld w.toNat 49 46) = true →
      exec (.sxget q w) s = .next (setEng s q { engOf s q with
        sx := (engOf s q).sx.set 0 (sxKey sg.slot (fld w.toNat 55 50)) (w64 (lane s q (fld w.toNat 49 46) (fld w.toNat 45 41) (fld w.toNat 40 34)))
        run := some { sg with idx := sg.idx + 1, now := sg.now + 1 } }))

/-- CVT: the row of MD gets the elements of LEN in the destination format, each the source element rounded or saturated into it,
and the block scales of an MX format; one format to itself copies bits (R288, R289, Table EE-7). Format A's frame holds. -/
def Obligations.Conversion : Prop :=
  ∀ (q : Nat) (w : W64) (s : State) (sg : Seg), Issues s q w 0x40 [fMd w.toNat, fMa w.toNat] sg → badC s w.toNat (engOf s q) sg = false →
    ∀ n m so dn, n = lenRows (engOf s q) sg.slot → m = lenCols (engOf s q) sg.slot → so = cSoff w.toNat → dn = cDoff w.toNat →
    ∃ (t : State) (c : Census), exec (.cvt q w) s = .next t ∧
      Executed s q sg (fMd w.toNat) n (if cSum w.toNat then [cSxd w.toNat, cSxd w.toNat + 1, cSxd w.toNat + 2] else []) c t ∧
      ∀ i, i < n → ∀ a old new, a = rowOf (engOf s q) (fMa w.toNat) i → old = rowOf (engOf s q) (fMd w.toNat) i →
        new = rowOf (engOf t q) (fMd w.toNat) i → ∀ f, fmtOf (cFdst w.toNat) = some f →
        (∀ j, j < dn ∨ dn + cvtCols (cFdst w.toNat) m ≤ j → f.bits * (j + 1) ≤ (if f.isMx then 3840 else 4096) →
          elemAt new f.bits j = elemAt old f.bits j) ∧
        (cFsrc w.toNat = cFdst w.toNat → ∀ j, j < m → elemAt new f.bits (dn + j) = elemAt a f.bits (so + j)) ∧
        (cFsrc w.toNat ≠ cFdst w.toNat → ∀ j, j < m →
          (∀ g, f = .flt g → elemAt new f.bits (dn + j) =
            (g.round (cvtRnd s (engOf s q) sg.slot w.toNat i (dn + j)) (readCol a (cFsrc w.toNat) (so + j)).1).1 % 2 ^ f.bits) ∧
          (∀ b, f = .int b → elemAt new f.bits (dn + j) = (satInt b ((readCol a (cFsrc w.toNat) (so + j)).1.toInt .rne)).1 % 2 ^ f.bits)) ∧
        (∀ g, f = .mx g → ∀ b, b < p32 m / 32 →
          (cFsrc w.toNat = cFdst w.toNat → elemAt new 8 (480 + dn / 32 + b) = elemAt a 8 (480 + so / 32 + b)) ∧
          (cFsrc w.toNat ≠ cFdst w.toNat → ∀ y, y = g.convBlock ((List.range 32).map (fun k =>
              (if 32 * b + k < m then (readCol a (cFsrc w.toNat) (so + (32 * b + k))).1 else Dy.zero,
                cvtRnd s (engOf s q) sg.slot w.toNat i (dn + (32 * b + k))))) →
            elemAt new 8 (480 + dn / 32 + b) = y.1 % 256 ∧
            ∀ k, k < 32 → elemAt new f.bits (dn + (32 * b + k)) = y.2.1.getD k 0 % 2 ^ f.bits))

/-- RED: one result per row, to column DIDX of MD, or one per column, to its row DIDX; no other element of MD changes (R290). -/
def Obligations.Reduction : Prop :=
  ∀ (q : Nat) (w : W64) (s : State) (sg : Seg), Issues s q w 0x48 [fMd w.toNat, fMa w.toNat] sg → badR s w.toNat (engOf s q) sg = false →
    ∀ n m di, n = lenRows (engOf s q) sg.slot → m = lenCols (engOf s q) sg.slot → di = rDidx w.toNat →
    ∃ (t : State) (c : Census), exec (.red q w) s = .next t ∧
      Executed s q sg (fMd w.toNat) 32 (if fSum w.toNat then [fSxd w.toNat, fSxd w.toNat + 1, fSxd w.toNat + 2] else []) c t ∧
      (rAxis w.toNat = false → ∀ i j, i < 32 → j < 128 → lane t q (fMd w.toNat) i j =
        if i < n ∧ j = di then
          (reduce1 w.toNat (lane s q (fMd w.toNat) i di) ((List.range m).map (fun k => lane s q (fMa w.toNat) i k))).1 % 2 ^ 32
        else lane s q (fMd w.toNat) i j) ∧
      (rAxis w.toNat = true → ∀ i j, i < 32 → j < 128 → lane t q (fMd w.toNat) i j =
        if i = di ∧ j < m then
          (reduce1 w.toNat (lane s q (fMd w.toNat) di j) ((List.range n).map (fun k => lane s q (fMa w.toNat) k j))).1 % 2 ^ 32
        else lane s q (fMd w.toNat) i j)

/-- LDS and STS between a tile register and scratch: a load replaces the elements within LEN and the scales of the rows by the
bytes of scratch; a store writes the bytes of its rows, of overlapping rows the last one's, and leaves every other byte of scratch
(R277, R293). -/
def Obligations.ScratchMoves : Prop :=
  ∀ (q : Nat) (w : W64) (s : State) (sg : Seg) (r : Rows), r = lineRows (engOf s q) sg.slot w.toNat → badM s w.toNat r 32768 sg = false →
    (Issues s q w 0x53 [fMd w.toNat] sg → ∃ t, exec (.lds q w) s = .next t ∧
      Loaded s q sg (fMd w.toNat) r (lineRead (scratchLine sg)) t) ∧
    (Issues s q w 0x54 [fMd w.toNat] sg → ∃ t g, exec (.sts q w) s = .next t ∧
      t = setEng s q { engOf s q with run := some g } ∧ stored sg g ∧
      ∀ a, scratchByte g a = (pieceAt (storeRows (engOf s q) (fMd w.toNat) r) a).getD (scratchByte sg a))

/-- LDA, LDL and STL: LDL loads what the feeding bank of the slot's share holds, STL writes its rows there through the rules of
R294 and notes their lines, which keep the tiles waiting until the segment ends, and LDA loads words of the accumulator file, which the spec does not lay out: free values (R109, R278, R293).
A line that an engine writes: with no unit at the tiles, or one that no engine has written the line of, or that this engine or
a lower-numbered one wrote, the share has the new line; where a higher-numbered engine wrote it the line stays; no other line
changes (R294). -/
def Obligations.ShareMoves : Prop :=
  (∀ (q : Nat) (w : W64) (s : State) (sg : Seg) (d : Nat) (P : Part), slotPart s sg.slot = some (d, P) →
     (Issues s q w 0x51 [fMd w.toNat] sg → ∀ r, r = lineRows (engOf s q) sg.slot w.toNat → badM s w.toNat r (shareBytes s sg.slot) sg = false →
       ∃ t, exec (.ldl q w) s = .next t ∧ Loaded s q sg (fMd w.toNat) r (lineRead (shareLine P)) t) ∧
     (Issues s q w 0x52 [fMd w.toNat] sg → ∀ r, r = lineRows (engOf s q) sg.slot w.toNat → badM s w.toNat r (shareBytes s sg.slot) sg = false →
       ∃ g, stored sg g ∧ g.scratch = sg.scratch ∧
         (∀ x ∈ storeRows (engOf s q) (fMd w.toNat) r, ∀ y ∈ lineWrites (shareLine P) x.1 x.2, feedBank P * 2 ^ 22 + y.1 ∈ g.stl) ∧
         (∀ k ∈ sg.stl, k ∈ g.stl) ∧
         exec (.stl q w) s = .next (sharePut (setEng s q { engOf s q with run := some g }) d q (storeRows (engOf s q) (fMd w.toNat) r))) ∧
     (Issues s q w 0x50 [fMd w.toNat] sg → mFmt w.toNat = 0xA → ∀ r, r = accRows (engOf s q) sg.slot w.toNat → badM s w.toNat r 1048576 sg = false →
       ∃ t, exec (.lda q w) s = .next t ∧ Loaded s q sg (fMd w.toNat) r (ldaBytes s.free) t ∧ t.free = s.free + 1)) ∧
  (∀ (s : State) (d q l v : Nat) (P : Part), partOf s d = some P →
     ∃ Q, partOf (shareWrite s d q l v) d = some Q ∧
       (∀ k, k ≠ feedBank P * 2 ^ 22 + l → Q.share.find? k = P.share.find? k) ∧
       (Q.share.find? (feedBank P * 2 ^ 22 + l) =
         if (match (feedUnit P).bind (fun u => u.writers.find? l) with | some k => decide (q < k % 8) | none => false)
         then P.share.find? (feedBank P * 2 ^ 22 + l) else some v) ∧
       (∀ e, e ≠ d → partOf (shareWrite s d q l v) e = partOf s e))

/-- XLD and XST issue a transfer, and end: a load's register gets the object's bytes, or +0 rows where it failed, its extents are
unpinned and the completion FIFO gets its word; with 16 transfers in flight, or an overlapping XST before it, XLD waits; XST
writes its rows at the partition's QoS; a full FIFO stalls the engine (R293, R309).
SCL hands the chunks of the rows its list entries name to Merge, in the order of the list, and takes a cycle for each chunk and
one more; while an item that one of the windows needs is held, it waits (R295, R296). -/
def Obligations.ObjectTransfers : Prop :=
  ((∀ (q : Nat) (w : W64) (s : State) (sg : Seg) (d : Nat), slotD s sg.slot = some d →
     badM s w.toNat (objRows (engOf s q) sg.slot w.toNat) (objSize s sg.slot (mHandle (engOf s q) sg.slot w.toNat)) sg = false →
     (Issues s q w 0x58 [fMd w.toNat] sg → ∀ x, x = xferOf (engOf s q) sg w.toNat false →
       (xldWaits (engOf s q) x = true → exec (.xld q w) s = .next s) ∧
       (xldWaits (engOf s q) x = false → xferPoisoned s d x = false →
         exec (.xld q w) s = .next (xldReads (xferBegin s d q (engOf s q) sg x) d x (fun _ => true))) ∧
       (xldWaits (engOf s q) x = false → xferPoisoned s d x = true → exec (.xld q w) s = .next (xferBegin s d q (engOf s q) sg x))) ∧
     (Issues s q w 0x59 [fMd w.toNat] sg → ∀ x, x = xferOf (engOf s q) sg w.toNat true →
       (16 ≤ (engOf s q).xfers.length → exec (.xst q w) s = .next s) ∧
       ((engOf s q).xfers.length < 16 → exec (.xst q w) s = .next
         (forEach (storeRows (engOf s q) (fMd w.toNat) x.rowsOf) (xferBegin s d q (engOf s q) sg x) (fun s b => objWriteQ s (fetchQos s d) d x.handle b.1 b.2))))) ∧
   (∀ (q tag : Nat) (came ok : Bool) (s : State) (x : Xfer) (d : Nat), held s = false →
     (engOf s q).xfers.find? (fun y => y.tag == tag) = some x → slotD s x.slot = some d → ok = (came && (x.store || !xferPoisoned s d x)) →
     (64 ≤ (engOf s q).xferFifo.length → exec (.transferEnd q tag came) s = .next (setEng s q { engOf s q with stalled := true })) ∧
     ((engOf s q).xferFifo.length < 64 → ∃ t, exec (.transferEnd q tag came) s = .next t ∧
       (engOf t q).xferFifo = (engOf s q).xferFifo ++ [xferWord x ok] ∧ (engOf t q).xfers = (engOf s q).xfers.erase x ∧
       (engOf t q).stalled = false ∧ (∀ r, r ≠ q → engOf t r = engOf s r) ∧
       (x.store = true → (engOf t q).m = (engOf s q).m) ∧
       (x.store = false → ∀ i, i < x.rowsOf.n → x.rowsOf.n ≤ 32 → rowOf (engOf t q) x.reg i =
         unpackRow x.rowsOf (rowOf (engOf s q) x.reg i)
           (if ok then objBytes s d x.handle (x.rowsOf.base + i * x.rowsOf.stride) x.rowsOf.size else List.replicate x.rowsOf.size 0)
           (if ok then objBytes s d x.handle (x.rowsOf.scale + i * x.rowsOf.blocks) x.rowsOf.blocks else List.replicate x.rowsOf.blocks 0) % 2 ^ 4096)))) ∧
  (∀ (q : Nat) (w : W64) (s : State) (sg : Seg) (d : Nat) (P : Part), slotPart s sg.slot = some (d, P) →
     Issues s q w 0x60 [] sg → badX w.toNat (engOf s q) sg = false →
     ∀ l, l = (List.range (sclCount (engOf s q) sg.slot w.toNat)).filterMap (fun k => sclEntry (engOf s q) sg.slot (sclFirst (engOf s q) sg.slot w.toNat + k)) →
       (sclReady P q l = false → exec (.scl q w) s = .next s) ∧
       (sclReady P q l = true → ∀ y, y = l.foldl (fun (a : State × Nat) x =>
           ((sclRow a.1 d q w.toNat x.1 x.2).1, a.2 + (sclRow a.1 d q w.toNat x.1 x.2).2)) (s, 0) →
         exec (.scl q w) s = .next (winsSettle (setEng y.1 q { engOf y.1 q with
           run := some { sg with idx := sg.idx + 1, now := sg.now + y.2, lat := 12 } }) sg.slot d)))

/-- The core's side of an engine: a push to a queue with room is appended, to a full one it is discarded and counted; a pop takes the
oldest entry of its FIFO, an empty FIFO reads 0, and a stall on it ends where there was one; a write of SX is in force at once, or held while
a segment of the slot runs; the front descriptor of a slot, once it is ready and the slot is the next to run, becomes the running segment, and
ends at once with EE_BAD where its range exceeds the program memory (R282, R283, R308, R309). -/
def Obligations.EngineQueues : Prop :=
  ∀ (q p : Nat) (s : State) (e : Eng), held s = false → q < cfgQuads s → p < 8 → e = engOf s q →
    (∀ w0 w1, (32 ≤ (e.queue.getD p []).length → exec (.segmentPush q p w0 w1) s = .next (bump s Cnt.eeQfull 1)) ∧
      ((e.queue.getD p []).length < 32 → exec (.segmentPush q p w0 w1) s =
        .next (setEng s q { e with queue := e.queue.set [] p (e.queue.getD p [] ++ [(w0, w1)]) }))) ∧
    exec (.fifoPop q 0) s = .next { setEng s q { e with segFifo := e.segFifo.tail, stalled := e.stalled && e.segFifo.isEmpty } with
      out := { s.out with popped := e.segFifo.headD 0 } } ∧
    exec (.fifoPop q 1) s = .next { setEng s q { e with xferFifo := e.xferFifo.tail, stalled := e.stalled && e.xferFifo.isEmpty } with
      out := { s.out with popped := e.xferFifo.headD 0 } } ∧
    exec (.fifoPop q 2) s = .next { setEng s q { e with sigFifo := e.sigFifo.tail, stalled := e.stalled && e.sigFifo.isEmpty } with
      out := { s.out with popped := e.sigFifo.headD 0 } } ∧
    (∀ i w, i < 64 →
      (e.run.all (fun sg => sg.slot != p) = true → exec (.sxCoreWrite q p i w) s = .next (setEng s q { e with sx := e.sx.set 0 (sxKey p i) w })) ∧
      (∀ sg, e.run = some sg → sg.slot = p →
        exec (.sxCoreWrite q p i w) s = .next (setEng s q { e with run := some { sg with held := sg.held ++ [(i, w)] } }))) ∧
    (∀ w rest, e.run = none → e.queue.getD p [] = w :: rest → segReady s q p = true → sliceFirst s q p = true → firstClass s q p = true →
      ∀ sg u, sg = ({ slot := p, segid := wfld w.1 63 48, n := wfld w.1 34 24 + 1, start := wfld w.1 47 35,
                      sx0 := e.sx.keepKeys (fun k => k / 64 == p) } : Seg) →
        u = setEng s q { e with queue := e.queue.set [] p rest, run := some sg, last := p } →
        (wfld w.1 47 35 + wfld w.1 34 24 ≤ 8191 → exec (.segmentStart q p) s = .next u) ∧
        (8191 < wfld w.1 47 35 + wfld w.1 34 24 → exec (.segmentStart q p) s = .next (endSegment u q sg 1 0)))

/-- The aperture of a core that runs firmware: an access that names no T1 or T2 object of a resident partition has an access fault alone; a
write is a write of the object; a read of a poisoned extent fails, and any other is one request with QoS 1 for the 64 B line of the 8 bytes,
at the copy that serves it (R133, R148, R301). -/
def Obligations.ApertureAccesses : Prop :=
  ∀ (offset : Nat) (w : W64) (s : State), held s = false → s.core.st ≠ .boot → s.core.st ≠ .restarting →
    (apTarget s offset = none → ∀ write, exec (.apertureAccess write offset w) s = .next { s with core := { s.core with apFault := true } }) ∧
    (∀ d h off, apTarget s offset = some (d, h, off) →
      exec (.apertureAccess true offset w) s = .next (objWrite { s with core := { s.core with apFault := false } } d h off (leBytes 8 w.toNat)) ∧
      ∀ o xi o1 x, objOf s d h = some o → o.at off = (xi, o1) → x = xKey d h xi →
        (poisonedX s x = true → exec (.apertureAccess false offset w) s = .next { s with core := { s.core with apFault := true } }) ∧
        (poisonedX s x = false → ∃ r, exec (.apertureAccess false offset w) s = .next { s with
            core := { s.core with apFault := false, apOff := (imagePlace s x none o1).2.2 % 64 }
            mp := { s.mp with nextId := s.mp.nextId + 1, waiting := s.mp.waiting ++ [r] } } ∧
          r.write = false ∧ r.part = d ∧ r.qos = 1 ∧ r.bytes = 64 ∧ r.use = .aperture ∧ r.addr = (imagePlace s x none o1).2.2 / 64 * 64 ∧
          (r.tier, r.port) = ((imagePlace s x none o1).1, (imagePlace s x none o1).2.1)))

/-! ## Partitions -/

/-- PLAN_LOAD: refused with the code of the first check of Table PART-3 that fails, in their order; else the record is installed in
the lowest free resident slot, every object of the slot has its value, the partition is QUIESCED there, its counters are 0 and the
command returns the slot (R249).
PLAN_UNLOAD: refused with PART_STATE unless the partition is QUIESCED or CLAMPED and no command of it runs; else the partition is
UNDEFINED, with none of its objects, table entries, rings of moves, or waiting requests (R250). -/
def Obligations.PlanCommands : Prop :=
  (∀ (s : State) (shape : Shape) (i : Inst), Due s 7 0x10 i → s.boot.reload = none → ∀ a w, a = i.arg 0 % 2 ^ 52 → w = t1Words s a 8 →
     ∀ code, code = planCode s w (bytesAt s.mem (memKey 0 a) 64) →
     ∃ t, exec (.planLoad shape) s = .next t ∧
       (slotFor s = none → Ends s i none (if code = 0 then Code.slotFull else code) 0 0 t) ∧
       (∀ p, slotFor s = some p → code ≠ 0 → Ends s i none code 0 0 t) ∧
       (∀ p, slotFor s = some p → code = 0 → ∀ d, d = planFld w 0 63 59 → ∃ u, u = planInstall s p w shape ∧ Ends u i (some d) Code.ok (w64 p) 0 t ∧
         (∃ P, partOf u d = some P ∧ P.st = .quiesced ∧ P.slot = some p ∧ P.modes = planModes w ∧ P.shape = shape ∧ P.step = 0 ∧ P.man = none) ∧
         (∀ x ∈ [(7, 0x20, planFld w 0 55 48), (7, 0x21, planFld w 0 58 56), (7, 0x22, planFld w 0 47 45), (7, 0x50, planFld w 2 63 48),
           (6, 0x10, planFld w 2 47 34), (6, 0x11, planFld w 2 33 19)], u.od.vals.find? (okey x.1 x.2.1 p) = some (w64 x.2.2)) ∧
         (∀ k, cntOfPart d k = true → u.cnt.getD k 0 = 0)) ∧
       (∀ p, slotFor s = some p → (slotPart s p).isNone)) ∧
  (∀ (s : State) (i : Inst), Due s 7 0x11 i → ∀ d, d = i.arg 0 % 32 →
     ∃ t, exec .planUnload s = .next t ∧
       (partOf s d = none → Ends s i none Code.partState 0 0 t) ∧
       (∀ P, partOf s d = some P → (P.st ≠ .quiesced ∧ P.st ≠ .clamped) ∨ partChecking s d = true → Ends s i (some d) Code.partState 0 0 t) ∧
       (∀ P, partOf s d = some P → P.st = .quiesced ∨ P.st = .clamped → partChecking s d = false →
         Ends (planRemove s d) i none Code.ok 0 0 t ∧ partOf (planRemove s d) d = none))

/-- PART_START, PART_QUIESCE and PART_CLAMP: each refused as Table PART-4 and its own checks say. A start makes the partition RUNNING,
and the first one makes the block serving-ready (R381); a quiesce waits for the partition's boundaries; a clamp of a QUIESCED
partition begins its save at once, of a RUNNING one its pre-emption, and of one already on its way has no effect (R250, R261).
RESET_PART: refused unless the partition is QUIESCED or CLAMPED, and with LIMIT_RANGE where an attached adapter of a CLAMPED one has
no RUN left (R214); else the tile registers of its mask are cleared where it is
resident, its step is abandoned where it is not, its share and its pen are dropped, the tags of its bin come under quarantine, and
its unended touched lists are swept (R391). -/
def Obligations.PartitionCommands : Prop :=
  (∀ (s : State) (i : Inst) (d : Nat), d = i.arg 0 % 32 →
     (Due s 7 0x12 i → ∃ t, exec .partStart s = .next t ∧
       (partOf s d = none → Ends s i none Code.partState 0 0 t) ∧
       (∀ P, partOf s d = some P → P.slot = none ∨ s.boot.reload.isSome ∨ P.st ≠ .quiesced → Ends s i (some d) Code.partState 0 0 t) ∧
       (∀ P p, partOf s d = some P → P.slot = some p → s.boot.reload = none → P.st = .quiesced →
         (handlesMissing s p d P = true ∨ regsClash s p d = true → Ends s i (some d) Code.limitRange 0 0 t) ∧
         (handlesMissing s p d P = false → regsClash s p d = false → ∃ u v,
           u = servingReady (updPart s d (fun P => { P with st := .running, fwBank := bankNow s, place := 0 })) ∧
           Ends (startLists u d) i (some d) Code.ok 0 0 v ∧ t = partIdle v d ∧ (s.boot.stage = 10 → u.boot.stage = 11)))) ∧
     (Due s 7 0x13 i → ∃ t, exec .partQuiesce s = .next t ∧
       (partOf s d = none → Ends s i none Code.partState 0 0 t) ∧
       (∀ P, partOf s d = some P → P.st ≠ .running → Ends s i (some d) Code.partState 0 0 t) ∧
       (∀ P, partOf s d = some P → P.st = .running → t = quiesceSettle (setInst s { i with st := .pending, part := d, wait := boundaries P }) d)) ∧
     (Due s 7 0x14 i → ∃ t, exec .partClamp s = .next t ∧
       (partOf s d = none → Ends s i none Code.partState 0 0 t) ∧
       (∀ P, partOf s d = some P → s.boot.reload.isSome → Ends s i (some d) Code.partState 0 0 t) ∧
       (∀ P, partOf s d = some P → s.boot.reload = none → P.st = .clamping ∨ preempting P = true → Ends s i (some d) Code.ok 0 0 t) ∧
       (∀ P, partOf s d = some P → s.boot.reload = none → P.st ≠ .clamping → preempting P = false →
         (P.st ≠ .running → P.st ≠ .quiesced → Ends s i (some d) Code.partState 0 0 t) ∧
         (P.st = .running ∨ P.st = .quiesced → hasClamp s d = false → Ends s i (some d) Code.limitRange 0 0 t) ∧
         (P.st = .running ∨ P.st = .quiesced → hasClamp s d = true → ∃ u, Ends s i (some d) Code.ok 0 0 u ∧
           t = preemptBegin u d (if bitOf (i.arg 0) 8 then 2 else 1))))) ∧
  (∀ (s : State) (i : Inst) (d : Nat), d = i.arg 0 % 32 → Due s 1 2 i →
     ∃ t, exec .resetPart s = .next t ∧
       (partOf s d = none → Ends s i none Code.partState 0 0 t) ∧
       (∀ P, partOf s d = some P → s.boot.reload.isSome ∨ (P.st ≠ .quiesced ∧ P.st ≠ .clamped) → Ends s i (some d) Code.partState 0 0 t) ∧
       (∀ P, partOf s d = some P → s.boot.reload = none → P.st = .clamped → P.train.atts.any (fun e => decide (0xFFFF ≤ e.2.run)) = true →
         Ends s i (some d) Code.limitRange 0 0 t) ∧
       (∀ P, partOf s d = some P → s.boot.reload = none →
         P.st = .quiesced ∨ (P.st = .clamped ∧ P.train.atts.any (fun e => decide (0xFFFF ≤ e.2.run)) = false) → ∃ u v w,
         (∀ p, P.slot = some p → u = regsClear s p) ∧ (P.slot = none → u = abandonStep s d) ∧
         v = bumpD (dropShare u d) Cnt.penDrop d P.train.pen.length ∧
         w = listsRecover (lrbFree (updTrain v d (fun T => { T with pen := [], penFull := false })) d) d ∧
         Ends w i (some d) Code.ok 0 0 t))

/-- The end of a save: nothing while a write of it is unacknowledged; else the partition is CLAMPED with no slot, its contexts are kept
with it, SQ_EV reports CLAMP with the PP word, and its slot's registers are free. The end of a restore: RUNNING or QUIESCED as it was,
CNT_RESTORE counts, and its work goes on (R263, R266, R267).
The scheduler's restore: nothing while no CLAMPED partition is runnable; the first in the order of R262 is restored into a free
slot where it fits, waits where those leaving make room for it, and otherwise blocked partitions are swapped or room is made; in a
soft reload nothing is restored before its work is done (R262, R273, R389). -/
def Obligations.SavesAndRestores : Prop :=
  (∀ (s : State) (d : Nat) (P : Part), held s = false → partOf s d = some P →
     (∀ p q, P.slot = some p → P.preempt = some q →
       (P.st ≠ .clamping ∨ q.owed ≠ 0 ∨ P.lrbQueue ≠ [] → exec (.clampSaveEnd d) s = .next s) ∧
       (P.st = .clamping → q.owed = 0 → P.lrbQueue = [] → ∃ t Q, exec (.clampSaveEnd d) s = .next t ∧ partOf t d = some Q ∧
         Q.st = .clamped ∧ Q.slot = none ∧ Q.granules = [] ∧ Q.preempt = none ∧ Q.holds = [] ∧ Q.saved = ctxsOf s d ∧ Q.clamp = P.clamp ∧ Q.step = P.step ∧
         Q.man = P.man ∧ t.out.sqEv = some (0, p, d, (P.clamp.map (·.ppWord)).getD 0) ∧ t.ctxs = s.ctxs.filter (fun e => e.2.part != d) ∧
         (∀ e, e ≠ d → partOf t e = partOf s e) ∧ t.mem = s.mem ∧ t.cnt = s.cnt)) ∧
     (∀ p q c, P.slot = some p → P.preempt = some q → P.clamp = some c →
       (P.st ≠ .restoring ∨ q.owed ≠ 0 → exec (.restoreEnd d) s = .next s) ∧
       (P.st = .restoring → q.owed = 0 → exec (.restoreEnd d) s = .next (restoreDone s d))) ∧
     (P.st ≠ .running ∨ P.blocked = true ∨ s.mp.out.any (fun r => r.part == d && r.tier == 3) = false ∨ trAlone s d P = false →
       exec (.partitionBlocked d) s = .next s) ∧
     (P.st = .running → P.blocked = false → s.mp.out.any (fun r => r.part == d && r.tier == 3) = true → trAlone s d P = true →
       exec (.partitionBlocked d) s = .next (swapBlocked (latch (updPart { s with order := s.order + 1 } d
         (fun P => { P with blocked := true, blockOrder := s.order + 1 })) 45))) ∧
     (∀ q, P.preempt = some q →
       (q.kind ≠ 2 ∨ q.passed = true → exec (.urgentTimer d) s = .next s) ∧
       (q.kind = 2 → q.passed = false → exec (.urgentTimer d) s = .next (effectDue (updPart s d (fun P => { P with
         preempt := some { q with armed := true, stopping := q.stopping || !tileWork P } })) d)))) ∧
  (∀ s : State, held s = false → ready s = true →
     (s.boot.reload = none →
       ((restoreOrder s).head? = none → exec .restoreStart s = .next s) ∧
       (∀ d P, (restoreOrder s).head? = some d → partOf s d = some P →
         (∀ p, fitsWithout s P [] = true → slotFor s = some p → exec .restoreStart s = .next (restoreNow s d p P)) ∧
         (fitsWithout s P [] = false → fitsWithout s P (leaving s) = true → exec .restoreStart s = .next s) ∧
         (fitsWithout s P [] = false → fitsWithout s P (leaving s) = false → allBlocked s = true → exec .restoreStart s = .next (swapBlocked s)) ∧
         (fitsWithout s P [] = false → fitsWithout s P (leaving s) = false → allBlocked s = false →
           exec .restoreStart s = .next (makeRoomFor s P)))) ∧
     (∀ r, s.boot.reload = some r → r.worked = false → exec .restoreStart s = .next s))

/-! ## Tiles and errors -/

/-- The lowest-numbered spare whose last known-answer test passed, other than `t`, that no substitution has taken yet. -/
def spareFor (s : State) (t : Nat) : Option Nat :=
  (List.range 34).find? (fun x => tileState s x == 1 && !s.rel.subst.any (fun y => y.2 == x) && !s.rel.katFail.contains x && x != t)

/-- TILE_MAPOUT: refused for a tile that is not built or is in state 2 or 3; where the tile held a logical number and no spare is
left the status carries NO_SPARE and the result is 0xFF; for a spare the code is 0 and the result 0xFF; else code 0 and the result is
the spare taken. The tile's state is then 2, that of no other tile but the spare taken changes, and CNT_TILE_MAPOUT counts
(R408, R409). -/
def Obligations.TileMapOut : Prop :=
  ∀ (s : State) (i : Inst) (x : Nat), Due s 9 0x14 i → x = fld (i.arg 0) 5 0 →
    ∃ t, exec .tileMapout s = .next t ∧
      (2 ≤ tileState s x → Ends s i none Code.limitRange 0 0 t) ∧
      (tileState s x < 2 → ∃ u : State,
        tileState u x = 2 ∧ (∀ y, y ≠ x → spareFor s x ≠ some y → tileState u y = tileState s y) ∧
        u.cnt.getD (cntKey Cnt.tileMapout 0) 0 = s.cnt.getD (cntKey Cnt.tileMapout 0) 0 + 1 ∧
        ((logicalOf s x).isSome → spareFor s x = none → Ends u i none Code.noSpare 0xFF 0 t ∧ u.rel.replace = true ∧
          ∀ l, logicalOf s x = some l → physTile u l = 0xFF) ∧
        (∀ sp, (logicalOf s x).isSome → spareFor s x = some sp → Ends u i none Code.ok (w64 sp) 0 t) ∧
        (logicalOf s x = none → s.rel.subst.any (fun y => y.2 == x) = false → Ends u i none Code.ok 0xFF 0 t ∧ u.rel.map = s.rel.map))

/-- The events of tiles and of the scrubber: a spare takes its logical number when no window that is not past Expand uses the tile; a
test of a tile that runs no window and fails maps its tile out, one that passes does not, and a tile that runs one has no test; the scores are halved, rounding down; a period of the scrubber handles
its finds, advances its place by SCRUB_LINES and counts the rounds it completes; a word of a tile register beyond correction reads as
+0 from then on, and is poisoned (R81, R397, R399, R404 to R408; the index of a find is log entry 59's). -/
def Obligations.TileEvents : Prop :=
  ∀ s : State, held s = false →
    (∀ l, (tileInUse s l = true ∨ s.rel.subst.find? (fun x => x.1 == l) = none → exec (.spareSubstitution l) s = .next s) ∧
      (∀ x, tileInUse s l = false → s.rel.subst.find? (fun x => x.1 == l) = some x → ∃ t, exec (.spareSubstitution l) s = .next t ∧
        physTile t l = x.2 ∧ tileState t x.2 = 0 ∧ (∀ k, k ≠ l → physTile t k = physTile s k) ∧
        (∀ y, y ≠ x.2 → tileState t y = tileState s y) ∧ t = { s with rel := t.rel, cnt := t.cnt })) ∧
    (∀ x pass, 2 ≤ tileState s x ∨ tileReady s x = true → exec (.knownAnswerTest x pass) s = .next s) ∧
    (∀ x, tileState s x < 2 → tileReady s x = false → exec (.knownAnswerTest x true) s = .next { s with rel := { s.rel with katFail := s.rel.katFail.filter (· != x) } } ∧
      exec (.knownAnswerTest x false) s =
        .next (mapOutTile { s with rel := { s.rel with katFail := x :: s.rel.katFail.filter (· != x) } } x)) ∧
    (∃ t, exec .errorScoreHalving s = .next t ∧ t = { s with rel := { s.rel with score := t.rel.score } } ∧
      ∀ x, t.rel.score.getD x 0 = s.rel.score.getD x 0 / 2) ∧
    (s.boot.stage < 6 → ∀ f, exec (.scrubPeriod f) s = .next s) ∧
    (6 ≤ s.boot.stage →
      (∀ n at', n = scrubLines s → at' = s.rel.scrub + valU s 9 0x31 →
        exec (.scrubPeriod []) s = .next (bump { s with rel := { s.rel with scrub := at' % n } } Cnt.scrubRounds (at' / n))) ∧
      (∀ idx, idx < 34 * 16384 → ∃ t, exec (.scrubPeriod [(2, idx, false)]) s = .next t ∧
        (s.rel.score.getD (idx / 16384) 0 + 1 < valU s 9 0x21 → t = { s with cnt := t.cnt, rel := t.rel } ∧
          t.rel.score.getD (idx / 16384) 0 = s.rel.score.getD (idx / 16384) 0 + 1 ∧
          t.rel.tiles = s.rel.tiles ∧ t.rel.map = s.rel.map)) ∧
      (∀ q k, q < cfgQuads s → k < 32768 → ∃ t, exec (.scrubPeriod [(6, 32768 * q + k, true)]) s = .next t ∧
        (∀ x, x ∈ (engOf t q).bad ↔ x = k ∨ x ∈ (engOf s q).bad) ∧ (∀ r, r ≠ q → engOf t r = engOf s r) ∧
        ∀ r i j, i < 32 → j < 128 → lane t q r i j = if 2048 * r + 64 * i + j / 2 = k then 0 else lane s q r i j))

/-! ## Objects, publish and flash -/

/-- OBJ_ALLOC, OBJ_FREE and OBJ_MOVE with its cancel: checked at once, and in force at the next boundary of the partition, or at once
where it is in no step; an allocated object has the lowest free handle and the attributes of the command, a freed one is gone, an
extent that is moved takes one record (R131, R132, R135, R144, R146).
A command that takes effect at a boundary: at once where its partition is not RUNNING or in no step; else it is PENDING for the
next boundary, or for the one after it where the next step is frozen (R321).
The end of the copy of a moved extent: nothing where there is no such move or it has ended; a failure aborts the move, a
poisoned extent too; while a read or write of the copy is outstanding nothing happens; else the new place holds what the extent holds, the
records logged meanwhile are written after it, and the switch comes at the next boundary, or at once outside a step (R144 to R146). -/
def Obligations.ObjectCommands : Prop :=
  (∀ (s : State) (i : Inst),
     (Due s 2 0x20 i → ∃ t, exec .objAlloc s = .next t ∧
       SlotCommand s i (fun d _ => allocCode s d i) (fun d P => atBoundary s { i with part := d } d P applyObjAlloc) t ∧
       ∀ d P, slotPart s i.slotArg = some (d, P) → allocCode s d i = 0 → boundaries P = 0 → ∃ u h o, freeHandle s d = some h ∧
         Ends { s with tm := { s.tm with objs := s.tm.objs.put (objKey d h) o } } { i with part := d } (some d) Code.ok (w64 h) 0 u ∧ t = capCheck u ∧
         o.home = fld (i.arg 1) 31 29 ∧ o.bytes = i.arg 2 ∧ o.base = i.arg 3 ∧ o.port = fld (i.arg 1) 24 21 ∧
         o.movable = (fld (i.arg 1) 26 26 == 1) ∧ o.rick = (fld (i.arg 1) 27 27 == 1) ∧ o.spread = (fld (i.arg 1) 25 25 == 1)) ∧
     (Due s 2 0x21 i → ∃ t, exec .objFree s = .next t ∧
       SlotCommand s i (fun d _ => if (objOf s d (i.arg 1 % 2 ^ 20)).isNone then Code.limitRange else if objBusy s d (i.arg 1 % 2 ^ 20) then Code.objBusy else 0)
         (fun d P => atBoundary s { i with part := d } d P applyObjFree) t ∧
       ∀ d P, slotPart s i.slotArg = some (d, P) → (objOf s d (i.arg 1 % 2 ^ 20)).isSome → objBusy s d (i.arg 1 % 2 ^ 20) = false → boundaries P = 0 →
         Ends (capCheck (objDrop s d (i.arg 1 % 2 ^ 20))) { i with part := d } (some d) Code.ok 0 0 t ∧ objOf (objDrop s d (i.arg 1 % 2 ^ 20)) d (i.arg 1 % 2 ^ 20) = none) ∧
     (Due s 2 0x22 i → bitOf (i.arg 0) 8 = false → ∃ t, exec .objMove s = .next t ∧
       SlotCommand s i (fun d _ => moveCode s d i) (fun d P => atBoundary s { i with part := d } d P applyObjMove) t) ∧
     (Due s 2 0x22 i → bitOf (i.arg 0) 8 = true → ∃ t, exec .objMoveCancel s = .next t ∧
       SlotCommand s i (fun d _ => moveCode s d i) (fun d P => atBoundary s { i with part := d } d P applyObjCancel) t)) ∧
  (∀ (s : State) (i : Inst) (d : Nat) (P : Part) (f : State → Inst → State),
     (P.st ≠ .running ∨ P.inStep = false → atBoundary s i d P f = f s i) ∧
     (P.st = .running → P.inStep = true → ∃ n, n = (if P.frozen then 2 else 1) ∧ ∃ t, t = atBoundary s i d P f ∧
       t = { s with od := { s.od with insts := t.od.insts, stats := t.od.stats } } ∧ statusOf t i = some { state := 2, tag := i.tag } ∧
       t.od.insts = s.od.insts.map (fun j => if i.same j then { i with st := .pending, wait := n, part := d } else j))) ∧
  (∀ (s : State) (d h xi : Nat), held s = false → ∀ x, x = xKey d h xi →
     (moveOf s x = none → ∀ ok, exec (.moveCopyEnd d h xi ok) s = .next s) ∧
     (∀ m, moveOf s x = some m → m.opened = false ∨ m.copied = true → ∀ ok, exec (.moveCopyEnd d h xi ok) s = .next s) ∧
     (∀ m, moveOf s x = some m → m.opened = true → m.copied = false →
       exec (.moveCopyEnd d h xi false) s = .next (moveAbort s x) ∧
       (poisonedX s x = true → exec (.moveCopyEnd d h xi true) s = .next (moveAbort s x)) ∧
       (poisonedX s x = false → useBusy s (.move x) = true → exec (.moveCopyEnd d h xi true) s = .next s) ∧
       (poisonedX s x = false → useBusy s (.move x) = false → exec (.moveCopyEnd d h xi true) s =
         .next (movesIdle (moveReplay (setMove { s with mem := storeBytes s.mem (memKey m.tier m.addr) (extBytes s x) } { m with copied := true }) x) m.d))))

/-- The publish that a command begins: the units it names of the object, none of them assembled yet. -/
def newPublish (s : State) (i : Inst) (d : Nat) : Publish :=
  { path := i.path
    cseq := i.cseq
    d := d
    handle := i.arg 1 % 2 ^ 20
    thawed := pubThawed i
    first := i.arg 2
    img := pubImage s i
    src := i.arg 4 % 2 ^ 52
    bseq := 0
    units := (List.range (i.arg 3)).map (fun k => { mu := ((objOf s d (i.arg 1 % 2 ^ 20)).map (·.mu)).getD 0 + i.arg 2 + k, bytes := [] }) }

/-- PUBLISH of an image and of THAWED data: checked, and then its units are assembled and programmed one after another; the read-back of
a unit that failed programs it once more in another block, and a second failure ends the command with PUBLISH_FAIL. FL_FORMAT is refused
without flash or while a T3 object exists, and else leaves a tier with no map and its user capacity (R164, R165, R170). -/
def Obligations.PublishCommands : Prop :=
  (∀ (s : State) (i : Inst), Due s 2 0x24 i → ∃ t, (pubThawed i = false → exec .publishImage s = .next t) ∧
    (pubThawed i = true → exec .publishThawed s = .next t) ∧
    SlotCommand s i (fun d P => pubCode s d P i) (fun d _ =>
      pubNext { setInst s { i with st := .checking, part := d } with fl := { s.fl with pubs := s.fl.pubs ++ [newPublish s i d] } } d (i.arg 1 % 2 ^ 20) (i.arg 2)) t) ∧
  (∀ (s : State) (mu : Nat), held s = false →
    (pubOf s mu = none → ∀ crcs, exec (.publishReadBack mu crcs) s = .next (lunsStart s)) ∧
    (∀ p u, pubOf s mu = some (p, u) → u.st ≠ 2 → ∀ crcs, exec (.publishReadBack mu crcs) s = .next (lunsStart s)) ∧
    (∀ p u, pubOf s mu = some (p, u) → u.st = 2 → ∀ crcs,
      (crcs = unitDcrcs u.bytes mu u.bseq → p.img = false →
        exec (.publishReadBack mu crcs) s = .next (lunsStart (journalPut (setPub s (setPubUnit p { u with st := 3 })) mu 2))) ∧
      (crcs = unitDcrcs u.bytes mu u.bseq → p.img = true → ∀ p', p' = setPubUnit p { u with st := 6 } →
        exec (.publishReadBack mu crcs) s = .next (lunsStart (imgSettle (setPub s p') p'))) ∧
      (crcs ≠ unitDcrcs u.bytes mu u.bseq → u.tries = 0 → exec (.publishReadBack mu crcs) s =
        .next (lunsStart (pubProgram s p { u with tries := 1 } (blkKey (entryLun u.entry) (entryBlk u.entry))))) ∧
      (crcs ≠ unitDcrcs u.bytes mu u.bseq → u.tries ≠ 0 → exec (.publishReadBack mu crcs) s = .next (lunsStart (pubFail s p))))) ∧
  (∀ (s : State) (i : Inst), Due s 2 0x25 i → ∃ t, exec .flFormat s = .next t ∧
    (cfgFlash s = 0 ∨ s.fl.geo = none → Ends s i none Code.tierAbsent 0 0 t) ∧
    (cfgFlash s ≠ 0 → s.fl.geo.isSome → t3Objs s ≠ [] → Ends s i none Code.objBusy 0 0 t) ∧
    (cfgFlash s ≠ 0 → s.fl.geo.isSome → t3Objs s = [] → ∃ u v, Ends v i none Code.ok (w64 u.fl.userMu) 0 t ∧ u = { s with fl := u.fl } ∧
      u.fl.formatted = true ∧ u.fl.dur = [] ∧ u.fl.journal = 0 ∧ u.fl.progs = [] ∧ u.fl.erases = [] ∧ u.fl.ces = s.fl.ces ∧
      (∀ c ∈ u.fl.copies, c ∈ s.fl.copies ∧ c.lun ∉ allLuns s) ∧
      u.fl.userMu = Nat.min (goodBlks u * blkMu u * (1000 - valU u 2 0x67) / 1000) (2 ^ 30) ∧
      ∀ needs, needs = 8 * u.fl.userMu + 16 * ((allLuns u).length * lunBlocks u) →
        (needs ≤ valU u 2 0x66 → v = capCheck (regionInstall { u with fl := { u.fl with present := true } })) ∧
        (valU u 2 0x66 < needs → ∃ w, w = { u with fl := { u.fl with present := false } } ∧
          v = post w Ev.flashMapSmall none 0 needs 0 ∧ Posted w v)))

/-- The events of flash that the spec counts: a checkpoint once 2^20 records have been journalled, which swaps its area and frees the
full journal blocks; ZQ calibration of every mounted chip enable; a read of disturbed blocks, wear levelling and the collector, each under
its own condition and else without effect; the break of a fence admits one waiting operation, a program of the best class before an erase
(R153, R161, R162, R168).
What ends on a flash channel: a program that passes serves its use, one that fails retires its block and runs again elsewhere; an
erase that passes frees its block with one more erase and none of its copies, one that fails retires it; either way the LUN begins what
waits for it next; a read that decodes with the DCRC of its unit answers its request, one that does not goes to the next retry level and
in the end fails for good; a LUN that is lost goes with what waited for it (R159, R161, R168, R413). -/
def Obligations.FlashEvents : Prop :=
  (∀ s : State, held s = false →
     (s.fl.journal < 2 ^ 20 → exec .checkpoint s = .next s) ∧
     (2 ^ 20 ≤ s.fl.journal → exec .checkpoint s = .next (forEach (s.fl.blocks.filter (fun e => e.2.jr && e.2.st == 2))
       { s with fl := { s.fl with journal := s.fl.journal - 2 ^ 20, ckArea := 1 - s.fl.ckArea } }
       (fun s e => queueErase s (e.1 / 2 ^ 20) (e.1 % 2 ^ 20)))) ∧
     (flChannels s = [] → exec .zqShort s = .next s) ∧
     (flChannels s ≠ [] → ∃ t, exec .zqShort s = .next t ∧
       t = { s with fl := { s.fl with zq := s.fl.zq + sumBy (flChannels s) (fun ch => (s.fl.ces.getD ch []).length), ops := t.fl.ops } } ∧
       ∀ ch, t.fl.ops.find? ch = if ch ∈ flChannels s then some onfiZq else s.fl.ops.find? ch) ∧
     (∀ ch ce lun b,
       ((blkOf s (lunKey ch ce lun) b).reads < valU s 2 0x6A ∨ (flChannels s).length < 2 → exec (.readDisturbRelocate ch ce lun b) s = .next s) ∧
       (valU s 2 0x6A ≤ (blkOf s (lunKey ch ce lun) b).reads → 2 ≤ (flChannels s).length →
         exec (.readDisturbRelocate ch ce lun b) s = .next (reclaim s (blkKey (lunKey ch ce lun) b) 4))) ∧
     ((wearRange s).2 - (wearRange s).1 ≤ valU s 2 0x6B ∨ (flChannels s).length < 2 → exec .wearLevel s = .next s) ∧
     (valU s 2 0x6B < (wearRange s).2 - (wearRange s).1 → 2 ≤ (flChannels s).length → exec .wearLevel s = .next (wearMove s)) ∧
     (∀ ch ce lun, ∀ k, k = lunKey ch ce lun →
       ((allLuns s).contains k = false ∨ valU s 2 0x6D ≤ freeBlks s k → exec (.gcReclaim ch ce lun) s = .next s) ∧
       ((allLuns s).contains k = true → freeBlks s k < valU s 2 0x6D →
         ∀ l, l = s.fl.blocks.filter (fun e => e.1 / 2 ^ 20 == k && e.2.st == 2 && !e.2.jr) → l ≠ [] →
         ∃ e ∈ l, exec (.gcReclaim ch ce lun) s = .next (reclaim s e.1 1) ∧
           ∀ e' ∈ l, blkValid s k (e.1 % 2 ^ 20) * 2 ^ 32 + e.2.erases ≤ blkValid s k (e'.1 % 2 ^ 20) * 2 ^ 32 + e'.2.erases) ∧
       (fenced s k = false ∨ lunBusy s k = true → exec (.fenceBreak ch ce lun) s = .next s) ∧
       (fenced s k = true → lunBusy s k = false → ∃ t, exec (.fenceBreak ch ce lun) s = .next t ∧
         ((∃ g ∈ s.fl.progs, g.lun = k) → ∃ g ∈ s.fl.progs, g.lun = k ∧ (∀ h ∈ s.fl.progs, h.lun = k → progClass g ≤ progClass h) ∧
           t = bump (beginProg s g) Cnt.flashFenceBreak 1) ∧
         ((∀ g ∈ s.fl.progs, g.lun ≠ k) →
           ((∀ e ∈ s.fl.erases, e.1 = k → blkReading s k e.2.1 = true) → t = s) ∧
           ((∃ e ∈ s.fl.erases, e.1 = k ∧ blkReading s k e.2.1 = false) → ∃ e ∈ s.fl.erases, e.1 = k ∧ blkReading s k e.2.1 = false ∧
             t = bump (beginErase s e) Cnt.flashFenceBreak 1))))) ∧
  (∀ (s : State) (ch ce lun b k : Nat), held s = false → k = lunKey ch ce lun →
     (s.fl.progs.find? (fun g => g.lun == k && g.block == b && g.started) = none → ∀ ok, exec (.flashProgramDone ch ce lun b ok) s = .next s) ∧
     (∀ g, s.fl.progs.find? (fun g => g.lun == k && g.block == b && g.started) = some g →
       ∀ u, u = lunDone { s with fl := { s.fl with progs := s.fl.progs.erase g } } k (progClass g) →
       exec (.flashProgramDone ch ce lun b true) s = .next (lunStart (progUse u g) k) ∧
       exec (.flashProgramDone ch ce lun b false) s = .next (lunStart (moveUnits (progAgain (retireBlk u k b) g) k b 1) k)) ∧
     (s.fl.erases.find? (fun e => e.1 == k && e.2.1 == b && e.2.2) = none → ∀ ok, exec (.flashEraseDone ch ce lun b ok) s = .next s) ∧
     (∀ e, s.fl.erases.find? (fun e => e.1 == k && e.2.1 == b && e.2.2) = some e →
       ∀ u, u = lunDone { s with fl := { s.fl with erases := s.fl.erases.erase e } } k 5 →
       (∃ v, exec (.flashEraseDone ch ce lun b true) s = .next (lunStart (pubsRetry v) k) ∧
         v = setBlk { u with fl := { u.fl with copies := u.fl.copies.filter (fun c => !(c.lun == k && c.block == b)) } } k b
           { erases := (blkOf u k b).erases + 1 }) ∧
       exec (.flashEraseDone ch ce lun b false) s = .next (lunStart (retireBlk u k b) k)) ∧
     (∀ ok errs crc, exec (.flashReadDone ch ok errs crc true) s = .next (settle (channelGone (settleT3 s) ch))) ∧
     (∀ u, u = settleT3 s → (channelRead u ch = none → ∀ ok errs crc, exec (.flashReadDone ch ok errs crc false) s = .next (settle u)) ∧
       ∀ x, channelRead u ch = some x → ∀ good : Bool, ∀ ok errs crc, (good = true ↔ ok = true ∧ crc = readDcrc u x) →
         ∃ v, exec (.flashReadDone ch ok errs crc false) s = .next (settle (lunStart (settleT3 v) x.lun)) ∧
           (good = true → v = readPassed u x errs) ∧
           (good = false → ∀ g, u.fl.geo = some g → x.level < g.retry → v = nextLevel u x) ∧
           (good = false → (∀ g, u.fl.geo = some g → g.retry ≤ x.level) → v = flRetry u x)) ∧
     (∀ u, u = settleT3 s → exec (.lunLost ch ce lun) s = .next (settle (lunGone u ch ce lun)) ∧
       ((chLuns u ch).contains k = false → exec (.lunLost ch ce lun) s = .next (settle u))))

/-! ## Adapters and contexts -/

/-- ADPT_LOAD and the end of its checks, ADPT_UNLOAD and CTX_REBIND. A load is refused for a source that is not there, or else checks its
image; at the end the image is refused with the code of the first check it fails, or as that of an adapter in training, or staged: it is
installed at once where the partition is in no step, else at the next boundary. An unload leaves the adapter or basis pair without a
generation. A rebind is in force at once where no step is in progress (R54 to R59). -/
def Obligations.AdapterCommands : Prop :=
  ∀ (s : State) (i : Inst),
    (Due s 3 0x10 i → ∃ t, exec .adptLoad s = .next t ∧
      SlotCommand s i (fun d _ => loadSource s d i) (fun d _ => setInst s { i with st := .checking, part := d }) t) ∧
    (∀ r, held s = false → instAt s 3 0x10 r = some i →
      (i.st ≠ .checking → exec (.adptLoadChecksEnd r) s = .next s) ∧
      (i.st = .checking → ∃ t, exec (.adptLoadChecksEnd r) s = .next t ∧
        (partOf s i.part = none → Ends s i none Code.partState 0 0 t) ∧
        ∀ P c h g, partOf s i.part = some P → c = adptChecks s i.part P (loadBase i).1 (loadBase i).2 →
          (h, g) = imgGen s i.part (loadBase i).1 (loadBase i).2 →
          (c ≠ 0 → Ends s i (some i.part) c 0 0 t) ∧
          (c = 0 → h.bank = false → adapterAttached P h.id = true → Ends s i (some i.part) Code.adapterBusy 0 0 t) ∧
          (c = 0 → (h.bank = true ∨ adapterAttached P h.id = false) → (loadBase i).1 = 0 →
            (boundaries P = 0 → Ends (installNow (stageGen s i.part 0 h g) i.part h g) i (some i.part) Code.ok (w64 h.id) (w64 h.gen) t) ∧
            (boundaries P ≠ 0 → t = setInst (stageGen s i.part 1 h g) { i with st := .pending, wait := 1 })))) ∧
    (Due s 3 0x11 i → ∃ t, exec .adptUnload s = .next t ∧
      (slotPart s i.slotArg = none → Ends s i none Code.partState 0 0 t) ∧
      ∀ d P, slotPart s i.slotArg = some (d, P) →
        (unloadCode s d P i ≠ 0 → Ends s i (some d) (unloadCode s d P i) 0 0 t) ∧
        (unloadCode s d P i = 0 → boundaries P = 0 → partOf s d = some P → ∃ u Q, Ends u { i with part := d } (some d) Code.ok 0 0 t ∧
          u = { s with parts := u.parts } ∧ partOf u d = some Q ∧ (∀ e, e ≠ d → partOf u e = partOf s e) ∧
          (unloadPair i = true → Q = { P with pairs := Q.pairs } ∧ ∀ k, Q.pairs.find? k = if k = unloadKey i then none else P.pairs.find? k) ∧
          (unloadPair i = false → Q = { P with adpts := Q.adpts } ∧ ∀ k, Q.adpts.find? k = if k = unloadKey i then none else P.adpts.find? k)) ∧
        (unloadCode s d P i = 0 → boundaries P ≠ 0 → statusOf t i = some { state := 2, tag := i.tag })) ∧
    (Due s 3 0x12 i → ∃ t, exec .ctxRebind s = .next t ∧
      (ctxOwner s (i.arg 0 % 2 ^ 14) = none → Ends s i none Code.ctxState 0 0 t) ∧
      ∀ p d P, ctxOwner s (i.arg 0 % 2 ^ 14) = some (p, d, P) → ∃ v, t = ctxIdle v d ∧
        (ctxOf s (i.arg 0 % 2 ^ 14) = none → Ends s i (some d) Code.ctxState 0 0 v) ∧
        ∀ x, ctxOf s (i.arg 0 % 2 ^ 14) = some x → ∀ c, c = bindChecks s p P (bindArgs i) (boundaries P) →
          (c ≠ 0 → Ends s i (some d) c 0 0 v) ∧
          (c = 0 → pinsAttached P (bindArgs i) = true → Ends s i (some d) Code.genPinned 0 0 v) ∧
          (c = 0 → pinsAttached P (bindArgs i) = false → boundaries P = 0 → ∃ u y, Ends u { i with part := d } (some d) Code.ok 0 0 v ∧
            u = { s with parts := u.parts, ctxs := u.ctxs } ∧ ctxOf u (i.arg 0 % 2 ^ 14) = some y ∧ y.bind = bindArgs i ∧
            (x.st ≠ .unfit → y = { x with bind := bindArgs i } ∧ u.parts = s.parts) ∧ (x.st = .unfit → y.st = .ready) ∧
            ∀ k, k ≠ i.arg 0 % 2 ^ 14 → ctxOf u k = ctxOf s k))

/-- TBL_DEFINE, TBL_DROP and POOL_DEF: refused with the code of the first check that fails; where the partition is in no step the table
is defined, or is gone with its redirections, or the pool is the one its descriptor gives, at once (R174, R178).
TROW_PUT, TROW_FLIP and the copies they make: a row is staged in the slot it is staged in already or in the lowest free one; once
every PUT before it has ended, the end of its copy puts its bytes into the slot, or undoes the staging with XFER_FAIL, and the PUTs behind
it whose copies have ended end too; a flip takes every staged row of the table, commits once none of them is being copied, and is one at a
time in a table; a fold-back that no update keeps waiting writes the row home and retires its entry, or poisons the home (R187, R188,
R190). -/
def Obligations.TraitCommands : Prop :=
  (∀ (s : State) (i : Inst),
     (Due s 4 0x10 i → ∃ t, exec .tblDefine s = .next t ∧ (slotPart s i.slotArg = none → Ends s i none Code.partState 0 0 t) ∧
       ∀ d P, slotPart s i.slotArg = some (d, P) → ∀ bs w, bs = argBytes s i 1 64 → w = bytesWords bs →
         (tblCode s d P bs ≠ 0 → Ends s i (some d) (tblCode s d P bs) 0 0 t) ∧
         (tblCode s d P bs = 0 → boundaries P = 0 → partOf s d = some P → ∃ u Q, Ends u i (some d) Code.ok 0 0 t ∧
           u = { s with parts := u.parts, tm := { s.tm with objs := u.tm.objs } } ∧ partOf u d = some Q ∧
           Q = { P with traits := { P.traits with tbls := P.traits.tbls.put (tblTid w) { desc := w, gen := wfld (w.getD 6 0) 63 48, wait := 0 } } } ∧
           ∀ e, e ≠ d → partOf u e = partOf s e) ∧
         (tblCode s d P bs = 0 → boundaries P ≠ 0 → statusOf t i = some { state := 2, tag := i.tag })) ∧
     (Due s 4 0x11 i → ∃ t, exec .tblDrop s = .next t ∧ (slotPart s i.slotArg = none → Ends s i none Code.partState 0 0 t) ∧
       ∀ d P, slotPart s i.slotArg = some (d, P) →
         (P.traits.tbls.find? i.tidArg = none → Ends s i (some d) Code.adapterAbsent 0 0 t) ∧
         ((P.traits.tbls.find? i.tidArg).isSome → ∀ b, b = (poolNames P i.tidArg || P.traits.puts.any (fun u => u.tid == i.tidArg) ||
             P.traits.redirs.any (fun r => r.tid == i.tidArg && decide (r.st < 2))) →
           (b = true → Ends s i (some d) Code.objBusy 0 0 t) ∧
           (b = false → boundaries P = 0 → partOf s d = some P → ∃ u Q, Ends u { i with part := d } (some d) Code.ok 0 0 t ∧
             u = { s with parts := u.parts } ∧ partOf u d = some Q ∧ Q = { P with traits := Q.traits } ∧
             Q.traits = { P.traits with
               tbls := Q.traits.tbls
               redirs := P.traits.redirs.filter (fun r => r.tid != i.tidArg)
               flips := P.traits.flips.filter (fun f => f.tid != i.tidArg) } ∧
             (∀ k, Q.traits.tbls.find? k = if k = i.tidArg then none else P.traits.tbls.find? k) ∧ ∀ e, e ≠ d → partOf u e = partOf s e))) ∧
     (Due s 4 0x12 i → ∃ t, exec .poolDef s = .next t ∧ (slotPart s i.slotArg = none → Ends s i none Code.partState 0 0 t) ∧
       ∀ d P, slotPart s i.slotArg = some (d, P) → ∀ bs w, bs = argBytes s i 1 160 → w = bytesWords bs →
         (poolCode s d P bs ≠ 0 → Ends s i (some d) (poolCode s d P bs) 0 0 t) ∧
         (poolCode s d P bs = 0 → boundaries P = 0 → partOf s d = some P → ∃ u Q, Ends u { i with part := d, aux := psidOf w } (some d) Code.ok 0 0 t ∧
           u = { s with parts := u.parts } ∧ partOf u d = some Q ∧ Q = { P with traits := { P.traits with pools := Q.traits.pools } } ∧
           (∀ k, Q.traits.pools.find? k = if k = psidOf w then some { cur := some w } else P.traits.pools.find? k) ∧
           ∀ e, e ≠ d → partOf u e = partOf s e) ∧
         (poolCode s d P bs = 0 → boundaries P ≠ 0 → statusOf t i = some { state := 2, tag := i.tag }))) ∧
  (∀ (s : State) (i : Inst),
     (Due s 4 0x20 i → ∃ t, exec .trowPut s = .next t ∧ (slotPart s i.slotArg = none → Ends s i none Code.partState 0 0 t) ∧
       ∀ d P, slotPart s i.slotArg = some (d, P) →
         (P.traits.tbls.find? i.tidArg = none → Ends s i (some d) Code.adapterAbsent 0 0 t) ∧
         ∀ b staged, P.traits.tbls.find? i.tidArg = some b →
           staged = P.traits.redirs.find? (fun r => r.tid == i.tidArg && r.q == i.pqArg && r.row == i.arg 1 && r.st == 0) →
           ∀ fits, fits = (objOf s d (shadowArea s d P).1).any (fun o => decide (shadowStride P ≤ o.bytes)) →
           (fits = false ∨ tblRows b.desc i.pqArg ≤ i.arg 1 ∨ (i.pqArg = true ∧ tblComp b.desc < 2) → Ends s i (some d) Code.limitRange 0 0 t) ∧
           (fits = true → i.arg 1 < tblRows b.desc i.pqArg → i.pqArg = false ∨ 2 ≤ tblComp b.desc →
             (staged = none → freeShadow s d P = none → Ends s i (some d) Code.shadowFull 0 0 t) ∧
             ∀ slot, (∀ r, staged = some r → slot = r.slot) → (staged = none → freeShadow s d P = some slot) → partOf s d = some P →
               ∀ u, u = ({ path := i.path, cseq := i.cseq, tid := i.tidArg, q := i.pqArg, row := i.arg 1, slot := slot,
                           src := i.arg 2 % 2 ^ 52, opt := bitOf (i.arg 0) 15, flip := false } : Put) →
               ∃ v Q, t = setInst (bumpD v Cnt.traitPut d 1) { i with st := .checking, part := d } ∧ v = { s with parts := v.parts } ∧
                 partOf v d = some Q ∧ Q = { P with traits := { P.traits with puts := P.traits.puts ++ [u], redirs := Q.traits.redirs } } ∧
                 (staged = none → Q.traits.redirs = P.traits.redirs ++
                   [{ tid := u.tid, q := u.q, row := u.row, slot := slot, st := 0, opt := u.opt, copying := 1 }]) ∧
                 (∀ r, staged = some r → Q.traits.redirs =
                   P.traits.redirs.map (fun x => if x == r then { x with copying := x.copying + 1, opt := u.opt } else x)) ∧
                 ∀ e, e ≠ d → partOf v e = partOf s e)) ∧
     (∀ r, held s = false → instAt s 4 0x20 r = some i → ∀ d P, d = i.part → partOf s d = some P →
       (i.st ≠ .checking → ∀ ok, exec (.trowPutCopyEnd r ok) s = .next s) ∧
       (i.st = .checking → ∀ ok ack, ack = (fun u : Put => if u.path == i.path && u.cseq == i.cseq then { u with acked := some ok } else u) →
         ∀ s1 P1, s1 = updTraits s d (fun t => { t with puts := t.puts.map ack }) → P1 = { P with traits := { P.traits with puts := P.traits.puts.map ack } } →
         ∃ v, exec (.trowPutCopyEnd r ok) s = .next (flipsIdle v d) ∧
         (∀ u rest, P.traits.puts = u :: rest → (u.path ≠ i.path ∨ u.cseq ≠ i.cseq) → u.acked = none → v = s1) ∧
         (∀ u rest, P.traits.puts = u :: rest → u.path = i.path → u.cseq = i.cseq → instAt s 4 0x20 { path := i.path, cseq := i.cseq } = some i →
           ∃ w, v = putsDrain rest.length w d ∧
           ∀ mine, mine = (fun x : Redir => x.tid == u.tid && x.q == u.q && x.row == u.row && decide (x.st < 2) && x.slot == u.slot) →
             (ok = false → Ends (flipsCommit (updTraits s1 d (fun t => { t with
               puts := t.puts.filter (fun x => x != ack u), redirs := t.redirs.filter (fun x => !mine x) })) d) i (some d) Code.xferFail 0 0 w) ∧
             (ok = true → ∀ b, P.traits.tbls.find? u.tid = some b → Ends (flipsCommit (updTraits
                 (objWrite s1 d (shadowArea s1 d P1).1 (u.slot * shadowStride P1) (putBytes s1 b (ack u))) d (fun t => { t with
               puts := t.puts.filter (fun x => x != ack u)
               redirs := t.redirs.map (fun x => if mine x then { x with copying := x.copying - 1 } else x) })) d) i (some d) Code.ok (w64 u.slot) 0 w)))) ∧
     (Due s 4 0x21 i → ∃ t, exec .trowFlip s = .next t ∧ (slotPart s i.slotArg = none → Ends s i none Code.partState 0 0 t) ∧
       ∀ d P, slotPart s i.slotArg = some (d, P) →
         (P.traits.tbls.find? i.tidArg = none → Ends s i (some d) Code.adapterAbsent 0 0 t) ∧
         ((P.traits.tbls.find? i.tidArg).isSome → P.traits.flips.any (fun f => f.tid == i.tidArg) = true → Ends s i (some d) Code.adapterBusy 0 0 t) ∧
         ((P.traits.tbls.find? i.tidArg).isSome → P.traits.flips.any (fun f => f.tid == i.tidArg) = false →
           t = flipsIdle (flipsCommit (setInst (updTraits s d (fun t => { t with
             puts := t.puts.map (fun u => if u.tid = i.tidArg then { u with flip := true } else u)
             redirs := t.redirs.map (fun r => if r.tid = i.tidArg && r.st = 0 then { r with st := 1 } else r)
             flips := t.flips ++ [{ tid := i.tidArg, path := i.path, cseq := i.cseq, committed := false, wait := 0 }] }))
             { i with st := .checking, part := d }) d) d)) ∧
     (∀ d tid row, held s = false →
       (∀ P, partOf s d = some P → P.traits.redirs.find? (fun r => r.tid == tid && r.row == row && r.st == 2 && r.upto.isNone) = none ∨ P.traits.tbls.find? tid = none →
         ∀ ok, exec (.foldBackEnd d tid row ok) s = .next s) ∧
       (∀ P r b x, partOf s d = some P → P.traits.redirs.find? (fun r => r.tid == tid && r.row == row && r.st == 2 && r.upto.isNone) = some r →
         P.traits.tbls.find? tid = some b → x = xKey d (tblHandle b.desc r.q) row →
         (foldWaits P r = true → ∀ ok, exec (.foldBackEnd d tid row ok) s = .next s) ∧
         (foldWaits P r = false → exec (.foldBackEnd d tid row false) s = .next (poisonExtent s x) ∧
           (homeCode s x ≠ 3 → exec (.foldBackEnd d tid row true) s = .next (updTraits
             (objWriteQ s 2 d (tblHandle b.desc r.q) (row * tblStride b.desc) (rowBytes s d P r.since tid r.q row)) d
             (fun t => { t with redirs := t.redirs.map (fun k => if k == r then { k with st := 3, thaws := false } else k) })))))))

/-! ## Training -/

/-- What an item's pass 2 may end, beside itself: a quiesce that waits for the partition, and the wait of a step for the last update. -/
def itemSettled (P : Part) (v : State) (d : Nat) : State :=
  if !P.train.lists.isEmpty && (partOf (quiesceSettle v d) d).any (fun Q => Q.train.lists.isEmpty) then idleTry (quiesceSettle v d) d
  else quiesceSettle v d

/-- TRAIN_ATTACH, TRAIN_DETACH, TRAIN_SWEEP, TRAIN_DISCARD and EXPORT_SNAP: refused with the code of the first check that fails; an
attachment takes the lowest free number, which is the command's result; a detach waits for the last update of its attachment; a sweep
without a list left to run ends at once, and else takes the sealed lists; a discard gives up lists, Pen and gradients, carries what its lists'
last flips left unwritten, and counts the lists that were not sealed; a snapshot is taken at a boundary (R192 to R194, R219, R221).
The events of an update: the weight-gradient phase of the first target of a slot whose last window has merged, of a step that has
ended before that of the step in progress; pass 1 of a group of a complete list that none has decided, which waits for the Pen to have
taken every final gradient, keeps the group's norm and step and counts a skip or a clip; pass 2, in its partition's turn, of the next
item of a decided group whose bytes are there, which updates its tensor or row, marks it done, or dropped where its thaw or its read
failed for good, and gives its Pen entry back (R200, R206, R207, R211, R215, R217). -/
def Obligations.Training : Prop :=
  (∀ (s : State) (i : Inst),
     (Due s 5 0x10 i → ∃ t, exec .trainAttach s = .next t ∧ (slotPart s i.slotArg = none → Ends s i none Code.partState 0 0 t) ∧
       ∀ d P, slotPart s i.slotArg = some (d, P) → ∀ bs w c n, bs = argBytes s i 1 64 → w = bytesWords bs → c = attachCode s d i.slotArg P w bs →
         n = Tab.freeFrom P.train.atts 0 →
         (c ≠ 0 → Ends s i (some d) c 0 0 t) ∧
         (c = 0 → ∀ u, u = updTrain s d (fun T => { T with atts := T.atts.put n { desc := w, wait := 1 } }) →
           (boundaries P = 0 → Ends (attachTake u d n) { i with part := d, aux := n } (some d) Code.ok (w64 n) 0 t) ∧
           (boundaries P ≠ 0 → t = setInst u { i with st := .pending, wait := 1, part := d, aux := n }) ∧
           (attInit w = false → partOf s d = some P → ∃ Q, partOf (attachTake u d n) d = some Q ∧
             Q = { P with train := { P.train with atts := Q.train.atts } } ∧
             ∀ k, Q.train.atts.find? k = if k = n then some { desc := w, wait := 0 } else P.train.atts.find? k))) ∧
     (Due s 5 0x11 i → ∃ t, exec .trainDetach s = .next t ∧ (slotPart s i.slotArg = none → Ends s i none Code.partState 0 0 t) ∧
       ∀ d P, slotPart s i.slotArg = some (d, P) → ∀ n, n = fld (i.arg 0) 19 8 →
         (P.train.atts.find? n = none → Ends s i (some d) Code.adapterAbsent 0 0 t) ∧
         ∀ a, P.train.atts.find? n = some a →
           (a.detach.isSome → Ends s i (some d) Code.adapterBusy 0 0 t) ∧
           (a.detach = none → ∀ u, u = setInst (updTrain s d (fun T => { T with
               atts := T.atts.put n { a with detach := some { path := i.path, cseq := i.cseq } } })) { i with st := .pending, part := d, wait := 0, aux := n } →
             t = if boundaries P = 0 then detachesDue u d else u)) ∧
     (Due s 5 0x12 i → ∃ t, exec .trainSweep s = .next t ∧ (slotPart s i.slotArg = none → Ends s i none Code.partState 0 0 t) ∧
       ∀ d P, slotPart s i.slotArg = some (d, P) →
         (cfgTrain s = false → Ends s i (some d) Code.optionAbsent 0 0 t) ∧
         (cfgTrain s = true → P.train.sweepInst.isSome → t = s) ∧
         (cfgTrain s = true → P.train.sweepInst = none → i.arg 1 ≠ 0 →
           readList P s.mem (1048576 + 64) (memKey 0 (i.arg 1 % 2 ^ 52)) [] 0 = none → Ends s i (some d) Code.imageBad 0 0 t) ∧
         (cfgTrain s = true → P.train.sweepInst = none → i.arg 1 = 0 →
           ∀ ls, ls = ((P.train.lists.filter (fun l => l.isSealed && !l.ended)).map (fun l => { l with sweep := true })).filter (fun l => !listOver l) →
           (ls = [] → Ends s i (some d) Code.ok 0 0 t) ∧
           (ls ≠ [] → t = setInst (updTrain s d (fun T => { T with
             lists := T.lists.filter (fun l => !l.isSealed) ++ ls, sweepInst := some { path := i.path, cseq := i.cseq } }))
             { i with st := .checking, part := d, aux := 0 }))) ∧
     (Due s 5 0x13 i → ∃ t, exec .trainDiscard s = .next t ∧ (slotPart s i.slotArg = none → Ends s i none Code.partState 0 0 t) ∧
       ∀ d P, slotPart s i.slotArg = some (d, P) →
         (cfgTrain s = false → Ends s i (some d) Code.optionAbsent 0 0 t) ∧
         (cfgTrain s = true → ∀ v, v = listsAbandon (forEach (P.train.lists.filter (·.isSealed)) (pensGone s d P) (fun s l => listDropped s d l)) d →
           ∃ u, Ends u i (some d) Code.ok 0 0 t ∧
             u = updTrain v d (fun T => { T with lists := [], pen := [], penFull := false, grads := [], accs := [], save := [], stash := [] }) ∧
             ∀ Q, partOf u d = some Q → Q.train.lists = [] ∧ Q.train.pen = [] ∧ Q.train.penFull = false ∧ Q.train.grads = [])) ∧
     (Due s 5 0x14 i → ∃ t, exec .exportSnap s = .next t ∧
       SlotCommand s i (fun _ _ => if cfgTrain s then 0 else Code.optionAbsent) (fun d P => atBoundary s { i with part := d } d P applyExportSnap) t)) ∧
  (∀ (s : State) (p : Nat), held s = false →
     (slotPart s p = none → (∀ x, exec (.weightGradientPhase p x) s = .next s) ∧ (∀ g, exec (.updatePass1 p g) s = .next s) ∧ exec (.updateItem p) s = .next s) ∧
     ∀ d P, slotPart s p = some (d, P) →
       (P.st ≠ .running → ∀ x, exec (.weightGradientPhase p x) s = .next s) ∧
       (P.st ≠ .running ∨ passTurn s p = false → exec (.updateItem p) s = .next (itemSettled P s d)) ∧
       (P.st = .running → ∀ x pick, pick = (fun V : Part => V.train.phases.find? (fun y => y.2 == 0 && y.1 % 16 == x)) →
         (∀ V y, lateView P = some V → pick V = some y → exec (.weightGradientPhase p x) s = .next (phaseOne s d V y true)) ∧
         ((∀ V, lateView P = some V → pick V = none) →
           (∀ y, pick P = some y → exec (.weightGradientPhase p x) s = .next (phaseOne s d P y false)) ∧
           (pick P = none → exec (.weightGradientPhase p x) s = .next s))) ∧
       (∀ g waits, waits = P.train.lists.find? (fun l => l.complete && !l.sweep && l.items.any (fun it => it.group == g) && !l.groups.any (fun r => r.group == g)) →
         (waits = none → exec (.updatePass1 p g) s = .next s) ∧
         ∀ l, waits = some l → ∀ full, full = (l.items.filter (fun it => it.group == g)).any (fun it => wantsPen s P d l.step it && !it.pen) →
           (full = true → exec (.updatePass1 p g) s = .next s) ∧
           (full = false → ∀ r u, r = groupDecide s d P.train l g →
             u = bumpCensus (updTrain s d (fun T => setList { T with norms := T.norms.set 0 g r.norm, groupStep := T.groupStep.set 0 g r.t } { l with groups := l.groups ++ [r] })) d
               (groupNorm P.train l g).2 →
             (r.act = 2 → exec (.updatePass1 p g) s = .next (listSeal (post (bumpD u Cnt.trainSkip d 1) Ev.trainSkip (some d) 0 g r.norm) d l.step)) ∧
             (r.act = 1 → exec (.updatePass1 p g) s = .next (listSeal (bumpD u Cnt.trainClip d 1) d l.step)) ∧
             (r.act = 0 → exec (.updatePass1 p g) s = .next (listSeal u d l.step)))) ∧
       (P.st = .running → passTurn s p = true → (nextItem s d P = none → exec (.updateItem p) s = .next (itemSettled P s d)) ∧
         ∀ l it r a, nextItem s d P = some (l, it, r) → P.train.atts.find? it.att = some a →
           ∀ lost skip failed : Bool, lost = thawLost s P d it → skip = sweepDone s d P a l it →
             failed = (!lost && !skip && !it.trait && !tensorReadable s d P a l it) →
           ∀ w u x v l', w = (if it.trait then updateRow s d P a l it r else updateTensor s d P a l it r) →
             u = (if lost then itemLost s d l it else if skip then s else if failed then tensorDropped (bumpArr s Cnt.tierFail d 4 0 1) d P a l it
               else if r.act = 2 then w else bumpD w (if l.sweep then Cnt.sweepItems else Cnt.trainItems) d 1) →
             x = penLeave u P d l it lost →
             l' = { l with
               items := l.items.map (fun x => if x == it then { it with done := !(lost || failed), dropped := lost || failed } else x)
               census := if lost || skip then l.census else l.census.set 0 sweptKey (l.census.getD sweptKey 0 + 1) } →
             v = updTrain { x with rel := { x.rel with trained := p } } d (fun T => setList T l') →
             exec (.updateItem p) s = .next (itemSettled P (if listOver l' then listOverEnd v d l' else v) d)))

/-! ## Contexts -/

/-- The Request Ring: an entry is read where the partition is RUNNING and its OP is the row's (a reserved OP is read with NEW_REQ, and
refused); it is checked in the order of Table CTX-4, TAIL moves on, a refusal says which entry, a new request takes the lowest FREE
context, READY with its binding, and a request for an existing context acts at once or waits for the boundary; a request read while a step
is in progress stands in the waiting requests, which the replay record takes (R224 to R228).
MAN_SUBMIT: refused where the partition is not RUNNING with SERVE_HOST, for a step that is not the next one or has a manifest
already, for words that are no manifest of that step, and with the code of the first check of Table CTX-10 that fails; an accepted
manifest is kept for the step and prepared where no step is in progress or the one in progress is frozen (R229, R232). -/
def Obligations.ContextRequests : Prop :=
  (∀ (s : State) (p : Nat), held s = false →
     (ringNext s p = none → ∀ x ∈ [Instr.newReq p, .append p, .pause p, .cancel p], exec x s = .next s) ∧
     ∀ d P idx w, ringNext s p = some (d, P, idx, w) →
       (P.st = .running ∧ P.rqTail = idx ∧ slotPart s p = some (d, P)) ∧
       ∀ op, op = reqOp w →
       (∀ x ∈ [(1, Instr.newReq p), (2, .append p), (3, .pause p), (4, .cancel p)], (x.1 ≠ op → 1 ≤ op → op ≤ 4 → exec x.2 s = .next s) ∧
         (x.1 = op ∨ (x.1 = 1 ∧ (op = 0 ∨ 5 ≤ op)) → ∃ t, exec x.2 s = .next t ∧ ∀ code u, code = reqCheck s p d P w →
           u = updPart s d (fun P => { P with rqTail := (idx + 1) % max (lastVal s 6 0x21 p).toNat 1 }) →
           (code ≠ 0 → t = reqRefuse u d code idx w) ∧
           (code = 0 → op ≠ 1 → P.inStep = false → t = ctxIdle (ctxTimers (applyRequest u d op (reqCtx w) w) d (reqCtx w) (nowNs u)) d) ∧
           (code = 0 → op ≠ 1 → P.inStep = true → t = updPart { u with order := s.order + 1 } d (fun P => { P with
             rqWait := P.rqWait ++ [{ order := s.order, idx := idx, op := op, ctx := reqCtx w, words := w, wait := boundaries P }] })) ∧
           (code = 0 → op = 1 → ∀ c, freeCtxNo u d = some c → ∃ v x, (P.inStep = false → t = ctxIdle v d) ∧
             (P.inStep = true → t = updPart { v with order := v.order + 1 } d (fun P => { P with
               rqWait := P.rqWait ++ [{ order := v.order, idx := idx, op := op, ctx := c, words := w, wait := boundaries P }] })) ∧ ctxOf v c = some x ∧ (∀ k, k ≠ c → ctxOf v k = ctxOf s k) ∧
             x.st = .ready ∧ x.part = d ∧ x.pos = 0 ∧ x.pend = attWord w 3 63 40 ∧ x.cls = attWord w 0 45 43 ∧ x.rtag = w.getD 1 0 ∧
             x.deadline = w.getD 2 0 ∧ x.nbag = attWord w 3 39 31 ∧ x.bind = reqBind w ∧ x.arrseq = P.arrseq))) ∧
       (0 = op ∨ 5 ≤ op → reqCheck s p d P w = Code.imageBad)) ∧
  (∀ (s : State) (i : Inst), Due s 6 0x51 i → ∃ t, exec .manSubmit s = .next t ∧
     (slotPart s i.slotArg = none → Ends s i none Code.partState 0 0 t) ∧
     ∀ d P step, slotPart s i.slotArg = some (d, P) → step = i.arg 1 % 2 ^ 40 →
       (P.st ≠ .running ∨ P.modes.serveHost = false → Ends s i (some d) Code.partState 0 0 t) ∧
       (P.st = .running → P.modes.serveHost = true →
         (step ≠ buildStep P ∨ P.hostNext.isSome → Ends s i (some d) Code.manBad 0 0 t) ∧
         (step = buildStep P → P.hostNext = none →
           (manRead s d (valP s 6 0x50 i.slotArg d) (manHalf step) step = none → Ends s i (some d) Code.manBad 0 0 t) ∧
           ∀ m0 code m, manRead s d (valP s 6 0x50 i.slotArg d) (manHalf step) step = some m0 → manCheck s i.slotArg d P m0 = (code, m) →
             (code ≠ 0 → Ends s i (some d) code 0 0 t) ∧
             (code = 0 → ∃ u, Ends (updPart s d (fun P => { P with hostNext := some m })) i (some d) Code.ok 0 0 u ∧
               (P.inStep = true → P.frozen = false → t = u) ∧
               (P.inStep = false ∨ P.frozen = true → t = idleTry (manPrep u i.slotArg d m) d)))))

/-- The events of a context: a pause that has lasted 6.0040 makes it an Ember where EMBER is on, at once outside a step; an Ember whose
time has come is freed outside a step; the end of the copy of a page or of an adopted slot puts the bytes in their new place, and outside
a step what waited for them goes on (R242, R243, R245). -/
def Obligations.ContextEvents : Prop :=
  ∀ (s : State) (d c : Nat) (x : Ctx) (P : Part), held s = false → ctxOf s c = some x → x.part = d → partOf s d = some P →
    (x.st ≠ .paused ∨ P.st ≠ .running ∨ P.modes.ember = false ∨ emberTime s d x (nowNs s) = false → exec (.emberAfter d c) s = .next s) ∧
    (x.st = .paused → P.st = .running → P.modes.ember = true → emberTime s d x (nowNs s) = true →
      ∀ u, u = updCtx s c (fun x => { x with emberDue := true }) →
      (P.inStep = true → exec (.emberAfter d c) s = .next u) ∧
      (P.inStep = false → exec (.emberAfter d c) s = .next (ctxIdle (ctxTimers u d c (nowNs s)) d))) ∧
    (P.st ≠ .running ∨ P.inStep = true → exec (.emberExpiry d c) s = .next s) ∧
    (P.st = .running → P.inStep = false → exec (.emberExpiry d c) s = .next (ctxIdle (ctxTimers s d c (nowNs s)) d)) ∧
    (∀ page, (x.copies.find? (fun q => q.page == page && !q.copied) = none → exec (.emberPageCopyEnd c page) s = .next s) ∧
      ∀ q w m u, x.copies.find? (fun q => q.page == page && !q.copied) = some q → w = pageWord s x page →
        m = storeBytes s.mem (memKey q.tier (framePlace s d q.tier q.frame).2) (bytesAt s.mem (memKey (fld w 62 61) (64 * fld w 45 0)) (pageBytes s d)) →
        u = updAway { s with mem := m } d c
            (fun x => { x with copies := x.copies.map (fun v => if v.page = page then { v with copied := true } else v) }) →
        (P.st = .running → P.inStep = false → exec (.emberPageCopyEnd c page) s = .next (ctxIdle (ctxTimers u d c (nowNs s)) d)) ∧
        (P.st ≠ .running ∨ P.inStep = true → exec (.emberPageCopyEnd c page) s = .next u)) ∧
    (∀ pos, (x.adopts.find? (fun a => a.pos == pos && !a.copied) = none → exec (.adoptionCopyEnd c pos) s = .next s) ∧
      ∀ a u, x.adopts.find? (fun a => a.pos == pos && !a.copied) = some a →
        u = updAway { s with mem := storeBytes s.mem (slotKey s d pos x) (bytesAt s.mem (memKey 0 (framePlace s d 2 a.pslot).2) (kvSlotBytes s d)) } d c
            (fun x => { x with adopts := x.adopts.map (fun v => if v.pos = pos then { v with copied := true } else v) }) →
        (P.st = .running → P.inStep = false → exec (.adoptionCopyEnd c pos) s = .next (ctxIdle (ctxTimers (adoptsFree u d c) d c (nowNs s)) d)) ∧
        (P.st ≠ .running ∨ P.inStep = true → exec (.adoptionCopyEnd c pos) s = .next u))

/-- The Page Port: a lookup answers one word and changes nothing else, and an invalid answer is 0 and counts; the word names the slot
of the position in its provisional slot where it was adopted, or in its page, the slot of a node of the open tree, the directory entry
with OVL where a slot of the page is adopted, or the Verify Mask of a node (R241, R245, R246). -/
def Obligations.PageLookups : Prop :=
  ∀ (s : State) (w : W64), held s = false →
    (∀ x ∈ [(0, Instr.slotLookup w, lookupSlot), (1, .nodeLookup w, lookupNode), (2, .pageLookup w, lookupPage), (3, .maskLookup w, lookupMask)],
      (ready s = false ∨ wfld w 63 61 ≠ x.1 → exec x.2.1 s = .next s) ∧
      (ready s = true → wfld w 63 61 = x.1 → ∀ u, u = { s with out := { s.out with pgp := w64 (x.2.2 s w) } } →
        (x.2.2 s w ≠ 0 → exec x.2.1 s = .next u) ∧
        (x.2.2 s w = 0 → (slotPart s (wfld w 60 58) = none → exec x.2.1 s = .next u) ∧
          ∀ d P, slotPart s (wfld w 60 58) = some (d, P) → exec x.2.1 s = .next (bumpD u Cnt.pgpInvalid d 1)))) ∧
    (lookupCtx s w = none → lookupSlot s w = 0 ∧ lookupNode s w = 0 ∧ lookupPage s w = 0 ∧ lookupMask s w = 0) ∧
    ∀ d c x n, lookupCtx s w = some (d, c, x) → n = wfld w 43 0 → 0 < pageTokens s d →
      (∀ a, x.adopts.find? (fun a => a.pos == n) = some a → lookupSlot s w = provWord s d a.pslot) ∧
      (x.adopts.find? (fun a => a.pos == n) = none → ∀ e, e = pageWord s x (n / pageTokens s d) →
        lookupSlot s w = if bitOf e 63 then lookupWord (fld e 62 61) (fld e 60 57) (64 * fld e 45 0 + n % pageTokens s d * kvSlotBytes s d) else 0) ∧
      (∀ f, x.tree.find? n = some f → lookupNode s w = provWord s d f ∧ lookupMask s w = verifyMask (ctxTpl s d c) n) ∧
      (x.tree.find? n = none → lookupNode s w = 0 ∧ lookupMask s w = 0) ∧
      (∀ e, e = pageWord s x n → lookupPage s w = if bitOf e 63 then
        (if x.adopts.any (fun a => a.pos / pageTokens s d == n) then e ||| 2 ^ 56 else e) else 0)

/-! ## The window path -/

/-- A stream record of kind 1, 2 or 3: nothing for another kind; dropped where its partition is in no step, or in another step, or where
it comes too late in its order; counted where its partition is QUIESCED; else it is taken, and the freeze point and what can go on follow
it (R10, R87, R88, R263, R357). -/
def Obligations.StreamRecords : Prop :=
  ∀ (s : State) (w0 w1 : W64) (payload : List (BitVec 2048)), held s = false → ∀ d k, d = recPart w1 → k = recKey w0 w1 →
    ∀ x ∈ [(1, Instr.panelRecord w0 w1 payload, payload.length - recRows w1, panelEarly, panelTake (recRows w1) payload),
           (2, .posRecord w0 w1, 0, posEarly, fun s _ d _ k => reached s d k),
           (3, .outcomeRecord w0 w1 payload, payload.length - outcomeBeats payload, fun _ _ => false, outcomeTake (payload.take (outcomeBeats payload)))],
      (recKind w1 ≠ x.1 → exec x.2.1 s = .next s) ∧
      (recKind w1 = x.1 → (partOf s d = none → exec x.2.1 s = .next s) ∧
        ∀ P, partOf s d = some P →
          (∀ p, P.slot = some p → P.st = .running → ∀ u, u = ppSeq s d x.2.2.1 →
            (P.man = none ∨ P.inStep = false ∨ k.step ≠ P.step ∨ x.2.2.2.1 P k = true → exec x.2.1 s = .next (recordDrop u d k)) ∧
            (∀ m, P.man = some m → P.inStep = true → k.step = P.step → x.2.2.2.1 P k = false →
              exec x.2.1 s = .next (recordEnd (x.2.2.2.2 (markOverdue u p d m k) p d m k) p d k))) ∧
          (P.st = .quiesced → exec x.2.1 s = .next (ppSeq s d (1 + x.2.2.1))) ∧
          (P.st ≠ .running → P.st ≠ .quiesced → exec x.2.1 s = .next s))

/-- An epilogue request: nothing where no RUNNING partition is resident in its slot; an answer at once for a position that its pass does
not have, for a window past the last, for one that was dropped and for one that is answered; a merged window is answered; a window that
misses panels has them made good; a window whose target has spent its ceiling goes on without the rows that miss data; and a window that is
not merged in time starts an epilogue hold (R93 to R95, R99, R100). -/
def Obligations.EpilogueRequests : Prop :=
  ∀ (s : State) (e p : Nat), held s = false → p = fld e 25 23 →
    (slotPart s p = none → exec (.epilogueRequest e) s = .next s) ∧
    ∀ d P, slotPart s p = some (d, P) →
      (P.st ≠ .running → exec (.epilogueRequest e) s = .next s) ∧
      (P.st = .running → ∀ k, k = ({ step := P.step, bwd := fld e 22 22 == 1, layer := fld e 21 14, tslot := fld e 13 10, win := fld e 9 0, tick := 0 } : PosKey) →
        (P.inStep = false ∨ P.man = none ∨ passTgt P k = none → exec (.epilogueRequest e) s = .next (answer s p k)) ∧
        ∀ m t, P.inStep = true → P.man = some m → passTgt P k = some t →
          (manWins m ≤ k.win → exec (.epilogueRequest e) s = .next (answer s p k)) ∧
          (k.win < manWins m →
            (∀ f, winOf P k = none → P.stream.far = some f → k.ord < (winKey f).ord → exec (.epilogueRequest e) s = .next (answer s p k)) ∧
            (winOf P k = none → (∀ f, P.stream.far = some f → (winKey f).ord ≤ k.ord) →
              exec (.epilogueRequest e) s = .next (request (missingPanel (ppSeq s d 1) p d k) p d k)) ∧
            ∀ w, winOf P k = some w →
              (w.answered = true → exec (.epilogueRequest e) s = .next (answer s p k)) ∧
              (w.answered = false → w.requested = true → exec (.epilogueRequest e) s = .next s) ∧
              (w.answered = false → w.requested = false → w.dead = some 4 → exec (.epilogueRequest e) s = .next (request s p d k)) ∧
              (w.answered = false → w.requested = false → w.dead ≠ some 4 → w.seen < panelsOf t →
                exec (.epilogueRequest e) s = .next (request (missingPanel (ppSeq s d 1) p d k) p d k)) ∧
              (w.answered = false → w.requested = false → w.dead ≠ some 4 → panelsOf t ≤ w.seen → w.stage = .merged →
                exec (.epilogueRequest e) s = .next (request s p d k)) ∧
              ∀ past, past = (P.stream.ceilTgt.contains (k.bwd, k.layer, k.tslot) && decide (k.win ≠ 0) && !w.miss.isEmpty) →
              (w.answered = false → w.requested = false → w.dead ≠ some 4 → panelsOf t ≤ w.seen → w.stage ≠ .merged → past = true →
                exec (.epilogueRequest e) s = .next (request (bypassRest s d w) p d k)) ∧
              (w.answered = false → w.requested = false → w.dead ≠ some 4 → panelsOf t ≤ w.seen → w.stage ≠ .merged → past = false →
                ∀ u, u = winsSettle (setWin s d { w with requested := true }) p d →
                exec (.epilogueRequest e) s = .next (match (partOf u d).bind (fun P => winOf P k) with
                  | some v => if v.stage = .merged then settlePart u p d else settlePart (holdStart u d .epilogue k 2) p d
                  | none => settlePart u p d))))

/-- Kindling, weight blocks, the host's data and the hold ceiling: Kindling begins the next unit of a slot's partition; the dirty lines of
a unit go to their homes once; a weight block ends where its window can go on; the data of the oldest
read is kept for the row it was read for, and dropped where the row has lost its terms; the host accepts the chunk that Merge presents
first; a hold that has lasted as long as its ceiling spends it and counts (R99, R112 to R114, R117, R125, R359, R360). -/
def Obligations.WindowPath : Prop :=
  ∀ (s : State), held s = false →
    (∀ p, (slotPart s p = none → exec (.kindlingStart p) s = .next s ∧ (∀ x, exec (.dirtyWriteBack p x) s = .next s) ∧
        (∀ w u f, exec (.weightBlockEnd p w u f) s = .next s) ∧ exec (.holdCeiling p) s = .next s) ∧
      ∀ d P, slotPart s p = some (d, P) →
        exec (.kindlingStart p) s = .next (settlePart (kindleSettle (kindleNext (winsSettle s p d) p) d) p d) ∧
        (∀ x, (P.st ≠ .running → exec (.dirtyWriteBack p x) s = .next s) ∧
          (P.st = .running → partOf s d = some P →
            (P.units.find? (fun u => u.place == x) = none → exec (.dirtyWriteBack p x) s = .next s) ∧
            ∀ u, P.units.find? (fun u => u.place == x) = some u →
              (u.wb = true ∨ u.dirty = [] ∨ u.done = false → exec (.dirtyWriteBack p x) s = .next s) ∧
              (u.wb = false → u.dirty ≠ [] → u.done = true → exec (.dirtyWriteBack p x) s = .next (writeBack s d x)))) ∧
        (∀ w u f, (blockEnd s p w u f = none → exec (.weightBlockEnd p w u f) s = .next s) ∧
          ∀ v, blockEnd s p w u f = some (d, v) → exec (.weightBlockEnd p w u f) s = .next (settlePart (urgentBlock (winsSettle v p d) d) p d)) ∧
        (P.holds.find? holdFull = none → exec (.holdCeiling p) s = .next s) ∧
        (∀ h, P.holds.find? holdFull = some h →
          (h.kind = .kindle → exec (.holdCeiling p) s = .next (settlePart (kindleCeiling (holdSpent s d h) d { h with ceil := 0 }) p d)) ∧
          (∀ w, h.kind = .epilogue → winOf P h.key = some w → exec (.holdCeiling p) s = .next (settlePart (bypassRest (holdSpent s d h) d w) p d)) ∧
          (h.kind = .epilogue → winOf P h.key = none → exec (.holdCeiling p) s = .next (settlePart (holdSpent s d h) p d)))) ∧
    (∀ data, (s.xp.out = [] → exec (.xpReadData data) s = .next s) ∧
      ∀ r rest u, s.xp.out = r :: rest → u = { s with xp := { s.xp with out := rest } } → ∀ P, partOf u r.d = some P →
        (P.st ≠ .running → exec (.xpReadData data) s = .next (xpPump u)) ∧
        (P.st = .running → ∀ c, (winOf P r.key).bind (winShape P) = some c →
          (c.w.dead.isSome ∨ c.w.out.contains r.row = true → exec (.xpReadData data) s = .next (xpPump u)) ∧
          (c.w.dead = none → c.w.out.contains r.row = false → ∀ vs, vs = (List.range (min 512 ((if r.buf = 3 then c.tgt.din else c.tgt.dout) - 512 * r.chunk))).map
              (fun j => xpValue (valD u 8 0x31 r.d 0 == 1) r.buf (data.getD j 0).toNat) →
            ∀ i gs, i = 256 * c.w.key.win + r.row → gs = (if c.w.key.bwd then
                dedup (tgtGroups c.P.train c.w.key.step c.w.key.layer c.w.key.tslot none ++
                  (if c.P.modes.trainTrait && (poolTerm c.P (rowBind c.m i) c.w.key.layer c.w.key.tslot).isSome then bagGroups u r.d c.P c.m i else []))
              else []) →
            exec (.xpReadData data) s = .next (xpPump (gradCensus
              (setWin u r.d { c.w with chunks := c.w.chunks.put (chunkKey r.buf r.row r.chunk) (vs.map Prod.fst) }) r.d c.w.key.step gs
              (vs.foldl (fun (k : Census) v => k.add v.2) {})))))) ∧
    (writers s = [] → exec .xpWriteAccept s = .next s) ∧
    (∀ p d c x rest data cs host, writers s = (p, d, c, x) :: rest → mergeChunk c (valD s 8 0x31 d 0 == 1) x = (data, cs, host) →
      exec .xpWriteAccept s = .next (settlePart (xpPump (bumpD (bumpCensus
        (setWin s d { c.w with writes := c.w.writes.put (chunkKey x.1 (x.2.1 % 256) x.2.2) data }) d cs) Cnt.mergeHostNonfinite d host)) p d))

/-- A port: a request issues with a free tag of the port and not more than 2048 outstanding; a reply with status 0 ends its request, one
with another status reissues it at the head of the queue or fails it for good after RETRY_MAX reissues, a beat that is not the last of a
read does nothing; a reply on a quarantined tag counts and frees it, on a tag of nothing counts as a stray; a request whose lifetime ends
is reissued with its tag in quarantine, and one that a flash channel serves is retried where its LUN does nothing else (log entry 56 says
how the operands name it); a quarantine and an entry of a Late Reply Bin expire; the sketch ages at 131072 increments; a
period of Management passes (R143, R148, R149, R160, R258, R259, R270, R365). -/
def Obligations.MemoryReplies : Prop :=
  ∀ (s : State), held s = false →
    (∀ m, ((portsUp s).contains m = false ∨ 2048 ≤ (s.mp.out.filter (fun r => r.port == m)).length → exec (.mpRequestAccept m) s = .next s) ∧
      ((portsUp s).contains m = true → (s.mp.out.filter (fun r => r.port == m)).length < 2048 →
        (nextIssue s m = none → exec (.mpRequestAccept m) s = .next s) ∧
        (∀ r b, nextIssue s m = some (r, b) → exec (.mpRequestAccept m) s = .next (issueReq s r b)))) ∧
    (∀ r b t, freeTag s r.port = some t → (tagsUsed s r.port).contains t = false ∧ t < 2048 ∧
      (issueReq s r b).mp.waiting = s.mp.waiting.filter (fun x => x.id != r.id) ∧
      (issueReq s r b).mp.out = s.mp.out ++ [{ r with tag := t, first := if r.issues = 0 then s.mp.mgmt else r.first }]) ∧
    (∀ m tag (write : Bool) beat st t, t = settle (replyOn s m tag st write beat) →
      (write = false → exec (.mpReadResponse m tag beat st) s = .next t) ∧ (write = true → beat = 0 → exec (.mpWriteAck m tag st) s = .next t) ∧
      ∀ found, found = s.mp.out.find? (fun r => r.port == m && r.tag == tag && r.write == write && r.tier != 2) →
      (∀ r, found = some r →
        (write = false → beat ≠ lastBeat r.bytes → st = 0 → t = settle s) ∧
        (write = false → beat ≠ lastBeat r.bytes → st ≠ 0 → t = settle (reqRetry (quarantine s r) r)) ∧
        (write = true ∨ beat = lastBeat r.bytes → st = 0 →
          t = settle (reqDone { s with mp := { s.mp with out := s.mp.out.filter (fun x => x.id != r.id) } } r)) ∧
        (write = true ∨ beat = lastBeat r.bytes → st ≠ 0 → t = settle (reqRetry s r))) ∧
      (found = none → lrbAt s m tag = none → queuedReply s m tag = none →
        (s.mp.quar.find? (fun q => q.port == m && q.tag == tag) = none → t = settle (bumpD s Cnt.mpStray (s.mp.tagPart.getD (2048 * m + tag) 0) 1)) ∧
        ∀ q, s.mp.quar.find? (fun q => q.port == m && q.tag == tag) = some q →
          (beat ≠ q.last → t = settle s) ∧
          (beat = q.last → t = settle (bumpD { s with mp := { s.mp with quar := s.mp.quar.filter (fun x => !(x.port == m && x.tag == tag)) } } Cnt.tierLateReply q.part 1)))) ∧
    (∀ r u, u = { s with mp := { s.mp with out := s.mp.out.filter (fun x => x.id != r.id) } } →
      (r.issues < retryMax s r → (reqRetry s r).mp.waiting =
        { r with issues := r.issues + 1, port := (rickNext u r).1, addr := (rickNext u r).2 } :: s.mp.waiting) ∧
      (retryMax s r ≤ r.issues → reqRetry s r = reqFail u r)) ∧
    (∀ m tag, m < 16 →
      (s.mp.out.find? (fun r => r.port == m && r.tag == tag && r.tier != 2) = none → exec (.replyLifetimeExpiry m tag) s = .next (settle s)) ∧
      ∀ r, s.mp.out.find? (fun r => r.port == m && r.tag == tag && r.tier != 2) = some r →
        exec (.replyLifetimeExpiry m tag) s = .next (settle (reqRetry (quarantine s r) r))) ∧
    (∀ ch id, (s.fl.reads.find? (fun x => lunCh x.lun == ch && x.req.id == id) = none → exec (.replyLifetimeExpiry (16 + ch) id) s = .next (settle s)) ∧
      ∀ x, s.fl.reads.find? (fun x => lunCh x.lun == ch && x.req.id == id) = some x →
        (lunBusy s x.lun = true → exec (.replyLifetimeExpiry (16 + ch) id) s = .next (settle s)) ∧
        (lunBusy s x.lun = false → exec (.replyLifetimeExpiry (16 + ch) id) s = .next (settle (flRetry s x)))) ∧
    (∀ m tag, exec (.quarantineExpiry m tag) s =
      .next { s with mp := { s.mp with quar := s.mp.quar.filter (fun q => !(q.port == m && q.tag == tag)) } }) ∧
    (∀ d e, exec (.lrbExpiry d e) s = .next (lrbPlace (lrbExpire s d e) d) ∧ ∀ P x, partOf s d = some P → P.lrb.find? e = some x →
      (x.st ≠ 1 → lrbExpire s d e = s) ∧ (x.st = 1 → lrbExpire s d e = bumpD (setLrb s d e { x with st := 3 }) Cnt.lrbExpired d 1)) ∧
    (s.tm.sketchIncs < 131072 → exec .sketchAgeing s = .next s) ∧
    (131072 ≤ s.tm.sketchIncs → ∃ t, exec .sketchAgeing s = .next t ∧ t = { s with tm := { s.tm with sketch := t.tm.sketch, xt := t.tm.xt, sketchIncs := s.tm.sketchIncs - 131072 } } ∧
      (∀ k e, s.tm.xt.find? k = some e → t.tm.xt.find? k = some { e with freq := e.freq / 2 })) ∧
    (∃ t, exec .bucketRefill s = .next t ∧ t = mgmtTick s)

/-- REPLAY_RUN is refused with the code of its checks, and else waits for its end with the slot, the record, the capture, the granules and
the quads that it holds; the end of a replay does nothing where none is in progress, and else ends the command: code 0 and the slot, or
REPLAY_MISSING. The replay writes its output region alone: no byte outside it, no counter, no object, context or partition has changed, and
the header has its MAGIC, the step and the final code (R428 to R430). -/
def Obligations.Replays : Prop :=
  (∀ (s : State) (i : Inst), Due s 10 0x43 i → ∃ t, exec .replayRun s = .next t ∧
    (replayCode s i ≠ 0 → Ends s i none (replayCode s i) 0 0 t) ∧
    (replayCode s i = 0 → ∃ r, t.dbg = { s.dbg with replay := some r } ∧ r.path = i.path ∧ r.cseq = i.cseq ∧ r.slot = (freeSlot s).getD 0 ∧
      r.recAt = i.arg 2 % 2 ^ 52 ∧ r.capAt = i.arg 3 % 2 ^ 52 ∧ statusOf t i = some { state := 2, tag := i.tag } ∧
      t = { s with od := { s.od with insts := t.od.insts, stats := t.od.stats }, dbg := t.dbg })) ∧
  (∀ s : State, held s = false →
    (s.dbg.replay = none → exec .replayEnd s = .next s) ∧
    ∀ r i, s.dbg.replay = some r → s.od.insts.find? (fun i => i.area == 10 && i.item == 0x43 && i.path == r.path && i.cseq == r.cseq) = some i →
      ∃ t u code, exec .replayEnd s = .next t ∧
        (code = Code.ok ∨ code = Code.replayMissing) ∧
        (code = Code.ok → Ends u i none Code.ok (w64 r.slot) 0 t) ∧ (code ≠ Code.ok → Ends u i none code 0 0 t) ∧
        u = { s with mem := u.mem, mp := { s.mp with nextId := u.mp.nextId, waiting := u.mp.waiting }, dbg := { s.dbg with replay := none } } ∧
        ∀ region room, region = r.capAt + t1Word s r.capAt 8 → room = t1Word s r.capAt 9 →
          (∀ k, k < memKey 0 region ∨ memKey 0 region + room ≤ k → byteAt u.mem k = byteAt s.mem k) ∧
          (16 ≤ room → t1Words u region 2 = [w64 (0x52504F55 * 2 ^ 32 + 2 ^ 16), w64 (fld (t1Word s r.capAt 1) 63 24 * 2 ^ 24 + code)]))
end

