-- ==== Sys2Proof/Laws/Word.lean ====
section
/-! SUPPORT. Laws of the sparse tables: reading after `put`, `del` and `set`, and the canonical form that they keep. -/

namespace Sys2Proof

variable {α : Type}

/-! ## The order of keys -/

/-- A table whose keys lie above a bound. -/
theorem Tab.sortedFrom_cons (lo : Option Nat) (k : Nat) (v : α) (t : Tab α) :
    Tab.sortedFrom lo ((k, v) :: t) = (lo.all (fun l => decide (l < k)) && Tab.sortedFrom (some k) t) := by
  cases lo <;> simp [Tab.sortedFrom]

/-- A lower bound of the keys may be lowered. -/
theorem Tab.sortedFrom_lower {a b : Nat} {t : Tab α} (hab : a ≤ b) (h : Tab.sortedFrom (some b) t = true) :
    Tab.sortedFrom (some a) t = true := by
  cases t with
  | nil => rfl
  | cons e t =>
    obtain ⟨k, v⟩ := e
    simp only [Tab.sortedFrom_cons, Option.all_some, Bool.and_eq_true, decide_eq_true_eq] at h ⊢
    exact ⟨by omega, h.2⟩

/-- A key at or below the bound of a sorted table is not listed. -/
theorem Tab.find?_below {b k : Nat} {t : Tab α} (h : Tab.sortedFrom (some b) t = true) (hk : k ≤ b) : Tab.find? t k = none := by
  induction t generalizing b with
  | nil => rfl
  | cons e t ih =>
    obtain ⟨k', v⟩ := e
    simp only [Tab.sortedFrom_cons, Option.all_some, Bool.and_eq_true, decide_eq_true_eq] at h
    have : k ≠ k' := by omega
    simp [Tab.find?, this, ih h.2 (by omega)]

theorem Tab.sortedFrom_put {lo : Option Nat} {t : Tab α} {k : Nat} (v : α) (h : Tab.sortedFrom lo t = true)
    (hk : lo.all (fun l => decide (l < k)) = true) : Tab.sortedFrom lo (t.put k v) = true := by
  induction t generalizing lo with
  | nil => simp [Tab.put, Tab.sortedFrom_cons, hk, Tab.sortedFrom]
  | cons e t ih =>
    obtain ⟨k', v'⟩ := e
    simp only [Tab.sortedFrom_cons, Bool.and_eq_true] at h
    unfold Tab.put
    split
    · simp_all [Tab.sortedFrom_cons]
    · split
      · subst_vars; simp_all [Tab.sortedFrom_cons]
      · simp only [Tab.sortedFrom_cons, Bool.and_eq_true]
        exact ⟨h.1, ih h.2 (by simp; omega)⟩

theorem Tab.sortedFrom_filter {lo : Option Nat} {t : Tab α} (p : Nat × α → Bool) (h : Tab.sortedFrom lo t = true) :
    Tab.sortedFrom lo (t.filter p) = true := by
  induction t generalizing lo with
  | nil => rfl
  | cons e t ih =>
    obtain ⟨k', v'⟩ := e
    simp only [Tab.sortedFrom_cons, Bool.and_eq_true] at h
    rw [List.filter_cons]
    split
    · simp only [Tab.sortedFrom_cons, Bool.and_eq_true]
      exact ⟨h.1, ih h.2⟩
    · cases lo with
      | none =>
        have := ih h.2
        cases hf : t.filter p with
        | nil => rfl
        | cons e t' => obtain ⟨a, b⟩ := e; rw [hf] at this; simp_all [Tab.sortedFrom_cons]
      | some l =>
        simp only [Option.all_some, decide_eq_true_eq] at h
        exact Tab.sortedFrom_lower (by omega) (ih h.2)

theorem Tab.sortedFrom_del {lo : Option Nat} {t : Tab α} (k : Nat) (h : Tab.sortedFrom lo t = true) :
    Tab.sortedFrom lo (t.del k) = true := Tab.sortedFrom_filter _ h

/-! ## Reading -/

theorem Tab.find?_put (t : Tab α) (k j : Nat) (v : α) :
    Tab.find? (t.put k v) j = if j = k then some v else Tab.find? t j := by
  induction t with
  | nil => simp [Tab.put, Tab.find?]
  | cons e t ih =>
    obtain ⟨k', v'⟩ := e
    unfold Tab.put
    split
    · simp [Tab.find?]
    · split
      · subst_vars; by_cases hj : j = k' <;> simp [Tab.find?, hj]
      · by_cases hj : j = k'
        · subst hj
          have : ¬ j = k := by omega
          simp [Tab.find?, this]
        · simp [Tab.find?, hj, ih]

theorem Tab.find?_del (t : Tab α) (k j : Nat) : Tab.find? (t.del k) j = if j = k then none else Tab.find? t j := by
  induction t with
  | nil => simp [Tab.del, Tab.find?]
  | cons e t ih =>
    obtain ⟨k', v'⟩ := e
    unfold Tab.del at ih ⊢
    rw [List.filter_cons]
    by_cases hk : k' = k
    · subst hk
      by_cases hj : j = k'
      · subst hj; simpa [Tab.find?] using ih
      · simp [Tab.find?, hj, ih]
    · by_cases hj : j = k'
      · subst hj; simp [Tab.find?, hk]
      · simp [Tab.find?, hk, hj, ih]

/-- Reading after `set`: the written key has the value, every other key what it had. -/
theorem Tab.getD_set [DecidableEq α] (t : Tab α) (d : α) (k j : Nat) (v : α) :
    Tab.getD (t.set d k v) j d = if j = k then v else Tab.getD t j d := by
  unfold Tab.set Tab.getD
  by_cases hv : v = d
  · subst hv; by_cases hj : j = k <;> simp [Tab.find?_del, hj]
  · by_cases hj : j = k <;> simp [hv, Tab.find?_put, hj]

/-! ## The canonical form -/

theorem Tab.wf_sorted [DecidableEq α] {t : Tab α} {d : α} (h : t.wf d = true) : Tab.sortedFrom none t = true := by
  simp only [Tab.wf, Bool.and_eq_true] at h; exact h.1

theorem Tab.all_put {p : Nat × α → Bool} {t : Tab α} {k : Nat} {v : α} (h : t.all p = true) (hv : p (k, v) = true) :
    (t.put k v).all p = true := by
  induction t with
  | nil => simp [Tab.put, hv]
  | cons e t ih =>
    obtain ⟨k', v'⟩ := e
    simp only [List.all_cons, Bool.and_eq_true] at h
    unfold Tab.put
    split
    · simp only [List.all_cons, Bool.and_eq_true]; exact ⟨hv, h.1, h.2⟩
    · split
      · simp only [List.all_cons, Bool.and_eq_true]; exact ⟨hv, h.2⟩
      · simp only [List.all_cons, Bool.and_eq_true]; exact ⟨h.1, ih h.2⟩

theorem Tab.all_del {p : Nat × α → Bool} {t : Tab α} (k : Nat) (h : t.all p = true) : (t.del k).all p = true := by
  rw [List.all_eq_true] at h ⊢
  exact fun x hx => h x (List.mem_filter.mp hx).1

/-- `set` keeps the canonical form. -/
theorem Tab.wf_set [DecidableEq α] {t : Tab α} {d : α} (k : Nat) (v : α) (h : t.wf d = true) : (t.set d k v).wf d = true := by
  simp only [Tab.wf, Bool.and_eq_true] at h ⊢
  unfold Tab.set
  split
  · exact ⟨Tab.sortedFrom_del k h.1, Tab.all_del k h.2⟩
  · exact ⟨Tab.sortedFrom_put v h.1 rfl, Tab.all_put h.2 (by simpa using ‹¬ v = d›)⟩

/-- Leaving entries out keeps the canonical form. -/
theorem Tab.wf_filter [DecidableEq α] {t : Tab α} {d : α} (p : Nat × α → Bool) (h : t.wf d = true) :
    Tab.wf (t.filter p) d = true := by
  simp only [Tab.wf, Bool.and_eq_true] at h ⊢
  refine ⟨Tab.sortedFrom_filter p h.1, ?_⟩
  simp only [List.all_eq_true, List.mem_filter] at h ⊢
  exact fun x hx => h.2 x hx.1

theorem Tab.wf_keepKeys [DecidableEq α] {t : Tab α} {d : α} (p : Nat → Bool) (h : t.wf d = true) :
    (t.keepKeys p).wf d = true := Tab.wf_filter _ h

/-- Two tables in canonical form that read alike are the same table. -/
theorem Tab.wf_ext [DecidableEq α] {d : α} : ∀ {t u : Tab α}, t.wf d = true → u.wf d = true →
    (∀ k, t.getD k d = u.getD k d) → t = u := by
  have low : ∀ (t : Tab α) (lo k : Nat), Tab.sortedFrom (some lo) t = true → k ≤ lo → t.getD k d = d := by
    intro t lo k h hk; simp [Tab.getD, Tab.find?_below h hk]
  have key : ∀ (t u : Tab α) (l m : Option Nat), Tab.sortedFrom l t = true → Tab.sortedFrom m u = true →
      t.all (fun e => decide (e.2 ≠ d)) = true → u.all (fun e => decide (e.2 ≠ d)) = true →
      (∀ k, t.getD k d = u.getD k d) → t = u := by
    intro t
    induction t with
    | nil =>
      intro u l m _ hu _ hd h
      cases u with
      | nil => rfl
      | cons e u =>
        obtain ⟨k, v⟩ := e
        have := h k
        simp_all [Tab.getD, Tab.find?]
    | cons e t ih =>
      obtain ⟨k, v⟩ := e
      intro u l m ht hu hdt hdu h
      cases u with
      | nil => have := h k; simp_all [Tab.getD, Tab.find?]
      | cons e' u =>
        obtain ⟨k', v'⟩ := e'
        simp only [Tab.sortedFrom_cons, Bool.and_eq_true] at ht hu
        simp only [List.all_cons, Bool.and_eq_true, decide_eq_true_eq] at hdt hdu
        have hk : k = k' := by
          rcases Nat.lt_trichotomy k k' with hlt | heq | hgt
          · have h1 := h k
            have : Tab.getD ((k', v') :: u) k d = d := by
              have := low u k' k hu.2 (by omega)
              simp only [Tab.getD, Tab.find?] at this ⊢
              have hne : k ≠ k' := by omega
              simp [hne]; simpa using this
            rw [this] at h1; simp [Tab.getD, Tab.find?] at h1; exact absurd h1 hdt.1
          · exact heq
          · have h1 := h k'
            have : Tab.getD ((k, v) :: t) k' d = d := by
              have := low t k k' ht.2 (by omega)
              simp only [Tab.getD, Tab.find?] at this ⊢
              have hne : k' ≠ k := by omega
              simp [hne]; simpa using this
            rw [this] at h1; simp [Tab.getD, Tab.find?] at h1; exact absurd h1.symm hdu.1
        subst hk
        have hv : v = v' := by have := h k; simpa [Tab.getD, Tab.find?] using this
        subst hv
        rw [ih u (some k) (some k) ht.2 hu.2 hdt.2 hdu.2]
        intro j
        by_cases hj : j = k
        · subst hj; rw [low t j j ht.2 (Nat.le_refl _), low u j j hu.2 (Nat.le_refl _)]
        · have := h j; simpa [Tab.getD, Tab.find?, hj] using this
  intro t u ht hu h
  simp only [Tab.wf, Bool.and_eq_true] at ht hu
  exact key t u none none ht.1 hu.1 ht.2 hu.2 h

theorem Tab.find?_upd (t : Tab α) (k j : Nat) (f : α → α) :
    Tab.find? (t.upd k f) j = if j = k then (Tab.find? t k).map f else Tab.find? t j := by
  unfold Tab.upd
  cases h : Tab.find? t k with
  | none =>
    by_cases hj : j = k
    · rw [if_pos hj, hj]; exact h
    · rw [if_neg hj]
  | some v => exact Tab.find?_put t k j (f v)

end Sys2Proof
end

