-- ==== Sys2Proof/Laws/Memory.lean ====
section
/-! SUPPORT. Laws of host memory and of the OTP array: what a store writes, what it leaves, and the canonical form it keeps. -/

namespace Sys2Proof.Machine

/-- A store keeps memory in canonical form. -/
theorem memWf_storeBytes {m : Tab Byte} (k : Nat) (bs : List Byte) (h : memWf m = true) : memWf (storeBytes m k bs) = true := by
  induction bs generalizing m k with
  | nil => exact h
  | cons b t ih => exact ih (k + 1) (Tab.wf_set k b h)

/-- Empty memory is canonical. -/
theorem memWf_nil : memWf [] = true := rfl

/-- Reading a byte after a store: the bytes stored, and every other byte as before. -/
theorem byteAt_storeBytes {m : Tab Byte} (k : Nat) (bs : List Byte) (a : Nat) :
    byteAt (storeBytes m k bs) a = if k ≤ a ∧ a < k + bs.length then bs.getD (a - k) 0 else byteAt m a := by
  induction bs generalizing m k with
  | nil =>
    simp only [storeBytes, List.length_nil, Nat.add_zero]
    rw [if_neg (by omega)]
  | cons b t ih =>
    rw [storeBytes, ih (k + 1)]
    have hset : byteAt (m.set 0 k b) a = if a = k then b else byteAt m a := Tab.getD_set m 0 k a b
    by_cases hk : a = k
    · subst hk
      rw [if_neg (by omega), if_pos (by simp), hset, if_pos rfl]; simp
    · by_cases hin : k + 1 ≤ a ∧ a < k + 1 + t.length
      · rw [if_pos hin, if_pos (by simp only [List.length_cons]; omega)]
        obtain ⟨n, hn⟩ : ∃ n, a - k = n + 1 := ⟨a - k - 1, by omega⟩
        rw [hn, List.getD_cons_succ]; congr 1; omega
      · rw [if_neg hin, if_neg (by simp only [List.length_cons]; omega), hset, if_neg hk]

/-- What has just been stored reads back. -/
theorem bytesAt_storeBytes {m : Tab Byte} (k : Nat) (bs : List Byte) :
    bytesAt (storeBytes m k bs) k bs.length = bs := by
  apply List.ext_getElem
  · simp [bytesAt]
  · intro i h1 h2
    simp only [bytesAt, List.getElem_map, List.getElem_range]
    rw [byteAt_storeBytes k bs _, if_pos (by omega)]
    simp [List.getD_eq_getElem?_getD, List.getElem?_eq_getElem h2]

/-- The OTP array is written as memory is. -/
theorem otpPut_eq (m : Tab Byte) (k : Nat) (bs : List Byte) : otpPut m k bs = storeBytes m k bs := by
  induction bs generalizing m k with
  | nil => rfl
  | cons b t ih => exact ih _ _

/-- Bits that a byte holds stay. -/
def Rises (a b : Byte) : Prop := a &&& b = a

theorem Rises.refl (a : Byte) : Rises a a := by simp [Rises]
theorem Rises.or (a b : Byte) : Rises a (a ||| b) := by simp only [Rises]; ext i hi; simp; exact Or.inl
theorem Rises.trans {a b c : Byte} (h : Rises a b) (g : Rises b c) : Rises a c := by
  unfold Rises at *
  rw [← h, BitVec.and_assoc, g]

/-- Programming OTP over what it holds only sets bits (R393). -/
theorem otp_rises (m : Tab Byte) (off : Nat) (bs : List Byte) (k : Nat) :
    Rises (byteAt m k)
      (byteAt (otpPut m off (List.zipWith (· ||| ·) ((List.range bs.length).map (fun i => m.getD (off + i) 0)) bs)) k) := by
  rw [otpPut_eq, byteAt_storeBytes off _ k]
  split
  · rename_i hk
    simp only [List.length_zipWith, List.length_map, List.length_range, Nat.min_self] at hk
    have hlt : k - off < bs.length := by omega
    have : (List.zipWith (· ||| ·) ((List.range bs.length).map (fun i => m.getD (off + i) 0)) bs).getD (k - off) 0
        = byteAt m k ||| bs[k - off] := by
      simp [List.getD_eq_getElem?_getD, hlt, byteAt]
      congr 2; omega
    rw [this]; exact Rises.or _ _
  · exact Rises.refl _

end Sys2Proof.Machine
end

