-- ==== Sys2Proof/Laws/Ops.lean ====
section
/-! SUPPORT. For each shared operation, once, everything it can do: sparse tables away from the key that is written, events,
the end of a command. -/

namespace Sys2Proof

variable {α : Type}

theorem Tab.find?_put_self (t : Tab α) (k : Nat) (v : α) : (t.put k v).find? k = some v := by simp [Tab.find?_put]

theorem Tab.find?_put_ne (t : Tab α) {k j : Nat} (v : α) (h : j ≠ k) : (t.put k v).find? j = t.find? j := by
  simp [Tab.find?_put, h]

theorem Tab.getD_set_ne [DecidableEq α] (t : Tab α) (d : α) {k j : Nat} (v : α) (h : j ≠ k) : (t.set d k v).getD j d = t.getD j d := by
  simp [Tab.getD_set, h]

namespace Machine

/-- Bytes outside those that are stored stay. -/
theorem byteAt_storeBytes_out {m : Tab Byte} {k : Nat} (bs : List Byte) {a : Nat} (h : a < k ∨ k + bs.length ≤ a) :
    byteAt (storeBytes m k bs) a = byteAt m a := by
  induction bs generalizing m k with
  | nil => rfl
  | cons b bs ih =>
    simp only [storeBytes]
    rw [ih (by simp only [List.length_cons] at h; omega)]
    exact Tab.getD_set_ne m 0 b (by simp only [List.length_cons] at h; omega)

theorem wordBytes_length (ws : List W64) : (wordBytes ws).length = 8 * ws.length := by
  induction ws with
  | nil => rfl
  | cons w ws ih =>
    have : ∀ n v, (leBytes n v).length = n := by
      intro n
      induction n with
      | zero => exact fun _ => rfl
      | succ n ih => exact fun v => by simp [leBytes, ih]
    simp only [wordBytes, List.flatMap_cons, List.length_append, List.length_cons, this] at ih ⊢
    omega

/-! ## Events -/

/-- `Posted` with the bytes that may change as a parameter. -/
structure Puts (B : Nat → Prop) (s t : State) : Prop where
  rest : t = { s with od := t.od, cnt := t.cnt, core := t.core, mp := t.mp, mem := t.mem, i3c := t.i3c }
  od : t.od = { s.od with vals := t.od.vals }
  vals : ∀ k, k ≠ okey 10 0x31 0 → t.od.vals.find? k = s.od.vals.find? k
  cnt : ∀ k, k ≠ cntKey Cnt.evDrop 0 → t.cnt.getD k 0 = s.cnt.getD k 0
  core : t.core = { s.core with evHead := t.core.evHead, backlog := t.core.backlog, evDropped := t.core.evDropped }
  mp : t.mp = { s.mp with nextId := t.mp.nextId, waiting := t.mp.waiting }
  i3c : t.i3c = { s.i3c with ibis := t.i3c.ibis }
  mem : ∀ k, ¬ B k → byteAt t.mem k = byteAt s.mem k

theorem Puts.refl (B : Nat → Prop) (s : State) : Puts B s s :=
  ⟨rfl, rfl, fun _ _ => rfl, fun _ _ => rfl, rfl, rfl, rfl, fun _ _ => rfl⟩

theorem Puts.trans {B : Nat → Prop} {r s t : State} (h : Puts B r s) (g : Puts B s t) : Puts B r t := by
  refine ⟨?_, ?_, fun k hk => (g.vals k hk).trans (h.vals k hk), fun k hk => (g.cnt k hk).trans (h.cnt k hk), ?_, ?_, ?_,
    fun k hk => (g.mem k hk).trans (h.mem k hk)⟩
  · rw [g.rest, h.rest]
  · rw [g.od, h.od]
  · rw [g.core, h.core]
  · rw [g.mp, h.mp]
  · rw [g.i3c, h.i3c]

theorem Puts.mono {B C : Nat → Prop} {s t : State} (h : Puts B s t) (hBC : ∀ k, B k → C k) : Puts C s t :=
  ⟨h.rest, h.od, h.vals, h.cnt, h.core, h.mp, h.i3c, fun k hk => h.mem k (fun b => hk (hBC k b))⟩

/-- A fold keeps what each of its steps keeps. -/
theorem forEach_keeps {β : Type} {p : State → Prop} (l : List β) (f : State → β → State) (hf : ∀ s x, p s → p (f s x)) :
    ∀ s, p s → p (forEach l s f) := by
  induction l with
  | nil => exact fun _ h => h
  | cons x l ih => exact fun s h => ih (f s x) (hf s x h)

/-- From `s` requests have been issued, and nothing else has changed. -/
structure Queued (s t : State) : Prop where
  rest : t = { s with mp := t.mp }
  mp : t.mp = { s.mp with nextId := t.mp.nextId, waiting := t.mp.waiting }

theorem queued_addReq {s t : State} (h : Queued s t) (d : Nat) (w : Bool) (tier port qos addr bytes : Nat) (use : Use) (free : Bool)
    (span : Option (Nat × Nat)) : Queued s (addReq t d w tier port qos addr bytes use free span) := by
  refine ⟨?_, ?_⟩ <;> unfold addReq
  · rw [h.rest]
  · dsimp only; rw [h.mp]

/-- A store into T1: its bytes, and the requests that carry them. -/
theorem queued_storeT1 (s : State) (d qos addr : Nat) (bs : List Byte) (use : Use) (free : Bool) :
    Queued { s with mem := storeBytes s.mem (memKey 0 addr) bs } (storeT1 s d qos addr bs use free) :=
  forEach_keeps (p := Queued { s with mem := storeBytes s.mem (memKey 0 addr) bs }) _ _
    (fun _ _ h => queued_addReq h _ _ _ _ _ _ _ _ _ _) _ ⟨rfl, rfl⟩

/-- Writing an entry: its bytes at EV_HEAD, EV_HEAD on by one, and the requests that carry it. -/
theorem evWrite_is (s : State) (e : EvEntry) :
    evWrite s e = { s with
      mem := storeBytes s.mem (memKey 0 (evBase s + 32 * s.core.evHead)) (wordBytes e)
      mp := { s.mp with nextId := (evWrite s e).mp.nextId, waiting := (evWrite s e).mp.waiting }
      core := { s.core with evHead := evNext s } } := by
  have h := queued_storeT1 s 32 1 (evBase s + 32 * s.core.evHead) (wordBytes e) .misc false
  unfold evWrite writeT1 evNext
  generalize storeT1 s 32 1 (evBase s + 32 * s.core.evHead) (wordBytes e) .misc false = t at h ⊢
  have hm := h.mp
  rw [h.rest]
  dsimp only at hm ⊢
  rw [← hm]
  rfl

/-- An entry of four words takes 32 bytes at EV_HEAD. -/
theorem puts_evWrite (s : State) (e : EvEntry) (he : e.length = 4) :
    Puts (fun k => memKey 0 (evBase s + 32 * s.core.evHead) ≤ k ∧ k < memKey 0 (evBase s + 32 * s.core.evHead) + 32) s (evWrite s e) := by
  have h := evWrite_is s e
  generalize evWrite s e = t at h ⊢
  generalize t.mp.nextId = n at h
  generalize t.mp.waiting = l at h
  subst h
  refine ⟨rfl, rfl, fun _ _ => rfl, fun _ _ => rfl, rfl, rfl, rfl, fun k hk => ?_⟩
  refine byteAt_storeBytes_out _ ?_
  rw [wordBytes_length, he]
  omega

/-- An entry goes into the ring at EV_HEAD, or nothing is stored. -/
theorem puts_evPut (s : State) (e : EvEntry) (he : e.length = 4) :
    Puts (fun k => memKey 0 (evBase s + 32 * s.core.evHead) ≤ k ∧ k < memKey 0 (evBase s + 32 * s.core.evHead) + 32) s (evPut s e) := by
  unfold evPut
  split
  · exact puts_evWrite s e he
  · split
    · exact ⟨rfl, rfl, fun _ _ => rfl, fun _ _ => rfl, rfl, rfl, rfl, fun _ _ => rfl⟩
    · exact ⟨rfl, rfl, fun _ _ => rfl, fun k hk => Tab.getD_set_ne _ _ _ hk, rfl, rfl, rfl, fun _ _ => rfl⟩

/-- EV_HEAD moves by one entry or stays; the ring stays where it is. -/
theorem evPut_head (s : State) (e : EvEntry) :
    ((evPut s e).core.evHead = s.core.evHead ∨ (evPut s e).core.evHead = evNext s) ∧ evBase (evPut s e) = evBase s ∧
      evEntries (evPut s e) = evEntries s := by
  unfold evPut
  split
  · exact ⟨Or.inr (by rw [evWrite_is]), by rw [evWrite_is]; rfl, by rw [evWrite_is]; rfl⟩
  · split
    · exact ⟨Or.inl rfl, rfl, rfl⟩
    · exact ⟨Or.inl rfl, rfl, rfl⟩

theorem puts_evFlushDrop (s : State) : Puts (EventByte s) s (evFlushDrop s) := by
  unfold evFlushDrop
  split
  · refine Puts.trans (s := { s with core := { s.core with evDropped := 0 } }) ⟨rfl, rfl, fun _ _ => rfl, fun _ _ => rfl, rfl, rfl, rfl, fun _ _ => rfl⟩ ?_
    exact (puts_evPut _ _ rfl).mono (fun _ => Or.inl)
  · exact Puts.refl _ _

theorem evFlushDrop_head (s : State) :
    ((evFlushDrop s).core.evHead = s.core.evHead ∨ (evFlushDrop s).core.evHead = evNext s) ∧ evBase (evFlushDrop s) = evBase s := by
  unfold evFlushDrop
  split
  · have h := evPut_head { s with core := { s.core with evDropped := 0 } } (overflowEntry s)
    exact ⟨h.1, h.2.1⟩
  · exact ⟨Or.inl rfl, rfl⟩

theorem puts_traceStop (B : Nat → Prop) (s : State) : Puts B s (traceStop s) := by
  unfold traceStop
  dsimp only
  split
  · exact ⟨rfl, rfl, fun k hk => Tab.find?_put_ne _ _ hk, fun _ _ => rfl, rfl, rfl, rfl, fun _ _ => rfl⟩
  · exact Puts.refl _ _

theorem puts_raiseIbi (B : Nat → Prop) (s : State) (b : Nat) : Puts B s (raiseIbi s b) := by
  unfold raiseIbi
  split
  · exact ⟨rfl, rfl, fun _ _ => rfl, fun _ _ => rfl, rfl, rfl, rfl, fun _ _ => rfl⟩
  · exact Puts.refl _ _

theorem puts_post (s : State) (num : Nat) (d : Option Nat) (code arg0 arg1 : Nat) :
    Puts (EventByte s) s (post s num d code arg0 arg1) := by
  unfold post
  have h1 := puts_evFlushDrop s
  have h2 : Puts (EventByte s) (evFlushDrop s) (evPut (evFlushDrop s) (evEntry (evFlushDrop s) num d code arg0 arg1)) := by
    refine (puts_evPut _ _ rfl).mono (fun k hk => ?_)
    obtain ⟨hh | hh, hb⟩ := evFlushDrop_head s <;> rw [hh, hb] at hk
    · exact Or.inl hk
    · exact Or.inr hk
  dsimp only
  split
  · exact ((h1.trans h2).trans (puts_raiseIbi _ _ _)).trans (puts_traceStop _ _)
  · exact h1.trans h2

/-- All that a post changes. -/
theorem post_posted (s : State) (num : Nat) (d : Option Nat) (code arg0 arg1 : Nat) : Posted s (post s num d code arg0 arg1) :=
  let h := puts_post s num d code arg0 arg1
  ⟨h.rest, h.od, h.vals, h.cnt, h.core, h.mp, h.i3c, h.mem⟩

/-! ## The end of a command -/

/-- All that the end of a command changes. -/
theorem finish_ends (s : State) (i : Inst) (d : Option Nat) (code : Nat) (r0 r1 : W64) : Ends s i d code r0 r1 (finish s i d code r0 r1) :=
  ⟨rfl, post_posted _ _ _ _ _ _⟩

theorem refuse_ends (s : State) (i : Inst) (d : Option Nat) (code : Nat) : Ends s i d code 0 0 (refuse s i d code) :=
  finish_ends s i d code 0 0

variable {s t : State} {i : Inst} {d : Option Nat} {code : Nat} {r0 r1 : W64}

/-- An ended command has its status record. -/
theorem Ends.status (h : Ends s i d code r0 r1 t) : statusOf t i =
    some { code := code, state := if code = 0 then 3 else 4, tag := i.tag, step := ((d.bind (partOf s)).map (·.step)).getD 0, r0 := r0, r1 := r1 } := by
  unfold statusOf
  rw [h.posted.od]
  exact Tab.find?_put_self _ _ _

/-- An ended command is no longer live. -/
theorem Ends.gone (h : Ends s i d code r0 r1 t) : Gone t i := by
  intro j hj
  rw [h.posted.od] at hj
  have := (List.mem_filter.mp hj).2
  simpa using this

theorem Ends.rest (h : Ends s i d code r0 r1 t) :
    t = { s with od := t.od, cnt := t.cnt, core := t.core, mp := t.mp, mem := t.mem, i3c := t.i3c } := h.posted.rest.trans rfl

/-- Memory after the end of a command. -/
theorem Ends.mem (h : Ends s i d code r0 r1 t) (k : Nat) (hk : ¬ EventByte s k) : byteAt t.mem k = byteAt s.mem k := h.posted.mem k hk

end Machine
end Sys2Proof
end

