-- ==== Sys2Proof/Laws/Engine.lean ====
section
/-! SUPPORT. Laws of the Element Engine's register rows: reading an element after elements were put, after rows were set, and what
issuing a word does. -/

namespace Sys2Proof.Machine

/-! ## Bits of a row -/

theorem shift_mod (x a b : Nat) : (x >>> a) % 2 ^ b = (x % 2 ^ (a + b)) >>> a := by
  rw [Nat.shiftRight_eq_div_pow, Nat.shiftRight_eq_div_pow, Nat.pow_add, Nat.mod_mul_right_div_self]

/-- Elements that end below a place depend on the bits below it alone. -/
theorem elemAt_low {x y k w j : Nat} (h : x % 2 ^ k = y % 2 ^ k) (hj : w * (j + 1) ≤ k) : elemAt x w j = elemAt y w j := by
  have hd : 2 ^ (w * j + w) ∣ 2 ^ k := Nat.pow_dvd_pow 2 (by rw [Nat.mul_succ] at hj; omega)
  unfold elemAt
  rw [shift_mod, shift_mod, ← Nat.mod_mod_of_dvd x hd, ← Nat.mod_mod_of_dvd y hd, h]

/-- Elements that begin at or above a place depend on the bits from it alone. -/
theorem elemAt_high {x y k w j : Nat} (h : x >>> k = y >>> k) (hj : k ≤ w * j) : elemAt x w j = elemAt y w j := by
  unfold elemAt
  obtain ⟨d, hd⟩ := Nat.exists_eq_add_of_le hj
  rw [hd, Nat.shiftRight_add, Nat.shiftRight_add, h]

/-- The elements packed as one number. -/
def packed (w : Nat) (l : List Nat) : Nat := l.foldr (fun v a => v % 2 ^ w + a * 2 ^ w) 0

theorem packed_lt (w : Nat) (l : List Nat) : packed w l < 2 ^ (w * l.length) := by
  induction l with
  | nil => simp [packed]
  | cons v l ih =>
    have h1 : v % 2 ^ w < 2 ^ w := Nat.mod_lt _ (Nat.two_pow_pos w)
    have h2 : packed w l + 1 ≤ 2 ^ (w * l.length) := ih
    have h3 := Nat.mul_le_mul_right (2 ^ w) h2
    have h4 : packed w (v :: l) = v % 2 ^ w + packed w l * 2 ^ w := rfl
    rw [h4, List.length_cons, Nat.mul_succ, Nat.pow_add]
    rw [Nat.add_mul] at h3
    omega

theorem packed_elem (w : Nat) (l : List Nat) (i : Nat) : elemAt (packed w l) w i = l.getD i 0 % 2 ^ w := by
  induction l generalizing i with
  | nil => simp [packed, elemAt]
  | cons v l ih =>
    have h4 : packed w (v :: l) = v % 2 ^ w + packed w l * 2 ^ w := rfl
    cases i with
    | zero => simp [elemAt, h4]
    | succ i =>
      have h1 : v % 2 ^ w < 2 ^ w := Nat.mod_lt _ (Nat.two_pow_pos w)
      have h5 : packed w (v :: l) >>> w = packed w l := by
        rw [h4, Nat.shiftRight_eq_div_pow, Nat.add_mul_div_right _ _ (Nat.two_pow_pos w), Nat.div_eq_of_lt h1, Nat.zero_add]
      rw [List.getD_cons_succ, ← ih i]
      unfold elemAt
      rw [Nat.mul_succ, Nat.add_comm, Nat.shiftRight_add, h5]

theorem rowPut_eq (old w off : Nat) (l : List Nat) :
    rowPut old w off l = old % 2 ^ (w * off) + (packed w l + (old >>> (w * (off + l.length))) * 2 ^ (w * l.length)) * 2 ^ (w * off) := rfl

/-- Below the elements put, a row keeps its bits. -/
theorem rowPut_low (old w off : Nat) (l : List Nat) : rowPut old w off l % 2 ^ (w * off) = old % 2 ^ (w * off) := by
  rw [rowPut_eq, Nat.add_mul_mod_self_right, Nat.mod_mod]

theorem rowPut_shift (old w off : Nat) (l : List Nat) :
    rowPut old w off l >>> (w * off) = packed w l + (old >>> (w * (off + l.length))) * 2 ^ (w * l.length) := by
  rw [rowPut_eq, Nat.shiftRight_eq_div_pow, Nat.add_mul_div_right _ _ (Nat.two_pow_pos _), Nat.div_eq_of_lt (Nat.mod_lt _ (Nat.two_pow_pos _)),
    Nat.zero_add]

/-- Above the elements put, a row keeps its bits. -/
theorem rowPut_high (old w off : Nat) (l : List Nat) :
    rowPut old w off l >>> (w * (off + l.length)) = old >>> (w * (off + l.length)) := by
  conv => lhs; rw [Nat.mul_add, Nat.shiftRight_add, rowPut_shift]
  rw [Nat.shiftRight_eq_div_pow, Nat.add_mul_div_right _ _ (Nat.two_pow_pos _), Nat.div_eq_of_lt (packed_lt w l), Nat.zero_add]

/-- The elements put read back. -/
theorem elemAt_rowPut_in (old w off : Nat) (l : List Nat) {i : Nat} (h : i < l.length) :
    elemAt (rowPut old w off l) w (off + i) = l.getD i 0 % 2 ^ w := by
  have e : elemAt (rowPut old w off l) w (off + i) = elemAt (rowPut old w off l >>> (w * off)) w i := by
    unfold elemAt; rw [Nat.mul_add, Nat.shiftRight_add]
  rw [e, rowPut_shift, ← packed_elem w l i]
  refine elemAt_low (k := w * l.length) ?_ (Nat.mul_le_mul_left w h)
  rw [Nat.add_mul_mod_self_right]

/-- Elements outside those put, of any width, keep their value. -/
theorem elemAt_rowPut_out (old w off : Nat) (l : List Nat) {v j : Nat} (h : v * (j + 1) ≤ w * off ∨ w * (off + l.length) ≤ v * j) :
    elemAt (rowPut old w off l) v j = elemAt old v j := by
  rcases h with h | h
  · exact elemAt_low (rowPut_low old w off l) h
  · exact elemAt_high (rowPut_high old w off l) h

theorem elemAt_row (x : Nat) {w j : Nat} (h : w * (j + 1) ≤ 4096) : elemAt (x % 2 ^ 4096) w j = elemAt x w j :=
  elemAt_low (k := 4096) (Nat.mod_mod _ _) h

/-! ## Rows of an engine -/

theorem rowOf_setRow (e : Eng) (r i v r' i' : Nat) (hi : i < 32) (hi' : i' < 32) :
    rowOf (setRow e r i v) r' i' = if r' = r ∧ i' = i then v % 2 ^ 4096 else rowOf e r' i' := by
  have hk : rowKey r' i' = rowKey r i ↔ r' = r ∧ i' = i := by unfold rowKey; omega
  simp only [rowOf, setRow, Tab.getD_set, hk]

theorem setRows_fold (r : Nat) (l : List Nat) : ∀ (k : Nat) (e : Eng), k + l.length ≤ 32 → ∀ r' i, i < 32 →
    rowOf ((List.zip (List.range' k l.length) l).foldl (fun e x => setRow e r x.1 x.2) e) r' i =
      if r' = r ∧ k ≤ i ∧ i < k + l.length then l.getD (i - k) 0 % 2 ^ 4096 else rowOf e r' i := by
  induction l with
  | nil => intro k e _ r' i _; exact (if_neg (fun h => by simp at h; omega)).symm
  | cons a l ih =>
    intro k e hk r' i hi
    rw [List.length_cons] at hk
    rw [List.length_cons, List.range'_succ, List.zip_cons_cons, List.foldl_cons, ih (k + 1) _ (by omega) r' i hi,
      rowOf_setRow e r k a r' i (by omega) hi]
    by_cases hr : r' = r
    · by_cases h1 : i = k
      · rw [if_neg (by omega), if_pos ⟨hr, h1⟩, if_pos ⟨hr, by omega, by omega⟩, h1, Nat.sub_self]; rfl
      · rw [if_neg (c := r' = r ∧ i = k) (fun h => h1 h.2)]
        by_cases h2 : k + 1 ≤ i ∧ i < k + 1 + l.length
        · rw [if_pos ⟨hr, h2⟩, if_pos ⟨hr, by omega, by omega⟩]
          have : i - k = (i - (k + 1)) + 1 := by omega
          rw [this, List.getD_cons_succ]
        · rw [if_neg (fun h => h2 h.2), if_neg (fun h => h2 ⟨by omega, by omega⟩)]
    · rw [if_neg (fun h => hr h.1), if_neg (fun h => hr h.1), if_neg (fun h => hr h.1)]

/-- What setting the first rows of a register leaves in every row. -/
theorem rowOf_setRows (e : Eng) (r : Nat) (l : List Nat) (hl : l.length ≤ 32) (r' i : Nat) (hi : i < 32) :
    rowOf (setRows e r l) r' i = if r' = r ∧ i < l.length then l.getD i 0 % 2 ^ 4096 else rowOf e r' i := by
  unfold setRows
  rw [List.range_eq_range', setRows_fold r l 0 e (by omega) r' i hi]
  simp

/-- The elements of a register whose first rows were set. -/
theorem elemAt_setRows {e e0 : Eng} {r : Nat} {l : List Nat} (he : e.m = (setRows e0 r l).m) (hl : l.length ≤ 32) {i w j : Nat} (hi : i < 32)
    (hj : w * (j + 1) ≤ 4096) :
    elemAt (rowOf e r i) w j = if i < l.length then elemAt (l.getD i 0) w j else elemAt (rowOf e0 r i) w j := by
  have h1 : rowOf e r i = rowOf (setRows e0 r l) r i := by unfold rowOf; rw [he]
  rw [h1, rowOf_setRows e0 r l hl r i hi]
  by_cases h : i < l.length
  · rw [if_pos ⟨rfl, h⟩, if_pos h, elemAt_row _ hj]
  · rw [if_neg (fun hh => h hh.2), if_neg h]

/-- Setting rows changes no more of an engine than its registers. -/
theorem setRows_frame (e : Eng) (r : Nat) (l : List Nat) : setRows e r l = { e with m := (setRows e r l).m } := by
  unfold setRows
  generalize List.zip (List.range l.length) l = z
  induction z generalizing e with
  | nil => rfl
  | cons a z ih => rw [List.foldl_cons, ih]; rfl

theorem setRow_frame (e : Eng) (r i v : Nat) : setRow e r i v = { e with m := (setRow e r i v).m } := rfl

/-! ## Poisoned words -/

/-- Only the set of poisoned words changes where elements are written. -/
theorem wipe_frame (e : Eng) (l : List RegSpan) : wipe e l = { e with bad := (wipe e l).bad } := by unfold wipe; split <;> rfl

/-- The poisoned words that are left are those of before that no element written lies in. -/
theorem wipe_bad (e : Eng) (l : List RegSpan) : (wipe e l).bad = e.bad.filter (fun k => !l.any (fun x => x.words.contains k)) := by
  unfold wipe
  split
  · rename_i h; rw [List.isEmpty_iff.mp h]; rfl
  · rfl

theorem wipe_sound {e : Eng} (h : e.bad = []) (l : List RegSpan) : wipe e l = e := by unfold wipe; simp [h]

@[simp] theorem wipe_m (e : Eng) (l : List RegSpan) : (wipe e l).m = e.m := by rw [wipe_frame]

@[simp] theorem rowOf_wipe (e : Eng) (l : List RegSpan) (r i : Nat) : rowOf (wipe e l) r i = rowOf e r i := by unfold rowOf; rw [wipe_m]

@[simp] theorem poisonCensus_nil (l : List RegSpan) : poisonCensus [] l = {} := rfl

@[simp] theorem poisonRead_nil (s : State) (p : Nat) (l : List RegSpan) : poisonRead s p [] l = s := rfl

theorem plainRead_sound {e : Eng} (h : e.bad = []) (s : State) (p : Nat) (l : List RegSpan) : plainRead s p e l = s := by
  unfold plainRead; simp [h]

@[simp] theorem setRows_bad (e : Eng) (r : Nat) (l : List Nat) : (setRows e r l).bad = e.bad := by rw [setRows_frame]

theorem wipe_setRows {e : Eng} (h : e.bad = []) (r : Nat) (l : List Nat) (x : List RegSpan) : wipe (setRows e r l) x = setRows e r l :=
  wipe_sound (by rw [setRows_bad, h]) x

theorem census_zero_add (c : Census) : ({} : Census).add c = c := by
  cases c; simp [Census.add]

/-- A row none of whose words is poisoned is read as it stands. -/
theorem seenRow_sound {e : Eng} (h : e.bad = []) (x : RegSpan) : seenRow e x = rowOf e x.reg x.row := by unfold seenRow; simp [h]

/-! ## Engines of the state -/

theorem engOf_setEng (s : State) (q r : Nat) (e : Eng) : engOf (setEng s q e) r = if r = q then e else engOf s r := by
  simp only [engOf, setEng, Tab.getD_set]

theorem engOf_congr {s t : State} (h : t.ee = s.ee) (q : Nat) : engOf t q = engOf s q := by unfold engOf; rw [h]

theorem lenRows_le (e : Eng) (p : Nat) : lenRows e p ≤ 32 := by
  have : fld (lenOf e p) 4 0 < 2 ^ 5 := Nat.mod_lt _ (by decide)
  unfold lenRows; omega

theorem lenCols_le (e : Eng) (p : Nat) : lenCols e p ≤ 128 := by
  have : fld (lenOf e p) 14 8 < 2 ^ 7 := Nat.mod_lt _ (by decide)
  unfold lenCols; omega

/-- Taking duplicates out of a list changes none of its members. -/
theorem mem_dedup {α : Type} [DecidableEq α] (l : List α) (a : α) : a ∈ dedup l ↔ a ∈ l := by
  have h : ∀ (l acc : List α), a ∈ l.foldl (fun acc x => if acc.contains x then acc else acc ++ [x]) acc ↔ a ∈ acc ∨ a ∈ l := by
    intro l
    induction l with
    | nil => intro acc; simp
    | cons x l ih =>
      intro acc
      rw [List.foldl_cons, ih]
      by_cases hx : acc.contains x = true
      · rw [if_pos hx, List.mem_cons]
        have : x ∈ acc := by simpa using hx
        constructor
        · rintro (h | h)
          · exact .inl h
          · exact .inr (.inr h)
        · rintro (h | rfl | h)
          · exact .inl h
          · exact .inl this
          · exact .inr h
      · rw [if_neg hx, List.mem_append, List.mem_singleton, List.mem_cons, or_assoc]
  simpa [dedup] using h l []

/-! ## Issue -/

/-- A word that can issue and is not bad is executed. -/
theorem issueWord_go {s : State} {q : Nat} {w : W64} {op : Nat} {regs : List Nat} {sg : Seg} (h : Issues s q w op regs sg)
    {bad : Eng → Seg → Bool} (hb : bad (engOf s q) sg = false) (ho : opcodes.contains op = true) (go : Eng → Seg → State) :
    issueWord s q w.toNat op bad regs go = go (engOf s q) sg := by
  have hl : (sg.idx + 1 == sg.n && decide (op ≠ 1)) = false := by
    rcases h.last with h | h
    · simp [h]
    · simp [h]
  unfold issueWord
  simp only [h.runs, h.up, h.opcode, ho, hb, hl, h.clean, h.loaded]
  simp

theorem bumpD_step {t u : State} (hp : t.parts = u.parts) (item d n : Nat) :
    bumpD { t with cnt := u.cnt } item d n = { t with cnt := (bumpD u item d n).cnt } := by
  have he : partOf { t with cnt := u.cnt } d = partOf u d := by unfold partOf; rw [← hp]
  unfold bumpD
  rw [he]
  split <;> rfl

theorem bumpD_parts (u : State) (i d n : Nat) : (bumpD u i d n).parts = u.parts := by unfold bumpD; split <;> rfl

theorem bumpCensus_congr {s t : State} (hp : t.parts = s.parts) (hc : t.cnt = s.cnt) (d : Nat) (c : Census) :
    bumpCensus t d c = { t with cnt := (bumpCensus s d c).cnt } := by
  have h0 : t = { t with cnt := s.cnt } := by rw [← hc]
  unfold bumpCensus
  conv => lhs; rw [h0]
  rw [bumpD_step hp, bumpD_step (u := bumpD s Cnt.numNan d c.nan) (by rw [bumpD_parts]; exact hp),
    bumpD_step (u := bumpD (bumpD s Cnt.numNan d c.nan) Cnt.numInf d c.inf) (by simp only [bumpD_parts]; exact hp),
    bumpD_step (u := bumpD (bumpD (bumpD s Cnt.numNan d c.nan) Cnt.numInf d c.inf) Cnt.numScaleNan d c.scaleNan)
      (by simp only [bumpD_parts]; exact hp),
    bumpD_step (u := bumpD (bumpD (bumpD (bumpD s Cnt.numNan d c.nan) Cnt.numInf d c.inf) Cnt.numScaleNan d c.scaleNan) Cnt.numSat d c.sat)
      (by simp only [bumpD_parts]; exact hp)]

/-- The counters and the rest after an instruction has retired. -/
theorem retire_frame (s : State) (q : Nat) (e : Eng) (sg : Seg) (sum : Bool) (sxd : Nat) (x : W64 × W64 × W64) (c : Census) :
    retire s q e sg sum sxd x c =
      { setEng s q { (if sum then setSx3 e sg.slot sxd x else e) with run := some sg.next } with cnt := counted s sg.slot c } := by
  have hsp : ∀ e', slotD (setEng s q e') sg.slot = slotD s sg.slot := fun e' => rfl
  unfold retire counted
  simp only [hsp]
  cases slotD s sg.slot with
  | none => rfl
  | some d => dsimp only; exact bumpCensus_congr (s := s) (t := setEng s q _) rfl rfl d c

end Sys2Proof.Machine
end

