-- ==== Sys2Proof/Laws/Keeps.lean ====
section
/-! SUPPORT. What no meaning changes, and what every meaning keeps: the relation that an operation of the model relates the
state before it to the state after it by. -/

namespace Sys2Proof.Machine

/-- From `s` to `t`: the queue and what is built are the same; memory, counters and the OTP array keep their canonical form;
programmed OTP bits stay; the tables of partitions and contexts keep one entry for each key. -/
structure Keeps (s t : State) : Prop where
  pending : t.pending = s.pending
  built : t.built = s.built
  silicon : t.silicon = s.silicon
  mem : memWf s.mem = true → memWf t.mem = true
  cnt : s.cnt.wf 0 = true → t.cnt.wf 0 = true
  otp : s.otp.bytes.wf 0 = true → t.otp.bytes.wf 0 = true
  rises : ∀ k, Rises (byteAt s.otp.bytes k) (byteAt t.otp.bytes k)
  parts : Tab.sortedFrom none s.parts = true → Tab.sortedFrom none t.parts = true
  ctxs : Tab.sortedFrom none s.ctxs = true → Tab.sortedFrom none t.ctxs = true

theorem Keeps.refl (s : State) : Keeps s s :=
  ⟨rfl, rfl, rfl, id, id, id, fun _ => Rises.refl _, id, id⟩

theorem Keeps.trans {r s t : State} (h : Keeps r s) (g : Keeps s t) : Keeps r t :=
  ⟨g.pending.trans h.pending, g.built.trans h.built, g.silicon.trans h.silicon, fun x => g.mem (h.mem x),
    fun x => g.cnt (h.cnt x), fun x => g.otp (h.otp x),
    fun k => (h.rises k).trans (g.rises k), fun x => g.parts (h.parts x), fun x => g.ctxs (h.ctxs x)⟩

theorem Keeps.ite {r a b : State} {c : Prop} [Decidable c] (ha : c → Keeps r a) (hb : ¬ c → Keeps r b) :
    Keeps r (if c then a else b) := by
  split
  · exact ha ‹_›
  · exact hb ‹_›

/-- A change of the other fields. -/
theorem Keeps.upd {r s : State} (h : Keeps r s) {boot otp od core mp tm pgdir xp slices fl ee rel dbg i3c tod out order free}
    (ho : otp.bytes = s.otp.bytes) :
    Keeps r (State.mk s.pending s.built s.silicon boot otp od s.cnt core mp tm s.mem s.parts s.ctxs pgdir xp slices fl ee rel dbg
      i3c tod out order free) :=
  h.trans ⟨rfl, rfl, rfl, id, id, fun x => by rw [ho]; exact x, fun k => by rw [ho]; exact Rises.refl _, id, id⟩

/-- The same with memory. -/
theorem Keeps.updMem {r s : State} (h : Keeps r s) {boot otp od core mp tm mem pgdir xp slices fl ee rel dbg i3c tod out order free}
    (ho : otp.bytes = s.otp.bytes) (hm : memWf s.mem = true → memWf mem = true) :
    Keeps r (State.mk s.pending s.built s.silicon boot otp od s.cnt core mp tm mem s.parts s.ctxs pgdir xp slices fl ee rel dbg
      i3c tod out order free) :=
  h.trans ⟨rfl, rfl, rfl, hm, id, fun x => by rw [ho]; exact x, fun k => by rw [ho]; exact Rises.refl _, id, id⟩

/-- The same with bytes stored. -/
theorem Keeps.store {r s : State} (h : Keeps r s) {boot otp od core mp tm pgdir xp slices fl ee rel dbg i3c tod out order free}
    {k : Nat} {bs : List Byte} (ho : otp.bytes = s.otp.bytes) :
    Keeps r (State.mk s.pending s.built s.silicon boot otp od s.cnt core mp tm (storeBytes s.mem k bs) s.parts s.ctxs pgdir xp
      slices fl ee rel dbg i3c tod out order free) :=
  h.updMem ho (memWf_storeBytes k bs)

/-- The same with counters. -/
theorem Keeps.updCnt {r s : State} (h : Keeps r s) {boot otp od cnt core mp tm pgdir xp slices fl ee rel dbg i3c tod out order free}
    (ho : otp.bytes = s.otp.bytes) (hc : s.cnt.wf 0 = true → cnt.wf 0 = true) :
    Keeps r (State.mk s.pending s.built s.silicon boot otp od cnt core mp tm s.mem s.parts s.ctxs pgdir xp slices fl ee rel dbg
      i3c tod out order free) :=
  h.trans ⟨rfl, rfl, rfl, id, hc, fun x => by rw [ho]; exact x, fun k => by rw [ho]; exact Rises.refl _, id, id⟩

/-- The same with the tables of partitions and contexts. -/
theorem Keeps.updTabs {r s : State} (h : Keeps r s) {boot otp od core mp tm parts ctxs pgdir xp slices fl ee rel dbg i3c tod out order free}
    (ho : otp.bytes = s.otp.bytes) (hp : Tab.sortedFrom none s.parts = true → Tab.sortedFrom none parts = true)
    (hc : Tab.sortedFrom none s.ctxs = true → Tab.sortedFrom none ctxs = true) :
    Keeps r (State.mk s.pending s.built s.silicon boot otp od s.cnt core mp tm s.mem parts ctxs pgdir xp slices fl ee rel dbg
      i3c tod out order free) :=
  h.trans ⟨rfl, rfl, rfl, id, id, fun x => by rw [ho]; exact x, fun k => by rw [ho]; exact Rises.refl _, hp, hc⟩

theorem sorted_upd {α : Type} {t : Tab α} (k : Nat) (f : α → α) (h : Tab.sortedFrom none t = true) :
    Tab.sortedFrom none (t.upd k f) = true := by
  unfold Tab.upd
  split
  · exact Tab.sortedFrom_put _ h rfl
  · exact h

theorem sorted_putAll {α : Type} (l : List (Nat × α)) {t : Tab α} (h : Tab.sortedFrom none t = true) :
    Tab.sortedFrom none (l.foldl (fun t e => t.put e.1 e.2) t) = true := by
  induction l generalizing t with
  | nil => exact h
  | cons e l ih => exact ih (Tab.sortedFrom_put _ h rfl)

/-- A fold whose every step keeps. -/
theorem Keeps.fold {α : Type} {r s : State} (h : Keeps r s) (l : List α) (f : State → α → State)
    (hf : ∀ s x, Keeps r s → Keeps r (f s x)) : Keeps r (l.foldl f s) := by
  induction l generalizing s with
  | nil => exact h
  | cons a l ih => exact ih (hf s a h)

theorem keeps_forEach {α : Type} {r s : State} (h : Keeps r s) (l : List α) (f : State → α → State)
    (hf : ∀ s x, Keeps r s → Keeps r (f s x)) : Keeps r (forEach l s f) := h.fold l f hf

/-- A fold that carries a number beside the state. -/
theorem Keeps.fold1 {α β : Type} {r : State} (l : List α) (f : State × β → α → State × β)
    (hf : ∀ y x, Keeps r y.1 → Keeps r (f y x).1) {y : State × β} (h : Keeps r y.1) : Keeps r (l.foldl f y).1 := by
  induction l generalizing y with
  | nil => exact h
  | cons a l ih => exact ih (hf y a h)

theorem keeps_updPart {r s : State} (h : Keeps r s) (d : Nat) (f : Part → Part) : Keeps r (updPart s d f) :=
  h.updTabs rfl (sorted_upd d f) id

theorem keeps_bumpAt {r s : State} (h : Keeps r s) (item index n : Nat) : Keeps r (bumpAt s item index n) :=
  h.updCnt rfl (Tab.wf_set _ _)

end Sys2Proof.Machine
end

