-- ==== Sys2Proof/Laws/KeepsOps.lean ====
section
/-! SUPPORT. For each operation of Ops, DictOps, Images, TierOps, LsOps, BagOps, KindleOps, TraitOps, CtxOps, TrainOps, BuildOps, AdptCmds, Operands, TraitCmds: it keeps what `Keeps` says. One lemma for each
operation, so that no later proof unfolds one to know this. -/

namespace Sys2Proof.Machine

theorem keeps_addReq {r s : State} (hs : Keeps r s) (x2 : Nat) (x3 : Bool) (x4 : Nat) (x5 : Nat) (x6 : Nat) (x7 : Nat) (x8 : Nat) (x9 : Use) (x10 : Bool) (x11 : optParam (Option (Nat × Nat)) none) : Keeps r (addReq s x2 x3 x4 x5 x6 x7 x8 x9 x10 x11) := by
  unfold addReq
  try dsimp only
  repeat' (first | with_reducible assumption | split | (intro _; intros; try dsimp only) | with_reducible refine Keeps.upd ?_ (by rfl))

theorem keeps_bump {r s : State} (hs : Keeps r s) (x2 : Nat) (x3 : Nat) : Keeps r (bump s x2 x3) := by
  unfold bump
  try dsimp only
  repeat' (first | with_reducible assumption | with_reducible apply keeps_bumpAt | split | (intro _; intros; try dsimp only))

theorem keeps_bumpArr {r s : State} (hs : Keeps r s) (x2 : Nat) (x3 : Nat) (x4 : Nat) (x5 : Nat) (x6 : Nat) : Keeps r (bumpArr s x2 x3 x4 x5 x6) := by
  unfold bumpArr
  try dsimp only
  repeat' (first | with_reducible assumption | with_reducible apply keeps_bumpAt | with_reducible apply Keeps.ite | split | (intro _; intros; try dsimp only))

theorem keeps_bumpD {r s : State} (hs : Keeps r s) (x2 : Nat) (x3 : Nat) (x4 : Nat) : Keeps r (bumpD s x2 x3 x4) := by
  unfold bumpD
  try dsimp only
  repeat' (first | with_reducible assumption | with_reducible apply keeps_bumpAt | with_reducible apply Keeps.ite | split | (intro _; intros; try dsimp only))

theorem keeps_bumpCensus {r s : State} (hs : Keeps r s) (x2 : Nat) (x3 : Census) : Keeps r (bumpCensus s x2 x3) := by
  unfold bumpCensus
  try dsimp only
  repeat' (first | with_reducible assumption | with_reducible apply keeps_bumpD | split | (intro _; intros; try dsimp only))

theorem keeps_draw {r s : State} (hs : Keeps r s) : Keeps r (draw s).2 := by
  unfold draw
  try dsimp only
  repeat' (first | with_reducible assumption | split | (intro _; intros; try dsimp only) | with_reducible refine Keeps.upd ?_ (by rfl))
theorem keeps_draw_eq {r s t : State} {a}  (hs : Keeps r s) (e : draw s = (a, t)) : Keeps r t := by
  have := keeps_draw hs  
  rw [e] at this; exact this

theorem keeps_dropInst {r s : State} (hs : Keeps r s) (x2 : Inst) : Keeps r (dropInst s x2) := by
  unfold dropInst
  try dsimp only
  repeat' (first | with_reducible assumption | split | (intro _; intros; try dsimp only) | with_reducible refine Keeps.upd ?_ (by rfl))

theorem keeps_latch {r s : State} (hs : Keeps r s) (x2 : Nat) : Keeps r (latch s x2) := by
  unfold latch
  try dsimp only
  repeat' (first | with_reducible assumption | split | (intro _; intros; try dsimp only) | with_reducible refine Keeps.upd ?_ (by rfl))

theorem keeps_storeT1 {r s : State} (hs : Keeps r s) (x2 : Nat) (x3 : Nat) (x4 : Nat) (x5 : List Byte) (x6 : Use) (x7 : Bool) : Keeps r (storeT1 s x2 x3 x4 x5 x6 x7) := by
  unfold storeT1
  try dsimp only
  repeat' (first | with_reducible assumption | with_reducible apply keeps_addReq | with_reducible apply keeps_forEach | split | (intro _; intros; try dsimp only) | with_reducible refine Keeps.store ?_ (by rfl))

theorem keeps_writeT1 {r s : State} (hs : Keeps r s) (x2 : Nat) (x3 : Nat) (x4 : List Byte) : Keeps r (writeT1 s x2 x3 x4) := by
  unfold writeT1
  try dsimp only
  repeat' (first | with_reducible assumption | with_reducible apply keeps_storeT1 | split | (intro _; intros; try dsimp only))

theorem keeps_evWrite {r s : State} (hs : Keeps r s) (x2 : EvEntry) : Keeps r (evWrite s x2) := by
  unfold evWrite
  try dsimp only
  repeat' (first | with_reducible assumption | with_reducible apply keeps_writeT1 | split | (intro _; intros; try dsimp only) | with_reducible refine Keeps.upd ?_ (by rfl))

theorem keeps_evDrainAux {r s : State} (hs : Keeps r s) (x1 : List EvEntry) : Keeps r (evDrainAux x1 s) := by
  induction x1 generalizing s  with
  | nil =>
    unfold evDrainAux
    repeat' (first | with_reducible assumption | with_reducible apply keeps_evWrite | with_reducible apply Keeps.ite | split | (intro _; intros; try dsimp only) | with_reducible refine Keeps.upd ?_ (by rfl))
  | cons e l ih =>
    unfold evDrainAux
    try dsimp only
    repeat' (first | with_reducible assumption | with_reducible apply ih | with_reducible apply keeps_evWrite | with_reducible apply Keeps.ite | split | (intro _; intros; try dsimp only) | with_reducible refine Keeps.upd ?_ (by rfl))

theorem keeps_evDrain {r s : State} (hs : Keeps r s) : Keeps r (evDrain s) := by
  unfold evDrain
  try dsimp only
  repeat' (first | with_reducible assumption | with_reducible apply keeps_latch | with_reducible apply keeps_evDrainAux | with_reducible apply Keeps.ite | split | (intro _; intros; try dsimp only) | with_reducible refine Keeps.upd ?_ (by rfl))

theorem keeps_evPut {r s : State} (hs : Keeps r s) (x2 : EvEntry) : Keeps r (evPut s x2) := by
  unfold evPut
  try dsimp only
  repeat' (first | with_reducible assumption | with_reducible apply keeps_bump | with_reducible apply keeps_evWrite | with_reducible apply Keeps.ite | split | (intro _; intros; try dsimp only) | with_reducible refine Keeps.upd ?_ (by rfl))

theorem keeps_evFlushDrop {r s : State} (hs : Keeps r s) : Keeps r (evFlushDrop s) := by
  unfold evFlushDrop
  try dsimp only
  repeat' (first | with_reducible assumption | with_reducible apply keeps_evPut | with_reducible apply Keeps.ite | split | (intro _; intros; try dsimp only) | with_reducible refine Keeps.upd ?_ (by rfl))

theorem keeps_raiseIbi {r s : State} (hs : Keeps r s) (x2 : Nat) : Keeps r (raiseIbi s x2) := by
  unfold raiseIbi
  try dsimp only
  repeat' (first | with_reducible assumption | with_reducible apply Keeps.ite | split | (intro _; intros; try dsimp only) | with_reducible refine Keeps.upd ?_ (by rfl))

theorem keeps_setVal {r s : State} (hs : Keeps r s) (x2 : Nat) (x3 : Nat) (x4 : Nat) (x5 : W64) : Keeps r (setVal s x2 x3 x4 x5) := by
  unfold setVal
  try dsimp only
  repeat' (first | with_reducible assumption | split | (intro _; intros; try dsimp only) | with_reducible refine Keeps.upd ?_ (by rfl))

theorem keeps_traceStop {r s : State} (hs : Keeps r s) : Keeps r (traceStop s) := by
  unfold traceStop
  try dsimp only
  repeat' (first | with_reducible assumption | with_reducible apply keeps_setVal | with_reducible apply Keeps.ite | split | (intro _; intros; try dsimp only))

theorem keeps_post {r s : State} (hs : Keeps r s) (x2 : Nat) (x3 : Option Nat) (x4 : Nat) (x5 : Nat) (x6 : Nat) : Keeps r (post s x2 x3 x4 x5 x6) := by
  unfold post
  try dsimp only
  repeat' (first | with_reducible assumption | with_reducible apply keeps_raiseIbi | with_reducible apply keeps_traceStop | with_reducible apply keeps_evPut | with_reducible apply keeps_evFlushDrop | with_reducible apply Keeps.ite | split | (intro _; intros; try dsimp only))

theorem keeps_putStat {r s : State} (hs : Keeps r s) (x2 : Inst) (x3 : StatRec) : Keeps r (putStat s x2 x3) := by
  unfold putStat
  try dsimp only
  repeat' (first | with_reducible assumption | split | (intro _; intros; try dsimp only) | with_reducible refine Keeps.upd ?_ (by rfl))

theorem keeps_finish {r s : State} (hs : Keeps r s) (x2 : Inst) (x3 : Option Nat) (x4 : Nat) (x5 : W64) (x6 : W64) : Keeps r (finish s x2 x3 x4 x5 x6) := by
  unfold finish
  try dsimp only
  repeat' (first | with_reducible assumption | with_reducible apply keeps_post | with_reducible apply keeps_dropInst | with_reducible apply keeps_putStat | split | (intro _; intros; try dsimp only))

theorem keeps_recEntry {r s : State} (hs : Keeps r s) (x2 : Nat) (x3 : W64) (x4 : W64) : Keeps r (recEntry s x2 x3 x4) := by
  unfold recEntry
  try dsimp only
  repeat' (first | with_reducible assumption | split | (intro _; intros; try dsimp only) | with_reducible refine Keeps.upd ?_ (by rfl))

theorem keeps_recEvent {r s : State} (hs : Keeps r s) (x2 : Nat) (x3 : Nat) (x4 : PosKey) (x5 : Option Nat) (x6 : Nat) : Keeps r (recEvent s x2 x3 x4 x5 x6) := by
  unfold recEvent
  try dsimp only
  repeat' (first | with_reducible assumption | with_reducible apply keeps_recEntry | split | (intro _; intros; try dsimp only))

theorem keeps_refuse {r s : State} (hs : Keeps r s) (x2 : Inst) (x3 : Option Nat) (x4 : Nat) : Keeps r (refuse s x2 x3 x4) := by
  unfold refuse
  try dsimp only
  repeat' (first | with_reducible assumption | with_reducible apply keeps_finish | split | (intro _; intros; try dsimp only))

theorem keeps_setInst {r s : State} (hs : Keeps r s) (x2 : Inst) : Keeps r (setInst s x2) := by
  unfold setInst
  try dsimp only
  repeat' (first | with_reducible assumption | with_reducible apply keeps_putStat | split | (intro _; intros; try dsimp only) | with_reducible refine Keeps.upd ?_ (by rfl))

theorem keeps_acceptVal {r s : State} (hs : Keeps r s) (x2 : Obj) (x3 : Nat) (x4 : W64) : Keeps r (acceptVal s x2 x3 x4) := by
  unfold acceptVal
  try dsimp only
  repeat' (first | with_reducible assumption | split | (intro _; intros; try dsimp only) | with_reducible refine Keeps.upd ?_ (by rfl))

theorem keeps_setBundle {r s : State} (hs : Keeps r s) (x2 : Nat) (x3 : Bundle) : Keeps r (setBundle s x2 x3) := by
  unfold setBundle
  try dsimp only
  repeat' (first | with_reducible assumption | split | (intro _; intros; try dsimp only) | with_reducible refine Keeps.upd ?_ (by rfl))

theorem keeps_bundleWrites {r s : State} (hs : Keeps r s) (x2 : Bundle) : Keeps r (bundleWrites s x2) := by
  unfold bundleWrites
  try dsimp only
  repeat' (first | with_reducible assumption | with_reducible apply keeps_forEach | split | (intro _; intros; try dsimp only) | with_reducible refine Keeps.upd ?_ (by rfl))

theorem keeps_bundleApply {r s : State} (hs : Keeps r s) (x2 : Nat) : Keeps r (bundleApply s x2) := by
  unfold bundleApply
  try dsimp only
  repeat' (first | with_reducible assumption | with_reducible apply keeps_finish | with_reducible apply keeps_setBundle | with_reducible apply keeps_bundleWrites | with_reducible apply Keeps.ite | split | (intro _; intros; try dsimp only))

theorem keeps_bundleDiscard {r s : State} (hs : Keeps r s) (x2 : Nat) : Keeps r (bundleDiscard s x2) := by
  unfold bundleDiscard
  try dsimp only
  repeat' (first | with_reducible assumption | with_reducible apply keeps_refuse | with_reducible apply keeps_setBundle | split | (intro _; intros; try dsimp only))

theorem keeps_bundleWrite {r s : State} (hs : Keeps r s) (x2 : Path) (x3 : Nat) (x4 : Obj) (x5 : Nat) (x6 : Nat) (x7 : W64) : Keeps r (bundleWrite s x2 x3 x4 x5 x6 x7).2 := by
  unfold bundleWrite
  try dsimp only
  repeat' (first | with_reducible assumption | with_reducible apply keeps_setBundle | split | (intro _; intros; try dsimp only))
theorem keeps_bundleWrite_eq {r s t : State} {a} {x2 : Path} {x3 : Nat} {x4 : Obj} {x5 : Nat} {x6 : Nat} {x7 : W64} (hs : Keeps r s) (e : bundleWrite s x2 x3 x4 x5 x6 x7 = (a, t)) : Keeps r t := by
  have := keeps_bundleWrite hs x2 x3 x4 x5 x6 x7 
  rw [e] at this; exact this

theorem keeps_bundlesDue {r s : State} (hs : Keeps r s) (x2 : Nat) (x3 : Nat) : Keeps r (bundlesDue s x2 x3) := by
  unfold bundlesDue
  try dsimp only
  repeat' (first | with_reducible assumption | with_reducible apply keeps_setBundle | with_reducible apply keeps_bundleApply | with_reducible apply keeps_forEach | with_reducible apply Keeps.ite | split | (intro _; intros; try dsimp only))

theorem keeps_bundlesReleased {r s : State} (hs : Keeps r s) (x2 : Nat) : Keeps r (bundlesReleased s x2) := by
  unfold bundlesReleased
  try dsimp only
  repeat' (first | with_reducible assumption | with_reducible apply keeps_bundleApply | with_reducible apply keeps_forEach | with_reducible apply Keeps.ite | split | (intro _; intros; try dsimp only))

theorem keeps_issueCmd {r s : State} (hs : Keeps r s) (x2 : Path) (x3 : Obj) (x4 : List W64) (x5 : Nat) : Keeps r (issueCmd s x2 x3 x4 x5).2.2 := by
  unfold issueCmd
  try dsimp only
  repeat' (first | with_reducible assumption | with_reducible apply keeps_putStat | split | (intro _; intros; try dsimp only) | with_reducible refine Keeps.upd ?_ (by rfl))
theorem keeps_issueCmd_eq {r s t : State} {a b} {x2 : Path} {x3 : Obj} {x4 : List W64} {x5 : Nat} (hs : Keeps r s) (e : issueCmd s x2 x3 x4 x5 = (a, b, t)) : Keeps r t := by
  have := keeps_issueCmd hs x2 x3 x4 x5 
  rw [e] at this; exact this

theorem keeps_resetWritesDue {r s : State} (hs : Keeps r s) : Keeps r (resetWritesDue s) := by
  unfold resetWritesDue
  try dsimp only
  repeat' (first | with_reducible assumption | split | (intro _; intros; try dsimp only) | with_reducible refine Keeps.upd ?_ (by rfl))

theorem keeps_stepWritesDue {r s : State} (hs : Keeps r s) (x2 : Nat) : Keeps r (stepWritesDue s x2) := by
  unfold stepWritesDue
  try dsimp only
  repeat' (first | with_reducible assumption | split | (intro _; intros; try dsimp only) | with_reducible refine Keeps.upd ?_ (by rfl))

theorem keeps_stepView {r s : State} (hs : Keeps r s) (x2 : Nat) (x3 : Nat) : Keeps r (stepView s x2 x3) := by
  unfold stepView
  try dsimp only
  repeat' (first | with_reducible assumption | with_reducible apply keeps_bundleWrites | with_reducible apply keeps_stepWritesDue | with_reducible apply keeps_forEach | with_reducible apply Keeps.ite | split | (intro _; intros; try dsimp only))

theorem keeps_stepWritesReleased {r s : State} (hs : Keeps r s) (x2 : Nat) : Keeps r (stepWritesReleased s x2) := by
  unfold stepWritesReleased
  try dsimp only
  repeat' (first | with_reducible assumption | split | (intro _; intros; try dsimp only) | with_reducible refine Keeps.upd ?_ (by rfl))

theorem keeps_mapShare {r s : State} (hs : Keeps r s) (x2 : Nat) : Keeps r (mapShare s x2) := by
  unfold mapShare
  try dsimp only
  repeat' (first | with_reducible assumption | with_reducible apply keeps_updPart | split | (intro _; intros; try dsimp only))

theorem keeps_delXt {r s : State} (hs : Keeps r s) (x2 : Nat) : Keeps r (delXt s x2) := by
  unfold delXt
  try dsimp only
  repeat' (first | with_reducible assumption | split | (intro _; intros; try dsimp only) | with_reducible refine Keeps.upd ?_ (by rfl))

theorem keeps_setXt {r s : State} (hs : Keeps r s) (x2 : Nat) (x3 : XEnt) : Keeps r (setXt s x2 x3) := by
  unfold setXt
  try dsimp only
  repeat' (first | with_reducible assumption | split | (intro _; intros; try dsimp only) | with_reducible refine Keeps.upd ?_ (by rfl))

theorem keeps_drainEnd {r s : State} (hs : Keeps r s) (x2 : Nat) : Keeps r (drainEnd s x2) := by
  unfold drainEnd
  try dsimp only
  repeat' (first | with_reducible assumption | with_reducible apply keeps_delXt | with_reducible apply keeps_addReq | with_reducible apply keeps_setXt | with_reducible apply keeps_forEach | with_reducible apply Keeps.ite | split | (intro _; intros; try dsimp only) | with_reducible refine Keeps.store ?_ (by rfl))

theorem keeps_homeEntryIdle {r s : State} (hs : Keeps r s) (x2 : Nat) : Keeps r (homeEntryIdle s x2) := by
  unfold homeEntryIdle
  try dsimp only
  repeat' (first | with_reducible assumption | with_reducible apply keeps_delXt | with_reducible apply Keeps.ite | split | (intro _; intros; try dsimp only))

theorem keeps_updXt {r s : State} (hs : Keeps r s) (x2 : Nat) (x3 : XEnt → XEnt) : Keeps r (updXt s x2 x3) := by
  unfold updXt
  try dsimp only
  repeat' (first | with_reducible assumption | split | (intro _; intros; try dsimp only) | with_reducible refine Keeps.upd ?_ (by rfl))

theorem keeps_dissolveRick {r s : State} (hs : Keeps r s) (x2 : Nat) : Keeps r (dissolveRick s x2) := by
  unfold dissolveRick
  try dsimp only
  repeat' (first | with_reducible assumption | with_reducible apply keeps_updXt | split | (intro _; intros; try dsimp only) | with_reducible refine Keeps.upd ?_ (by rfl))

theorem keeps_afterSwitch {r s : State} (hs : Keeps r s) (x2 : Nat) (x3 : Nat) : Keeps r (afterSwitch s x2 x3) := by
  unfold afterSwitch
  try dsimp only
  repeat' (first | with_reducible assumption | with_reducible apply keeps_delXt | with_reducible apply keeps_drainEnd | with_reducible apply keeps_setXt | with_reducible apply keeps_homeEntryIdle | with_reducible apply keeps_dissolveRick | with_reducible apply Keeps.ite | split | (intro _; intros; try dsimp only) | with_reducible refine Keeps.upd ?_ (by rfl))

theorem keeps_cancelDrain {r s : State} (hs : Keeps r s) (x2 : Nat) : Keeps r (cancelDrain s x2) := by
  unfold cancelDrain
  try dsimp only
  repeat' (first | with_reducible assumption | with_reducible apply keeps_setXt | with_reducible apply keeps_bumpD | with_reducible apply Keeps.ite | split | (intro _; intros; try dsimp only))

theorem keeps_pinEntry {r s : State} (hs : Keeps r s) (x2 : Nat) : Keeps r (pinEntry s x2) := by
  unfold pinEntry
  try dsimp only
  repeat' (first | with_reducible assumption | with_reducible apply keeps_bumpD | with_reducible apply keeps_setXt | with_reducible apply Keeps.ite | split | (intro _; intros; try dsimp only))

theorem keeps_rickEntry {r s : State} (hs : Keeps r s) (x2 : Nat) : Keeps r (rickEntry s x2) := by
  unfold rickEntry
  try dsimp only
  repeat' (first | with_reducible assumption | with_reducible apply keeps_pinEntry | with_reducible apply Keeps.ite | split | (intro _; intros; try dsimp only))

theorem keeps_countUse {r s : State} (hs : Keeps r s) (x2 : Nat) (x3 : Nat) : Keeps r (countUse s x2 x3) := by
  unfold countUse
  try dsimp only
  repeat' (first | with_reducible assumption | with_reducible apply keeps_updXt | with_reducible apply keeps_rickEntry | split | (intro _; intros; try dsimp only) | with_reducible refine Keeps.upd ?_ (by rfl))

theorem keeps_evictAck {r s : State} (hs : Keeps r s) (x2 : Nat) : Keeps r (evictAck s x2) := by
  unfold evictAck
  try dsimp only
  repeat' (first | with_reducible assumption | with_reducible apply keeps_setXt | with_reducible apply keeps_drainEnd | with_reducible apply Keeps.ite | split | (intro _; intros; try dsimp only))

theorem keeps_setMove {r s : State} (hs : Keeps r s) (x2 : Move) : Keeps r (setMove s x2) := by
  unfold setMove
  try dsimp only
  repeat' (first | with_reducible assumption | split | (intro _; intros; try dsimp only) | with_reducible refine Keeps.upd ?_ (by rfl))

theorem keeps_usersLost {r s : State} (hs : Keeps r s) (x2 : Use → Bool) : Keeps r (usersLost s x2) := by
  unfold usersLost
  try dsimp only
  repeat' (first | with_reducible assumption | split | (intro _; intros; try dsimp only) | with_reducible refine Keeps.upd ?_ (by rfl))

theorem keeps_moveGone {r s : State} (hs : Keeps r s) (x2 : Move) : Keeps r (moveGone s x2) := by
  unfold moveGone
  try dsimp only
  repeat' (first | with_reducible assumption | with_reducible apply keeps_usersLost | split | (intro _; intros; try dsimp only) | with_reducible refine Keeps.upd ?_ (by rfl))

theorem keeps_moveAbort {r s : State} (hs : Keeps r s) (x2 : Nat) : Keeps r (moveAbort s x2) := by
  unfold moveAbort
  try dsimp only
  repeat' (first | with_reducible assumption | with_reducible apply keeps_bumpD | with_reducible apply keeps_latch | with_reducible apply keeps_setXt | with_reducible apply keeps_homeEntryIdle | with_reducible apply keeps_delXt | with_reducible apply keeps_moveGone | with_reducible apply Keeps.ite | split | (intro _; intros; try dsimp only))

theorem keeps_flogPut {r s : State} (hs : Keeps r s) (x2 : Nat) (x3 : Nat × Nat) : Keeps r (flogPut s x2 x3) := by
  unfold flogPut
  try dsimp only
  repeat' (first | with_reducible assumption | with_reducible apply keeps_storeT1 | with_reducible apply keeps_setMove | with_reducible apply keeps_moveAbort | split | (intro _; intros; try dsimp only) | with_reducible refine Keeps.upd ?_ (by rfl))

theorem keeps_extWriteQ {r s : State} (hs : Keeps r s) (x2 : Nat) (x3 : Nat) (x4 : Nat) (x5 : List Byte) : Keeps r (extWriteQ s x2 x3 x4 x5) := by
  unfold extWriteQ
  try dsimp only
  repeat' (first | with_reducible assumption | with_reducible apply keeps_flogPut | with_reducible apply keeps_addReq | with_reducible apply keeps_forEach | with_reducible apply keeps_updXt | with_reducible apply Keeps.ite | split | (intro _; intros; try dsimp only) | with_reducible refine Keeps.store ?_ (by rfl))

theorem keeps_thawHighCheck {r s : State} (hs : Keeps r s) (x2 : Nat) : Keeps r (thawHighCheck s x2) := by
  unfold thawHighCheck
  try dsimp only
  repeat' (first | with_reducible assumption | with_reducible apply keeps_post | with_reducible apply Keeps.ite | split | (intro _; intros; try dsimp only) | with_reducible refine Keeps.upd ?_ (by rfl))

theorem keeps_fillEnd {r s : State} (hs : Keeps r s) (x2 : Nat) : Keeps r (fillEnd s x2) := by
  unfold fillEnd
  try dsimp only
  repeat' (first | with_reducible assumption | with_reducible apply keeps_thawHighCheck | with_reducible apply keeps_setXt | with_reducible apply Keeps.ite | split | (intro _; intros; try dsimp only) | with_reducible refine Keeps.store ?_ (by rfl))

theorem keeps_fillFail {r s : State} (hs : Keeps r s) (x2 : Nat) : Keeps r (fillFail s x2) := by
  unfold fillFail
  try dsimp only
  repeat' (first | with_reducible assumption | with_reducible apply keeps_delXt | with_reducible apply keeps_bumpD | with_reducible apply Keeps.ite | split | (intro _; intros; try dsimp only))

theorem keeps_formRick {r s : State} (hs : Keeps r s) (x2 : Nat) (x3 : XEnt) : Keeps r (formRick s x2 x3) := by
  unfold formRick
  try dsimp only
  repeat' (first | with_reducible assumption | with_reducible apply keeps_addReq | with_reducible apply keeps_forEach | with_reducible apply keeps_setXt | with_reducible apply keeps_bumpD | with_reducible apply Keeps.ite | split | (intro _; intros; try dsimp only) | with_reducible refine Keeps.upd ?_ (by rfl))

theorem keeps_makeRoom {r s : State} (hs : Keeps r s) (x1 : Nat) (x3 : Nat) : Keeps r (makeRoom x1 s x3) := by
  induction x1 generalizing s  with
  | zero =>
    unfold makeRoom
    repeat' (first | with_reducible assumption | with_reducible apply keeps_delXt | with_reducible apply keeps_dissolveRick | with_reducible apply Keeps.ite | split | (intro _; intros; try dsimp only))
  | succ n ih =>
    unfold makeRoom
    try dsimp only
    repeat' (first | with_reducible assumption | with_reducible apply ih | with_reducible apply keeps_delXt | with_reducible apply keeps_dissolveRick | with_reducible apply Keeps.ite | split | (intro _; intros; try dsimp only))

theorem keeps_moveCopyBegin {r s : State} (hs : Keeps r s) (x2 : Move) : Keeps r (moveCopyBegin s x2) := by
  unfold moveCopyBegin
  try dsimp only
  repeat' (first | with_reducible assumption | with_reducible apply keeps_addReq | with_reducible apply keeps_forEach | split | (intro _; intros; try dsimp only))

theorem keeps_moveCopyRead {r s : State} (hs : Keeps r s) (x2 : Nat) (x3 : Req) : Keeps r (moveCopyRead s x2 x3) := by
  unfold moveCopyRead
  try dsimp only
  repeat' (first | with_reducible assumption | with_reducible apply keeps_addReq | split | (intro _; intros; try dsimp only))

theorem keeps_moveReplay {r s : State} (hs : Keeps r s) (x2 : Nat) : Keeps r (moveReplay s x2) := by
  unfold moveReplay
  try dsimp only
  repeat' (first | with_reducible assumption | with_reducible apply keeps_addReq | with_reducible apply keeps_setMove | with_reducible apply keeps_forEach | with_reducible apply Keeps.ite | split | (intro _; intros; try dsimp only) | with_reducible refine Keeps.store ?_ (by rfl))

theorem keeps_movesStart {r s : State} (hs : Keeps r s) (x2 : Nat) : Keeps r (movesStart s x2) := by
  unfold movesStart
  try dsimp only
  repeat' (first | with_reducible assumption | with_reducible apply keeps_bumpD | with_reducible apply keeps_setXt | with_reducible apply keeps_moveCopyBegin | with_reducible apply keeps_setMove | with_reducible apply keeps_forEach | with_reducible apply Keeps.ite | split | (intro _; intros; try dsimp only))

theorem keeps_movesSwitch {r s : State} (hs : Keeps r s) (x2 : Nat) : Keeps r (movesSwitch s x2) := by
  unfold movesSwitch
  try dsimp only
  repeat' (first | with_reducible assumption | with_reducible apply keeps_afterSwitch | with_reducible apply keeps_bumpD | with_reducible apply keeps_latch | with_reducible apply keeps_moveGone | with_reducible apply keeps_forEach | with_reducible apply Keeps.ite | split | (intro _; intros; try dsimp only) | with_reducible refine Keeps.upd ?_ (by rfl))

theorem keeps_noteUse {r s : State} (hs : Keeps r s) (x2 : Nat) : Keeps r (noteUse s x2) := by
  unfold noteUse
  try dsimp only
  repeat' (first | with_reducible assumption | with_reducible apply Keeps.ite | split | (intro _; intros; try dsimp only) | with_reducible refine Keeps.upd ?_ (by rfl))

theorem keeps_objWriteAux {r s : State} (hs : Keeps r s) (x1 x3 x4 x5 x6 : Nat) (x7 : List Byte) : Keeps r (objWriteAux x1 s x3 x4 x5 x6 x7) := by
  induction x1 generalizing s x6 x7 with
  | zero =>
    unfold objWriteAux
    repeat' (first | with_reducible assumption | with_reducible apply keeps_extWriteQ | with_reducible apply Keeps.ite | split | (intro _; intros; try dsimp only))
  | succ n ih =>
    unfold objWriteAux
    try dsimp only
    repeat' (first | with_reducible assumption | with_reducible apply ih | with_reducible apply keeps_extWriteQ | with_reducible apply Keeps.ite | split | (intro _; intros; try dsimp only))

theorem keeps_objWriteQ {r s : State} (hs : Keeps r s) (x2 : Nat) (x3 : Nat) (x4 : Nat) (x5 : Nat) (x6 : List Byte) : Keeps r (objWriteQ s x2 x3 x4 x5 x6) := by
  unfold objWriteQ
  try dsimp only
  repeat' (first | with_reducible assumption | with_reducible apply keeps_objWriteAux | split | (intro _; intros; try dsimp only))

theorem keeps_objWrite {r s : State} (hs : Keeps r s) (x2 : Nat) (x3 : Nat) (x4 : Nat) (x5 : List Byte) : Keeps r (objWrite s x2 x3 x4 x5) := by
  unfold objWrite
  try dsimp only
  repeat' (first | with_reducible assumption | with_reducible apply keeps_objWriteQ | split | (intro _; intros; try dsimp only))

theorem keeps_oldFree {r s : State} (hs : Keeps r s) (x2 : Nat) : Keeps r (oldFree s x2) := by
  unfold oldFree
  try dsimp only
  repeat' (first | with_reducible assumption | with_reducible apply Keeps.ite | split | (intro _; intros; try dsimp only) | with_reducible refine Keeps.upd ?_ (by rfl))

theorem keeps_pin {r s : State} (hs : Keeps r s) (x2 : Nat) (x3 : Nat) : Keeps r (pin s x2 x3) := by
  unfold pin
  try dsimp only
  repeat' (first | with_reducible assumption | with_reducible apply keeps_pinEntry | with_reducible apply keeps_cancelDrain | with_reducible apply keeps_updXt | split | (intro _; intros; try dsimp only))

theorem keeps_poisonExtent {r s : State} (hs : Keeps r s) (x2 : Nat) : Keeps r (poisonExtent s x2) := by
  unfold poisonExtent
  try dsimp only
  repeat' (first | with_reducible assumption | with_reducible apply keeps_post | with_reducible apply keeps_setXt | split | (intro _; intros; try dsimp only) | with_reducible refine Keeps.upd ?_ (by rfl))

theorem keeps_readHomeAt {r s : State} (hs : Keeps r s) (x2 : Nat) (x3 : Nat) (x4 : Nat) (x5 : Nat) (x6 : Nat) (x7 : Use) : Keeps r (readHomeAt s x2 x3 x4 x5 x6 x7) := by
  unfold readHomeAt
  try dsimp only
  repeat' (first | with_reducible assumption | with_reducible apply keeps_addReq | with_reducible apply keeps_forEach | split | (intro _; intros; try dsimp only))

theorem keeps_readHome {r s : State} (hs : Keeps r s) (x2 : Nat) (x3 : Nat) (x4 : Nat) (x5 : Use) : Keeps r (readHome s x2 x3 x4 x5) := by
  unfold readHome
  try dsimp only
  repeat' (first | with_reducible assumption | with_reducible apply keeps_readHomeAt | split | (intro _; intros; try dsimp only))

theorem keeps_startFill {r s : State} (hs : Keeps r s) (x2 : Nat) (x3 : Bool) : Keeps r (startFill s x2 x3).1 := by
  unfold startFill
  try dsimp only
  repeat' (first | with_reducible assumption | with_reducible apply keeps_bumpD | with_reducible apply keeps_setXt | with_reducible apply keeps_readHome | with_reducible apply keeps_makeRoom | split | (intro _; intros; try dsimp only))
theorem keeps_startFill_eq {r s t : State} {a} {x2 : Nat} {x3 : Bool} (hs : Keeps r s) (e : startFill s x2 x3 = (t, a)) : Keeps r t := by
  have := keeps_startFill hs x2 x3 
  rw [e] at this; exact this

theorem keeps_promote {r s : State} (hs : Keeps r s) (x2 : Nat) : Keeps r (promote s x2) := by
  unfold promote
  try dsimp only
  repeat' (first | with_reducible assumption | with_reducible apply keeps_bumpD | with_reducible apply keeps_startFill | with_reducible apply Keeps.ite | split | (intro _; intros; try dsimp only))

theorem keeps_readImage {r s : State} (hs : Keeps r s) (x2 : Nat) (x3 : Nat) (x4 : Nat) (x5 : Nat) (x6 : Nat) (x7 : Use) : Keeps r (readImage s x2 x3 x4 x5 x6 x7) := by
  unfold readImage
  try dsimp only
  repeat' (first | with_reducible assumption | with_reducible apply keeps_addReq | with_reducible apply keeps_forEach | split | (intro _; intros; try dsimp only))

theorem keeps_rickPut {r s : State} (hs : Keeps r s) (x2 : Nat) (x3 : Nat) (x4 : Nat) (x5 : Nat) : Keeps r (rickPut s x2 x3 x4 x5) := by
  unfold rickPut
  try dsimp only
  repeat' (first | with_reducible assumption | with_reducible apply keeps_addReq | split | (intro _; intros; try dsimp only) | with_reducible refine Keeps.store ?_ (by rfl))

theorem keeps_rickCopies {r s : State} (hs : Keeps r s) (x2 : Nat) (x3 : Req) : Keeps r (rickCopies s x2 x3) := by
  unfold rickCopies
  try dsimp only
  repeat' (first | with_reducible assumption | with_reducible apply keeps_rickPut | with_reducible apply keeps_forEach | split | (intro _; intros; try dsimp only))

theorem keeps_ricksDue {r s : State} (hs : Keeps r s) (x2 : Nat) : Keeps r (ricksDue s x2) := by
  unfold ricksDue
  try dsimp only
  repeat' (first | with_reducible assumption | with_reducible apply keeps_homeEntryIdle | with_reducible apply keeps_updXt | with_reducible apply keeps_drainEnd | with_reducible apply keeps_dissolveRick | with_reducible apply keeps_formRick | with_reducible apply keeps_forEach | with_reducible apply Keeps.ite | split | (intro _; intros; try dsimp only))

theorem keeps_serveRead {r s : State} (hs : Keeps r s) (x2 : Nat) (x3 : Nat) (x4 : Nat) (x5 : Nat) (x6 : Nat) (x7 : Nat) (x8 : Use) : Keeps r (serveRead s x2 x3 x4 x5 x6 x7 x8).s := by
  unfold serveRead
  try dsimp only
  repeat' (first | with_reducible assumption | with_reducible apply keeps_startFill | with_reducible apply keeps_readImage | with_reducible apply keeps_bumpD | with_reducible apply keeps_pin | with_reducible apply keeps_readHomeAt | with_reducible apply keeps_noteUse | with_reducible apply Keeps.ite | split | (intro _; intros; try dsimp only))

theorem keeps_sketchAge {r s : State} (hs : Keeps r s) : Keeps r (sketchAge s) := by
  unfold sketchAge
  try dsimp only
  repeat' (first | with_reducible assumption | split | (intro _; intros; try dsimp only) | with_reducible refine Keeps.upd ?_ (by rfl))

theorem keeps_thawTake {r s t : State}  {x2 : Nat} (hs : Keeps r s) (hn : thawTake s x2 = some t) : Keeps r t := by
  unfold thawTake at hn
  repeat' (first | contradiction | (split at hn) | (injection hn with hn; (try injections); subst_vars) | (dsimp only at hn))
  all_goals (try dsimp only)
  all_goals repeat' (first | with_reducible assumption | with_reducible refine keeps_startFill_eq ?_ (by with_reducible assumption) | with_reducible apply keeps_thawHighCheck | with_reducible apply keeps_pin | with_reducible apply keeps_updXt | split | (intro _; intros; try dsimp only))

theorem keeps_thaw {r s : State} (hs : Keeps r s) (x2 : Nat) : Keeps r (thaw s x2) := by
  unfold thaw
  try dsimp only
  repeat' (first | with_reducible assumption | with_reducible refine keeps_thawTake ?_ (by with_reducible assumption) | with_reducible apply keeps_bumpD | with_reducible apply Keeps.ite | split | (intro _; intros; try dsimp only) | with_reducible refine Keeps.upd ?_ (by rfl))

theorem keeps_thawRetry {r s : State} (hs : Keeps r s) : Keeps r (thawRetry s) := by
  unfold thawRetry
  try dsimp only
  repeat' (first | with_reducible assumption | with_reducible refine keeps_thawTake ?_ (by with_reducible assumption) | with_reducible apply keeps_bumpD | with_reducible apply keeps_forEach | with_reducible apply Keeps.ite | split | (intro _; intros; try dsimp only) | with_reducible refine Keeps.upd ?_ (by rfl))

theorem keeps_unpin {r s : State} (hs : Keeps r s) (x2 : Nat) (x3 : Nat) : Keeps r (unpin s x2 x3) := by
  unfold unpin
  try dsimp only
  repeat' (first | with_reducible assumption | with_reducible apply keeps_updXt | with_reducible apply keeps_drainEnd | with_reducible apply keeps_oldFree | with_reducible apply keeps_homeEntryIdle | split | (intro _; intros; try dsimp only))

theorem keeps_usesDue {r s : State} (hs : Keeps r s) (x2 : Nat) (x3 : Nat) : Keeps r (usesDue s x2 x3) := by
  unfold usesDue
  try dsimp only
  repeat' (first | with_reducible assumption | with_reducible apply keeps_countUse | with_reducible apply keeps_forEach | split | (intro _; intros; try dsimp only) | with_reducible refine Keeps.upd ?_ (by rfl))

theorem keeps_setUnits {r s : State} (hs : Keeps r s) (x2 : Nat) (x3 : LsUnit → LsUnit) : Keeps r (setUnits s x2 x3) := by
  unfold setUnits
  try dsimp only
  repeat' (first | with_reducible assumption | with_reducible apply keeps_updPart | split | (intro _; intros; try dsimp only))

theorem keeps_setItem {r s : State} (hs : Keeps r s) (x2 : Nat) (x3 : Nat) (x4 : Nat) (x5 : LsItem → LsItem) : Keeps r (setItem s x2 x3 x4 x5) := by
  unfold setItem
  try dsimp only
  repeat' (first | with_reducible assumption | with_reducible apply keeps_setUnits | split | (intro _; intros; try dsimp only))

theorem keeps_updTraits {r s : State} (hs : Keeps r s) (x2 : Nat) (x3 : Traits → Traits) : Keeps r (updTraits s x2 x3) := by
  unfold updTraits
  try dsimp only
  repeat' (first | with_reducible assumption | with_reducible apply keeps_updPart | split | (intro _; intros; try dsimp only))

theorem keeps_rowWrite {r s : State} (hs : Keeps r s) (x2 : Nat) (x3 : Part) (x4 : Nat) (x5 : Nat) (x6 : Bool) (x7 : Nat) (x8 : List Byte) : Keeps r (rowWrite s x2 x3 x4 x5 x6 x7 x8) := by
  unfold rowWrite
  try dsimp only
  repeat' (first | with_reducible assumption | with_reducible apply keeps_objWrite | with_reducible apply keeps_updTraits | split | (intro _; intros; try dsimp only))

theorem keeps_dirtyAck {r s : State} (hs : Keeps r s) (x2 : Nat) (x3 : Nat) : Keeps r (dirtyAck s x2 x3) := by
  unfold dirtyAck
  try dsimp only
  repeat' (first | with_reducible assumption | with_reducible apply keeps_updPart | split | (intro _; intros; try dsimp only))

theorem keeps_itemServed {r : State} (x1 x2 x3 x4 : Nat) (x5 : Served) (hs : Keeps r x5.s) : Keeps r (itemServed x1 x2 x3 x4 x5) := by
  unfold itemServed
  try dsimp only
  repeat' (first | with_reducible assumption | with_reducible apply keeps_setItem | split | (intro _; intros; try dsimp only))

theorem keeps_itemEnd {r s : State} (hs : Keeps r s) (x2 : Nat) (x3 : Nat) (x4 : Nat) (x5 : Bool) : Keeps r (itemEnd s x2 x3 x4 x5) := by
  unfold itemEnd
  try dsimp only
  repeat' (first | with_reducible assumption | with_reducible apply keeps_unpin | with_reducible apply keeps_setItem | with_reducible apply keeps_forEach | split | (intro _; intros; try dsimp only))

theorem keeps_fetchPooled {r s : State} (hs : Keeps r s) (x2 : Nat) (x3 : Nat) (x4 : Nat) (x5 : Nat) (x6 : Nat) : Keeps r (fetchPooled s x2 x3 x4 x5 x6) := by
  unfold fetchPooled
  try dsimp only
  repeat' (first | with_reducible assumption | with_reducible apply keeps_serveRead | with_reducible apply keeps_itemServed | with_reducible apply keeps_forEach | with_reducible apply keeps_itemEnd | with_reducible apply Keeps.ite | split | (intro _; intros; try dsimp only))

theorem keeps_fetchItem {r s : State} (hs : Keeps r s) (x2 : Nat) (x3 : Nat) (x4 : Nat) (x5 : Nat) (x6 : ItemKind) : Keeps r (fetchItem s x2 x3 x4 x5 x6) := by
  unfold fetchItem
  try dsimp only
  repeat' (first | with_reducible assumption | with_reducible apply keeps_itemServed | with_reducible apply keeps_itemEnd | with_reducible apply keeps_serveRead | with_reducible apply keeps_addReq | with_reducible apply keeps_setItem | with_reducible apply keeps_forEach | with_reducible apply keeps_fetchPooled | with_reducible apply Keeps.ite | split | (intro _; intros; try dsimp only))

theorem keeps_itemsResume {r s : State} (hs : Keeps r s) (x2 : Nat) : Keeps r (itemsResume s x2) := by
  unfold itemsResume
  try dsimp only
  repeat' (first | with_reducible assumption | with_reducible apply keeps_fetchItem | with_reducible apply keeps_forEach | with_reducible apply Keeps.ite | split | (intro _; intros; try dsimp only))

theorem keeps_kindleNext {r s : State} (hs : Keeps r s) (x2 : Nat) : Keeps r (kindleNext s x2) := by
  unfold kindleNext
  try dsimp only
  repeat' (first | with_reducible assumption | with_reducible apply keeps_fetchItem | with_reducible apply keeps_forEach | with_reducible apply keeps_updPart | with_reducible apply Keeps.ite | split | (intro _; intros; try dsimp only))

theorem keeps_writeBack {r s : State} (hs : Keeps r s) (x2 : Nat) (x3 : Nat) : Keeps r (writeBack s x2 x3) := by
  unfold writeBack
  try dsimp only
  repeat' (first | with_reducible assumption | with_reducible apply keeps_bumpD | with_reducible apply keeps_addReq | with_reducible apply keeps_forEach | with_reducible apply keeps_setUnits | with_reducible apply Keeps.ite | split | (intro _; intros; try dsimp only) | with_reducible refine Keeps.store ?_ (by rfl))

theorem keeps_flipApply {r s : State} (hs : Keeps r s) (x2 : Nat) (x3 : Flip) : Keeps r (flipApply s x2 x3) := by
  unfold flipApply
  try dsimp only
  repeat' (first | with_reducible assumption | with_reducible apply keeps_finish | with_reducible apply keeps_bumpD | with_reducible apply keeps_updTraits | split | (intro _; intros; try dsimp only))

theorem keeps_flipsCommit {r s : State} (hs : Keeps r s) (x2 : Nat) : Keeps r (flipsCommit s x2) := by
  unfold flipsCommit
  try dsimp only
  repeat' (first | with_reducible assumption | with_reducible apply keeps_updTraits | split | (intro _; intros; try dsimp only))

theorem keeps_flipsDue {r s : State} (hs : Keeps r s) (x2 : Nat) : Keeps r (flipsDue s x2) := by
  unfold flipsDue
  try dsimp only
  repeat' (first | with_reducible assumption | with_reducible apply keeps_updTraits | with_reducible apply keeps_flipApply | with_reducible apply keeps_forEach | with_reducible apply Keeps.ite | split | (intro _; intros; try dsimp only))

theorem keeps_updPoolPart {r s : State} (hs : Keeps r s) (x2 : Nat) (x3 : Nat) (x4 : PoolPart → PoolPart) : Keeps r (updPoolPart s x2 x3 x4) := by
  unfold updPoolPart
  try dsimp only
  repeat' (first | with_reducible assumption | with_reducible apply keeps_updTraits | split | (intro _; intros; try dsimp only))

theorem keeps_poolPartEnd {r s : State} (hs : Keeps r s) (x2 : Nat) (x3 : Nat) (x4 : Bool) : Keeps r (poolPartEnd s x2 x3 x4) := by
  unfold poolPartEnd
  try dsimp only
  repeat' (first | with_reducible assumption | with_reducible apply keeps_unpin | with_reducible apply keeps_updPoolPart | with_reducible apply keeps_updTraits | with_reducible apply Keeps.ite | split | (intro _; intros; try dsimp only))

theorem keeps_pooledResident {r s : State} (hs : Keeps r s) (x2 : Nat) : Keeps r (pooledResident s x2) := by
  unfold pooledResident
  try dsimp only
  repeat' (first | with_reducible assumption | with_reducible apply keeps_bumpD | with_reducible apply keeps_itemsResume | split | (intro _; intros; try dsimp only))

theorem keeps_recMissing {r s : State} (hs : Keeps r s) (x2 : Nat) (x3 : Part) (x4 : PoolPhase) (x5 : Man) : Keeps r (recMissing s x2 x3 x4 x5) := by
  unfold recMissing
  try dsimp only
  repeat' (first | with_reducible assumption | with_reducible apply keeps_recEvent | with_reducible apply keeps_forEach | split | (intro _; intros; try dsimp only))

theorem keeps_poolFinish {r s : State} (hs : Keeps r s) (x2 : Nat) : Keeps r (poolFinish s x2) := by
  unfold poolFinish
  try dsimp only
  repeat' (first | with_reducible assumption | with_reducible apply keeps_pooledResident | with_reducible apply keeps_updTraits | with_reducible apply keeps_objWrite | with_reducible apply keeps_bumpCensus | with_reducible apply keeps_forEach | with_reducible apply keeps_recMissing | with_reducible apply keeps_bumpD | with_reducible apply Keeps.ite | split | (intro _; intros; try dsimp only))

theorem keeps_poolIssue {r s : State} (hs : Keeps r s) (x2 : Nat) : Keeps r (poolIssue s x2) := by
  unfold poolIssue
  try dsimp only
  repeat' (first | with_reducible assumption | with_reducible apply keeps_updPoolPart | with_reducible apply keeps_poolPartEnd | with_reducible apply keeps_serveRead | with_reducible apply keeps_forEach | with_reducible apply keeps_poolFinish | with_reducible apply Keeps.ite | split | (intro _; intros; try dsimp only))

theorem keeps_poolFetch {r s : State} (hs : Keeps r s) (x2 : Nat) : Keeps r (poolFetch s x2) := by
  unfold poolFetch
  try dsimp only
  repeat' (first | with_reducible assumption | with_reducible apply keeps_updTraits | with_reducible apply keeps_poolIssue | with_reducible apply keeps_bumpD | with_reducible apply Keeps.ite | split | (intro _; intros; try dsimp only))

theorem keeps_poolBegin {r s : State} (hs : Keeps r s) (x2 : Nat) (x3 : Man) : Keeps r (poolBegin s x2 x3) := by
  unfold poolBegin
  try dsimp only
  repeat' (first | with_reducible assumption | with_reducible apply keeps_poolFetch | with_reducible apply keeps_updTraits | with_reducible apply Keeps.ite | split | (intro _; intros; try dsimp only))

theorem keeps_poolNext {r s : State} (hs : Keeps r s) (x2 : Nat) : Keeps r (poolNext s x2) := by
  unfold poolNext
  try dsimp only
  repeat' (first | with_reducible assumption | with_reducible apply keeps_poolBegin | with_reducible apply keeps_updTraits | with_reducible apply Keeps.ite | split | (intro _; intros; try dsimp only))

theorem keeps_poolSettle {r s : State} (hs : Keeps r s) (x2 : Nat) : Keeps r (poolSettle s x2) := by
  unfold poolSettle
  try dsimp only
  repeat' (first | with_reducible assumption | with_reducible apply keeps_poolFinish | with_reducible apply keeps_poolNext | split | (intro _; intros; try dsimp only))

theorem keeps_poolReqEnd {r s : State} (hs : Keeps r s) (x2 : Nat) (x3 : Nat) (x4 : Bool) : Keeps r (poolReqEnd s x2 x3 x4) := by
  unfold poolReqEnd
  try dsimp only
  repeat' (first | with_reducible assumption | with_reducible apply keeps_updPoolPart | with_reducible apply keeps_poolPartEnd | with_reducible apply keeps_poolSettle | with_reducible apply Keeps.ite | split | (intro _; intros; try dsimp only))

theorem keeps_redirsRetire {r s : State} (hs : Keeps r s) (x2 : Nat) : Keeps r (redirsRetire s x2) := by
  unfold redirsRetire
  try dsimp only
  repeat' (first | with_reducible assumption | with_reducible apply keeps_updTraits | split | (intro _; intros; try dsimp only))

theorem keeps_updatesResume {r s : State} (hs : Keeps r s) (x2 : Nat) : Keeps r (updatesResume s x2) := by
  unfold updatesResume
  try dsimp only
  repeat' (first | with_reducible assumption | with_reducible apply keeps_itemsResume | with_reducible apply keeps_poolIssue | with_reducible apply keeps_poolNext | with_reducible apply Keeps.ite | split | (intro _; intros; try dsimp only))

theorem keeps_freeFrame {r s : State} (hs : Keeps r s) (x2 : Nat) (x3 : Nat) (x4 : Nat) : Keeps r (freeFrame s x2 x3 x4) := by
  unfold freeFrame
  try dsimp only
  repeat' (first | with_reducible assumption | with_reducible apply keeps_updPart | split | (intro _; intros; try dsimp only))

theorem keeps_updCtx {r s : State} (hs : Keeps r s) (c : Nat) (f : Ctx → Ctx) : Keeps r (updCtx s c f) :=
  hs.updTabs rfl id (sorted_upd c f)

theorem keeps_adoptsFree {r s : State} (hs : Keeps r s) (x2 : Nat) (x3 : Nat) : Keeps r (adoptsFree s x2 x3) := by
  unfold adoptsFree
  try dsimp only
  repeat' (first | with_reducible assumption | with_reducible apply keeps_freeFrame | with_reducible apply keeps_forEach | with_reducible apply keeps_updCtx | split | (intro _; intros; try dsimp only))

theorem keeps_adoptsDue {r s : State} (hs : Keeps r s) (x2 : Nat) (x3 : Nat) : Keeps r (adoptsDue s x2 x3) := by
  unfold adoptsDue
  try dsimp only
  repeat' (first | with_reducible assumption | with_reducible apply keeps_adoptsFree | with_reducible apply keeps_updCtx | split | (intro _; intros; try dsimp only))

theorem keeps_setCtx {r s : State} (hs : Keeps r s) (c : Nat) (x : Ctx) : Keeps r (setCtx s c x) :=
  hs.updTabs rfl id (fun h => Tab.sortedFrom_put _ h rfl)

theorem keeps_takeFrame {r s : State} (hs : Keeps r s) (x2 : Nat) (x3 : Nat) (x4 : Nat) : Keeps r (takeFrame s x2 x3 x4) := by
  unfold takeFrame
  try dsimp only
  repeat' (first | with_reducible assumption | with_reducible apply keeps_updPart | split | (intro _; intros; try dsimp only))

theorem keeps_allocPage {r s : State} (hs : Keeps r s) (x2 : Nat) (x3 : Nat) : Keeps r (allocPage s x2 x3) := by
  unfold allocPage
  try dsimp only
  repeat' (first | with_reducible assumption | with_reducible apply keeps_setCtx | with_reducible apply keeps_takeFrame | split | (intro _; intros; try dsimp only) | with_reducible refine Keeps.upd ?_ (by rfl))

theorem keeps_allocTo {r s : State} (hs : Keeps r s) (x1 x3 x4 x5 : Nat) : Keeps r (allocTo x1 s x3 x4 x5) := by
  induction x1 generalizing s  with
  | zero =>
    unfold allocTo
    repeat' (first | with_reducible assumption | with_reducible apply keeps_allocPage | with_reducible apply Keeps.ite | split | (intro _; intros; try dsimp only))
  | succ n ih =>
    unfold allocTo
    try dsimp only
    repeat' (first | with_reducible assumption | with_reducible apply ih | with_reducible apply keeps_allocPage | with_reducible apply Keeps.ite | split | (intro _; intros; try dsimp only))

theorem keeps_appendCtx {r s : State} (hs : Keeps r s) (x2 : Nat) (x3 : Nat) (x4 : Option W64) : Keeps r (appendCtx s x2 x3 x4) := by
  unfold appendCtx
  try dsimp only
  repeat' (first | with_reducible assumption | with_reducible apply keeps_updCtx | with_reducible apply keeps_updPart | split | (intro _; intros; try dsimp only))

theorem keeps_applyRebind {r s : State} (hs : Keeps r s) (x2 : Nat) (x3 : Inst) : Keeps r (applyRebind s x2 x3) := by
  unfold applyRebind
  try dsimp only
  repeat' (first | with_reducible assumption | with_reducible apply keeps_finish | with_reducible apply keeps_updPart | with_reducible apply keeps_updCtx | with_reducible apply keeps_refuse | with_reducible apply Keeps.ite | split | (intro _; intros; try dsimp only))

theorem keeps_noteEvent {r s : State} (hs : Keeps r s) (x2 : Nat) (x3 : Nat) (x4 : Nat) (x5 : Nat) (x6 : Nat) : Keeps r (noteEvent s x2 x3 x4 x5 x6) := by
  unfold noteEvent
  try dsimp only
  repeat' (first | with_reducible assumption | with_reducible apply keeps_updPart | split | (intro _; intros; try dsimp only))

theorem keeps_freePages {r s : State} (hs : Keeps r s) (x2 : Nat) : Keeps r (freePages s x2) := by
  unfold freePages
  try dsimp only
  repeat' (first | with_reducible assumption | with_reducible apply keeps_updCtx | with_reducible apply keeps_freeFrame | with_reducible apply keeps_forEach | with_reducible apply Keeps.ite | split | (intro _; intros; try dsimp only) | with_reducible refine Keeps.upd ?_ (by rfl))

theorem keeps_freeCtx {r s : State} (hs : Keeps r s) (c : Nat) : Keeps r (freeCtx s c) :=
  (keeps_freePages hs c).updTabs rfl id (Tab.sortedFrom_del c)

theorem keeps_endCtx {r s : State} (hs : Keeps r s) (x2 : Nat) (x3 : Nat) (x4 : Nat) (x5 : Nat) (x6 : Nat) : Keeps r (endCtx s x2 x3 x4 x5 x6) := by
  unfold endCtx
  try dsimp only
  repeat' (first | with_reducible assumption | with_reducible apply keeps_noteEvent | with_reducible apply keeps_freeCtx | split | (intro _; intros; try dsimp only))

theorem keeps_takeTime {r s : State} (hs : Keeps r s) : Keeps r (takeTime s).2 := by
  unfold takeTime
  try dsimp only
  repeat' (first | with_reducible assumption | with_reducible apply keeps_draw | split | (intro _; intros; try dsimp only))
theorem keeps_takeTime_eq {r s t : State} {a}  (hs : Keeps r s) (e : takeTime s = (a, t)) : Keeps r t := by
  have := keeps_takeTime hs  
  rw [e] at this; exact this

theorem keeps_pauseCtx {r s : State} (hs : Keeps r s) (x2 : Nat) (x3 : Nat) (x4 : Bool) : Keeps r (pauseCtx s x2 x3 x4) := by
  unfold pauseCtx
  try dsimp only
  repeat' (first | with_reducible assumption | with_reducible apply keeps_updCtx | with_reducible apply keeps_noteEvent | with_reducible apply keeps_takeTime | split | (intro _; intros; try dsimp only))

theorem keeps_wakeCtx {r s : State} (hs : Keeps r s) (x2 : Nat) (x3 : Nat) (x4 : Nat) (x5 : Option W64) : Keeps r (wakeCtx s x2 x3 x4 x5) := by
  unfold wakeCtx
  try dsimp only
  repeat' (first | with_reducible assumption | with_reducible apply keeps_takeFrame | with_reducible apply keeps_updCtx | with_reducible apply keeps_freeFrame | with_reducible apply keeps_forEach | with_reducible apply Keeps.ite | split | (intro _; intros; try dsimp only))

theorem keeps_applyRequest {r s : State} (hs : Keeps r s) (x2 : Nat) (x3 : Nat) (x4 : Nat) (x5 : List W64) : Keeps r (applyRequest s x2 x3 x4 x5) := by
  unfold applyRequest
  try dsimp only
  repeat' (first | with_reducible assumption | with_reducible apply keeps_endCtx | with_reducible apply keeps_pauseCtx | with_reducible apply keeps_wakeCtx | with_reducible apply keeps_appendCtx | split | (intro _; intros; try dsimp only))

theorem keeps_cqWrite {r s : State} (hs : Keeps r s) (x2 : Nat) (x3 : List W64) : Keeps r (cqWrite s x2 x3) := by
  unfold cqWrite
  try dsimp only
  repeat' (first | with_reducible assumption | with_reducible apply keeps_updPart | with_reducible apply keeps_writeT1 | split | (intro _; intros; try dsimp only))

theorem keeps_cqPut {r s : State} (hs : Keeps r s) (x2 : Nat) (x3 : Compl) : Keeps r (cqPut s x2 x3) := by
  unfold cqPut
  try dsimp only
  repeat' (first | with_reducible assumption | with_reducible apply keeps_updPart | with_reducible apply keeps_bumpD | with_reducible apply keeps_cqWrite | with_reducible apply Keeps.ite | split | (intro _; intros; try dsimp only))

theorem keeps_completeCref {r s : State} (hs : Keeps r s) (x2 : Nat) (x3 : Nat) (x4 : Man) (x5 : Nat) : Keeps r (completeCref s x2 x3 x4 x5) := by
  unfold completeCref
  try dsimp only
  repeat' (first | with_reducible assumption | with_reducible apply keeps_cqPut | with_reducible apply Keeps.ite | split | (intro _; intros; try dsimp only))

theorem keeps_completeCtx {r s : State} (hs : Keeps r s) (x2 : Nat) (x3 : Nat) (x4 : Option Man) (x5 : Nat) : Keeps r (completeCtx s x2 x3 x4 x5) := by
  unfold completeCtx
  try dsimp only
  repeat' (first | with_reducible assumption | with_reducible apply keeps_cqPut | with_reducible apply Keeps.ite | split | (intro _; intros; try dsimp only))

theorem keeps_cqDrainAux {r s : State} (hs : Keeps r s) (x1 : Nat) (x2 : List Compl) : Keeps r (cqDrainAux x1 x2 s) := by
  induction x2 generalizing s  with
  | nil =>
    unfold cqDrainAux
    repeat' (first | with_reducible assumption | with_reducible apply keeps_cqWrite | with_reducible apply keeps_updPart | with_reducible apply Keeps.ite | split | (intro _; intros; try dsimp only))
  | cons e l ih =>
    unfold cqDrainAux
    try dsimp only
    repeat' (first | with_reducible assumption | with_reducible apply ih | with_reducible apply keeps_cqWrite | with_reducible apply keeps_updPart | with_reducible apply Keeps.ite | split | (intro _; intros; try dsimp only))

theorem keeps_cqDrain {r s : State} (hs : Keeps r s) (x2 : Nat) : Keeps r (cqDrain s x2) := by
  unfold cqDrain
  try dsimp only
  repeat' (first | with_reducible assumption | with_reducible apply keeps_cqDrainAux | split | (intro _; intros; try dsimp only))

theorem keeps_completions {r s : State} (hs : Keeps r s) (x2 : Nat) (x3 : Nat) (x4 : Option Man) : Keeps r (completions s x2 x3 x4) := by
  unfold completions
  try dsimp only
  repeat' (first | with_reducible assumption | with_reducible apply keeps_updPart | with_reducible apply keeps_completeCref | with_reducible apply keeps_completeCtx | with_reducible apply keeps_cqDrain | with_reducible apply keeps_forEach | split | (intro _; intros; try dsimp only))

theorem keeps_emberEnter {r s : State} (hs : Keeps r s) (x2 : Nat) (x3 : Nat) : Keeps r (emberEnter s x2 x3) := by
  unfold emberEnter
  try dsimp only
  repeat' (first | with_reducible assumption | with_reducible apply keeps_takeFrame | with_reducible apply keeps_bumpD | with_reducible apply keeps_forEach | with_reducible apply keeps_updCtx | with_reducible apply keeps_takeTime | with_reducible apply Keeps.ite | split | (intro _; intros; try dsimp only))

theorem keeps_framesRelease {r s : State} (hs : Keeps r s) (x2 : Nat) : Keeps r (framesRelease s x2) := by
  unfold framesRelease
  try dsimp only
  repeat' (first | with_reducible assumption | with_reducible apply keeps_updPart | split | (intro _; intros; try dsimp only))

theorem keeps_kvEnd {r s : State} (hs : Keeps r s) (x2 : Nat) (x3 : Nat) : Keeps r (kvEnd s x2 x3) := by
  unfold kvEnd
  try dsimp only
  repeat' (first | with_reducible assumption | with_reducible apply keeps_endCtx | with_reducible apply Keeps.ite | split | (intro _; intros; try dsimp only))

theorem keeps_noteFlags {r s : State} (hs : Keeps r s) (x2 : Nat) (x3 : Nat) (x4 : Nat) : Keeps r (noteFlags s x2 x3 x4) := by
  unfold noteFlags
  try dsimp only
  repeat' (first | with_reducible assumption | with_reducible apply keeps_updPart | split | (intro _; intros; try dsimp only))

theorem keeps_pagesSwitch {r s : State} (hs : Keeps r s) (x2 : Nat) (x3 : Nat) : Keeps r (pagesSwitch s x2 x3) := by
  unfold pagesSwitch
  try dsimp only
  repeat' (first | with_reducible assumption | with_reducible apply keeps_freeFrame | with_reducible apply keeps_updCtx | with_reducible apply keeps_forEach | split | (intro _; intros; try dsimp only) | with_reducible refine Keeps.upd ?_ (by rfl))

theorem keeps_wakeMore {r s : State} (hs : Keeps r s) (x2 : Nat) (x3 : Nat) : Keeps r (wakeMore s x2 x3) := by
  unfold wakeMore
  try dsimp only
  repeat' (first | with_reducible assumption | with_reducible apply keeps_takeFrame | with_reducible apply keeps_updCtx | with_reducible apply keeps_forEach | with_reducible apply Keeps.ite | split | (intro _; intros; try dsimp only))

theorem keeps_pagesDue {r s : State} (hs : Keeps r s) (x2 : Nat) (x3 : Nat) : Keeps r (pagesDue s x2 x3) := by
  unfold pagesDue
  try dsimp only
  repeat' (first | with_reducible assumption | with_reducible apply keeps_updCtx | with_reducible apply keeps_noteEvent | with_reducible apply keeps_pagesSwitch | with_reducible apply keeps_wakeMore | with_reducible apply Keeps.ite | split | (intro _; intros; try dsimp only))

theorem keeps_refuseEntry {r s : State} (hs : Keeps r s) (x2 : Nat) (x3 : Nat) (x4 : Nat) (x5 : W64) (x6 : Option Nat) (x7 : Nat) : Keeps r (refuseEntry s x2 x3 x4 x5 x6 x7) := by
  unfold refuseEntry
  try dsimp only
  repeat' (first | with_reducible assumption | with_reducible apply keeps_cqPut | split | (intro _; intros; try dsimp only))

theorem keeps_requestsDue {r s : State} (hs : Keeps r s) (x2 : Nat) : Keeps r (requestsDue s x2) := by
  unfold requestsDue
  try dsimp only
  repeat' (first | with_reducible assumption | with_reducible apply keeps_applyRebind | with_reducible apply keeps_applyRequest | with_reducible apply keeps_forEach | with_reducible apply keeps_updPart | split | (intro _; intros; try dsimp only) | with_reducible refine Keeps.upd ?_ (by rfl))

theorem keeps_takeOrder {r s : State} (hs : Keeps r s) : Keeps r (takeOrder s).2 := by
  unfold takeOrder
  try dsimp only
  repeat' (first | with_reducible assumption | split | (intro _; intros; try dsimp only) | with_reducible refine Keeps.upd ?_ (by rfl))
theorem keeps_takeOrder_eq {r s t : State} {a}  (hs : Keeps r s) (e : takeOrder s = (a, t)) : Keeps r t := by
  have := keeps_takeOrder hs  
  rw [e] at this; exact this

theorem keeps_treeAccept {r s : State} (hs : Keeps r s) (x2 : Nat) (x3 : Nat) (x4 : Nat) : Keeps r (treeAccept s x2 x3 x4) := by
  unfold treeAccept
  try dsimp only
  repeat' (first | with_reducible assumption | with_reducible apply keeps_updCtx | with_reducible apply keeps_freeFrame | with_reducible apply keeps_forEach | with_reducible apply keeps_bumpD | with_reducible apply Keeps.ite | split | (intro _; intros; try dsimp only))

theorem keeps_setSectRun {r s : State} (hs : Keeps r s) (x2 : Nat) (x3 : Nat) (x4 : Nat) (x5 : Nat) : Keeps r (setSectRun s x2 x3 x4 x5) := by
  unfold setSectRun
  try dsimp only
  repeat' (first | with_reducible assumption | with_reducible apply keeps_updPart | split | (intro _; intros; try dsimp only))

theorem keeps_sectStateWrite {r s : State} (hs : Keeps r s) (x2 : Nat) (x3 : Nat) (x4 : Attach) (x5 : AGen) (x6 : Nat) (x7 : Nat) (x8 : List Byte) : Keeps r (sectStateWrite s x2 x3 x4 x5 x6 x7 x8) := by
  unfold sectStateWrite
  try dsimp only
  repeat' (first | with_reducible assumption | with_reducible apply keeps_objWrite | with_reducible apply keeps_setSectRun | with_reducible apply Keeps.ite | split | (intro _; intros; try dsimp only))

theorem keeps_attachInit {r s : State} (hs : Keeps r s) (x2 : Nat) (x3 : Nat) (x4 : Part) (x5 : Attach) : Keeps r (attachInit s x2 x3 x4 x5) := by
  unfold attachInit
  try dsimp only
  repeat' (first | with_reducible assumption | with_reducible apply keeps_objWrite | with_reducible apply keeps_rowWrite | with_reducible apply keeps_sectStateWrite | with_reducible apply keeps_forEach | with_reducible apply Keeps.ite | split | (intro _; intros; try dsimp only))

theorem keeps_updTrain {r s : State} (hs : Keeps r s) (x2 : Nat) (x3 : Train → Train) : Keeps r (updTrain s x2 x3) := by
  unfold updTrain
  try dsimp only
  repeat' (first | with_reducible assumption | with_reducible apply keeps_updPart | split | (intro _; intros; try dsimp only))

theorem keeps_censusTo {r s : State} (hs : Keeps r s) (x2 : Nat) (x3 : Nat) (x4 : List Nat) (x5 : Nat) : Keeps r (censusTo s x2 x3 x4 x5) := by
  unfold censusTo
  try dsimp only
  repeat' (first | with_reducible assumption | with_reducible apply keeps_updTrain | with_reducible apply Keeps.ite | split | (intro _; intros; try dsimp only))

theorem keeps_charCarry {r s : State} (hs : Keeps r s) (x2 : Nat) (x3 : Part) (x4 : Attach) (x5 : TList) (x6 : Nat) : Keeps r (charCarry s x2 x3 x4 x5 x6) := by
  unfold charCarry
  try dsimp only
  repeat' (first | with_reducible assumption | with_reducible apply keeps_objWrite | split | (intro _; intros; try dsimp only))

theorem keeps_charTag {r s : State} (hs : Keeps r s) (x2 : Nat) (x3 : Part) (x4 : Attach) (x5 : TList) (x6 : Nat) : Keeps r (charTag s x2 x3 x4 x5 x6) := by
  unfold charTag
  try dsimp only
  repeat' (first | with_reducible assumption | with_reducible apply keeps_objWrite | with_reducible apply Keeps.ite | split | (intro _; intros; try dsimp only))

theorem keeps_entryPut {r s : State} (hs : Keeps r s) (x2 : Nat) (x3 : TList) (x4 : Item) : Keeps r (entryPut s x2 x3 x4) := by
  unfold entryPut
  try dsimp only
  repeat' (first | with_reducible assumption | with_reducible apply keeps_objWrite | split | (intro _; intros; try dsimp only))

theorem keeps_expWrite {r s : State} (hs : Keeps r s) (x2 : Nat) (x3 : List Byte) : Keeps r (expWrite s x2 x3) := by
  unfold expWrite
  try dsimp only
  repeat' (first | with_reducible assumption | with_reducible apply keeps_updTrain | with_reducible apply keeps_writeT1 | split | (intro _; intros; try dsimp only))

theorem keeps_expTry {r s t : State} {x2 : Nat} {x3 : List Byte} (hs : Keeps r s) (hn : expTry s x2 x3 = some t) : Keeps r t := by
  unfold expTry at hn
  split at hn
  · cases hn
  · dsimp only at hn
    repeat' (split at hn)
    all_goals cases hn
    · exact keeps_expWrite hs _ _
    · exact keeps_expWrite (keeps_expWrite hs _ _) _ _

theorem keeps_expResync {r s : State} (hs : Keeps r s) (x2 : Nat) : Keeps r (expResync s x2) := by
  unfold expResync
  try dsimp only
  repeat' (first | with_reducible assumption | with_reducible apply keeps_updTrain | with_reducible refine keeps_expTry ?_ (by with_reducible assumption) | split | (intro _; intros; try dsimp only))

theorem keeps_expPut {r s : State} (hs : Keeps r s) (x2 : Nat) (x3 : Nat) (x4 : List Byte) : Keeps r (expPut s x2 x3 x4) := by
  unfold expPut
  try dsimp only
  repeat' (first | with_reducible assumption | with_reducible apply keeps_updTrain | with_reducible apply keeps_bumpD | with_reducible refine keeps_expTry ?_ (by with_reducible assumption) | with_reducible apply keeps_expResync | split | (intro _; intros; try dsimp only))

theorem keeps_gradCensus {r s : State} (hs : Keeps r s) (x2 : Nat) (x3 : Nat) (x4 : List Nat) (x5 : Census) : Keeps r (gradCensus s x2 x3 x4 x5) := by
  unfold gradCensus
  try dsimp only
  repeat' (first | with_reducible assumption | with_reducible apply keeps_bumpCensus | with_reducible apply keeps_censusTo | split | (intro _; intros; try dsimp only))

theorem keeps_gradPut {r s : State} (hs : Keeps r s) (x2 : Nat) (x3 : TList) (x4 : Item) (x5 : List Nat) : Keeps r (gradPut s x2 x3 x4 x5) := by
  unfold gradPut
  try dsimp only
  repeat' (first | with_reducible assumption | with_reducible apply keeps_updTrain | with_reducible apply keeps_objWrite | with_reducible apply keeps_entryPut | split | (intro _; intros; try dsimp only))

theorem keeps_keepWrite {r s : State} (hs : Keeps r s) (x2 : Nat) (x3 : WinCtx) (x4 : Nat) (x5 : Nat) (x6 : List W64 → Nat → Nat → List (Nat × Nat)) (x7 : List Tgt) (x8 : Nat) (x9 : Nat) (x10 : List Byte) : Keeps r (keepWrite s x2 x3 x4 x5 x6 x7 x8 x9 x10) := by
  unfold keepWrite
  try dsimp only
  repeat' (first | with_reducible assumption | with_reducible apply keeps_objWrite | with_reducible apply Keeps.ite | split | (intro _; intros; try dsimp only))

theorem keeps_keepSave {r s : State} (hs : Keeps r s) (x2 : Nat) (x3 : WinCtx) : Keeps r (keepSave s x2 x3) := by
  unfold keepSave
  try dsimp only
  repeat' (first | with_reducible assumption | with_reducible apply keeps_keepWrite | with_reducible apply keeps_updTrain | with_reducible apply keeps_forEach | split | (intro _; intros; try dsimp only))

theorem keeps_keepVec {r s : State} (hs : Keeps r s) (x2 : Nat) (x3 : WinCtx) (x4 : Option Nat) (x5 : Nat) (x6 : Nat) (x7 : List Nat) : Keeps r (keepVec s x2 x3 x4 x5 x6 x7) := by
  unfold keepVec
  try dsimp only
  repeat' (first | with_reducible assumption | with_reducible apply keeps_gradCensus | with_reducible apply keeps_keepWrite | with_reducible apply keeps_updTrain | split | (intro _; intros; try dsimp only))

theorem keeps_keepStash {r s : State} (hs : Keeps r s) (x2 : Nat) (x3 : WinCtx) (x4 : Nat) : Keeps r (keepStash s x2 x3 x4) := by
  unfold keepStash
  try dsimp only
  repeat' (first | with_reducible assumption | with_reducible apply keeps_keepVec | with_reducible apply keeps_forEach | with_reducible apply Keeps.ite | split | (intro _; intros; try dsimp only))

theorem keeps_listDropped {r s : State} (hs : Keeps r s) (x2 : Nat) (x3 : TList) : Keeps r (listDropped s x2 x3) := by
  unfold listDropped
  try dsimp only
  repeat' (first | with_reducible assumption | with_reducible apply keeps_charCarry | with_reducible apply keeps_charTag | with_reducible apply keeps_forEach | with_reducible apply Keeps.ite | split | (intro _; intros; try dsimp only))

theorem keeps_listEnd {r s : State} (hs : Keeps r s) (x2 : Nat) (x3 : TList) : Keeps r (listEnd s x2 x3) := by
  unfold listEnd
  try dsimp only
  repeat' (first | with_reducible assumption | with_reducible apply keeps_updTrain | with_reducible apply keeps_expPut | split | (intro _; intros; try dsimp only))

theorem keeps_listSeal {r s : State} (hs : Keeps r s) (x2 : Nat) (x3 : Nat) : Keeps r (listSeal s x2 x3) := by
  unfold listSeal
  try dsimp only
  repeat' (first | with_reducible assumption | with_reducible apply keeps_objWrite | with_reducible apply keeps_updTrain | with_reducible apply Keeps.ite | split | (intro _; intros; try dsimp only))

theorem keeps_phaseGrads {r s : State} (hs : Keeps r s) (x2 : Nat) (x3 : WinCtx) : Keeps r (phaseGrads s x2 x3) := by
  unfold phaseGrads
  try dsimp only
  repeat' (first | with_reducible assumption | with_reducible apply keeps_gradPut | with_reducible apply keeps_gradCensus | with_reducible apply keeps_bumpD | with_reducible apply keeps_forEach | split | (intro _; intros; try dsimp only))

theorem keeps_poolAccumulate {r s : State} (hs : Keeps r s) (x2 : Nat) (x3 : WinCtx) : Keeps r (poolAccumulate s x2 x3) := by
  unfold poolAccumulate
  try dsimp only
  repeat' (first | with_reducible assumption | with_reducible apply keeps_gradCensus | with_reducible apply keeps_bumpD | with_reducible apply keeps_setUnits | with_reducible apply keeps_updPart | with_reducible apply keeps_forEach | split | (intro _; intros; try dsimp only))

theorem keeps_tensorDropped {r s : State} (hs : Keeps r s) (x2 : Nat) (x3 : Part) (x4 : Attach) (x5 : TList) (x6 : Item) : Keeps r (tensorDropped s x2 x3 x4 x5 x6) := by
  unfold tensorDropped
  try dsimp only
  repeat' (first | with_reducible assumption | with_reducible apply keeps_charTag | with_reducible apply keeps_charCarry | with_reducible apply Keeps.ite | split | (intro _; intros; try dsimp only))

theorem keeps_trainInstall {r s : State} (hs : Keeps r s) (x2 : Nat) (x3 : Nat) : Keeps r (trainInstall s x2 x3) := by
  unfold trainInstall
  try dsimp only
  repeat' (first | with_reducible assumption | with_reducible apply keeps_updPart | with_reducible apply keeps_forEach | split | (intro _; intros; try dsimp only))

theorem keeps_updateRow {r s : State} (hs : Keeps r s) (x2 : Nat) (x3 : Part) (x4 : Attach) (x5 : TList) (x6 : Item) (x7 : GroupRes) : Keeps r (updateRow s x2 x3 x4 x5 x6 x7) := by
  unfold updateRow
  try dsimp only
  repeat' (first | with_reducible assumption | with_reducible apply keeps_bumpCensus | with_reducible apply keeps_expPut | with_reducible apply keeps_objWrite | with_reducible apply keeps_rowWrite | with_reducible apply keeps_bumpD | with_reducible apply Keeps.ite | split | (intro _; intros; try dsimp only))

theorem keeps_updateTensor {r s : State} (hs : Keeps r s) (d : Nat) (P : Part) (a : Attach) (l : TList) (it : Item) (res : GroupRes) : Keeps r (updateTensor s d P a l it res) := by
  unfold updateTensor
  split
  · exact hs
  split
  · exact hs
  split
  · exact hs
  extract_lets run s0 st
  have h0 : Keeps r s0 := Keeps.ite (fun _ => hs) (fun _ => keeps_charCarry hs _ _ _ _ _)
  clear_value s0 st
  split
  extract_lets n off home planes cnt u
  split
  extract_lets new s1 s2
  have h1 : Keeps r s1 := Keeps.ite (fun _ => h0) (fun _ => keeps_objWrite h0 _ _ _ _)
  clear_value s1
  have h2 : Keeps r s2 := Keeps.ite (fun _ => h1) (fun _ => Keeps.ite (fun _ => keeps_setSectRun (keeps_objWrite h1 _ _ _ _) _ _ _ _)
    (fun _ => keeps_objWrite h1 _ _ _ _))
  clear_value s2
  split
  extract_lets cb s3 logB mom s4 s5
  have h4 : Keeps r s4 := Keeps.ite (fun _ => keeps_charTag (keeps_objWrite h2 _ _ _ _) _ _ _ _ _) (fun _ => keeps_objWrite h2 _ _ _ _)
  clear_value s4
  exact Keeps.ite (fun _ => keeps_bumpCensus h4 _ _) (fun _ => keeps_expPut (keeps_bumpCensus h4 _ _) _ _ _)

theorem keeps_allocRows {r s : State} (hs : Keeps r s) (x2 : Nat) (x3 : Man) : Keeps r (allocRows s x2 x3) := by
  unfold allocRows
  try dsimp only
  repeat' (first | with_reducible assumption | with_reducible apply keeps_takeFrame | with_reducible apply keeps_updCtx | with_reducible apply keeps_allocTo | with_reducible apply keeps_forEach | split | (intro _; intros; try dsimp only))

theorem keeps_buildNext {r s : State} (hs : Keeps r s) (x2 : Nat) (x3 : Nat) (x4 : Part) : Keeps r (buildNext s x2 x3 x4).1 := by
  unfold buildNext
  try dsimp only
  repeat' (first | with_reducible assumption | with_reducible apply keeps_updPart | with_reducible apply keeps_updCtx | with_reducible apply keeps_bumpD | with_reducible apply keeps_forEach | split | (intro _; intros; try dsimp only))
theorem keeps_buildNext_eq {r s t : State} {a} {x2 : Nat} {x3 : Nat} {x4 : Part} (hs : Keeps r s) (e : buildNext s x2 x3 x4 = (t, a)) : Keeps r t := by
  have := keeps_buildNext hs x2 x3 x4 
  rw [e] at this; exact this

theorem keeps_deadlinesDue {r s : State} (hs : Keeps r s) (x2 : Nat) (x3 : Nat) (x4 : Option Nat) : Keeps r (deadlinesDue s x2 x3 x4) := by
  unfold deadlinesDue
  try dsimp only
  repeat' (first | with_reducible assumption | with_reducible apply keeps_updCtx | with_reducible apply keeps_forEach | split | (intro _; intros; try dsimp only))

theorem keeps_estimate {r s : State} (hs : Keeps r s) (x2 : Nat) (x3 : Nat) : Keeps r (estimate s x2 x3) := by
  unfold estimate
  try dsimp only
  repeat' (first | with_reducible assumption | with_reducible apply keeps_bumpD | with_reducible apply keeps_updPart | with_reducible apply Keeps.ite | split | (intro _; intros; try dsimp only))

theorem keeps_withSlot {r s : State} (hs : Keeps r s) (x2 : Inst) (x3 : Nat → Part → State) (hx3 : ∀ (y0 : Nat) (y1 : Part), Keeps r (x3 y0 y1)) : Keeps r (withSlot s x2 x3) := by
  unfold withSlot
  try dsimp only
  repeat' (first | with_reducible assumption | with_reducible apply keeps_refuse | apply hx3 | split | (intro _; intros; try dsimp only))

theorem keeps_adptLoadBegin {r s : State} (hs : Keeps r s) (x2 : Inst) : Keeps r (adptLoadBegin s x2) := by
  unfold adptLoadBegin
  try dsimp only
  repeat' (first | with_reducible assumption | with_reducible apply keeps_setInst | with_reducible apply keeps_refuse | with_reducible apply keeps_withSlot | with_reducible apply Keeps.ite | split | (intro _; intros; try dsimp only))

theorem keeps_stageGen {r s : State} (hs : Keeps r s) (x2 : Nat) (x3 : Nat) (x4 : ImgHdr) (x5 : AGen) : Keeps r (stageGen s x2 x3 x4 x5) := by
  unfold stageGen
  try dsimp only
  repeat' (first | with_reducible assumption | with_reducible apply keeps_updPart | split | (intro _; intros; try dsimp only))

theorem keeps_installNow {r s : State} (hs : Keeps r s) (x2 : Nat) (x3 : ImgHdr) (x4 : AGen) : Keeps r (installNow s x2 x3 x4) := by
  unfold installNow
  try dsimp only
  repeat' (first | with_reducible assumption | with_reducible apply keeps_updPart | split | (intro _; intros; try dsimp only))

theorem keeps_loadDone {r s : State} (hs : Keeps r s) (x2 : Inst) (x3 : Nat) (x4 : ImgHdr) : Keeps r (loadDone s x2 x3 x4) := by
  unfold loadDone
  try dsimp only
  repeat' (first | with_reducible assumption | with_reducible apply keeps_finish | split | (intro _; intros; try dsimp only))

theorem keeps_adptLoadEnd {r s : State} (hs : Keeps r s) (i : Inst) : Keeps r (adptLoadEnd s i) := by
  unfold adptLoadEnd
  split
  · exact keeps_refuse hs _ _ _
  · dsimp only
    split
    · exact keeps_refuse hs _ _ _
    · split
      · exact keeps_refuse hs _ _ _
      · have h1 := @Keeps.ite r { s with tm := { s.tm with objs := s.tm.objs.upd (objKey i.part (loadBase i).2) (fun o => { o with cuts := imageCuts (imgGen s i.part (loadBase i).1 (loadBase i).2).2 }) } } s ((loadBase i).1 = 1) _ (fun _ => hs.upd rfl) (fun _ => hs)
        split
        · exact keeps_loadDone (keeps_updPart (keeps_stageGen h1 _ _ _ _) _ _) _ _ _
        · exact keeps_setInst (keeps_stageGen h1 _ _ _ _) _

theorem keeps_applyAdptUnload {r s : State} (hs : Keeps r s) (x2 : Inst) : Keeps r (applyAdptUnload s x2) := by
  unfold applyAdptUnload
  try dsimp only
  repeat' (first | with_reducible assumption | with_reducible apply keeps_updPart | with_reducible apply keeps_finish | split | (intro _; intros; try dsimp only))

theorem keeps_adptUnloadAct {r s : State} (hs : Keeps r s) (x2 : Inst) : Keeps r (adptUnloadAct s x2) := by
  unfold adptUnloadAct
  try dsimp only
  repeat' (first | with_reducible assumption | with_reducible apply keeps_setInst | with_reducible apply keeps_applyAdptUnload | with_reducible apply keeps_updPart | with_reducible apply keeps_refuse | with_reducible apply keeps_withSlot | with_reducible apply Keeps.ite | split | (intro _; intros; try dsimp only))

theorem keeps_applyAdptLoad {r s : State} (hs : Keeps r s) (x2 : Inst) : Keeps r (applyAdptLoad s x2) := by
  unfold applyAdptLoad
  try dsimp only
  repeat' (first | with_reducible assumption | with_reducible apply keeps_updPart | with_reducible apply keeps_finish | with_reducible apply keeps_refuse | split | (intro _; intros; try dsimp only))

theorem keeps_atBoundary {r s : State} (hs : Keeps r s) (x2 : Inst) (x3 : Nat) (x4 : Part) (x5 : State → Inst → State) (hx5 : ∀ (y0 : State) (y1 : Inst), Keeps r y0 → Keeps r (x5 y0 y1)) : Keeps r (atBoundary s x2 x3 x4 x5) := by
  unfold atBoundary
  try dsimp only
  repeat' (first | with_reducible assumption | with_reducible apply keeps_setInst | apply hx5 | with_reducible apply Keeps.ite | split | (intro _; intros; try dsimp only))

theorem keeps_cmdRow {r s : State} (hs : Keeps r s) (x2 : Nat) (x3 : Nat) (x4 : State → Inst → State) (hx4 : ∀ (y0 : State) (y1 : Inst), Keeps r y0 → Keeps r (x4 y0 y1)) : Keeps r (cmdRow s x2 x3 x4) := by
  unfold cmdRow
  try dsimp only
  repeat' (first | with_reducible assumption | apply hx4 | with_reducible apply Keeps.ite | split | (intro _; intros; try dsimp only))

theorem keeps_endRow {r s : State} (hs : Keeps r s) (x2 : Nat) (x3 : Nat) (x4 : CmdRef) (x5 : InstSt) (x6 : State → Inst → State) (hx6 : ∀ (y0 : State) (y1 : Inst), Keeps r y0 → Keeps r (x6 y0 y1)) : Keeps r (endRow s x2 x3 x4 x5 x6) := by
  unfold endRow
  try dsimp only
  repeat' (first | with_reducible assumption | apply hx6 | with_reducible apply Keeps.ite | split | (intro _; intros; try dsimp only))

theorem keeps_execAdptLoad {r s t : State} (hs : Keeps r s) (hn : execAdptLoad s = .next t) : Keeps r t := by
  unfold execAdptLoad at hn
  repeat' (first | (split at hn) | (injection hn with hn; subst hn))
  all_goals (try dsimp only)
  all_goals repeat' (first | with_reducible assumption | with_reducible apply keeps_adptLoadBegin | with_reducible apply keeps_cmdRow | split | (intro _; intros; try dsimp only))

theorem keeps_execAdptLoadChecksEnd {r s t : State} (hs : Keeps r s) (x1 : CmdRef) (hn : execAdptLoadChecksEnd x1 s = .next t) : Keeps r t := by
  unfold execAdptLoadChecksEnd at hn
  repeat' (first | (split at hn) | (injection hn with hn; subst hn))
  all_goals (try dsimp only)
  all_goals repeat' (first | with_reducible assumption | with_reducible apply keeps_adptLoadEnd | with_reducible apply keeps_endRow | split | (intro _; intros; try dsimp only))

theorem keeps_execAdptUnload {r s t : State} (hs : Keeps r s) (hn : execAdptUnload s = .next t) : Keeps r t := by
  unfold execAdptUnload at hn
  repeat' (first | (split at hn) | (injection hn with hn; subst hn))
  all_goals (try dsimp only)
  all_goals repeat' (first | with_reducible assumption | with_reducible apply keeps_adptUnloadAct | with_reducible apply keeps_cmdRow | split | (intro _; intros; try dsimp only))

theorem keeps_rebindAct {r s : State} (hs : Keeps r s) (x2 : Inst) : Keeps r (rebindAct s x2) := by
  unfold rebindAct
  try dsimp only
  repeat' (first | with_reducible assumption | with_reducible apply keeps_setInst | with_reducible apply keeps_takeOrder | with_reducible apply keeps_applyRebind | with_reducible apply keeps_refuse | with_reducible apply Keeps.ite | split | (intro _; intros; try dsimp only))

theorem keeps_poisonRead {r s : State} (hs : Keeps r s) (x2 : Nat) (x3 : List Nat) (x4 : List RegSpan) : Keeps r (poisonRead s x2 x3 x4) := by
  unfold poisonRead
  try dsimp only
  repeat' (first | with_reducible assumption | with_reducible apply keeps_recEvent | with_reducible apply keeps_forEach | split | (intro _; intros; try dsimp only))

theorem keeps_setEng {r s : State} (hs : Keeps r s) (x2 : Nat) (x3 : Eng) : Keeps r (setEng s x2 x3) := by
  unfold setEng
  try dsimp only
  repeat' (first | with_reducible assumption | split | (intro _; intros; try dsimp only) | with_reducible refine Keeps.upd ?_ (by rfl))

theorem keeps_poolInstall {r s : State} (hs : Keeps r s) (x2 : Nat) (x3 : Nat) : Keeps r (poolInstall s x2 x3) := by
  unfold poolInstall
  try dsimp only
  repeat' (first | with_reducible assumption | with_reducible apply keeps_updTraits | split | (intro _; intros; try dsimp only))

theorem keeps_applyPoolDef {r s : State} (hs : Keeps r s) (x2 : Inst) : Keeps r (applyPoolDef s x2) := by
  unfold applyPoolDef
  try dsimp only
  repeat' (first | with_reducible assumption | with_reducible apply keeps_poolInstall | with_reducible apply keeps_finish | split | (intro _; intros; try dsimp only))

theorem keeps_applyTblDefine {r s : State} (hs : Keeps r s) (x2 : Inst) : Keeps r (applyTblDefine s x2) := by
  unfold applyTblDefine
  try dsimp only
  repeat' (first | with_reducible assumption | with_reducible apply keeps_updTraits | with_reducible apply keeps_finish | split | (intro _; intros; try dsimp only))

theorem keeps_applyTblDrop {r s : State} (hs : Keeps r s) (x2 : Inst) : Keeps r (applyTblDrop s x2) := by
  unfold applyTblDrop
  try dsimp only
  repeat' (first | with_reducible assumption | with_reducible apply keeps_updTraits | with_reducible apply keeps_finish | split | (intro _; intros; try dsimp only))

theorem keeps_applyTblUsable {r s : State} (hs : Keeps r s) (x2 : Inst) : Keeps r (applyTblUsable s x2) := by
  unfold applyTblUsable
  try dsimp only
  repeat' (first | with_reducible assumption | with_reducible apply keeps_updTraits | with_reducible apply keeps_finish | split | (intro _; intros; try dsimp only))

theorem keeps_foldBack {r s : State} (hs : Keeps r s) (x2 : Nat) (x3 : Nat) (x4 : Nat) (x5 : Bool) : Keeps r (foldBack s x2 x3 x4 x5) := by
  unfold foldBack
  try dsimp only
  repeat' (first | with_reducible assumption | with_reducible apply keeps_unpin | with_reducible apply keeps_thaw | with_reducible apply keeps_objWriteQ | with_reducible apply keeps_updTraits | with_reducible apply keeps_poisonExtent | with_reducible apply Keeps.ite | split | (intro _; intros; try dsimp only))

theorem keeps_execFoldBackEnd {r s t : State} (hs : Keeps r s) (x1 : Nat) (x2 : Nat) (x3 : Nat) (x4 : Bool) (hn : execFoldBackEnd x1 x2 x3 x4 s = .next t) : Keeps r t := by
  unfold execFoldBackEnd at hn
  repeat' (first | (split at hn) | (injection hn with hn; subst hn))
  all_goals (try dsimp only)
  all_goals repeat' (first | with_reducible assumption | with_reducible apply keeps_foldBack | split | (intro _; intros; try dsimp only))

theorem keeps_poolDefAct {r s : State} (hs : Keeps r s) (x2 : Inst) : Keeps r (poolDefAct s x2) := by
  unfold poolDefAct
  try dsimp only
  repeat' (first | with_reducible assumption | with_reducible apply keeps_setInst | with_reducible apply keeps_applyPoolDef | with_reducible apply keeps_updTraits | with_reducible apply keeps_refuse | with_reducible apply keeps_withSlot | with_reducible apply Keeps.ite | split | (intro _; intros; try dsimp only))

theorem keeps_execPoolDef {r s t : State} (hs : Keeps r s) (hn : execPoolDef s = .next t) : Keeps r t := by
  unfold execPoolDef at hn
  repeat' (first | (split at hn) | (injection hn with hn; subst hn))
  all_goals (try dsimp only)
  all_goals repeat' (first | with_reducible assumption | with_reducible apply keeps_poolDefAct | with_reducible apply keeps_cmdRow | split | (intro _; intros; try dsimp only))

theorem keeps_setStride {r s : State} (hs : Keeps r s) (x2 : Nat) (x3 : Nat) (x4 : Nat) : Keeps r (setStride s x2 x3 x4) := by
  unfold setStride
  try dsimp only
  repeat' (first | with_reducible assumption | split | (intro _; intros; try dsimp only) | with_reducible refine Keeps.upd ?_ (by rfl))

theorem keeps_tblDefineAct {r s : State} (hs : Keeps r s) (x2 : Inst) : Keeps r (tblDefineAct s x2) := by
  unfold tblDefineAct
  try dsimp only
  repeat' (first | with_reducible assumption | with_reducible apply keeps_setInst | with_reducible apply keeps_finish | with_reducible apply keeps_updTraits | with_reducible apply keeps_setStride | with_reducible apply keeps_refuse | with_reducible apply keeps_withSlot | with_reducible apply Keeps.ite | split | (intro _; intros; try dsimp only))

theorem keeps_execTblDefine {r s t : State} (hs : Keeps r s) (hn : execTblDefine s = .next t) : Keeps r t := by
  unfold execTblDefine at hn
  repeat' (first | (split at hn) | (injection hn with hn; subst hn))
  all_goals (try dsimp only)
  all_goals repeat' (first | with_reducible assumption | with_reducible apply keeps_tblDefineAct | with_reducible apply keeps_cmdRow | split | (intro _; intros; try dsimp only))

theorem keeps_tblDropAct {r s : State} (hs : Keeps r s) (x2 : Inst) : Keeps r (tblDropAct s x2) := by
  unfold tblDropAct
  try dsimp only
  repeat' (first | with_reducible assumption | with_reducible apply keeps_applyTblDrop | with_reducible apply keeps_atBoundary | with_reducible apply keeps_updTraits | with_reducible apply keeps_refuse | with_reducible apply keeps_withSlot | with_reducible apply Keeps.ite | split | (intro _; intros; try dsimp only))

theorem keeps_execTblDrop {r s t : State} (hs : Keeps r s) (hn : execTblDrop s = .next t) : Keeps r t := by
  unfold execTblDrop at hn
  repeat' (first | (split at hn) | (injection hn with hn; subst hn))
  all_goals (try dsimp only)
  all_goals repeat' (first | with_reducible assumption | with_reducible apply keeps_tblDropAct | with_reducible apply keeps_cmdRow | split | (intro _; intros; try dsimp only))

theorem keeps_flipsIdle {r s : State} (hs : Keeps r s) (x2 : Nat) : Keeps r (flipsIdle s x2) := by
  unfold flipsIdle
  try dsimp only
  repeat' (first | with_reducible assumption | with_reducible apply keeps_flipsDue | with_reducible apply Keeps.ite | split | (intro _; intros; try dsimp only))

theorem keeps_trowFlipAct {r s : State} (hs : Keeps r s) (x2 : Inst) : Keeps r (trowFlipAct s x2) := by
  unfold trowFlipAct
  try dsimp only
  repeat' (first | with_reducible assumption | with_reducible apply keeps_setInst | with_reducible apply keeps_flipsCommit | with_reducible apply keeps_flipsIdle | with_reducible apply keeps_updTraits | with_reducible apply keeps_refuse | with_reducible apply keeps_withSlot | with_reducible apply Keeps.ite | split | (intro _; intros; try dsimp only))

theorem keeps_execTrowFlip {r s t : State} (hs : Keeps r s) (hn : execTrowFlip s = .next t) : Keeps r t := by
  unfold execTrowFlip at hn
  repeat' (first | (split at hn) | (injection hn with hn; subst hn))
  all_goals (try dsimp only)
  all_goals repeat' (first | with_reducible assumption | with_reducible apply keeps_trowFlipAct | with_reducible apply keeps_cmdRow | split | (intro _; intros; try dsimp only))

theorem keeps_trowPutAct {r s : State} (hs : Keeps r s) (x2 : Inst) : Keeps r (trowPutAct s x2) := by
  unfold trowPutAct
  try dsimp only
  repeat' (first | with_reducible assumption | with_reducible apply keeps_bumpD | with_reducible apply keeps_setInst | with_reducible apply keeps_updTraits | with_reducible apply keeps_refuse | with_reducible apply keeps_withSlot | with_reducible apply Keeps.ite | split | (intro _; intros; try dsimp only))

theorem keeps_execTrowPut {r s t : State} (hs : Keeps r s) (hn : execTrowPut s = .next t) : Keeps r t := by
  unfold execTrowPut at hn
  repeat' (first | (split at hn) | (injection hn with hn; subst hn))
  all_goals (try dsimp only)
  all_goals repeat' (first | with_reducible assumption | with_reducible apply keeps_trowPutAct | with_reducible apply keeps_cmdRow | split | (intro _; intros; try dsimp only))

theorem keeps_trowPutEnd {r s : State} (hs : Keeps r s) (x1 : Bool) (x3 : Inst) : Keeps r (trowPutEnd x1 s x3) := by
  unfold trowPutEnd
  try dsimp only
  repeat' (first | with_reducible assumption | with_reducible apply keeps_flipsCommit | with_reducible apply keeps_finish | with_reducible apply keeps_updTraits | with_reducible apply keeps_objWrite | with_reducible apply keeps_refuse | with_reducible apply Keeps.ite | split | (intro _; intros; try dsimp only))

theorem keeps_putsDrain {r s : State} (hs : Keeps r s) (x1 x3 : Nat) : Keeps r (putsDrain x1 s x3) := by
  induction x1 generalizing s  with
  | zero =>
    unfold putsDrain
    repeat' (first | with_reducible assumption | with_reducible apply keeps_trowPutEnd | with_reducible apply keeps_updTraits | split | (intro _; intros; try dsimp only))
  | succ n ih =>
    unfold putsDrain
    try dsimp only
    repeat' (first | with_reducible assumption | with_reducible apply ih | with_reducible apply keeps_trowPutEnd | with_reducible apply keeps_updTraits | split | (intro _; intros; try dsimp only))

theorem keeps_putAcked {r s : State} (hs : Keeps r s) (x1 : Bool) (x3 : Inst) : Keeps r (putAcked x1 s x3) := by
  unfold putAcked
  try dsimp only
  repeat' (first | with_reducible assumption | with_reducible apply keeps_putsDrain | with_reducible apply keeps_updTraits | split | (intro _; intros; try dsimp only))

theorem keeps_execTrowPutCopyEnd {r s t : State} (hs : Keeps r s) (x1 : CmdRef) (x2 : Bool) (hn : execTrowPutCopyEnd x1 x2 s = .next t) : Keeps r t := by
  unfold execTrowPutCopyEnd at hn
  repeat' (first | (split at hn) | (injection hn with hn; subst hn))
  all_goals (try dsimp only)
  all_goals repeat' (first | with_reducible assumption | with_reducible apply keeps_putAcked | with_reducible apply keeps_flipsIdle | with_reducible apply keeps_endRow | split | (intro _; intros; try dsimp only))

end Sys2Proof.Machine
end

