-- ==== Sys2Proof/Laws/KeepsUnits.lean ====
section
/-! SUPPORT. For each operation of FlashOps, TierCmds, FlashCmds, HoldOps, TrainCmds, StreamOps, RelOps, TileOps, EngineOps, MpOps: it keeps what `Keeps` says. One lemma for each
operation, so that no later proof unfolds one to know this. -/

namespace Sys2Proof.Machine

theorem keeps_updFl {r s : State} (hs : Keeps r s) (x2 : Fl → Fl) : Keeps r (updFl s x2) := by
  unfold updFl
  try dsimp only
  repeat' (first | with_reducible assumption | split | (intro _; intros; try dsimp only) | with_reducible refine Keeps.upd ?_ (by rfl))

theorem keeps_onfi {r s : State} (hs : Keeps r s) (x2 : Nat) (x3 : List Nat) : Keeps r (onfi s x2 x3) := by
  unfold onfi
  try dsimp only
  repeat' (first | with_reducible assumption | with_reducible apply keeps_updFl | split | (intro _; intros; try dsimp only))

theorem keeps_beginErase {r s : State} (hs : Keeps r s) (x2 : Nat × Nat × Bool) : Keeps r (beginErase s x2) := by
  unfold beginErase
  try dsimp only
  repeat' (first | with_reducible assumption | with_reducible apply keeps_updFl | with_reducible apply keeps_onfi | split | (intro _; intros; try dsimp only))

theorem keeps_beginProg {r s : State} (hs : Keeps r s) (x2 : FlProg) : Keeps r (beginProg s x2) := by
  unfold beginProg
  try dsimp only
  repeat' (first | with_reducible assumption | with_reducible apply keeps_updFl | with_reducible apply keeps_onfi | split | (intro _; intros; try dsimp only))

theorem keeps_blkWrite {r s : State} (hs : Keeps r s) (x2 : Nat) (x3 : Nat) : Keeps r (blkWrite s x2 x3) := by
  unfold blkWrite
  try dsimp only
  repeat' (first | with_reducible assumption | with_reducible apply keeps_writeT1 | split | (intro _; intros; try dsimp only))

theorem keeps_setBlk {r s : State} (hs : Keeps r s) (x2 : Nat) (x3 : Nat) (x4 : Blk) : Keeps r (setBlk s x2 x3 x4) := by
  unfold setBlk
  try dsimp only
  repeat' (first | with_reducible assumption | with_reducible apply keeps_updFl | with_reducible apply keeps_blkWrite | split | (intro _; intros; try dsimp only))

theorem keeps_blkRead {r s : State} (hs : Keeps r s) (x2 : Nat) (x3 : Nat) (x4 : Nat) : Keeps r (blkRead s x2 x3 x4) := by
  unfold blkRead
  try dsimp only
  repeat' (first | with_reducible assumption | with_reducible apply keeps_setBlk | split | (intro _; intros; try dsimp only))

theorem keeps_capCheck {r s : State} (hs : Keeps r s) : Keeps r (capCheck s) := by
  unfold capCheck
  try dsimp only
  repeat' (first | with_reducible assumption | with_reducible apply keeps_post | with_reducible apply keeps_updFl | with_reducible apply Keeps.ite | split | (intro _; intros; try dsimp only))

theorem keeps_lunStart {r s : State} (hs : Keeps r s) (x2 : Nat) : Keeps r (lunStart s x2) := by
  unfold lunStart
  try dsimp only
  repeat' (first | with_reducible assumption | with_reducible apply keeps_beginErase | with_reducible apply keeps_beginProg | with_reducible apply Keeps.ite | split | (intro _; intros; try dsimp only))

theorem keeps_queueErase {r s : State} (hs : Keeps r s) (x2 : Nat) (x3 : Nat) : Keeps r (queueErase s x2 x3) := by
  unfold queueErase
  try dsimp only
  repeat' (first | with_reducible assumption | with_reducible apply keeps_setBlk | with_reducible apply keeps_updFl | with_reducible apply keeps_lunStart | split | (intro _; intros; try dsimp only))

theorem keeps_emptyBlk {r s : State} (hs : Keeps r s) (x2 : Nat) (x3 : Nat) : Keeps r (emptyBlk s x2 x3) := by
  unfold emptyBlk
  try dsimp only
  repeat' (first | with_reducible assumption | with_reducible apply keeps_queueErase | with_reducible apply Keeps.ite | split | (intro _; intros; try dsimp only))

theorem keeps_fenceAnswer {r s : State} (hs : Keeps r s) (x2 : FlRead) : Keeps r (fenceAnswer s x2) := by
  unfold fenceAnswer
  try dsimp only
  repeat' (first | with_reducible assumption | with_reducible apply keeps_updFl | with_reducible apply keeps_lunStart | with_reducible apply Keeps.ite | split | (intro _; intros; try dsimp only))

theorem keeps_fenceStep {r s : State} (hs : Keeps r s) (x2 : Nat) (x3 : Man) : Keeps r (fenceStep s x2 x3) := by
  unfold fenceStep
  try dsimp only
  repeat' (first | with_reducible assumption | with_reducible apply keeps_updFl | with_reducible apply keeps_forEach | with_reducible apply Keeps.ite | split | (intro _; intros; try dsimp only))

theorem keeps_fencesDrop {r s : State} (hs : Keeps r s) (x2 : Nat) (x3 : Nat) : Keeps r (fencesDrop s x2 x3) := by
  unfold fencesDrop
  try dsimp only
  repeat' (first | with_reducible assumption | with_reducible apply keeps_lunStart | with_reducible apply keeps_updFl | with_reducible apply keeps_forEach | split | (intro _; intros; try dsimp only))

theorem keeps_flashUncorr {r s : State} (hs : Keeps r s) (x2 : Nat) : Keeps r (flashUncorr s x2) := by
  unfold flashUncorr
  try dsimp only
  repeat' (first | with_reducible assumption | with_reducible apply keeps_bump | with_reducible apply keeps_post | split | (intro _; intros; try dsimp only))

theorem keeps_takeIn {r s : State} (hs : Keeps r s) (x2 : Nat) (x3 : Nat) (x4 : Nat) (x5 : Bool) : Keeps r (takeIn s x2 x3 x4 x5) := by
  unfold takeIn
  try dsimp only
  repeat' (first | with_reducible assumption | with_reducible apply keeps_setBlk | split | (intro _; intros; try dsimp only))

theorem keeps_takePages {r s t : State} {a b : Nat} {x2 : Nat} {x3 : Nat} {x4 : Nat} {x5 : Bool} (hs : Keeps r s) (hn : takePages s x2 x3 x4 x5 = some (a, b, t)) : Keeps r t := by
  unfold takePages at hn
  repeat' (first | contradiction | (split at hn) | (injection hn with hn; (try injections); subst_vars) | (dsimp only at hn))
  all_goals (try dsimp only)
  all_goals repeat' (first | with_reducible assumption | with_reducible apply keeps_takeIn | split | (intro _; intros; try dsimp only))

theorem keeps_journalPage {r s t : State} {a b c x2 x3 : Nat} (hs : Keeps r s) (hn : journalPage s x2 x3 = some (a, b, c, t)) : Keeps r t := by
  unfold journalPage at hn
  split at hn
  · cases hn
  · cases e : takePages s _ 1 x3 true with
    | none => rw [e] at hn; cases hn
    | some y =>
      rw [e] at hn
      cases hn
      exact keeps_takePages hs e

theorem keeps_queueProg {r s : State} (hs : Keeps r s) (x2 : FlProg) : Keeps r (queueProg s x2) := by
  unfold queueProg
  try dsimp only
  repeat' (first | with_reducible assumption | with_reducible apply keeps_updFl | with_reducible apply keeps_lunStart | split | (intro _; intros; try dsimp only))

theorem keeps_journalPut {r s : State} (hs : Keeps r s) (x2 x3 : Nat) : Keeps r (journalPut s x2 x3) := by
  have pick : ∀ (l : List Nat) {s : State} {c : Nat × Nat × Nat × Nat × State}, Keeps r s →
      l.findSome? (fun ch => (journalPage s ch (2 ^ 40)).map (fun x => (ch, x))) = some c → Keeps r c.2.2.2.2 := by
    intro l s c h e
    obtain ⟨ch, -, e⟩ := List.exists_of_findSome?_eq_some e
    obtain ⟨y, hy, rfl⟩ := Option.map_eq_some_iff.mp e
    exact keeps_journalPage h hy
  unfold journalPut
  split
  · exact keeps_updFl hs _
  · split
    · exact keeps_updFl hs _
    · rename_i e1
      split
      · exact keeps_updFl hs _
      · rename_i e2
        exact keeps_queueProg (keeps_queueProg (keeps_updFl (pick _ (pick _ hs e1) e2) _) _) _

theorem keeps_journalRetry {r s : State} (hs : Keeps r s) : Keeps r (journalRetry s) := by
  unfold journalRetry
  try dsimp only
  repeat' (first | with_reducible assumption | with_reducible apply keeps_journalPut | with_reducible apply keeps_updFl | with_reducible apply keeps_forEach | split | (intro _; intros; try dsimp only))

theorem keeps_lunDone {r s : State} (hs : Keeps r s) (x2 : Nat) (x3 : Nat) : Keeps r (lunDone s x2 x3) := by
  unfold lunDone
  try dsimp only
  repeat' (first | with_reducible assumption | with_reducible apply keeps_updFl | split | (intro _; intros; try dsimp only))

theorem keeps_lunsStart {r s : State} (hs : Keeps r s) : Keeps r (lunsStart s) := by
  unfold lunsStart
  try dsimp only
  repeat' (first | with_reducible assumption | with_reducible apply keeps_lunStart | with_reducible apply keeps_forEach | split | (intro _; intros; try dsimp only))

theorem keeps_mapPut {r s : State} (hs : Keeps r s) (x2 : Nat) (x3 : W64) : Keeps r (mapPut s x2 x3) := by
  unfold mapPut
  try dsimp only
  repeat' (first | with_reducible assumption | with_reducible apply keeps_writeT1 | split | (intro _; intros; try dsimp only))

theorem keeps_mapSwitch {r s : State} (hs : Keeps r s) (x2 : Nat) (x3 : W64) : Keeps r (mapSwitch s x2 x3) := by
  unfold mapSwitch
  try dsimp only
  repeat' (first | with_reducible assumption | with_reducible apply keeps_blkWrite | with_reducible apply keeps_mapPut | with_reducible apply Keeps.ite | split | (intro _; intros; try dsimp only))

theorem keeps_moveDurable {r s : State} (hs : Keeps r s) (x2 : Nat) : Keeps r (moveDurable s x2) := by
  unfold moveDurable
  try dsimp only
  repeat' (first | with_reducible assumption | with_reducible apply keeps_mapSwitch | with_reducible apply keeps_emptyBlk | with_reducible apply keeps_updFl | split | (intro _; intros; try dsimp only))

theorem keeps_takeBseq {r s : State} (hs : Keeps r s) : Keeps r (takeBseq s).2 := by
  unfold takeBseq
  try dsimp only
  repeat' (first | with_reducible assumption | with_reducible apply keeps_updFl | split | (intro _; intros; try dsimp only))
theorem keeps_takeBseq_eq {r s t : State} {a}  (hs : Keeps r s) (e : takeBseq s = (a, t)) : Keeps r t := by
  have := keeps_takeBseq hs  
  rw [e] at this; exact this

theorem keeps_moveUnit {r s : State} (hs : Keeps r s) (x2 : Nat) (x3 : Nat) (x4 : Nat) (x5 : Nat) (x6 : Nat) : Keeps r (moveUnit s x2 x3 x4 x5 x6) := by
  unfold moveUnit
  try dsimp only
  repeat' (first | with_reducible assumption | with_reducible apply keeps_queueProg | with_reducible apply keeps_blkRead | with_reducible apply keeps_takeBseq | split | (intro _; intros; try dsimp only))

theorem keeps_relocate {r s : State} (hs : Keeps r s) (x2 : Nat) (x3 : Nat) : Keeps r (relocate s x2 x3) := by
  unfold relocate
  try dsimp only
  repeat' (first | with_reducible assumption | with_reducible apply keeps_moveUnit | with_reducible apply keeps_updFl | with_reducible refine keeps_takePages ?_ (by with_reducible assumption) | with_reducible apply Keeps.ite | split | (intro _; intros; try dsimp only))

theorem keeps_relocsRetry {r s : State} (hs : Keeps r s) : Keeps r (relocsRetry s) := by
  unfold relocsRetry
  try dsimp only
  repeat' (first | with_reducible assumption | with_reducible apply keeps_relocate | with_reducible apply keeps_updFl | with_reducible apply keeps_forEach | split | (intro _; intros; try dsimp only))

theorem keeps_retireBlk {r s : State} (hs : Keeps r s) (x2 : Nat) (x3 : Nat) : Keeps r (retireBlk s x2 x3) := by
  unfold retireBlk
  try dsimp only
  repeat' (first | with_reducible assumption | with_reducible apply keeps_setBlk | with_reducible apply keeps_bump | with_reducible apply keeps_capCheck | split | (intro _; intros; try dsimp only))

theorem keeps_applyObjAlloc {r s : State} (hs : Keeps r s) (x2 : Inst) : Keeps r (applyObjAlloc s x2) := by
  unfold applyObjAlloc
  try dsimp only
  repeat' (first | with_reducible assumption | with_reducible apply keeps_finish | with_reducible apply keeps_capCheck | with_reducible apply keeps_refuse | with_reducible apply Keeps.ite | split | (intro _; intros; try dsimp only) | with_reducible refine Keeps.upd ?_ (by rfl))

theorem keeps_applyObjCancel {r s : State} (hs : Keeps r s) (x2 : Inst) : Keeps r (applyObjCancel s x2) := by
  unfold applyObjCancel
  try dsimp only
  repeat' (first | with_reducible assumption | with_reducible apply keeps_moveAbort | with_reducible apply keeps_forEach | with_reducible apply keeps_finish | split | (intro _; intros; try dsimp only))

theorem keeps_objDrop {r s : State} (hs : Keeps r s) (x2 : Nat) (x3 : Nat) : Keeps r (objDrop s x2 x3) := by
  unfold objDrop
  try dsimp only
  repeat' (first | with_reducible assumption | with_reducible apply keeps_mapSwitch | with_reducible apply keeps_updFl | with_reducible apply keeps_delXt | with_reducible apply keeps_updXt | with_reducible apply keeps_drainEnd | with_reducible apply keeps_dissolveRick | with_reducible apply keeps_forEach | with_reducible apply Keeps.ite | split | (intro _; intros; try dsimp only) | with_reducible refine Keeps.upd ?_ (by rfl))

theorem keeps_applyObjFree {r s : State} (hs : Keeps r s) (x2 : Inst) : Keeps r (applyObjFree s x2) := by
  unfold applyObjFree
  try dsimp only
  repeat' (first | with_reducible assumption | with_reducible apply keeps_objDrop | with_reducible apply keeps_capCheck | with_reducible apply keeps_finish | with_reducible apply keeps_refuse | with_reducible apply Keeps.ite | split | (intro _; intros; try dsimp only))

theorem keeps_applyObjMove {r s : State} (hs : Keeps r s) (x2 : Inst) : Keeps r (applyObjMove s x2) := by
  unfold applyObjMove
  try dsimp only
  repeat' (first | with_reducible assumption | with_reducible apply keeps_bumpD | with_reducible apply keeps_finish | with_reducible apply keeps_movesStart | with_reducible apply keeps_refuse | split | (intro _; intros; try dsimp only) | with_reducible refine Keeps.upd ?_ (by rfl))

theorem keeps_cmdRowIf {r s : State} (hs : Keeps r s) (x2 : Nat) (x3 : Nat) (x4 : Inst → Bool) (x5 : State → Inst → State) (hx5 : ∀ (y0 : State) (y1 : Inst), Keeps r y0 → Keeps r (x5 y0 y1)) : Keeps r (cmdRowIf s x2 x3 x4 x5) := by
  unfold cmdRowIf
  try dsimp only
  repeat' (first | with_reducible assumption | apply hx5 | with_reducible apply Keeps.ite | split | (intro _; intros; try dsimp only))

theorem keeps_movesIdle {r s : State} (hs : Keeps r s) (x2 : Nat) : Keeps r (movesIdle s x2) := by
  unfold movesIdle
  try dsimp only
  repeat' (first | with_reducible assumption | with_reducible apply keeps_movesSwitch | with_reducible apply keeps_movesStart | with_reducible apply Keeps.ite | split | (intro _; intros; try dsimp only))

theorem keeps_moveCopied {r s : State} (hs : Keeps r s) (x2 : Nat) (x3 : Bool) : Keeps r (moveCopied s x2 x3) := by
  unfold moveCopied
  try dsimp only
  repeat' (first | with_reducible assumption | with_reducible apply keeps_setMove | with_reducible apply keeps_moveReplay | with_reducible apply keeps_movesIdle | with_reducible apply keeps_moveAbort | with_reducible apply Keeps.ite | split | (intro _; intros; try dsimp only) | with_reducible refine Keeps.store ?_ (by rfl))

theorem keeps_execMoveCopyEnd {r s t : State} (hs : Keeps r s) (x1 : Nat) (x2 : Nat) (x3 : Nat) (x4 : Bool) (hn : execMoveCopyEnd x1 x2 x3 x4 s = .next t) : Keeps r t := by
  unfold execMoveCopyEnd at hn
  repeat' (first | (split at hn) | (injection hn with hn; subst hn))
  all_goals (try dsimp only)
  all_goals repeat' (first | with_reducible assumption | with_reducible apply keeps_moveCopied | split | (intro _; intros; try dsimp only))

theorem keeps_objAllocAct {r s : State} (hs : Keeps r s) (x2 : Inst) : Keeps r (objAllocAct s x2) := by
  unfold objAllocAct
  try dsimp only
  repeat' (first | with_reducible assumption | with_reducible apply keeps_applyObjAlloc | with_reducible apply keeps_atBoundary | with_reducible apply keeps_refuse | with_reducible apply keeps_withSlot | with_reducible apply Keeps.ite | split | (intro _; intros; try dsimp only))

theorem keeps_execObjAlloc {r s t : State} (hs : Keeps r s) (hn : execObjAlloc s = .next t) : Keeps r t := by
  unfold execObjAlloc at hn
  repeat' (first | (split at hn) | (injection hn with hn; subst hn))
  all_goals (try dsimp only)
  all_goals repeat' (first | with_reducible assumption | with_reducible apply keeps_objAllocAct | with_reducible apply keeps_cmdRow | split | (intro _; intros; try dsimp only))

theorem keeps_objFreeAct {r s : State} (hs : Keeps r s) (x2 : Inst) : Keeps r (objFreeAct s x2) := by
  unfold objFreeAct
  try dsimp only
  repeat' (first | with_reducible assumption | with_reducible apply keeps_applyObjFree | with_reducible apply keeps_atBoundary | with_reducible apply keeps_refuse | with_reducible apply keeps_withSlot | with_reducible apply Keeps.ite | split | (intro _; intros; try dsimp only))

theorem keeps_execObjFree {r s t : State} (hs : Keeps r s) (hn : execObjFree s = .next t) : Keeps r t := by
  unfold execObjFree at hn
  repeat' (first | (split at hn) | (injection hn with hn; subst hn))
  all_goals (try dsimp only)
  all_goals repeat' (first | with_reducible assumption | with_reducible apply keeps_objFreeAct | with_reducible apply keeps_cmdRow | split | (intro _; intros; try dsimp only))

theorem keeps_objMoveAct {r s : State} (hs : Keeps r s) (x2 : Inst) : Keeps r (objMoveAct s x2) := by
  unfold objMoveAct
  try dsimp only
  repeat' (first | with_reducible assumption | with_reducible apply keeps_applyObjMove | with_reducible apply keeps_atBoundary | with_reducible apply keeps_refuse | with_reducible apply keeps_withSlot | with_reducible apply Keeps.ite | split | (intro _; intros; try dsimp only))

theorem keeps_execObjMove {r s t : State} (hs : Keeps r s) (hn : execObjMove s = .next t) : Keeps r t := by
  unfold execObjMove at hn
  repeat' (first | (split at hn) | (injection hn with hn; subst hn))
  all_goals (try dsimp only)
  all_goals repeat' (first | with_reducible assumption | with_reducible apply keeps_objMoveAct | with_reducible apply keeps_cmdRowIf | split | (intro _; intros; try dsimp only))

theorem keeps_objCancelAct {r s : State} (hs : Keeps r s) (x2 : Inst) : Keeps r (objCancelAct s x2) := by
  unfold objCancelAct
  try dsimp only
  repeat' (first | with_reducible assumption | with_reducible apply keeps_applyObjCancel | with_reducible apply keeps_atBoundary | with_reducible apply keeps_refuse | with_reducible apply keeps_withSlot | with_reducible apply Keeps.ite | split | (intro _; intros; try dsimp only))

theorem keeps_execObjMoveCancel {r s t : State} (hs : Keeps r s) (hn : execObjMoveCancel s = .next t) : Keeps r t := by
  unfold execObjMoveCancel at hn
  repeat' (first | (split at hn) | (injection hn with hn; subst hn))
  all_goals (try dsimp only)
  all_goals repeat' (first | with_reducible assumption | with_reducible apply keeps_objCancelAct | with_reducible apply keeps_cmdRowIf | split | (intro _; intros; try dsimp only))

theorem keeps_blkErased {r s : State} (hs : Keeps r s) (x2 : Nat) (x3 : Nat) : Keeps r (blkErased s x2 x3) := by
  unfold blkErased
  try dsimp only
  repeat' (first | with_reducible assumption | with_reducible apply keeps_updFl | with_reducible apply keeps_setBlk | split | (intro _; intros; try dsimp only))

theorem keeps_blkTable {r s : State} (hs : Keeps r s) : Keeps r (blkTable s) := by
  unfold blkTable
  try dsimp only
  repeat' (first | with_reducible assumption | with_reducible apply keeps_blkWrite | with_reducible apply keeps_forEach | split | (intro _; intros; try dsimp only))

theorem keeps_checkpoint {r s : State} (hs : Keeps r s) : Keeps r (checkpoint s) := by
  unfold checkpoint
  try dsimp only
  repeat' (first | with_reducible assumption | with_reducible apply keeps_queueErase | with_reducible apply keeps_updFl | with_reducible apply keeps_forEach | split | (intro _; intros; try dsimp only))

theorem keeps_copiesStale {r s : State} (hs : Keeps r s) (x2 : Publish) (x3 : Nat) : Keeps r (copiesStale s x2 x3) := by
  unfold copiesStale
  try dsimp only
  repeat' (first | with_reducible assumption | with_reducible apply keeps_drainEnd | with_reducible apply keeps_setXt | with_reducible apply keeps_forEach | with_reducible apply Keeps.ite | split | (intro _; intros; try dsimp only))

theorem keeps_setPub {r s : State} (hs : Keeps r s) (x2 : Publish) : Keeps r (setPub s x2) := by
  unfold setPub
  try dsimp only
  repeat' (first | with_reducible assumption | with_reducible apply keeps_updFl | split | (intro _; intros; try dsimp only))

theorem keeps_pubProgram {r s : State} (hs : Keeps r s) (x2 : Publish) (x3 : PubUnit) (x4 : Nat) : Keeps r (pubProgram s x2 x3 x4) := by
  unfold pubProgram
  dsimp only
  split
  · split
    · exact keeps_setPub hs _
    · exact keeps_bumpD (keeps_setPub hs _) _ _ _
  · rename_i e
    obtain ⟨l, -, e⟩ := Option.bind_eq_some_iff.mp e
    obtain ⟨y, hy, e⟩ := Option.map_eq_some_iff.mp e
    cases e
    exact keeps_queueProg (keeps_setPub (keeps_takeBseq (keeps_takePages hs hy)) _) _

theorem keeps_thawedReads {r s : State} (hs : Keeps r s) (x2 : Publish) (x3 : PubUnit) (x4 : List Nat) : Keeps r (thawedReads s x2 x3 x4) := by
  unfold thawedReads
  try dsimp only
  repeat' (first | with_reducible assumption | with_reducible apply keeps_readHomeAt | with_reducible apply keeps_readImage | with_reducible apply keeps_forEach | with_reducible apply Keeps.ite | split | (intro _; intros; try dsimp only))

theorem keeps_pubBegin {r s : State} (hs : Keeps r s) (x2 : Publish) (x3 : PubUnit) : Keeps r (pubBegin s x2 x3) := by
  unfold pubBegin
  try dsimp only
  repeat' (first | with_reducible assumption | with_reducible apply keeps_setPub | with_reducible apply keeps_pubProgram | with_reducible apply keeps_pin | with_reducible apply keeps_updXt | with_reducible apply keeps_addReq | with_reducible apply keeps_forEach | with_reducible apply keeps_thawedReads | with_reducible apply Keeps.ite | split | (intro _; intros; try dsimp only))

theorem keeps_pubNext {r s : State} (hs : Keeps r s) (x2 : Nat) (x3 : Nat) (x4 : Nat) : Keeps r (pubNext s x2 x3 x4) := by
  unfold pubNext
  try dsimp only
  repeat' (first | with_reducible assumption | with_reducible apply keeps_pubBegin | with_reducible apply keeps_pubProgram | with_reducible apply Keeps.ite | split | (intro _; intros; try dsimp only))

theorem keeps_pubsRetry {r s : State} (hs : Keeps r s) : Keeps r (pubsRetry s) := by
  unfold pubsRetry
  try dsimp only
  repeat' (first | with_reducible assumption | with_reducible apply keeps_pubNext | with_reducible apply keeps_journalRetry | with_reducible apply keeps_relocsRetry | with_reducible apply keeps_forEach | split | (intro _; intros; try dsimp only))

theorem keeps_eraseDone {r s : State} (hs : Keeps r s) (x2 : Nat) (x3 : Nat) (x4 : Bool) : Keeps r (eraseDone s x2 x3 x4) := by
  unfold eraseDone
  try dsimp only
  repeat' (first | with_reducible assumption | with_reducible apply keeps_retireBlk | with_reducible apply keeps_blkErased | with_reducible apply keeps_pubsRetry | with_reducible apply keeps_lunStart | with_reducible apply keeps_updFl | with_reducible apply keeps_lunDone | with_reducible apply Keeps.ite | split | (intro _; intros; try dsimp only))

theorem keeps_execCheckpoint {r s t : State} (hs : Keeps r s) (hn : execCheckpoint s = .next t) : Keeps r t := by
  unfold execCheckpoint at hn
  repeat' (first | (split at hn) | (injection hn with hn; subst hn))
  all_goals (try dsimp only)
  all_goals repeat' (first | with_reducible assumption | with_reducible apply keeps_checkpoint | split | (intro _; intros; try dsimp only))

theorem keeps_fenceBreakLun {r s : State} (hs : Keeps r s) (x2 : Nat) : Keeps r (fenceBreakLun s x2) := by
  unfold fenceBreakLun
  try dsimp only
  repeat' (first | with_reducible assumption | with_reducible apply keeps_beginErase | with_reducible apply keeps_beginProg | with_reducible apply keeps_bump | with_reducible apply Keeps.ite | split | (intro _; intros; try dsimp only))

theorem keeps_execFenceBreak {r s t : State} (hs : Keeps r s) (x1 : Nat) (x2 : Nat) (x3 : Nat) (hn : execFenceBreak x1 x2 x3 s = .next t) : Keeps r t := by
  unfold execFenceBreak at hn
  repeat' (first | (split at hn) | (injection hn with hn; subst hn))
  all_goals (try dsimp only)
  all_goals repeat' (first | with_reducible assumption | with_reducible apply keeps_fenceBreakLun | split | (intro _; intros; try dsimp only))

theorem keeps_regionInstall {r s : State} (hs : Keeps r s) : Keeps r (regionInstall s) := by
  unfold regionInstall
  extract_lets lo hi clear
  refine keeps_blkTable (hs.updMem rfl (fun h => ?_))
  have hc : memWf clear = true := Tab.wf_keepKeys _ h
  clear_value clear
  have : ∀ (l : List (Nat × W64)) (m : Tab Byte), memWf m = true →
      memWf (l.foldl (fun m e => storeBytes m (lo + 8 * e.1) (leBytes 8 e.2.toNat)) m) = true := by
    intro l
    induction l with
    | nil => exact fun _ h => h
    | cons e l ih => exact fun _ h => ih _ (memWf_storeBytes _ _ h)
  exact this _ _ hc

theorem keeps_formatNow {r s : State} (hs : Keeps r s) : Keeps r (formatNow s) := by
  unfold formatNow
  try dsimp only
  repeat' (first | with_reducible assumption | with_reducible apply keeps_updFl | split | (intro _; intros; try dsimp only))

theorem keeps_flFormatAct {r s : State} (hs : Keeps r s) (x2 : Inst) : Keeps r (flFormatAct s x2) := by
  unfold flFormatAct
  try dsimp only
  repeat' (first | with_reducible assumption | with_reducible apply keeps_post | with_reducible apply keeps_updFl | with_reducible apply keeps_regionInstall | with_reducible apply keeps_capCheck | with_reducible apply keeps_finish | with_reducible apply keeps_formatNow | with_reducible apply keeps_refuse | with_reducible apply Keeps.ite | split | (intro _; intros; try dsimp only))

theorem keeps_execFlFormat {r s t : State} (hs : Keeps r s) (hn : execFlFormat s = .next t) : Keeps r t := by
  unfold execFlFormat at hn
  repeat' (first | (split at hn) | (injection hn with hn; subst hn))
  all_goals (try dsimp only)
  all_goals repeat' (first | with_reducible assumption | with_reducible apply keeps_flFormatAct | with_reducible apply keeps_cmdRow | split | (intro _; intros; try dsimp only))

theorem keeps_execFlashEraseDone {r s t : State} (hs : Keeps r s) (x1 : Nat) (x2 : Nat) (x3 : Nat) (x4 : Nat) (x5 : Bool) (hn : execFlashEraseDone x1 x2 x3 x4 x5 s = .next t) : Keeps r t := by
  unfold execFlashEraseDone at hn
  repeat' (first | (split at hn) | (injection hn with hn; subst hn))
  all_goals (try dsimp only)
  all_goals repeat' (first | with_reducible assumption | with_reducible apply keeps_eraseDone | split | (intro _; intros; try dsimp only))

theorem keeps_progAgain {r s : State} (hs : Keeps r s) (x2 : FlProg) : Keeps r (progAgain s x2) := by
  unfold progAgain
  try dsimp only
  repeat' (first | with_reducible assumption | with_reducible apply keeps_relocate | with_reducible apply keeps_journalPut | with_reducible apply keeps_updFl | with_reducible apply keeps_forEach | with_reducible apply keeps_queueProg | with_reducible refine keeps_journalPage ?_ (by with_reducible assumption) | with_reducible apply keeps_pubProgram | with_reducible apply Keeps.ite | split | (intro _; intros; try dsimp only))

theorem keeps_moveUnits {r s : State} (hs : Keeps r s) (x2 : Nat) (x3 : Nat) (x4 : Nat) : Keeps r (moveUnits s x2 x3 x4) := by
  unfold moveUnits
  try dsimp only
  repeat' (first | with_reducible assumption | with_reducible apply keeps_relocate | with_reducible apply keeps_forEach | split | (intro _; intros; try dsimp only))

theorem keeps_oldPages {r s : State} (hs : Keeps r s) (x2 : Nat) : Keeps r (oldPages s x2) := by
  unfold oldPages
  try dsimp only
  repeat' (first | with_reducible assumption | with_reducible apply keeps_updTraits | with_reducible apply keeps_setXt | with_reducible apply keeps_forEach | with_reducible apply Keeps.ite | split | (intro _; intros; try dsimp only) | with_reducible refine Keeps.store ?_ (by rfl))

theorem keeps_pubSwitchUnits {r s : State} (hs : Keeps r s) (x2 : Publish) : Keeps r (pubSwitchUnits s x2) := by
  unfold pubSwitchUnits
  try dsimp only
  repeat' (first | with_reducible assumption | with_reducible apply keeps_emptyBlk | with_reducible apply keeps_mapSwitch | with_reducible apply keeps_updFl | with_reducible apply keeps_oldPages | with_reducible apply keeps_copiesStale | with_reducible apply keeps_forEach | with_reducible apply Keeps.ite | split | (intro _; intros; try dsimp only) | with_reducible refine Keeps.store ?_ (by rfl))

theorem keeps_pubGone {r s : State} (hs : Keeps r s) (x2 : Publish) : Keeps r (pubGone s x2) := by
  unfold pubGone
  try dsimp only
  repeat' (first | with_reducible assumption | with_reducible apply keeps_unpin | with_reducible apply keeps_updFl | with_reducible apply keeps_forEach | split | (intro _; intros; try dsimp only))

theorem keeps_thawedAfter {r s : State} (hs : Keeps r s) (x2 : Publish) : Keeps r (thawedAfter s x2) := by
  unfold thawedAfter
  try dsimp only
  repeat' (first | with_reducible assumption | with_reducible apply keeps_updXt | with_reducible apply keeps_forEach | split | (intro _; intros; try dsimp only))

theorem keeps_pubSwitch {r s : State} (hs : Keeps r s) (x2 : Publish) : Keeps r (pubSwitch s x2) := by
  unfold pubSwitch
  try dsimp only
  repeat' (first | with_reducible assumption | with_reducible apply keeps_post | with_reducible apply keeps_finish | with_reducible apply keeps_bumpD | with_reducible apply keeps_pubSwitchUnits | with_reducible apply keeps_pubGone | with_reducible apply keeps_thawedAfter | with_reducible apply keeps_thawHighCheck | with_reducible apply Keeps.ite | split | (intro _; intros; try dsimp only))

theorem keeps_pubsDue {r s : State} (hs : Keeps r s) (x2 : Nat) : Keeps r (pubsDue s x2) := by
  unfold pubsDue
  try dsimp only
  repeat' (first | with_reducible assumption | with_reducible apply keeps_pubSwitch | with_reducible apply keeps_forEach | split | (intro _; intros; try dsimp only))

theorem keeps_pubsIdle {r s : State} (hs : Keeps r s) (x2 : Nat) : Keeps r (pubsIdle s x2) := by
  unfold pubsIdle
  try dsimp only
  repeat' (first | with_reducible assumption | with_reducible apply keeps_pubsDue | with_reducible apply Keeps.ite | split | (intro _; intros; try dsimp only))

theorem keeps_pubPassed {r s : State} (hs : Keeps r s) (x2 : Publish) : Keeps r (pubPassed s x2) := by
  unfold pubPassed
  try dsimp only
  repeat' (first | with_reducible assumption | with_reducible apply keeps_setPub | with_reducible apply keeps_pubsIdle | split | (intro _; intros; try dsimp only))

theorem keeps_recordDurable {r s : State} (hs : Keeps r s) (x2 : Nat × Nat) : Keeps r (recordDurable s x2) := by
  unfold recordDurable
  try dsimp only
  repeat' (first | with_reducible assumption | with_reducible apply keeps_pubNext | with_reducible apply keeps_setPub | with_reducible apply keeps_pubPassed | with_reducible apply keeps_moveDurable | with_reducible apply keeps_updFl | with_reducible apply Keeps.ite | split | (intro _; intros; try dsimp only))

theorem keeps_progUse {r s : State} (hs : Keeps r s) (x2 : FlProg) : Keeps r (progUse s x2) := by
  unfold progUse
  try dsimp only
  repeat' (first | with_reducible assumption | with_reducible apply keeps_bump | with_reducible apply keeps_journalPut | with_reducible apply keeps_setPub | with_reducible apply keeps_blkRead | with_reducible apply keeps_updFl | with_reducible apply keeps_recordDurable | with_reducible apply keeps_forEach | with_reducible apply Keeps.ite | split | (intro _; intros; try dsimp only))

theorem keeps_progDone {r s : State} (hs : Keeps r s) (x2 : Nat) (x3 : Nat) (x4 : Bool) : Keeps r (progDone s x2 x3 x4) := by
  unfold progDone
  try dsimp only
  repeat' (first | with_reducible assumption | with_reducible apply keeps_retireBlk | with_reducible apply keeps_progAgain | with_reducible apply keeps_moveUnits | with_reducible apply keeps_progUse | with_reducible apply keeps_lunStart | with_reducible apply keeps_updFl | with_reducible apply keeps_lunDone | with_reducible apply Keeps.ite | split | (intro _; intros; try dsimp only))

theorem keeps_execFlashProgramDone {r s t : State} (hs : Keeps r s) (x1 : Nat) (x2 : Nat) (x3 : Nat) (x4 : Nat) (x5 : Bool) (hn : execFlashProgramDone x1 x2 x3 x4 x5 s = .next t) : Keeps r t := by
  unfold execFlashProgramDone at hn
  repeat' (first | (split at hn) | (injection hn with hn; subst hn))
  all_goals (try dsimp only)
  all_goals repeat' (first | with_reducible assumption | with_reducible apply keeps_progDone | split | (intro _; intros; try dsimp only))

theorem keeps_reclaim {r s : State} (hs : Keeps r s) (x2 : Nat) (x3 : Nat) : Keeps r (reclaim s x2 x3) := by
  unfold reclaim
  try dsimp only
  repeat' (first | with_reducible assumption | with_reducible apply keeps_moveUnits | with_reducible apply keeps_emptyBlk | split | (intro _; intros; try dsimp only))

theorem keeps_gcReclaimLun {r s : State} (hs : Keeps r s) (x2 : Nat) : Keeps r (gcReclaimLun s x2) := by
  unfold gcReclaimLun
  try dsimp only
  repeat' (first | with_reducible assumption | with_reducible apply keeps_reclaim | with_reducible apply Keeps.ite | split | (intro _; intros; try dsimp only))

theorem keeps_execGcReclaim {r s t : State} (hs : Keeps r s) (x1 : Nat) (x2 : Nat) (x3 : Nat) (hn : execGcReclaim x1 x2 x3 s = .next t) : Keeps r t := by
  unfold execGcReclaim at hn
  repeat' (first | (split at hn) | (injection hn with hn; subst hn))
  all_goals (try dsimp only)
  all_goals repeat' (first | with_reducible assumption | with_reducible apply keeps_gcReclaimLun | split | (intro _; intros; try dsimp only))

theorem keeps_publishAct {r s : State} (hs : Keeps r s) (x2 : Inst) : Keeps r (publishAct s x2) := by
  unfold publishAct
  try dsimp only
  repeat' (first | with_reducible assumption | with_reducible apply keeps_setInst | with_reducible apply keeps_updFl | with_reducible apply keeps_pubNext | with_reducible apply keeps_refuse | with_reducible apply keeps_withSlot | with_reducible apply Keeps.ite | split | (intro _; intros; try dsimp only))

theorem keeps_execPublishImage {r s t : State} (hs : Keeps r s) (hn : execPublishImage s = .next t) : Keeps r t := by
  unfold execPublishImage at hn
  repeat' (first | (split at hn) | (injection hn with hn; subst hn))
  all_goals (try dsimp only)
  all_goals repeat' (first | with_reducible assumption | with_reducible apply keeps_publishAct | with_reducible apply keeps_cmdRowIf | split | (intro _; intros; try dsimp only))

theorem keeps_pubFail {r s : State} (hs : Keeps r s) (x2 : Publish) : Keeps r (pubFail s x2) := by
  unfold pubFail
  try dsimp only
  repeat' (first | with_reducible assumption | with_reducible apply keeps_refuse | with_reducible apply keeps_pubsIdle | with_reducible apply keeps_updFl | with_reducible apply keeps_setPub | with_reducible apply keeps_usersLost | split | (intro _; intros; try dsimp only))

theorem keeps_imgSettle {r s : State} (hs : Keeps r s) (x2 : Publish) : Keeps r (imgSettle s x2) := by
  unfold imgSettle
  try dsimp only
  repeat' (first | with_reducible assumption | with_reducible apply keeps_journalPut | with_reducible apply keeps_setPub | with_reducible apply keeps_forEach | with_reducible apply keeps_pubFail | with_reducible apply keeps_pubNext | with_reducible apply Keeps.ite | split | (intro _; intros; try dsimp only))

theorem keeps_pubReadBack {r s : State} (hs : Keeps r s) (x2 : Nat) (x3 : List Nat) : Keeps r (pubReadBack s x2 x3) := by
  unfold pubReadBack
  try dsimp only
  repeat' (first | with_reducible assumption | with_reducible apply keeps_pubFail | with_reducible apply keeps_pubProgram | with_reducible apply keeps_journalPut | with_reducible apply keeps_setPub | with_reducible apply keeps_imgSettle | with_reducible apply Keeps.ite | split | (intro _; intros; try dsimp only))

theorem keeps_execPublishReadBack {r s t : State} (hs : Keeps r s) (x1 : Nat) (x2 : List Nat) (hn : execPublishReadBack x1 x2 s = .next t) : Keeps r t := by
  unfold execPublishReadBack at hn
  repeat' (first | (split at hn) | (injection hn with hn; subst hn))
  all_goals (try dsimp only)
  all_goals repeat' (first | with_reducible assumption | with_reducible apply keeps_pubReadBack | with_reducible apply keeps_lunsStart | split | (intro _; intros; try dsimp only))

theorem keeps_execPublishThawed {r s t : State} (hs : Keeps r s) (hn : execPublishThawed s = .next t) : Keeps r t := by
  unfold execPublishThawed at hn
  repeat' (first | (split at hn) | (injection hn with hn; subst hn))
  all_goals (try dsimp only)
  all_goals repeat' (first | with_reducible assumption | with_reducible apply keeps_publishAct | with_reducible apply keeps_cmdRowIf | split | (intro _; intros; try dsimp only))

theorem keeps_execReadDisturbRelocate {r s t : State} (hs : Keeps r s) (x1 : Nat) (x2 : Nat) (x3 : Nat) (x4 : Nat) (hn : execReadDisturbRelocate x1 x2 x3 x4 s = .next t) : Keeps r t := by
  unfold execReadDisturbRelocate at hn
  repeat' (first | (split at hn) | (injection hn with hn; subst hn))
  all_goals (try dsimp only)
  all_goals repeat' (first | with_reducible assumption | with_reducible apply keeps_reclaim | split | (intro _; intros; try dsimp only))

theorem keeps_wearMove {r s : State} (hs : Keeps r s) : Keeps r (wearMove s) := by
  unfold wearMove
  try dsimp only
  repeat' (first | with_reducible assumption | with_reducible apply keeps_takeIn | with_reducible apply keeps_moveUnit | with_reducible apply keeps_forEach | with_reducible apply Keeps.ite | split | (intro _; intros; try dsimp only))

theorem keeps_execWearLevel {r s t : State} (hs : Keeps r s) (hn : execWearLevel s = .next t) : Keeps r t := by
  unfold execWearLevel at hn
  repeat' (first | (split at hn) | (injection hn with hn; subst hn))
  all_goals (try dsimp only)
  all_goals repeat' (first | with_reducible assumption | with_reducible apply keeps_wearMove | split | (intro _; intros; try dsimp only))

theorem keeps_zqShort {r s : State} (hs : Keeps r s) : Keeps r (zqShort s) := by
  unfold zqShort
  try dsimp only
  repeat' (first | with_reducible assumption | with_reducible apply keeps_onfi | with_reducible apply keeps_updFl | with_reducible apply keeps_forEach | split | (intro _; intros; try dsimp only))

theorem keeps_execZqShort {r s t : State} (hs : Keeps r s) (hn : execZqShort s = .next t) : Keeps r t := by
  unfold execZqShort at hn
  repeat' (first | (split at hn) | (injection hn with hn; subst hn))
  all_goals (try dsimp only)
  all_goals repeat' (first | with_reducible assumption | with_reducible apply keeps_zqShort | split | (intro _; intros; try dsimp only))

theorem keeps_pubReply {r s : State} (hs : Keeps r s) (x2 : Nat) (x3 : Bool) : Keeps r (pubReply s x2 x3) := by
  unfold pubReply
  try dsimp only
  repeat' (first | with_reducible assumption | with_reducible apply keeps_setPub | with_reducible apply keeps_pubProgram | with_reducible apply keeps_pubFail | with_reducible apply Keeps.ite | split | (intro _; intros; try dsimp only))

theorem keeps_addFlags {r s : State} (hs : Keeps r s) (x2 : Nat) (x3 : Nat) (x4 : List Nat) : Keeps r (addFlags s x2 x3 x4) := by
  unfold addFlags
  try dsimp only
  repeat' (first | with_reducible assumption | with_reducible apply keeps_updPart | split | (intro _; intros; try dsimp only))

theorem keeps_noGradient {r s : State} (hs : Keeps r s) (x2 : Nat) (x3 : List Nat) : Keeps r (noGradient s x2 x3) := by
  unfold noGradient
  try dsimp only
  repeat' (first | with_reducible assumption | with_reducible apply keeps_updTrain | with_reducible apply keeps_bumpD | with_reducible apply Keeps.ite | split | (intro _; intros; try dsimp only))

theorem keeps_setWin {r s : State} (hs : Keeps r s) (x2 : Nat) (x3 : Win) : Keeps r (setWin s x2 x3) := by
  unfold setWin
  try dsimp only
  repeat' (first | with_reducible assumption | with_reducible apply keeps_updPart | split | (intro _; intros; try dsimp only))

theorem keeps_rowsLose {r s : State} (hs : Keeps r s) (x2 : Nat) (x3 : Win) (x4 : List Nat) (x5 : Nat) (x6 : Nat) (x7 : Nat) (x8 : Nat) : Keeps r (rowsLose s x2 x3 x4 x5 x6 x7 x8) := by
  unfold rowsLose
  try dsimp only
  repeat' (first | with_reducible assumption | with_reducible apply keeps_recEvent | with_reducible apply keeps_bumpD | with_reducible apply keeps_forEach | with_reducible apply keeps_addFlags | with_reducible apply keeps_noGradient | with_reducible apply keeps_setWin | split | (intro _; intros; try dsimp only))

theorem keeps_failedRows {r s : State} (hs : Keeps r s) (x2 : Nat) (x3 : Win) : Keeps r (failedRows s x2 x3) := by
  unfold failedRows
  try dsimp only
  repeat' (first | with_reducible assumption | with_reducible apply keeps_rowsLose | with_reducible apply keeps_forEach | split | (intro _; intros; try dsimp only))

theorem keeps_holdEnd {r s : State} (hs : Keeps r s) (x2 : Nat) (x3 : Hold) : Keeps r (holdEnd s x2 x3) := by
  unfold holdEnd
  try dsimp only
  repeat' (first | with_reducible assumption | with_reducible apply keeps_bumpD | with_reducible apply keeps_recEvent | with_reducible apply keeps_updPart | with_reducible apply Keeps.ite | split | (intro _; intros; try dsimp only))

theorem keeps_holdStart {r s : State} (hs : Keeps r s) (x2 : Nat) (x3 : HoldKind) (x4 : PosKey) (x5 : Nat) : Keeps r (holdStart s x2 x3 x4 x5) := by
  unfold holdStart
  try dsimp only
  repeat' (first | with_reducible assumption | with_reducible apply keeps_updPart | with_reducible apply keeps_bumpD | split | (intro _; intros; try dsimp only))

theorem keeps_kindleSettle {r s : State} (hs : Keeps r s) (x2 : Nat) : Keeps r (kindleSettle s x2) := by
  unfold kindleSettle
  try dsimp only
  repeat' (first | with_reducible assumption | with_reducible apply keeps_failedRows | with_reducible apply keeps_holdEnd | with_reducible apply keeps_forEach | split | (intro _; intros; try dsimp only))

theorem keeps_windowDead {r s : State} (hs : Keeps r s) (x2 : Nat) (x3 : Win) (x4 : Nat) (x5 : Nat) : Keeps r (windowDead s x2 x3 x4 x5) := by
  unfold windowDead
  try dsimp only
  repeat' (first | with_reducible assumption | with_reducible apply keeps_setWin | with_reducible apply keeps_addFlags | with_reducible apply keeps_noGradient | with_reducible apply keeps_recEvent | with_reducible apply Keeps.ite | split | (intro _; intros; try dsimp only))

theorem keeps_applyExportSnap {r s : State} (hs : Keeps r s) (x2 : Inst) : Keeps r (applyExportSnap s x2) := by
  unfold applyExportSnap
  try dsimp only
  repeat' (first | with_reducible assumption | with_reducible apply keeps_finish | with_reducible apply keeps_forEach | with_reducible apply keeps_expPut | with_reducible apply keeps_refuse | split | (intro _; intros; try dsimp only))

theorem keeps_attachTake {r s : State} (hs : Keeps r s) (x2 : Nat) (x3 : Nat) : Keeps r (attachTake s x2 x3) := by
  unfold attachTake
  try dsimp only
  repeat' (first | with_reducible assumption | with_reducible apply keeps_attachInit | with_reducible apply keeps_updTrain | with_reducible apply Keeps.ite | split | (intro _; intros; try dsimp only))

theorem keeps_applyTrainAttach {r s : State} (hs : Keeps r s) (x2 : Inst) : Keeps r (applyTrainAttach s x2) := by
  unfold applyTrainAttach
  try dsimp only
  repeat' (first | with_reducible assumption | with_reducible apply keeps_attachTake | with_reducible apply keeps_finish | split | (intro _; intros; try dsimp only))

theorem keeps_detachNow {r s : State} (hs : Keeps r s) (x2 : Nat) (x3 : Nat) : Keeps r (detachNow s x2 x3) := by
  unfold detachNow
  try dsimp only
  repeat' (first | with_reducible assumption | with_reducible apply keeps_finish | with_reducible apply keeps_updTrain | split | (intro _; intros; try dsimp only))

theorem keeps_detachesDue {r s : State} (hs : Keeps r s) (x2 : Nat) : Keeps r (detachesDue s x2) := by
  unfold detachesDue
  try dsimp only
  repeat' (first | with_reducible assumption | with_reducible apply keeps_detachNow | with_reducible apply keeps_forEach | with_reducible apply Keeps.ite | split | (intro _; intros; try dsimp only))

theorem keeps_exportSnapAct {r s : State} (hs : Keeps r s) (x2 : Inst) : Keeps r (exportSnapAct s x2) := by
  unfold exportSnapAct
  try dsimp only
  repeat' (first | with_reducible assumption | with_reducible apply keeps_applyExportSnap | with_reducible apply keeps_atBoundary | with_reducible apply keeps_refuse | with_reducible apply keeps_withSlot | split | (intro _; intros; try dsimp only))

theorem keeps_execExportSnap {r s t : State} (hs : Keeps r s) (hn : execExportSnap s = .next t) : Keeps r t := by
  unfold execExportSnap at hn
  repeat' (first | (split at hn) | (injection hn with hn; subst hn))
  all_goals (try dsimp only)
  all_goals repeat' (first | with_reducible assumption | with_reducible apply keeps_exportSnapAct | with_reducible apply keeps_cmdRow | split | (intro _; intros; try dsimp only))

theorem keeps_trainAttachAct {r s : State} (hs : Keeps r s) (x2 : Inst) : Keeps r (trainAttachAct s x2) := by
  unfold trainAttachAct
  try dsimp only
  repeat' (first | with_reducible assumption | with_reducible apply keeps_setInst | with_reducible apply keeps_applyTrainAttach | with_reducible apply keeps_updTrain | with_reducible apply keeps_refuse | with_reducible apply keeps_withSlot | with_reducible apply Keeps.ite | split | (intro _; intros; try dsimp only))

theorem keeps_execTrainAttach {r s t : State} (hs : Keeps r s) (hn : execTrainAttach s = .next t) : Keeps r t := by
  unfold execTrainAttach at hn
  repeat' (first | (split at hn) | (injection hn with hn; subst hn))
  all_goals (try dsimp only)
  all_goals repeat' (first | with_reducible assumption | with_reducible apply keeps_trainAttachAct | with_reducible apply keeps_cmdRow | split | (intro _; intros; try dsimp only))

theorem keeps_trainDetachAct {r s : State} (hs : Keeps r s) (x2 : Inst) : Keeps r (trainDetachAct s x2) := by
  unfold trainDetachAct
  try dsimp only
  repeat' (first | with_reducible assumption | with_reducible apply keeps_detachesDue | with_reducible apply keeps_updTrain | with_reducible apply keeps_setInst | with_reducible apply keeps_refuse | with_reducible apply keeps_withSlot | with_reducible apply Keeps.ite | split | (intro _; intros; try dsimp only))

theorem keeps_execTrainDetach {r s t : State} (hs : Keeps r s) (hn : execTrainDetach s = .next t) : Keeps r t := by
  unfold execTrainDetach at hn
  repeat' (first | (split at hn) | (injection hn with hn; subst hn))
  all_goals (try dsimp only)
  all_goals repeat' (first | with_reducible assumption | with_reducible apply keeps_trainDetachAct | with_reducible apply keeps_cmdRow | split | (intro _; intros; try dsimp only))

theorem keeps_thawGone {r s : State} (hs : Keeps r s) (x2 : Nat) : Keeps r (thawGone s x2) := by
  unfold thawGone
  try dsimp only
  repeat' (first | with_reducible assumption | with_reducible apply keeps_unpin | with_reducible apply Keeps.ite | split | (intro _; intros; try dsimp only) | with_reducible refine Keeps.upd ?_ (by rfl))

theorem keeps_pensGone {r s : State} (hs : Keeps r s) (x2 : Nat) (x3 : Part) : Keeps r (pensGone s x2 x3) := by
  unfold pensGone
  try dsimp only
  repeat' (first | with_reducible assumption | with_reducible apply keeps_thawGone | with_reducible apply keeps_forEach | split | (intro _; intros; try dsimp only))

theorem keeps_listsAbandon {r s : State} (hs : Keeps r s) (x2 : Nat) : Keeps r (listsAbandon s x2) := by
  unfold listsAbandon
  try dsimp only
  repeat' (first | with_reducible assumption | with_reducible apply keeps_updTrain | with_reducible apply keeps_bumpD | with_reducible apply keeps_listDropped | with_reducible apply keeps_forEach | split | (intro _; intros; try dsimp only))

theorem keeps_trainDiscardAct {r s : State} (hs : Keeps r s) (x2 : Inst) : Keeps r (trainDiscardAct s x2) := by
  unfold trainDiscardAct
  try dsimp only
  repeat' (first | with_reducible assumption | with_reducible apply keeps_updTrain | with_reducible apply keeps_finish | with_reducible apply keeps_listDropped | with_reducible apply keeps_pensGone | with_reducible apply keeps_forEach | with_reducible apply keeps_listsAbandon | with_reducible apply keeps_refuse | with_reducible apply keeps_withSlot | split | (intro _; intros; try dsimp only))

theorem keeps_execTrainDiscard {r s t : State} (hs : Keeps r s) (hn : execTrainDiscard s = .next t) : Keeps r t := by
  unfold execTrainDiscard at hn
  repeat' (first | (split at hn) | (injection hn with hn; subst hn))
  all_goals (try dsimp only)
  all_goals repeat' (first | with_reducible assumption | with_reducible apply keeps_trainDiscardAct | with_reducible apply keeps_cmdRow | split | (intro _; intros; try dsimp only))

theorem keeps_trainSweepAct {r s : State} (hs : Keeps r s) (x2 : Inst) : Keeps r (trainSweepAct s x2) := by
  unfold trainSweepAct
  try dsimp only
  repeat' (first | with_reducible assumption | with_reducible apply keeps_setInst | with_reducible apply keeps_updTrain | with_reducible apply keeps_finish | with_reducible apply keeps_refuse | with_reducible apply keeps_withSlot | with_reducible apply Keeps.ite | split | (intro _; intros; try dsimp only))

theorem keeps_execTrainSweep {r s t : State} (hs : Keeps r s) (hn : execTrainSweep s = .next t) : Keeps r t := by
  unfold execTrainSweep at hn
  repeat' (first | (split at hn) | (injection hn with hn; subst hn))
  all_goals (try dsimp only)
  all_goals repeat' (first | with_reducible assumption | with_reducible apply keeps_trainSweepAct | with_reducible apply keeps_cmdRow | split | (intro _; intros; try dsimp only))

theorem keeps_groupPut {r s : State} (hs : Keeps r s) (x2 : Nat) (x3 : Part) (x4 : TList) (x5 : Nat) (x6 : GroupRes) : Keeps r (groupPut s x2 x3 x4 x5 x6) := by
  unfold groupPut
  try dsimp only
  repeat' (first | with_reducible assumption | with_reducible apply keeps_updTrain | with_reducible apply keeps_bumpCensus | split | (intro _; intros; try dsimp only))

theorem keeps_pass1 {r s : State} (hs : Keeps r s) (x2 : Nat) (x3 : Nat) : Keeps r (pass1 s x2 x3) := by
  unfold pass1
  try dsimp only
  repeat' (first | with_reducible assumption | with_reducible apply keeps_listSeal | with_reducible apply keeps_bumpD | with_reducible apply keeps_post | with_reducible apply keeps_groupPut | with_reducible apply Keeps.ite | split | (intro _; intros; try dsimp only))

theorem keeps_execUpdatePass1 {r s t : State} (hs : Keeps r s) (x1 : Nat) (x2 : Nat) (hn : execUpdatePass1 x1 x2 s = .next t) : Keeps r t := by
  unfold execUpdatePass1 at hn
  repeat' (first | (split at hn) | (injection hn with hn; subst hn))
  all_goals (try dsimp only)
  all_goals repeat' (first | with_reducible assumption | with_reducible apply keeps_pass1 | split | (intro _; intros; try dsimp only))

theorem keeps_regrad {r s : State} (hs : Keeps r s) (x2 : Nat) : Keeps r (regrad s x2) := by
  unfold regrad
  try dsimp only
  repeat' (first | with_reducible assumption | with_reducible apply keeps_gradPut | with_reducible apply keeps_forEach | with_reducible apply Keeps.ite | split | (intro _; intros; try dsimp only))

theorem keeps_listOverEnd {r s : State} (hs : Keeps r s) (x2 : Nat) (x3 : TList) : Keeps r (listOverEnd s x2 x3) := by
  unfold listOverEnd
  try dsimp only
  repeat' (first | with_reducible assumption | with_reducible apply keeps_updatesResume | with_reducible apply keeps_finish | with_reducible apply keeps_updTrain | with_reducible apply keeps_listEnd | with_reducible apply Keeps.ite | split | (intro _; intros; try dsimp only))

theorem keeps_penTake {r s : State} (hs : Keeps r s) (x2 : Nat) (x3 : TList) (x4 : Item) : Keeps r (penTake s x2 x3 x4) := by
  unfold penTake
  try dsimp only
  repeat' (first | with_reducible assumption | with_reducible apply keeps_entryPut | with_reducible apply keeps_objWrite | with_reducible apply keeps_thaw | with_reducible apply keeps_updTrain | split | (intro _; intros; try dsimp only))

theorem keeps_penFill {r s : State} (hs : Keeps r s) (x1 x3 : Nat) : Keeps r (penFill x1 s x3) := by
  induction x1 generalizing s  with
  | zero =>
    unfold penFill
    repeat' (first | with_reducible assumption | with_reducible apply keeps_penTake | with_reducible apply keeps_post | with_reducible apply keeps_updTrain | with_reducible apply Keeps.ite | split | (intro _; intros; try dsimp only))
  | succ n ih =>
    unfold penFill
    try dsimp only
    repeat' (first | with_reducible assumption | with_reducible apply ih | with_reducible apply keeps_penTake | with_reducible apply keeps_post | with_reducible apply keeps_updTrain | with_reducible apply Keeps.ite | split | (intro _; intros; try dsimp only))

theorem keeps_penAll {r s : State} (hs : Keeps r s) (x2 : Nat) : Keeps r (penAll s x2) := by
  unfold penAll
  try dsimp only
  repeat' (first | with_reducible assumption | with_reducible apply keeps_penFill | split | (intro _; intros; try dsimp only))

theorem keeps_traitGrads {r s : State} (hs : Keeps r s) (x2 : Nat) (x3 : Part) (x4 : Man) (x5 : PoolPhase) (x6 : TList) : Keeps r (traitGrads s x2 x3 x4 x5 x6) := by
  unfold traitGrads
  try dsimp only
  repeat' (first | with_reducible assumption | with_reducible apply keeps_gradPut | with_reducible apply keeps_gradCensus | with_reducible apply keeps_forEach | split | (intro _; intros; try dsimp only))

theorem keeps_listComplete {r s : State} (hs : Keeps r s) (x2 : Nat) (x3 : Part) (x4 : Nat) : Keeps r (listComplete s x2 x3 x4) := by
  unfold listComplete
  try dsimp only
  repeat' (first | with_reducible assumption | with_reducible apply keeps_listOverEnd | with_reducible apply keeps_updTrain | with_reducible apply keeps_penAll | with_reducible apply keeps_listSeal | with_reducible apply keeps_traitGrads | with_reducible apply Keeps.ite | split | (intro _; intros; try dsimp only))

theorem keeps_unitsDone {r s : State} (hs : Keeps r s) (x2 : Nat) (x3 : LsUnit) : Keeps r (unitsDone s x2 x3) := by
  unfold unitsDone
  try dsimp only
  repeat' (first | with_reducible assumption | with_reducible apply keeps_updPart | with_reducible apply keeps_setUnits | with_reducible apply Keeps.ite | split | (intro _; intros; try dsimp only))

theorem keeps_phaseOne {r s : State} (hs : Keeps r s) (x2 : Nat) (x3 : Part) (x4 : Nat × Nat) (x5 : Bool) : Keeps r (phaseOne s x2 x3 x4 x5) := by
  unfold phaseOne
  try dsimp only
  repeat' (first | with_reducible assumption | with_reducible apply keeps_regrad | with_reducible apply keeps_listComplete | with_reducible apply keeps_unitsDone | with_reducible apply keeps_updTrain | with_reducible apply keeps_phaseGrads | with_reducible apply Keeps.ite | split | (intro _; intros; try dsimp only))

theorem keeps_phaseRun {r s : State} (hs : Keeps r s) (x2 : Nat) (x3 : Nat) : Keeps r (phaseRun s x2 x3) := by
  unfold phaseRun
  try dsimp only
  repeat' (first | with_reducible assumption | with_reducible apply keeps_phaseOne | with_reducible apply Keeps.ite | split | (intro _; intros; try dsimp only))

theorem keeps_execWeightGradientPhase {r s t : State} (hs : Keeps r s) (x1 : Nat) (x2 : Nat) (hn : execWeightGradientPhase x1 x2 s = .next t) : Keeps r t := by
  unfold execWeightGradientPhase at hn
  repeat' (first | (split at hn) | (injection hn with hn; subst hn))
  all_goals (try dsimp only)
  all_goals repeat' (first | with_reducible assumption | with_reducible apply keeps_phaseRun | split | (intro _; intros; try dsimp only))

theorem keeps_itemLost {r s : State} (hs : Keeps r s) (x2 : Nat) (x3 : TList) (x4 : Item) : Keeps r (itemLost s x2 x3 x4) := by
  unfold itemLost
  try dsimp only
  repeat' (first | with_reducible assumption | with_reducible apply keeps_bumpD | with_reducible apply keeps_recEvent | split | (intro _; intros; try dsimp only))

theorem keeps_lateFinish {r s : State} (hs : Keeps r s) (x1 x3 : Nat) : Keeps r (lateFinish x1 s x3) := by
  induction x1 generalizing s  with
  | zero =>
    unfold lateFinish
    repeat' (first | with_reducible assumption | with_reducible apply keeps_phaseOne | with_reducible apply keeps_updTrain | split | (intro _; intros; try dsimp only))
  | succ n ih =>
    unfold lateFinish
    try dsimp only
    repeat' (first | with_reducible assumption | with_reducible apply ih | with_reducible apply keeps_phaseOne | with_reducible apply keeps_updTrain | split | (intro _; intros; try dsimp only))

theorem keeps_listsRecover {r s : State} (hs : Keeps r s) (x2 : Nat) : Keeps r (listsRecover s x2) := by
  unfold listsRecover
  try dsimp only
  repeat' (first | with_reducible assumption | with_reducible apply keeps_listsAbandon | with_reducible apply keeps_updTrain | split | (intro _; intros; try dsimp only))

theorem keeps_penFree {r s : State} (hs : Keeps r s) (x2 : Nat) (x3 : Nat) (x4 : Item) : Keeps r (penFree s x2 x3 x4) := by
  unfold penFree
  try dsimp only
  repeat' (first | with_reducible assumption | with_reducible apply keeps_updTrain | split | (intro _; intros; try dsimp only))

theorem keeps_penLeave {r s : State} (hs : Keeps r s) (x2 : Part) (x3 : Nat) (x4 : TList) (x5 : Item) (x6 : Bool) : Keeps r (penLeave s x2 x3 x4 x5 x6) := by
  unfold penLeave
  try dsimp only
  repeat' (first | with_reducible assumption | with_reducible apply keeps_unpin | with_reducible apply keeps_penFree | with_reducible apply keeps_penAll | with_reducible apply Keeps.ite | split | (intro _; intros; try dsimp only))

theorem keeps_updateOne {r s : State} (hs : Keeps r s) (p : Nat) : Keeps r (updateOne s p) := by
  unfold updateOne
  split
  · exact hs
  refine Keeps.ite (fun _ => hs) (fun _ => ?_)
  split
  · exact hs
  split
  · exact hs
  extract_lets lost skip failed s1 s2 s3 it1 l1 src s4
  have h1 : Keeps r s1 := by
    refine Keeps.ite (fun _ => keeps_itemLost hs _ _ _) (fun _ => Keeps.ite (fun _ => hs) (fun _ => Keeps.ite (fun _ => ?_)
      (fun _ => Keeps.ite (fun _ => ?_) (fun _ => ?_))))
    · exact keeps_tensorDropped (keeps_bumpArr hs _ _ _ _ _) _ _ _ _ _
    · exact keeps_updateRow hs _ _ _ _ _ _
    · exact keeps_updateTensor hs _ _ _ _ _ _
  clear_value s1
  have h2 : Keeps r s2 := Keeps.ite (fun _ => h1) (fun _ => keeps_bumpD h1 _ _ _)
  clear_value s2
  have h3 : Keeps r s3 := keeps_penLeave h2 _ _ _ _ _
  clear_value s3
  have h4 : Keeps r s4 := keeps_updTrain (h3.upd rfl) _ _
  clear_value s4
  exact Keeps.ite (fun _ => keeps_listOverEnd h4 _ _) (fun _ => h4)

theorem keeps_addWin {r s : State} (hs : Keeps r s) (x2 : Nat) (x3 : Nat) (x4 : PosKey) : Keeps r (addWin s x2 x3 x4) := by
  unfold addWin
  try dsimp only
  repeat' (first | with_reducible assumption | with_reducible apply keeps_updPart | split | (intro _; intros; try dsimp only))

theorem keeps_answer {r s : State} (hs : Keeps r s) (x2 : Nat) (x3 : PosKey) : Keeps r (answer s x2 x3) := by
  unfold answer
  try dsimp only
  repeat' (first | with_reducible assumption | split | (intro _; intros; try dsimp only) | with_reducible refine Keeps.upd ?_ (by rfl))

theorem keeps_answerWin {r s : State} (hs : Keeps r s) (x2 : Nat) (x3 : PosKey) : Keeps r (answerWin s x2 x3) := by
  unfold answerWin
  try dsimp only
  repeat' (first | with_reducible assumption | with_reducible apply keeps_answer | with_reducible apply keeps_holdEnd | with_reducible apply keeps_forEach | with_reducible apply keeps_setWin | split | (intro _; intros; try dsimp only))

theorem keeps_bypassMissing {r s : State} (hs : Keeps r s) (x2 : Nat) (x3 : Win) (x4 : List Nat) : Keeps r (bypassMissing s x2 x3 x4) := by
  unfold bypassMissing
  try dsimp only
  repeat' (first | with_reducible assumption | with_reducible apply keeps_rowsLose | split | (intro _; intros; try dsimp only))

theorem keeps_bypassRest {r s : State} (hs : Keeps r s) (x2 : Nat) (x3 : Win) : Keeps r (bypassRest s x2 x3) := by
  unfold bypassRest
  try dsimp only
  repeat' (first | with_reducible assumption | with_reducible apply keeps_rowsLose | split | (intro _; intros; try dsimp only))

theorem keeps_ppSeq {r s : State} (hs : Keeps r s) (x2 : Nat) (x3 : Nat) : Keeps r (ppSeq s x2 x3) := by
  unfold ppSeq
  try dsimp only
  repeat' (first | with_reducible assumption | with_reducible apply keeps_bumpD | split | (intro _; intros; try dsimp only))

theorem keeps_missingPanel {r s : State} (hs : Keeps r s) (x2 : Nat) (x3 : Nat) (x4 : PosKey) : Keeps r (missingPanel s x2 x3 x4) := by
  unfold missingPanel
  try dsimp only
  repeat' (first | with_reducible assumption | with_reducible apply keeps_windowDead | with_reducible apply keeps_recEvent | with_reducible apply keeps_addWin | with_reducible apply Keeps.ite | split | (intro _; intros; try dsimp only))

theorem keeps_markOverdue {r s : State} (hs : Keeps r s) (x2 : Nat) (x3 : Nat) (x4 : Man) (x5 : PosKey) : Keeps r (markOverdue s x2 x3 x4 x5) := by
  unfold markOverdue
  try dsimp only
  repeat' (first | with_reducible assumption | with_reducible apply keeps_ppSeq | with_reducible apply keeps_missingPanel | with_reducible apply keeps_forEach | split | (intro _; intros; try dsimp only))

theorem keeps_updXp {r s : State} (hs : Keeps r s) (x2 : Xp → Xp) : Keeps r (updXp s x2) := by
  unfold updXp
  try dsimp only
  repeat' (first | with_reducible assumption | split | (intro _; intros; try dsimp only) | with_reducible refine Keeps.upd ?_ (by rfl))

theorem keeps_xpPumpAux {r s : State} (hs : Keeps r s) (x1 : Nat) : Keeps r (xpPumpAux x1 s) := by
  induction x1 generalizing s  with
  | zero =>
    unfold xpPumpAux
    repeat' (first | with_reducible assumption | with_reducible apply keeps_updXp | with_reducible apply Keeps.ite | split | (intro _; intros; try dsimp only))
  | succ n ih =>
    unfold xpPumpAux
    try dsimp only
    repeat' (first | with_reducible assumption | with_reducible apply ih | with_reducible apply keeps_updXp | with_reducible apply Keeps.ite | split | (intro _; intros; try dsimp only))

theorem keeps_xpPump {r s : State} (hs : Keeps r s) : Keeps r (xpPump s) := by
  unfold xpPump
  try dsimp only
  repeat' (first | with_reducible assumption | with_reducible apply keeps_xpPumpAux | split | (intro _; intros; try dsimp only))

theorem keeps_xpWant {r s : State} (hs : Keeps r s) (x2 : Nat) (x3 : PosKey) (x4 : List (Nat × Nat × Nat)) : Keeps r (xpWant s x2 x3 x4) := by
  unfold xpWant
  try dsimp only
  repeat' (first | with_reducible assumption | with_reducible apply keeps_updXp | with_reducible apply keeps_xpPump | split | (intro _; intros; try dsimp only))

theorem keeps_mergeBegin {r s : State} (hs : Keeps r s) (x2 : Nat) : Keeps r (mergeBegin s x2) := by
  unfold mergeBegin
  try dsimp only
  repeat' (first | with_reducible assumption | with_reducible apply keeps_xpWant | with_reducible apply Keeps.ite | split | (intro _; intros; try dsimp only))

theorem keeps_xpForget {r s : State} (hs : Keeps r s) (x2 : Nat) (x3 : PosKey) : Keeps r (xpForget s x2 x3) := by
  unfold xpForget
  try dsimp only
  repeat' (first | with_reducible assumption | with_reducible apply keeps_updXp | with_reducible apply keeps_xpPump | split | (intro _; intros; try dsimp only))

theorem keeps_mergeEnd {r s : State} (hs : Keeps r s) (d : Nat) (k : PosKey) : Keeps r (mergeEnd s d k) := by
  unfold mergeEnd
  split
  · exact hs
  split
  · exact hs
  split
  · exact hs
  extract_lets s1 before src s2 s3 s4 s5 s6
  have h1 : Keeps r s1 := keeps_setWin hs _ _
  clear_value s1
  have h2 : Keeps r s2 := by
    dsimp only [s2]
    split
    · split
      · exact Keeps.upd h1 rfl
      · exact h1
    · exact h1
  clear_value s2
  have h3 : Keeps r s3 := by
    dsimp only [s3]
    split
    · refine Keeps.ite (fun _ => Keeps.ite (fun _ => keeps_poolAccumulate ?_ _ _) (fun _ => ?_)) (fun _ => Keeps.ite (fun _ => keeps_keepSave h2 _ _) (fun _ => h2))
      all_goals exact Keeps.ite (fun _ => keeps_keepStash h2 _ _ _) (fun _ => h2)
    · split
      · exact Keeps.ite (fun _ => keeps_keepSave h2 _ _) (fun _ => h2)
      · exact h2
  clear_value s3
  have h4 : Keeps r s4 := by
    dsimp only [s4]
    split
    · exact h3
    · exact Keeps.ite (fun _ => keeps_updTrain h3 _ _) (fun _ => h3)
  clear_value s4
  have h5 : Keeps r s5 := keeps_updPart h4 _ _
  clear_value s5
  have h6 : Keeps r s6 := Keeps.ite (fun _ => keeps_answerWin h5 _ _) (fun _ => h5)
  exact keeps_xpForget (keeps_updPart h6 _ _) _ _

theorem keeps_openWin {r s : State} (hs : Keeps r s) (x2 : Nat) (x3 : Nat) (x4 : PosKey) : Keeps r (openWin s x2 x3 x4) := by
  unfold openWin
  try dsimp only
  repeat' (first | with_reducible assumption | with_reducible apply keeps_xpWant | with_reducible apply keeps_windowDead | with_reducible apply keeps_bumpD | with_reducible apply keeps_failedRows | with_reducible apply keeps_bypassMissing | with_reducible apply keeps_setWin | with_reducible apply keeps_holdStart | with_reducible apply keeps_addWin | with_reducible apply Keeps.ite | split | (intro _; intros; try dsimp only))

theorem keeps_reached {r s : State} (hs : Keeps r s) (x2 : Nat) (x3 : PosKey) : Keeps r (reached s x2 x3) := by
  unfold reached
  try dsimp only
  repeat' (first | with_reducible assumption | with_reducible apply keeps_updPart | split | (intro _; intros; try dsimp only))

theorem keeps_recordDrop {r s : State} (hs : Keeps r s) (x2 : Nat) (x3 : PosKey) : Keeps r (recordDrop s x2 x3) := by
  unfold recordDrop
  try dsimp only
  repeat' (first | with_reducible assumption | with_reducible apply keeps_ppSeq | with_reducible apply keeps_recEvent | split | (intro _; intros; try dsimp only))

theorem keeps_scaleList {r s : State} (hs : Keeps r s) (x2 : Nat) (x3 : Nat) (x4 : WinCtx) : Keeps r (scaleList s x2 x3 x4) := by
  unfold scaleList
  try dsimp only
  repeat' (first | with_reducible assumption | with_reducible apply keeps_forEach | split | (intro _; intros; try dsimp only) | with_reducible refine Keeps.upd ?_ (by rfl))

theorem keeps_takePanel {r s : State} (hs : Keeps r s) (x2 : Nat) (x3 : Nat) (x4 : PosKey) (x5 : Nat) (x6 : List (BitVec 2048)) : Keeps r (takePanel s x2 x3 x4 x5 x6) := by
  unfold takePanel
  try dsimp only
  repeat' (first | with_reducible assumption | with_reducible apply keeps_xpWant | with_reducible apply keeps_windowDead | with_reducible apply keeps_bumpD | with_reducible apply keeps_ppSeq | with_reducible apply keeps_missingPanel | with_reducible apply keeps_setWin | with_reducible apply keeps_openWin | with_reducible apply keeps_recordDrop | with_reducible apply Keeps.ite | split | (intro _; intros; try dsimp only))

theorem keeps_unitsSettle {r s : State} (hs : Keeps r s) (x2 : Nat) : Keeps r (unitsSettle s x2) := by
  unfold unitsSettle
  try dsimp only
  repeat' (first | with_reducible assumption | with_reducible apply keeps_unitsDone | with_reducible apply keeps_forEach | split | (intro _; intros; try dsimp only))

theorem keeps_winNext {r s : State} (hs : Keeps r s) (x2 : Nat) (x3 : Nat) (x4 : PosKey) : Keeps r (winNext s x2 x3 x4) := by
  unfold winNext
  try dsimp only
  repeat' (first | with_reducible assumption | with_reducible apply keeps_bumpCensus | with_reducible apply keeps_setWin | with_reducible apply keeps_scaleList | with_reducible apply keeps_mergeEnd | with_reducible apply Keeps.ite | split | (intro _; intros; try dsimp only))

theorem keeps_winsSettleAux {r s : State} (hs : Keeps r s) (x1 x2 x3 : Nat) : Keeps r (winsSettleAux x1 x2 x3 s) := by
  induction x3 generalizing s  with
  | zero =>
    unfold winsSettleAux
    repeat' (first | with_reducible assumption | with_reducible apply keeps_winNext | with_reducible apply keeps_forEach | split | (intro _; intros; try dsimp only))
  | succ n ih =>
    unfold winsSettleAux
    try dsimp only
    repeat' (first | with_reducible assumption | with_reducible apply ih | with_reducible apply keeps_winNext | with_reducible apply keeps_forEach | split | (intro _; intros; try dsimp only))

theorem keeps_winsSettle {r s : State} (hs : Keeps r s) (x2 : Nat) (x3 : Nat) : Keeps r (winsSettle s x2 x3) := by
  unfold winsSettle
  try dsimp only
  repeat' (first | with_reducible assumption | with_reducible apply keeps_winsSettleAux | with_reducible apply keeps_mergeBegin | with_reducible apply keeps_unitsSettle | split | (intro _; intros; try dsimp only))

theorem keeps_eccUncorr {r s : State} (hs : Keeps r s) (x2 : Nat) (x3 : Nat) (x4 : Bool) (x5 : Nat) : Keeps r (eccUncorr s x2 x3 x4 x5) := by
  unfold eccUncorr
  try dsimp only
  repeat' (first | with_reducible assumption | with_reducible apply keeps_bump | with_reducible apply keeps_post | split | (intro _; intros; try dsimp only))

theorem keeps_faultRows {r s : State} (hs : Keeps r s) (x2 : Nat) (x3 : PosKey) (x4 : List Nat) (x5 : Nat) : Keeps r (faultRows s x2 x3 x4 x5) := by
  unfold faultRows
  try dsimp only
  repeat' (first | with_reducible assumption | with_reducible apply keeps_rowsLose | with_reducible apply Keeps.ite | split | (intro _; intros; try dsimp only))

theorem keeps_updRel {r s : State} (hs : Keeps r s) (x2 : Rel → Rel) : Keeps r (updRel s x2) := by
  unfold updRel
  try dsimp only
  repeat' (first | with_reducible assumption | split | (intro _; intros; try dsimp only) | with_reducible refine Keeps.upd ?_ (by rfl))

theorem keeps_replaceRise {r s : State} (hs : Keeps r s) : Keeps r (replaceRise s) := by
  unfold replaceRise
  try dsimp only
  repeat' (first | with_reducible assumption | with_reducible apply keeps_updRel | with_reducible apply keeps_post | with_reducible apply keeps_raiseIbi | with_reducible apply Keeps.ite | split | (intro _; intros; try dsimp only))

theorem keeps_substitute {r s : State} (hs : Keeps r s) (x2 : Nat) (x3 : Nat) : Keeps r (substitute s x2 x3) := by
  unfold substitute
  try dsimp only
  repeat' (first | with_reducible assumption | with_reducible apply keeps_bumpD | with_reducible apply keeps_forEach | with_reducible apply keeps_updRel | with_reducible apply Keeps.ite | split | (intro _; intros; try dsimp only))

theorem keeps_mapOut {r s : State} (hs : Keeps r s) (x2 : Nat) : Keeps r (mapOut s x2).1 := by
  unfold mapOut
  try dsimp only
  repeat' (first | with_reducible assumption | with_reducible apply keeps_replaceRise | with_reducible apply keeps_substitute | with_reducible apply keeps_post | with_reducible apply keeps_updRel | with_reducible apply keeps_bump | with_reducible apply Keeps.ite | split | (intro _; intros; try dsimp only))
theorem keeps_mapOut_eq {r s t : State} {a} {x2 : Nat} (hs : Keeps r s) (e : mapOut s x2 = (t, a)) : Keeps r t := by
  have := keeps_mapOut hs x2 
  rw [e] at this; exact this

theorem keeps_mapOutTile {r s : State} (hs : Keeps r s) (x2 : Nat) : Keeps r (mapOutTile s x2) := by
  unfold mapOutTile
  try dsimp only
  repeat' (first | with_reducible assumption | with_reducible apply keeps_mapOut | split | (intro _; intros; try dsimp only))

theorem keeps_tileFaultWin {r s : State} (hs : Keeps r s) (x2 : Nat) (x3 : Nat) (x4 : Nat) (x5 : Nat) (x6 : PosKey) : Keeps r (tileFaultWin s x2 x3 x4 x5 x6) := by
  unfold tileFaultWin
  try dsimp only
  repeat' (first | with_reducible assumption | with_reducible apply keeps_faultRows | with_reducible apply Keeps.ite | split | (intro _; intros; try dsimp only))

theorem keeps_tileFault {r s : State} (hs : Keeps r s) (x2 : Nat) (x3 : Nat) (x4 : Nat) : Keeps r (tileFault s x2 x3 x4) := by
  unfold tileFault
  try dsimp only
  repeat' (first | with_reducible assumption | with_reducible apply keeps_tileFaultWin | with_reducible apply keeps_forEach | split | (intro _; intros; try dsimp only))

theorem keeps_blockFault {r s : State} (hs : Keeps r s) (x2 : Nat) (x3 : Nat) (x4 : Nat) (x5 : PosKey) : Keeps r (blockFault s x2 x3 x4 x5) := by
  unfold blockFault
  try dsimp only
  repeat' (first | with_reducible assumption | with_reducible apply keeps_eccUncorr | with_reducible apply keeps_mapOutTile | with_reducible apply keeps_tileFaultWin | with_reducible apply keeps_draw | split | (intro _; intros; try dsimp only))

theorem keeps_unitCensus {r s : State} (hs : Keeps r s) (x2 : Nat) (x3 : WinCtx) (x4 : Nat) : Keeps r (unitCensus s x2 x3 x4) := by
  unfold unitCensus
  try dsimp only
  repeat' (first | with_reducible assumption | with_reducible apply keeps_censusTo | with_reducible apply keeps_forEach | with_reducible apply Keeps.ite | split | (intro _; intros; try dsimp only))

theorem keeps_tilesTake {r s : State} (hs : Keeps r s) : Keeps r (tilesTake s) := by
  unfold tilesTake
  try dsimp only
  repeat' (first | with_reducible assumption | with_reducible apply keeps_updRel | split | (intro _; intros; try dsimp only))

theorem keeps_blockEnd {r s t : State} {a : Nat} {x2 x3 x4 : Nat} {x5 : Bool} (hs : Keeps r s) (hn : blockEnd s x2 x3 x4 x5 = some (a, t)) : Keeps r t := by
  have h0 := keeps_tilesTake hs
  unfold blockEnd at hn
  dsimp only at hn
  generalize tilesTake s = s0 at h0 hn
  split at hn
  · cases hn
  split at hn
  · cases hn
  split at hn
  · cases hn
  split at hn
  · cases hn
  injection hn with hn
  injection hn with ha hn
  subst hn
  refine Keeps.ite (fun _ => keeps_blockFault (keeps_updRel (keeps_bumpD ?_ _ _ _) _) _ _ _ _) (fun _ => keeps_updRel (keeps_bumpD ?_ _ _ _) _)
  all_goals
    refine Keeps.ite (fun _ => keeps_unitCensus ?_ _ _ _) (fun _ => ?_)
    all_goals exact Keeps.ite (fun _ => keeps_setWin h0 _ _) (fun _ => keeps_bumpCensus (keeps_setWin h0 _ _) _ _)

theorem keeps_bumpSlot {r s : State} (hs : Keeps r s) (x2 : Nat) (x3 : Nat) (x4 : Nat) : Keeps r (bumpSlot s x2 x3 x4) := by
  unfold bumpSlot
  try dsimp only
  repeat' (first | with_reducible assumption | with_reducible apply keeps_bumpD | split | (intro _; intros; try dsimp only))

theorem keeps_retire {r s : State} (hs : Keeps r s) (x2 : Nat) (x3 : Eng) (x4 : Seg) (x5 : Bool) (x6 : Nat) (x7 : W64 × W64 × W64) (x8 : Census) : Keeps r (retire s x2 x3 x4 x5 x6 x7 x8) := by
  unfold retire
  try dsimp only
  repeat' (first | with_reducible assumption | with_reducible apply keeps_bumpCensus | with_reducible apply keeps_setEng | split | (intro _; intros; try dsimp only))

theorem keeps_segCycles {r s : State} (hs : Keeps r s) (x1 : Seg) : Keeps r (segCycles x1 s).2 := by
  unfold segCycles
  try dsimp only
  repeat' (first | with_reducible assumption | with_reducible apply keeps_draw | split | (intro _; intros; try dsimp only))
theorem keeps_segCycles_eq {r s t : State} {a} {x1 : Seg} (hs : Keeps r s) (e : segCycles x1 s = (a, t)) : Keeps r t := by
  have := keeps_segCycles hs x1 
  rw [e] at this; exact this

theorem keeps_endSegment {r s : State} (hs : Keeps r s) (x2 : Nat) (x3 : Seg) (x4 : Nat) (x5 : Nat) : Keeps r (endSegment s x2 x3 x4 x5) := by
  unfold endSegment
  try dsimp only
  repeat' (first | with_reducible assumption | with_reducible apply keeps_bumpSlot | with_reducible apply keeps_segCycles | with_reducible apply keeps_setEng | with_reducible apply Keeps.ite | split | (intro _; intros; try dsimp only))

theorem keeps_issueWord {r s : State} (hs : Keeps r s) (x2 : Nat) (x3 : Nat) (x4 : Nat) (x5 : Eng → Seg → Bool) (x6 : List Nat) (x7 : Eng → Seg → State) (hx7 : ∀ (y0 : Eng) (y1 : Seg), Keeps r (x7 y0 y1)) : Keeps r (issueWord s x2 x3 x4 x5 x6 x7) := by
  unfold issueWord
  try dsimp only
  repeat' (first | with_reducible assumption | with_reducible apply keeps_endSegment | apply hx7 | with_reducible apply Keeps.ite | split | (intro _; intros; try dsimp only))

theorem keeps_convert {r s : State} (hs : Keeps r s) (x2 : Nat) (x3 : Nat) : Keeps r (convert s x2 x3) := by
  unfold convert
  try dsimp only
  repeat' (first | with_reducible assumption | with_reducible apply keeps_poisonRead | with_reducible apply keeps_retire | with_reducible apply keeps_issueWord | split | (intro _; intros; try dsimp only))

theorem keeps_summaryOf {r s : State} (hs : Keeps r s) (x2 : ResKind) (x3 : Nat) (x4 : Nat) (x5 : List (List Nat)) (x6 : Census) : Keeps r (summaryOf s x2 x3 x4 x5 x6).2 := by
  unfold summaryOf
  try dsimp only
  repeat' (first | with_reducible assumption | with_reducible apply keeps_draw | split | (intro _; intros; try dsimp only))
theorem keeps_summaryOf_eq {r s t : State} {a} {x2 : ResKind} {x3 : Nat} {x4 : Nat} {x5 : List (List Nat)} {x6 : Census} (hs : Keeps r s) (e : summaryOf s x2 x3 x4 x5 x6 = (a, t)) : Keeps r t := by
  have := keeps_summaryOf hs x2 x3 x4 x5 x6 
  rw [e] at this; exact this

theorem keeps_eltwise {r s : State} (hs : Keeps r s) (x2 : Nat) (x3 : Nat) (x4 : Nat) (x5 : Bool) (x6 : Bool) (x7 : ResKind) (x8 : Bool) (x9 : Nat → Nat → Nat → Nat × Census) : Keeps r (eltwise s x2 x3 x4 x5 x6 x7 x8 x9) := by
  unfold eltwise
  try dsimp only
  repeat' (first | with_reducible assumption | with_reducible apply keeps_poisonRead | with_reducible apply keeps_retire | with_reducible apply keeps_summaryOf | with_reducible apply keeps_issueWord | split | (intro _; intros; try dsimp only))

theorem keeps_plainRead {r s : State} (hs : Keeps r s) (x2 : Nat) (x3 : Eng) (x4 : List RegSpan) : Keeps r (plainRead s x2 x3 x4) := by
  unfold plainRead
  try dsimp only
  repeat' (first | with_reducible assumption | with_reducible apply keeps_poisonRead | with_reducible apply keeps_bumpSlot | with_reducible apply Keeps.ite | split | (intro _; intros; try dsimp only))

theorem keeps_reduction {r s : State} (hs : Keeps r s) (x2 : Nat) (x3 : Nat) : Keeps r (reduction s x2 x3) := by
  unfold reduction
  try dsimp only
  repeat' (first | with_reducible assumption | with_reducible apply keeps_poisonRead | with_reducible apply keeps_retire | with_reducible apply keeps_issueWord | split | (intro _; intros; try dsimp only))

theorem keeps_startSegment {r s : State} (hs : Keeps r s) (x2 : Nat) (x3 : Nat) : Keeps r (startSegment s x2 x3) := by
  unfold startSegment
  try dsimp only
  repeat' (first | with_reducible assumption | with_reducible apply keeps_endSegment | with_reducible apply keeps_setEng | with_reducible apply Keeps.ite | split | (intro _; intros; try dsimp only))

theorem keeps_dropRead {r s : State} (hs : Keeps r s) (x2 : FlRead) : Keeps r (dropRead s x2) := by
  unfold dropRead
  try dsimp only
  repeat' (first | with_reducible assumption | with_reducible apply keeps_updFl | split | (intro _; intros; try dsimp only))

theorem keeps_saveAck {r s : State} (hs : Keeps r s) (x2 : Nat) : Keeps r (saveAck s x2) := by
  unfold saveAck
  try dsimp only
  repeat' (first | with_reducible assumption | with_reducible apply keeps_updPart | split | (intro _; intros; try dsimp only))

theorem keeps_granulesReturn {r s : State} (hs : Keeps r s) (x2 : Nat) : Keeps r (granulesReturn s x2) := by
  unfold granulesReturn
  try dsimp only
  repeat' (first | with_reducible assumption | with_reducible apply keeps_updPart | with_reducible apply Keeps.ite | split | (intro _; intros; try dsimp only))

theorem keeps_dirtySaved {r s : State} (hs : Keeps r s) (x2 : Nat) : Keeps r (dirtySaved s x2) := by
  unfold dirtySaved
  try dsimp only
  repeat' (first | with_reducible assumption | with_reducible apply keeps_saveAck | with_reducible apply keeps_granulesReturn | with_reducible apply Keeps.ite | split | (intro _; intros; try dsimp only))

theorem keeps_endPin {r s : State} (hs : Keeps r s) (x2 : Req) : Keeps r (endPin s x2) := by
  unfold endPin
  try dsimp only
  repeat' (first | with_reducible assumption | with_reducible apply keeps_unpin | with_reducible apply Keeps.ite | split | (intro _; intros; try dsimp only))

theorem keeps_freeBytesAt {r s : State} (hs : Keeps r s) (x2 : Nat) (x3 : Nat) (x4 : Nat) : Keeps r (freeBytesAt s x2 x3 x4) := by
  unfold freeBytesAt
  try dsimp only
  repeat' (first | with_reducible assumption | split | (intro _; intros; try dsimp only) | with_reducible refine Keeps.store ?_ (by rfl))

theorem keeps_rickLeave {r s : State} (hs : Keeps r s) (x2 : Nat) (x3 : Nat) : Keeps r (rickLeave s x2 x3) := by
  unfold rickLeave
  try dsimp only
  repeat' (first | with_reducible assumption | with_reducible apply keeps_dissolveRick | with_reducible apply keeps_updXt | with_reducible apply Keeps.ite | split | (intro _; intros; try dsimp only) | with_reducible refine Keeps.upd ?_ (by rfl))

theorem keeps_waitersEnd {r s : State} (hs : Keeps r s) (x2 : Nat) (x3 : Bool) : Keeps r (waitersEnd s x2 x3) := by
  unfold waitersEnd
  try dsimp only
  repeat' (first | with_reducible assumption | with_reducible apply keeps_poolPartEnd | with_reducible apply keeps_poolSettle | with_reducible apply keeps_itemEnd | with_reducible apply keeps_kindleSettle | with_reducible apply keeps_forEach | with_reducible apply Keeps.ite | split | (intro _; intros; try dsimp only))

theorem keeps_kindleReply {r s : State} (hs : Keeps r s) (x2 : Nat) (x3 : Nat) (x4 : Nat) (x5 : Bool) : Keeps r (kindleReply s x2 x3 x4 x5) := by
  unfold kindleReply
  try dsimp only
  repeat' (first | with_reducible assumption | with_reducible apply keeps_setItem | with_reducible apply keeps_itemEnd | with_reducible apply keeps_kindleSettle | with_reducible apply Keeps.ite | split | (intro _; intros; try dsimp only))

theorem keeps_writeFail {r s : State} (hs : Keeps r s) (x2 : Req) : Keeps r (writeFail s x2) := by
  unfold writeFail
  try dsimp only
  repeat' (first | with_reducible assumption | with_reducible apply keeps_post | with_reducible apply keeps_updPart | with_reducible apply keeps_freeBytesAt | with_reducible apply Keeps.ite | split | (intro _; intros; try dsimp only))

theorem keeps_unblock {r s : State} (hs : Keeps r s) (x2 : Req) : Keeps r (unblock s x2) := by
  unfold unblock
  try dsimp only
  repeat' (first | with_reducible assumption | with_reducible apply keeps_updPart | with_reducible apply Keeps.ite | split | (intro _; intros; try dsimp only))

theorem keeps_reqFail {r s : State} (hs : Keeps r s) (x2 : Req) : Keeps r (reqFail s x2) := by
  unfold reqFail
  try dsimp only
  repeat' (first | with_reducible assumption | with_reducible apply keeps_pubReply | with_reducible apply keeps_poolReqEnd | with_reducible apply keeps_kindleSettle | with_reducible apply keeps_saveAck | with_reducible apply keeps_dirtyAck | with_reducible apply keeps_dirtySaved | with_reducible apply keeps_moveReplay | with_reducible apply keeps_moveAbort | with_reducible apply keeps_endPin | with_reducible apply keeps_movesIdle | with_reducible apply keeps_updatesResume | with_reducible apply keeps_poisonExtent | with_reducible apply keeps_evictAck | with_reducible apply keeps_freeBytesAt | with_reducible apply keeps_rickLeave | with_reducible apply keeps_fillFail | with_reducible apply keeps_waitersEnd | with_reducible apply keeps_kindleReply | with_reducible apply keeps_writeFail | with_reducible apply keeps_unblock | with_reducible apply keeps_bumpArr | with_reducible apply Keeps.ite | split | (intro _; intros; try dsimp only) | with_reducible refine Keeps.upd ?_ (by rfl))

theorem keeps_lunGone {r s : State} (hs : Keeps r s) (x2 : Nat) (x3 : Nat) (x4 : Nat) : Keeps r (lunGone s x2 x3 x4) := by
  unfold lunGone
  try dsimp only
  repeat' (first | with_reducible assumption | with_reducible apply keeps_progAgain | with_reducible apply keeps_capCheck | with_reducible apply keeps_dropRead | with_reducible apply keeps_reqFail | with_reducible apply keeps_forEach | with_reducible apply keeps_post | with_reducible apply keeps_onfi | with_reducible apply keeps_updFl | with_reducible apply Keeps.ite | split | (intro _; intros; try dsimp only))

theorem keeps_channelGone {r s : State} (hs : Keeps r s) (x2 : Nat) : Keeps r (channelGone s x2) := by
  unfold channelGone
  try dsimp only
  repeat' (first | with_reducible assumption | with_reducible apply keeps_lunGone | with_reducible apply keeps_forEach | split | (intro _; intros; try dsimp only))

theorem keeps_flRetry {r s : State} (hs : Keeps r s) (x2 : FlRead) : Keeps r (flRetry s x2) := by
  unfold flRetry
  try dsimp only
  repeat' (first | with_reducible assumption | with_reducible apply keeps_fenceAnswer | with_reducible apply keeps_flashUncorr | with_reducible apply keeps_reqFail | with_reducible apply keeps_dropRead | with_reducible apply keeps_bumpArr | with_reducible apply Keeps.ite | split | (intro _; intros; try dsimp only) | with_reducible refine Keeps.upd ?_ (by rfl))

theorem keeps_nextLevel {r s : State} (hs : Keeps r s) (x2 : FlRead) : Keeps r (nextLevel s x2) := by
  unfold nextLevel
  try dsimp only
  repeat' (first | with_reducible assumption | with_reducible apply keeps_blkRead | with_reducible apply keeps_onfi | with_reducible apply keeps_updFl | with_reducible apply keeps_bump | split | (intro _; intros; try dsimp only))

theorem keeps_rickReply {r s : State} (hs : Keeps r s) (x2 : Nat) (x3 : Nat) : Keeps r (rickReply s x2 x3) := by
  unfold rickReply
  try dsimp only
  repeat' (first | with_reducible assumption | with_reducible apply keeps_updXt | with_reducible apply Keeps.ite | split | (intro _; intros; try dsimp only))

theorem keeps_reqDone {r s : State} (hs : Keeps r s) (x2 : Req) : Keeps r (reqDone s x2) := by
  unfold reqDone
  try dsimp only
  repeat' (first | with_reducible assumption | with_reducible apply keeps_pubReply | with_reducible apply keeps_poolReqEnd | with_reducible apply keeps_kindleSettle | with_reducible apply keeps_saveAck | with_reducible apply keeps_dirtyAck | with_reducible apply keeps_dirtySaved | with_reducible apply keeps_moveReplay | with_reducible apply keeps_moveCopyRead | with_reducible apply keeps_endPin | with_reducible apply keeps_rickCopies | with_reducible apply keeps_movesIdle | with_reducible apply keeps_updatesResume | with_reducible apply keeps_evictAck | with_reducible apply keeps_rickPut | with_reducible apply keeps_rickReply | with_reducible apply keeps_setXt | with_reducible apply keeps_fillEnd | with_reducible apply keeps_waitersEnd | with_reducible apply keeps_kindleReply | with_reducible apply keeps_unblock | with_reducible apply Keeps.ite | split | (intro _; intros; try dsimp only) | with_reducible refine Keeps.upd ?_ (by rfl))

theorem keeps_readPassed {r s : State} (hs : Keeps r s) (x2 : FlRead) (x3 : Nat) : Keeps r (readPassed s x2 x3) := by
  unfold readPassed
  try dsimp only
  repeat' (first | with_reducible assumption | with_reducible apply keeps_relocate | with_reducible apply keeps_reqDone | with_reducible apply keeps_onfi | with_reducible apply keeps_dropRead | with_reducible apply keeps_fenceAnswer | with_reducible apply Keeps.ite | split | (intro _; intros; try dsimp only))

theorem keeps_settleT3 {r s : State} (hs : Keeps r s) : Keeps r (settleT3 s) := by
  unfold settleT3
  try dsimp only
  repeat' (first | with_reducible assumption | with_reducible apply keeps_updFl | with_reducible apply keeps_blkRead | with_reducible apply keeps_onfi | with_reducible apply keeps_reqFail | with_reducible apply keeps_forEach | with_reducible apply Keeps.ite | split | (intro _; intros; try dsimp only) | with_reducible refine Keeps.upd ?_ (by rfl))

theorem keeps_flashRead {r s : State} (hs : Keeps r s) (x2 : Nat) (x3 : Bool) (x4 : Nat) (x5 : Nat) : Keeps r (flashRead s x2 x3 x4 x5) := by
  unfold flashRead
  try dsimp only
  repeat' (first | with_reducible assumption | with_reducible apply keeps_lunStart | with_reducible apply keeps_flRetry | with_reducible apply keeps_nextLevel | with_reducible apply keeps_readPassed | with_reducible apply keeps_settleT3 | with_reducible apply Keeps.ite | split | (intro _; intros; try dsimp only))

theorem keeps_issuePin {r s : State} (hs : Keeps r s) (x2 : Req) : Keeps r (issuePin s x2) := by
  unfold issuePin
  try dsimp only
  repeat' (first | with_reducible assumption | with_reducible apply keeps_pin | with_reducible apply Keeps.ite | split | (intro _; intros; try dsimp only))

theorem keeps_issueReq {r s : State} (hs : Keeps r s) (x2 : Req) (x3 : Bool) : Keeps r (issueReq s x2 x3) := by
  unfold issueReq
  try dsimp only
  repeat' (first | with_reducible assumption | with_reducible apply keeps_bumpD | with_reducible apply keeps_issuePin | split | (intro _; intros; try dsimp only) | with_reducible refine Keeps.upd ?_ (by rfl))

theorem keeps_lrbStore {r s : State} (hs : Keeps r s) (x2 : Nat) (x3 : Nat) (x4 : List W64) : Keeps r (lrbStore s x2 x3 x4) := by
  unfold lrbStore
  try dsimp only
  repeat' (first | with_reducible assumption | with_reducible apply keeps_storeT1 | split | (intro _; intros; try dsimp only))

theorem keeps_setLrb {r s : State} (hs : Keeps r s) (x2 : Nat) (x3 : Nat) (x4 : Lrb) : Keeps r (setLrb s x2 x3 x4) := by
  unfold setLrb
  try dsimp only
  repeat' (first | with_reducible assumption | with_reducible apply keeps_updPart | with_reducible apply keeps_lrbStore | with_reducible apply keeps_draw | split | (intro _; intros; try dsimp only))

theorem keeps_lrbPlace {r s : State} (hs : Keeps r s) (x2 : Nat) : Keeps r (lrbPlace s x2) := by
  unfold lrbPlace
  try dsimp only
  repeat' (first | with_reducible assumption | with_reducible apply keeps_updPart | with_reducible apply keeps_setLrb | with_reducible apply keeps_forEach | split | (intro _; intros; try dsimp only))

theorem keeps_lrbDetach {r s : State} (hs : Keeps r s) (x2 : Nat) : Keeps r (lrbDetach s x2) := by
  unfold lrbDetach
  try dsimp only
  repeat' (first | with_reducible assumption | with_reducible apply keeps_updPart | with_reducible apply keeps_lrbPlace | with_reducible apply keeps_bumpD | split | (intro _; intros; try dsimp only) | with_reducible refine Keeps.upd ?_ (by rfl))

theorem keeps_lrbReply {r s : State} (hs : Keeps r s) (x2 : Nat) (x3 : Nat) (x4 : Lrb) (x5 : Bool) : Keeps r (lrbReply s x2 x3 x4 x5) := by
  unfold lrbReply
  try dsimp only
  repeat' (first | with_reducible assumption | with_reducible apply keeps_storeT1 | with_reducible apply keeps_setLrb | with_reducible apply Keeps.ite | split | (intro _; intros; try dsimp only))

theorem keeps_reqRetry {r s : State} (hs : Keeps r s) (x2 : Req) : Keeps r (reqRetry s x2) := by
  unfold reqRetry
  try dsimp only
  repeat' (first | with_reducible assumption | with_reducible apply keeps_reqFail | with_reducible apply keeps_bumpArr | with_reducible apply Keeps.ite | split | (intro _; intros; try dsimp only) | with_reducible refine Keeps.upd ?_ (by rfl))

theorem keeps_lrbRestore {r s : State} (hs : Keeps r s) (x2 : Nat) : Keeps r (lrbRestore s x2) := by
  unfold lrbRestore
  try dsimp only
  repeat' (first | with_reducible assumption | with_reducible apply keeps_reqRetry | with_reducible apply keeps_bumpD | with_reducible apply keeps_reqDone | with_reducible apply keeps_lrbStore | with_reducible apply keeps_forEach | with_reducible apply keeps_updPart | with_reducible apply Keeps.ite | split | (intro _; intros; try dsimp only) | with_reducible refine Keeps.upd ?_ (by rfl))

theorem keeps_quarantine {r s : State} (hs : Keeps r s) (x2 : Req) : Keeps r (quarantine s x2) := by
  unfold quarantine
  try dsimp only
  repeat' (first | with_reducible assumption | split | (intro _; intros; try dsimp only) | with_reducible refine Keeps.upd ?_ (by rfl))

theorem keeps_replyOn {r s : State} (hs : Keeps r s) (x2 : Nat) (x3 : Nat) (x4 : Nat) (x5 : Bool) (x6 : Nat) : Keeps r (replyOn s x2 x3 x4 x5 x6) := by
  unfold replyOn
  try dsimp only
  repeat' (first | with_reducible assumption | with_reducible apply keeps_bumpD | with_reducible apply keeps_updPart | with_reducible apply keeps_lrbReply | with_reducible apply keeps_reqDone | with_reducible apply keeps_quarantine | with_reducible apply keeps_reqRetry | with_reducible apply Keeps.ite | split | (intro _; intros; try dsimp only) | with_reducible refine Keeps.upd ?_ (by rfl))

end Sys2Proof.Machine
end

