-- ==== Sys2Proof/Laws/KeepsSteps.lean ====
section
/-! SUPPORT. For each operation of PartOps, CoreOps, Boundary, Transfers, PartCmds, StreamCmds, CtxCmds, DictCmds: it keeps what `Keeps` says. One lemma for each
operation, so that no later proof unfolds one to know this. -/

namespace Sys2Proof.Machine

theorem keeps_updCore {r s : State} (hs : Keeps r s) (x2 : Core → Core) : Keeps r (updCore s x2) := by
  unfold updCore
  try dsimp only
  repeat' (first | with_reducible assumption | split | (intro _; intros; try dsimp only) | with_reducible refine Keeps.upd ?_ (by rfl))

theorem keeps_changeDone {r s : State} (hs : Keeps r s) : Keeps r (changeDone s) := by
  unfold changeDone
  try dsimp only
  repeat' (first | with_reducible assumption | with_reducible apply keeps_finish | with_reducible apply keeps_post | with_reducible apply keeps_updCore | with_reducible apply Keeps.ite | split | (intro _; intros; try dsimp only))

theorem keeps_dropStepReqs {r s : State} (hs : Keeps r s) (d : Nat) : Keeps r (dropStepReqs s d) := by
  unfold dropStepReqs
  extract_lets pins s1 strip src1 src2
  have h1 : Keeps r s1 := keeps_updTraits (keeps_forEach hs _ _ (fun _ _ h => keeps_unpin h _ _)) _ _
  exact h1.updTabs rfl (sorted_upd _ _) id

theorem keeps_dropShare {r s : State} (hs : Keeps r s) (x2 : Nat) : Keeps r (dropShare s x2) := by
  unfold dropShare
  try dsimp only
  repeat' (first | with_reducible assumption | with_reducible apply keeps_unpin | with_reducible apply keeps_dropStepReqs | with_reducible apply keeps_forEach | with_reducible apply keeps_updPart | split | (intro _; intros; try dsimp only))

theorem keeps_fwPartSwitch {r s : State} (hs : Keeps r s) (x2 : Nat) : Keeps r (fwPartSwitch s x2) := by
  unfold fwPartSwitch
  try dsimp only
  repeat' (first | with_reducible assumption | with_reducible apply keeps_updPart | with_reducible apply keeps_latch | with_reducible apply Keeps.ite | split | (intro _; intros; try dsimp only))

theorem keeps_fwSwitchDue {r s : State} (hs : Keeps r s) (x2 : Nat) : Keeps r (fwSwitchDue s x2) := by
  unfold fwSwitchDue
  try dsimp only
  repeat' (first | with_reducible assumption | with_reducible apply keeps_fwPartSwitch | with_reducible apply keeps_changeDone | with_reducible apply Keeps.ite | split | (intro _; intros; try dsimp only))

theorem keeps_engsClear {r s : State} (hs : Keeps r s) (x2 : Nat) : Keeps r (engsClear s x2) := by
  unfold engsClear
  try dsimp only
  repeat' (first | with_reducible assumption | with_reducible apply keeps_setEng | with_reducible apply keeps_forEach | split | (intro _; intros; try dsimp only))

theorem keeps_saveDirty {r s : State} (hs : Keeps r s) (x2 : Nat) : Keeps r (saveDirty s x2) := by
  unfold saveDirty
  try dsimp only
  repeat' (first | with_reducible assumption | with_reducible apply keeps_addReq | with_reducible apply keeps_bumpD | with_reducible apply keeps_forEach | split | (intro _; intros; try dsimp only) | with_reducible refine Keeps.upd ?_ (by rfl) | with_reducible refine Keeps.store ?_ (by rfl))

theorem keeps_saveWrite {r s : State} (hs : Keeps r s) (x2 : Nat) (x3 : Nat) (x4 : List Byte) : Keeps r (saveWrite s x2 x3 x4) := by
  unfold saveWrite
  try dsimp only
  repeat' (first | with_reducible assumption | with_reducible apply keeps_storeT1 | split | (intro _; intros; try dsimp only))

theorem keeps_freeBytes {r s : State} (hs : Keeps r s) (x2 : Nat) : Keeps r (freeBytes s x2).2 := by
  unfold freeBytes
  try dsimp only
  repeat' (first | with_reducible assumption | split | (intro _; intros; try dsimp only) | with_reducible refine Keeps.upd ?_ (by rfl))
theorem keeps_freeBytes_eq {r s t : State} {a} {x2 : Nat} (hs : Keeps r s) (e : freeBytes s x2 = (a, t)) : Keeps r t := by
  have := keeps_freeBytes hs x2 
  rw [e] at this; exact this

theorem keeps_saveParts {r s : State} (hs : Keeps r s) (x2 : Nat) (x3 : Nat) (x4 : Nat) (x5 : List (Nat × Nat)) : Keeps r (saveParts s x2 x3 x4 x5) := by
  unfold saveParts
  try dsimp only
  repeat' (first | with_reducible assumption | with_reducible apply keeps_saveWrite | with_reducible apply keeps_forEach | with_reducible apply keeps_freeBytes | split | (intro _; intros; try dsimp only))

theorem keeps_saveCtxs {r s : State} (hs : Keeps r s) (x2 : Nat) : Keeps r (saveCtxs s x2) := by
  unfold saveCtxs
  try dsimp only
  repeat' (first | with_reducible assumption | with_reducible apply keeps_saveWrite | with_reducible apply keeps_forEach | with_reducible apply Keeps.ite | split | (intro _; intros; try dsimp only))

theorem keeps_effectPoint {r s : State} (hs : Keeps r s) (x2 : Nat) (x3 : Nat) : Keeps r (effectPoint s x2 x3) := by
  unfold effectPoint
  try dsimp only
  repeat' (first | with_reducible assumption | with_reducible apply keeps_updPart | with_reducible apply keeps_granulesReturn | with_reducible apply keeps_fwSwitchDue | with_reducible apply keeps_engsClear | with_reducible apply keeps_dropShare | with_reducible apply keeps_saveDirty | with_reducible apply keeps_saveParts | with_reducible apply keeps_saveCtxs | with_reducible apply keeps_lrbDetach | with_reducible apply keeps_holdEnd | with_reducible apply keeps_forEach | with_reducible apply keeps_bumpD | split | (intro _; intros; try dsimp only) | with_reducible refine Keeps.upd ?_ (by rfl))

theorem keeps_effectDue {r s : State} (hs : Keeps r s) (x2 : Nat) : Keeps r (effectDue s x2) := by
  unfold effectDue
  try dsimp only
  repeat' (first | with_reducible assumption | with_reducible apply keeps_effectPoint | with_reducible apply Keeps.ite | split | (intro _; intros; try dsimp only))

theorem keeps_forgetVals {r s : State} (hs : Keeps r s) (x2 : Nat → Bool) : Keeps r (forgetVals s x2) := by
  unfold forgetVals
  try dsimp only
  repeat' (first | with_reducible assumption | split | (intro _; intros; try dsimp only) | with_reducible refine Keeps.upd ?_ (by rfl))

theorem keeps_freeSlotNow {r s : State} (hs : Keeps r s) (x2 : Nat) : Keeps r (freeSlotNow s x2) := by
  unfold freeSlotNow
  try dsimp only
  repeat' (first | with_reducible assumption | with_reducible apply keeps_forgetVals | with_reducible apply keeps_engsClear | split | (intro _; intros; try dsimp only) | with_reducible refine Keeps.upd ?_ (by rfl))

theorem keeps_preemptBegin {r s : State} (hs : Keeps r s) (x2 : Nat) (x3 : Nat) : Keeps r (preemptBegin s x2 x3) := by
  unfold preemptBegin
  try dsimp only
  repeat' (first | with_reducible assumption | with_reducible apply keeps_updPart | with_reducible apply keeps_effectPoint | with_reducible apply Keeps.ite | split | (intro _; intros; try dsimp only))

theorem keeps_makeRoomFor {r s : State} (hs : Keeps r s) (x2 : Part) : Keeps r (makeRoomFor s x2) := by
  unfold makeRoomFor
  try dsimp only
  repeat' (first | with_reducible assumption | with_reducible apply keeps_preemptBegin | with_reducible apply keeps_forEach | split | (intro _; intros; try dsimp only))

theorem keeps_regsClear {r s : State} (hs : Keeps r s) (x2 : Nat) : Keeps r (regsClear s x2) := by
  unfold regsClear
  try dsimp only
  repeat' (first | with_reducible assumption | with_reducible apply keeps_setEng | with_reducible apply keeps_forEach | split | (intro _; intros; try dsimp only))

theorem keeps_restoreInto {r s : State} (hs : Keeps r s) (d p : Nat) : Keeps r (restoreInto s d p) := by
  unfold restoreInto
  split
  · exact hs
  · split
    · exact hs
    · extract_lets s1 s2 mask s3 s4 base s5 s6
      have h1 : Keeps r s1 := by
        refine keeps_forEach hs _ _ (fun _ _ h => ?_)
        exact Keeps.ite (fun _ => h) (fun _ => keeps_setVal h _ _ _ _)
      clear_value s1
      have h2 : Keeps r s2 := h1.updTabs rfl id (sorted_putAll _)
      clear_value s2
      have h3 : Keeps r s3 := keeps_forEach h2 _ _ (fun _ _ h => keeps_setEng h _ _)
      clear_value s3
      have h4 : Keeps r s4 := keeps_mapShare (keeps_updPart h3 _ _) _
      clear_value s4
      have h5 : Keeps r s5 := keeps_forEach h4 _ _ (fun _ _ h => keeps_addReq h _ _ _ _ _ _ _ _ _ _)
      clear_value s5
      have h6 : Keeps r s6 := Keeps.ite (fun _ => h5) (fun _ => keeps_forEach h5 _ _
        (fun _ _ h => keeps_forEach h _ _ (fun _ _ h => keeps_addReq h _ _ _ _ _ _ _ _ _ _)))
      exact keeps_updPart h6 _ _

theorem keeps_sqEvent {r s : State} (hs : Keeps r s) (x2 : Nat) (x3 : Nat) (x4 : Nat) (x5 : W64) : Keeps r (sqEvent s x2 x3 x4 x5) := by
  unfold sqEvent
  try dsimp only
  repeat' (first | with_reducible assumption | split | (intro _; intros; try dsimp only) | with_reducible refine Keeps.upd ?_ (by rfl))

theorem keeps_saveEnd {r s : State} (hs : Keeps r s) (d : Nat) : Keeps r (saveEnd s d) := by
  unfold saveEnd
  split
  · exact hs
  · split
    · split
      · exact hs
      · extract_lets mine
        split
        rename_i o s0 e
        have h0 : Keeps r s0 := keeps_takeOrder_eq hs e
        extract_lets s1 s2 s3
        have h1 : Keeps r s1 := keeps_freeSlotNow (h0.updTabs rfl id (Tab.sortedFrom_filter _)) _
        clear_value s1
        have h2 : Keeps r s2 := keeps_updPart h1 _ _
        clear_value s2
        have h3 : Keeps r s3 := keeps_sqEvent h2 _ _ _ _
        exact Keeps.ite (fun _ => keeps_latch h3 _) (fun _ => h3)
    · exact hs

theorem keeps_setBankVer {r s : State} (hs : Keeps r s) (x2 : Nat) (x3 : Option Nat) : Keeps r (setBankVer s x2 x3) := by
  unfold setBankVer
  try dsimp only
  repeat' (first | with_reducible assumption | with_reducible apply keeps_updCore | split | (intro _; intros; try dsimp only))

theorem keeps_swapBlocked {r s : State} (hs : Keeps r s) : Keeps r (swapBlocked s) := by
  unfold swapBlocked
  try dsimp only
  repeat' (first | with_reducible assumption | with_reducible apply keeps_bumpD | with_reducible apply keeps_preemptBegin | with_reducible apply keeps_forEach | with_reducible apply Keeps.ite | split | (intro _; intros; try dsimp only))

theorem keeps_urgentArm {r s : State} (hs : Keeps r s) (x2 : Nat) : Keeps r (urgentArm s x2) := by
  unfold urgentArm
  try dsimp only
  repeat' (first | with_reducible assumption | with_reducible apply keeps_updPart | with_reducible apply keeps_effectDue | with_reducible apply Keeps.ite | split | (intro _; intros; try dsimp only))

theorem keeps_urgentBlock {r s : State} (hs : Keeps r s) (x2 : Nat) : Keeps r (urgentBlock s x2) := by
  unfold urgentBlock
  try dsimp only
  repeat' (first | with_reducible assumption | with_reducible apply keeps_updPart | with_reducible apply keeps_effectDue | with_reducible apply Keeps.ite | split | (intro _; intros; try dsimp only))

theorem keeps_xpAgain {r s : State} (hs : Keeps r s) (x2 : Nat) (x3 : PosKey) : Keeps r (xpAgain s x2 x3) := by
  unfold xpAgain
  try dsimp only
  repeat' (first | with_reducible assumption | with_reducible apply keeps_xpWant | with_reducible apply Keeps.ite | split | (intro _; intros; try dsimp only))

theorem keeps_replayAbort {r s : State} (hs : Keeps r s) : Keeps r (replayAbort s) := by
  unfold replayAbort
  try dsimp only
  repeat' (first | with_reducible assumption | with_reducible apply keeps_refuse | split | (intro _; intros; try dsimp only) | with_reducible refine Keeps.upd ?_ (by rfl))

theorem keeps_changeRefuse {r s : State} (hs : Keeps r s) : Keeps r (changeRefuse s) := by
  unfold changeRefuse
  try dsimp only
  repeat' (first | with_reducible assumption | with_reducible apply keeps_refuse | split | (intro _; intros; try dsimp only))

theorem keeps_changeAll {r s : State} (hs : Keeps r s) (x2 : Nat) : Keeps r (changeAll s x2) := by
  unfold changeAll
  try dsimp only
  repeat' (first | with_reducible assumption | with_reducible apply keeps_fwPartSwitch | with_reducible apply keeps_forEach | with_reducible apply keeps_changeDone | with_reducible apply keeps_replayAbort | with_reducible apply keeps_updCore | with_reducible apply keeps_changeRefuse | with_reducible apply Keeps.ite | split | (intro _; intros; try dsimp only))

theorem keeps_changeBegin {r s : State} (hs : Keeps r s) (x2 : Nat) (x3 : Option (Nat × Path × Nat)) : Keeps r (changeBegin s x2 x3) := by
  unfold changeBegin
  try dsimp only
  repeat' (first | with_reducible assumption | with_reducible apply keeps_fwPartSwitch | with_reducible apply keeps_forEach | with_reducible apply keeps_changeDone | with_reducible apply keeps_changeRefuse | with_reducible apply keeps_replayAbort | with_reducible apply keeps_updCore | split | (intro _; intros; try dsimp only))

theorem keeps_replayYield {r s : State} (hs : Keeps r s) (x2 : Nat) (x3 : Nat) (x4 : Nat) : Keeps r (replayYield s x2 x3 x4) := by
  unfold replayYield
  try dsimp only
  repeat' (first | with_reducible assumption | with_reducible apply keeps_replayAbort | with_reducible apply Keeps.ite | split | (intro _; intros; try dsimp only))

theorem keeps_applyInst {r s : State} (hs : Keeps r s) (x2 : Inst) : Keeps r (applyInst s x2) := by
  unfold applyInst
  try dsimp only
  repeat' (first | with_reducible assumption | with_reducible apply keeps_setInst | with_reducible apply keeps_applyExportSnap | with_reducible apply keeps_applyTrainAttach | with_reducible apply keeps_applyPoolDef | with_reducible apply keeps_applyTblDrop | with_reducible apply keeps_applyTblUsable | with_reducible apply keeps_applyAdptUnload | with_reducible apply keeps_applyAdptLoad | with_reducible apply keeps_applyObjMove | with_reducible apply keeps_applyObjCancel | with_reducible apply keeps_applyObjFree | with_reducible apply keeps_applyObjAlloc | with_reducible apply Keeps.ite | split | (intro _; intros; try dsimp only))

theorem keeps_idleBuild {r s : State} (hs : Keeps r s) (x2 : Nat) : Keeps r (idleBuild s x2) := by
  unfold idleBuild
  try dsimp only
  repeat' (first | with_reducible assumption | with_reducible apply keeps_deadlinesDue | with_reducible apply keeps_updPart | split | (intro _; intros; try dsimp only))

theorem keeps_unfitDue {r s : State} (hs : Keeps r s) (x2 : Nat) : Keeps r (unfitDue s x2) := by
  unfold unfitDue
  try dsimp only
  repeat' (first | with_reducible assumption | with_reducible apply keeps_updCtx | with_reducible apply keeps_noteEvent | with_reducible apply keeps_forEach | with_reducible apply keeps_updPart | with_reducible apply Keeps.ite | split | (intro _; intros; try dsimp only))

theorem keeps_recOpen {r s : State} (hs : Keeps r s) (x2 : Nat) (x3 : Nat) (x4 : Man) : Keeps r (recOpen s x2 x3 x4) := by
  unfold recOpen
  try dsimp only
  repeat' (first | with_reducible assumption | with_reducible apply Keeps.ite | split | (intro _; intros; try dsimp only) | with_reducible refine Keeps.upd ?_ (by rfl))

theorem keeps_recPooled {r s : State} (hs : Keeps r s) (x2 : Nat) (x3 : Man) : Keeps r (recPooled s x2 x3) := by
  unfold recPooled
  try dsimp only
  repeat' (first | with_reducible assumption | with_reducible apply keeps_recMissing | with_reducible apply Keeps.ite | split | (intro _; intros; try dsimp only))

theorem keeps_updSlice {r s : State} (hs : Keeps r s) (x2 : Nat) (x3 : Slice → Slice) : Keeps r (updSlice s x2 x3) := by
  unfold updSlice
  try dsimp only
  repeat' (first | with_reducible assumption | split | (intro _; intros; try dsimp only) | with_reducible refine Keeps.upd ?_ (by rfl))

theorem keeps_takeTurn {r s : State} (hs : Keeps r s) (x2 : Nat) (x3 : Nat) (x4 : Nat) : Keeps r (takeTurn s x2 x3 x4) := by
  unfold takeTurn
  try dsimp only
  repeat' (first | with_reducible assumption | with_reducible apply keeps_updSlice | split | (intro _; intros; try dsimp only))

theorem keeps_dropUnitReqs {r s : State} (hs : Keeps r s) (x2 : Nat) (x3 : Nat) (x4 : Nat → Bool) : Keeps r (dropUnitReqs s x2 x3 x4) := by
  unfold dropUnitReqs
  try dsimp only
  repeat' (first | with_reducible assumption | split | (intro _; intros; try dsimp only) | with_reducible refine Keeps.upd ?_ (by rfl))

theorem keeps_reform {r s : State} (hs : Keeps r s) (x2 : Nat) (x3 : Nat) (x4 : Man) (x5 : List (Nat × Nat × Nat)) (x6 : List (Nat × Nat × Nat)) : Keeps r (reform s x2 x3 x4 x5 x6) := by
  unfold reform
  try dsimp only
  repeat' (first | with_reducible assumption | with_reducible apply keeps_fetchItem | with_reducible apply keeps_setUnits | with_reducible apply keeps_unpin | with_reducible apply keeps_dropUnitReqs | with_reducible apply keeps_forEach | with_reducible apply Keeps.ite | split | (intro _; intros; try dsimp only))

theorem keeps_publish {r s : State} (hs : Keeps r s) (x2 : Nat) (x3 : Nat) (x4 : Man) : Keeps r (publish s x2 x3 x4) := by
  unfold publish
  try dsimp only
  repeat' (first | with_reducible assumption | with_reducible apply keeps_recOpen | with_reducible apply keeps_recPooled | with_reducible apply keeps_penAll | with_reducible apply keeps_lrbRestore | with_reducible apply keeps_takeTurn | with_reducible apply keeps_updPart | with_reducible apply keeps_reform | with_reducible apply keeps_objWrite | with_reducible apply keeps_allocRows | with_reducible apply Keeps.ite | split | (intro _; intros; try dsimp only))

theorem keeps_publishIdle {r s : State} (hs : Keeps r s) (x2 : Nat) (x3 : Nat) (x4 : Man) : Keeps r (publishIdle s x2 x3 x4) := by
  unfold publishIdle
  try dsimp only
  repeat' (first | with_reducible assumption | with_reducible apply keeps_idleBuild | with_reducible apply keeps_unfitDue | with_reducible apply keeps_completions | with_reducible apply keeps_publish | with_reducible apply Keeps.ite | split | (intro _; intros; try dsimp only))

theorem keeps_stepPrep {r s : State} (hs : Keeps r s) (x2 : Nat) (x3 : Man) : Keeps r (stepPrep s x2 x3) := by
  unfold stepPrep
  try dsimp only
  repeat' (first | with_reducible assumption | with_reducible apply keeps_promote | with_reducible apply keeps_forEach | with_reducible apply keeps_fenceStep | with_reducible apply keeps_poolBegin | split | (intro _; intros; try dsimp only))

theorem keeps_sliceEval {r s : State} (hs : Keeps r s) (x2 : Nat) (x3 : Nat) (x4 : Man) : Keeps r (sliceEval s x2 x3 x4) := by
  unfold sliceEval
  try dsimp only
  repeat' (first | with_reducible assumption | with_reducible apply keeps_updSlice | with_reducible apply keeps_bumpD | with_reducible apply keeps_post | with_reducible apply Keeps.ite | split | (intro _; intros; try dsimp only))

theorem keeps_buildCand {r s : State} (hs : Keeps r s) (x2 : Nat) (x3 : Nat) : Keeps r (buildCand s x2 x3) := by
  unfold buildCand
  try dsimp only
  repeat' (first | with_reducible assumption | with_reducible apply keeps_stepPrep | with_reducible apply keeps_sliceEval | with_reducible apply keeps_updPart | with_reducible apply keeps_buildNext | split | (intro _; intros; try dsimp only))

theorem keeps_idleFreeze {r s : State} (hs : Keeps r s) (x2 : Nat) (x3 : Nat) : Keeps r (idleFreeze s x2 x3) := by
  unfold idleFreeze
  try dsimp only
  repeat' (first | with_reducible assumption | with_reducible apply keeps_unfitDue | with_reducible apply keeps_completions | with_reducible apply keeps_framesRelease | with_reducible apply keeps_idleBuild | with_reducible apply keeps_redirsRetire | with_reducible apply keeps_buildCand | with_reducible apply keeps_latch | with_reducible apply Keeps.ite | split | (intro _; intros; try dsimp only))

theorem keeps_idleTry {r s : State} (hs : Keeps r s) (x2 : Nat) : Keeps r (idleTry s x2) := by
  unfold idleTry
  try dsimp only
  repeat' (first | with_reducible assumption | with_reducible apply keeps_idleFreeze | with_reducible apply keeps_publishIdle | with_reducible apply Keeps.ite | split | (intro _; intros; try dsimp only))

theorem keeps_candUnitsDrop {r s : State} (hs : Keeps r s) (x2 : Nat) : Keeps r (candUnitsDrop s x2) := by
  unfold candUnitsDrop
  try dsimp only
  repeat' (first | with_reducible assumption | with_reducible apply keeps_updPart | with_reducible apply keeps_unpin | with_reducible apply keeps_dropUnitReqs | with_reducible apply keeps_forEach | split | (intro _; intros; try dsimp only))

theorem keeps_quiesceSettle {r s : State} (hs : Keeps r s) (x2 : Nat) : Keeps r (quiesceSettle s x2) := by
  unfold quiesceSettle
  try dsimp only
  repeat' (first | with_reducible assumption | with_reducible apply keeps_finish | with_reducible apply keeps_forEach | with_reducible apply keeps_fwSwitchDue | with_reducible apply keeps_candUnitsDrop | with_reducible apply keeps_updPart | with_reducible apply Keeps.ite | split | (intro _; intros; try dsimp only))

theorem keeps_partIdle {r s : State} (hs : Keeps r s) (x2 : Nat) : Keeps r (partIdle s x2) := by
  unfold partIdle
  try dsimp only
  repeat' (first | with_reducible assumption | with_reducible apply keeps_idleTry | with_reducible apply keeps_quiesceSettle | with_reducible apply keeps_pubsDue | with_reducible apply keeps_detachesDue | with_reducible apply keeps_movesSwitch | with_reducible apply keeps_movesStart | with_reducible apply keeps_updTraits | with_reducible apply keeps_flipsDue | with_reducible apply keeps_requestsDue | with_reducible apply keeps_completions | with_reducible apply keeps_updPart | with_reducible apply keeps_applyInst | with_reducible apply keeps_forEach | with_reducible apply keeps_bundlesReleased | with_reducible apply keeps_stepWritesReleased | split | (intro _; intros; try dsimp only) | with_reducible refine Keeps.upd ?_ (by rfl))

theorem keeps_endStep {r s : State} (hs : Keeps r s) (x2 : Nat) : Keeps r (endStep s x2) := by
  unfold endStep
  try dsimp only
  repeat' (first | with_reducible assumption | with_reducible apply keeps_updPart | with_reducible apply keeps_updXp | with_reducible apply keeps_holdEnd | with_reducible apply keeps_forEach | split | (intro _; intros; try dsimp only))

theorem keeps_sliceChange {r s : State} (hs : Keeps r s) (x2 : Nat) (x3 : Nat) : Keeps r (sliceChange s x2 x3) := by
  unfold sliceChange
  try dsimp only
  repeat' (first | with_reducible assumption | with_reducible apply keeps_updSlice | with_reducible apply keeps_bumpAt | split | (intro _; intros; try dsimp only))

theorem keeps_recWrite {r s : State} (hs : Keeps r s) (x2 : Nat) (x3 : Nat) (x4 : List Byte) : Keeps r (recWrite s x2 x3 x4) := by
  unfold recWrite
  try dsimp only
  repeat' (first | with_reducible assumption | with_reducible apply keeps_storeT1 | split | (intro _; intros; try dsimp only))

theorem keeps_recClose {r s : State} (hs : Keeps r s) (x2 : Nat) (x3 : Option Nat) : Keeps r (recClose s x2 x3) := by
  unfold recClose
  try dsimp only
  repeat' (first | with_reducible assumption | with_reducible apply keeps_recWrite | with_reducible apply keeps_forEach | with_reducible apply Keeps.ite | split | (intro _; intros; try dsimp only) | with_reducible refine Keeps.upd ?_ (by rfl))

theorem keeps_ratioDue {r s : State} (hs : Keeps r s) (x2 : Nat) (x3 : Nat) : Keeps r (ratioDue s x2 x3) := by
  unfold ratioDue
  try dsimp only
  repeat' (first | with_reducible assumption | with_reducible apply keeps_setVal | with_reducible apply Keeps.ite | split | (intro _; intros; try dsimp only))

theorem keeps_instsDue {r s : State} (hs : Keeps r s) (x2 : Nat) : Keeps r (instsDue s x2) := by
  unfold instsDue
  try dsimp only
  repeat' (first | with_reducible assumption | with_reducible apply keeps_updPart | with_reducible apply keeps_setInst | with_reducible apply keeps_applyInst | with_reducible apply keeps_forEach | split | (intro _; intros; try dsimp only))

theorem keeps_mirrorCtxs {r s : State} (hs : Keeps r s) (x2 : Nat) (x3 : Tab Ctx) : Keeps r (mirrorCtxs s x2 x3) := by
  unfold mirrorCtxs
  try dsimp only
  repeat' (first | with_reducible assumption | with_reducible apply keeps_writeT1 | with_reducible apply keeps_forEach | with_reducible apply Keeps.ite | split | (intro _; intros; try dsimp only))

theorem keeps_ctxTimers {r s : State} (hs : Keeps r s) (x2 : Nat) (x3 : Nat) (x4 : Option Nat) : Keeps r (ctxTimers s x2 x3 x4) := by
  unfold ctxTimers
  try dsimp only
  repeat' (first | with_reducible assumption | with_reducible apply keeps_pagesDue | with_reducible apply keeps_kvEnd | with_reducible apply keeps_emberEnter | with_reducible apply keeps_endCtx | with_reducible apply Keeps.ite | split | (intro _; intros; try dsimp only))

theorem keeps_lateMark {r s : State} (hs : Keeps r s) (x2 : Nat) (x3 : Man) (x4 : Option Nat) (x5 : List (Nat × W64)) : Keeps r (lateMark s x2 x3 x4 x5) := by
  unfold lateMark
  try dsimp only
  repeat' (first | with_reducible assumption | with_reducible apply keeps_noteFlags | with_reducible apply keeps_addFlags | with_reducible apply keeps_bumpD | with_reducible apply keeps_forEach | with_reducible apply keeps_endCtx | with_reducible apply Keeps.ite | split | (intro _; intros; try dsimp only))

theorem keeps_recRequests {r s : State} (hs : Keeps r s) (x2 : Nat) : Keeps r (recRequests s x2) := by
  unfold recRequests
  try dsimp only
  repeat' (first | with_reducible assumption | with_reducible apply keeps_recEntry | with_reducible apply keeps_forEach | split | (intro _; intros; try dsimp only))

theorem keeps_outcomeCtx {r s : State} (hs : Keeps r s) (x2 : Nat) (x3 : Man) (x4 : List (Nat × Nat × Nat)) (x5 : Nat) : Keeps r (outcomeCtx s x2 x3 x4 x5) := by
  unfold outcomeCtx
  try dsimp only
  repeat' (first | with_reducible assumption | with_reducible apply keeps_endCtx | with_reducible apply keeps_pauseCtx | with_reducible apply keeps_setCtx | with_reducible apply keeps_treeAccept | with_reducible apply Keeps.ite | split | (intro _; intros; try dsimp only))

theorem keeps_boundaryCtxs {r s : State} (hs : Keeps r s) (x2 : Nat) (x3 : Nat) (x4 : Man) (x5 : List (Nat × Nat × Nat)) (x6 : Option Nat) : Keeps r (boundaryCtxs s x2 x3 x4 x5 x6) := by
  unfold boundaryCtxs
  try dsimp only
  repeat' (first | with_reducible assumption | with_reducible apply keeps_completions | with_reducible apply keeps_ctxTimers | with_reducible apply keeps_lateMark | with_reducible apply keeps_unfitDue | with_reducible apply keeps_recRequests | with_reducible apply keeps_requestsDue | with_reducible apply keeps_outcomeCtx | with_reducible apply keeps_adoptsDue | with_reducible apply keeps_forEach | split | (intro _; intros; try dsimp only))

theorem keeps_manPrep {r s : State} (hs : Keeps r s) (x2 : Nat) (x3 : Nat) (x4 : Man) : Keeps r (manPrep s x2 x3 x4) := by
  unfold manPrep
  try dsimp only
  repeat' (first | with_reducible assumption | with_reducible apply keeps_updPart | with_reducible apply keeps_stepPrep | with_reducible apply keeps_sliceEval | split | (intro _; intros; try dsimp only))

theorem keeps_freezeOne {r s : State} (hs : Keeps r s) (x2 : Nat) (x3 : Nat) : Keeps r (freezeOne s x2 x3) := by
  unfold freezeOne
  try dsimp only
  repeat' (first | with_reducible assumption | with_reducible apply keeps_latch | with_reducible apply keeps_buildCand | with_reducible apply keeps_manPrep | with_reducible apply keeps_framesRelease | with_reducible apply keeps_redirsRetire | with_reducible apply keeps_updPart | with_reducible apply Keeps.ite | split | (intro _; intros; try dsimp only))

theorem keeps_freezePoint {r s : State} (hs : Keeps r s) (x2 : Nat) (x3 : Nat) : Keeps r (freezePoint s x2 x3) := by
  unfold freezePoint
  try dsimp only
  repeat' (first | with_reducible assumption | with_reducible apply keeps_idleFreeze | with_reducible apply keeps_forEach | with_reducible apply keeps_freezeOne | with_reducible apply Keeps.ite | split | (intro _; intros; try dsimp only))

theorem keeps_boundary {r s : State} (hs : Keeps r s) (p d : Nat) : Keeps r (boundary s p d) := by
  unfold boundary
  split
  · exact hs
  split
  · exact hs
  extract_lets sA s0 step tb sT before s1 s1b s2 s3 s3b s3c s4 s5 s6 s6b s7 set s7b
  have hA : Keeps r sA := keeps_regrad (keeps_lateFinish (Keeps.ite (fun _ => hs) (fun _ => keeps_freezePoint hs _ _)) _ _) _
  clear_value sA
  have h0 : Keeps r s0 := Keeps.ite (fun _ => keeps_listComplete hA _ _ _) (fun _ => hA)
  clear_value s0 tb
  have hT : Keeps r sT := by
    dsimp only [sT]
    split
    · exact keeps_estimate h0 _ _
    · exact keeps_bumpD (keeps_updPart h0 _ _) _ _ _
  clear_value sT
  have h1 : Keeps r s1b := keeps_mirrorCtxs (keeps_deadlinesDue (keeps_boundaryCtxs hT _ _ _ _ _) _ _ _) _ _
  clear_value s1b
  have h2 : Keeps r s2 := keeps_bundlesDue (keeps_stepWritesDue h1 _) _ _
  clear_value s2
  have h3 : Keeps r s3b := keeps_movesStart (keeps_movesSwitch (keeps_flipsDue
    (keeps_instsDue (Keeps.ite (fun _ => keeps_trainInstall h2 _ _) (fun _ => h2)) _) _) _) _
  clear_value s3b
  have h3c : Keeps r s3c := keeps_detachesDue (keeps_pubsDue h3 _) _
  clear_value s3c
  have h6 : Keeps r s6b := keeps_fencesDrop (keeps_ricksDue (keeps_usesDue (keeps_recClose (keeps_ratioDue (keeps_fwSwitchDue h3c _) _ _) _ _) _ _) _) _ _
  clear_value s6b
  have h7 : Keeps r s7 := keeps_latch (keeps_sliceChange (keeps_endStep h6 _) _ _) _
  clear_value s7
  have h7b : Keeps r s7b := Keeps.ite (fun _ => keeps_lrbDetach h7 _) (fun _ => h7)
  clear_value s7b set
  split
  · exact h7b
  refine Keeps.ite (fun _ => keeps_effectPoint (keeps_updPart h7b _ _) _ _) (fun _ => ?_)
  split
  · refine Keeps.ite (fun _ => keeps_partIdle h7b _) (fun _ => ?_)
    split
    · exact keeps_partIdle h7b _
    · extract_lets s8
      have h8 : Keeps r s8 := by
        dsimp only [s8]
        split
        · exact Keeps.ite (fun _ => keeps_publish h7b _ _ _) (fun _ => keeps_publishIdle h7b _ _ _)
        · exact h7b
      exact Keeps.ite (fun _ => h8) (fun _ => keeps_partIdle h8 _)
  · refine Keeps.ite (fun _ => keeps_partIdle h7b _) (fun _ => ?_)
    split
    · exact keeps_publish h7b _ _ _
    · exact keeps_partIdle h7b _

theorem keeps_boundaryTry {r s : State} (hs : Keeps r s) (x2 : Nat) (x3 : Nat) : Keeps r (boundaryTry s x2 x3) := by
  unfold boundaryTry
  try dsimp only
  repeat' (first | with_reducible assumption | with_reducible apply keeps_boundary | with_reducible apply Keeps.ite | split | (intro _; intros; try dsimp only))

theorem keeps_settlePart {r s : State} (hs : Keeps r s) (x2 : Nat) (x3 : Nat) : Keeps r (settlePart s x2 x3) := by
  unfold settlePart
  try dsimp only
  repeat' (first | with_reducible assumption | with_reducible apply keeps_winsSettle | with_reducible apply keeps_effectDue | with_reducible apply keeps_boundaryTry | with_reducible apply keeps_tilesTake | split | (intro _; intros; try dsimp only))

theorem keeps_settle {r s : State} (hs : Keeps r s) : Keeps r (settle s) := by
  unfold settle
  try dsimp only
  repeat' (first | with_reducible assumption | with_reducible apply keeps_settlePart | with_reducible apply keeps_forEach | split | (intro _; intros; try dsimp only))

theorem keeps_xldReads {r s : State} (hs : Keeps r s) (x2 : Nat) (x3 : Xfer) (x4 : Nat → Bool) : Keeps r (xldReads s x2 x3 x4) := by
  unfold xldReads
  try dsimp only
  repeat' (first | with_reducible assumption | with_reducible apply keeps_readHomeAt | with_reducible apply keeps_readImage | with_reducible apply keeps_bumpD | with_reducible apply keeps_forEach | with_reducible apply Keeps.ite | split | (intro _; intros; try dsimp only))

theorem keeps_xldsAgain {r s : State} (hs : Keeps r s) (x2 : Nat) (x3 : Nat) : Keeps r (xldsAgain s x2 x3) := by
  unfold xldsAgain
  try dsimp only
  repeat' (first | with_reducible assumption | with_reducible apply keeps_forEach | with_reducible apply keeps_xldReads | with_reducible apply Keeps.ite | split | (intro _; intros; try dsimp only))

theorem keeps_clampKind0 {r s : State} (hs : Keeps r s) (x2 : Nat) : Keeps r (clampKind0 s x2) := by
  unfold clampKind0
  try dsimp only
  repeat' (first | with_reducible assumption | with_reducible apply keeps_writeT1 | split | (intro _; intros; try dsimp only))

theorem keeps_abandonStep {r s : State} (hs : Keeps r s) (x2 : Nat) : Keeps r (abandonStep s x2) := by
  unfold abandonStep
  try dsimp only
  repeat' (first | with_reducible assumption | with_reducible apply keeps_updPart | with_reducible apply keeps_clampKind0 | split | (intro _; intros; try dsimp only) | with_reducible refine Keeps.upd ?_ (by rfl))

theorem keeps_dropCtxs {r s : State} (hs : Keeps r s) (d : Nat) : Keeps r (dropCtxs s d) :=
  hs.updTabs rfl id (Tab.sortedFrom_filter _)

theorem keeps_dropPartReqs {r s : State} (hs : Keeps r s) (x2 : Nat) : Keeps r (dropPartReqs s x2) := by
  unfold dropPartReqs
  try dsimp only
  repeat' (first | with_reducible assumption | split | (intro _; intros; try dsimp only) | with_reducible refine Keeps.upd ?_ (by rfl))

theorem keeps_execClampSaveEnd {r s t : State} (hs : Keeps r s) (x1 : Nat) (hn : execClampSaveEnd x1 s = .next t) : Keeps r t := by
  unfold execClampSaveEnd at hn
  repeat' (first | (split at hn) | (injection hn with hn; subst hn))
  all_goals (try dsimp only)
  all_goals repeat' (first | with_reducible assumption | with_reducible apply keeps_saveEnd | split | (intro _; intros; try dsimp only))

theorem keeps_partClampAct {r s : State} (hs : Keeps r s) (x2 : Inst) : Keeps r (partClampAct s x2) := by
  unfold partClampAct
  try dsimp only
  repeat' (first | with_reducible assumption | with_reducible apply keeps_preemptBegin | with_reducible apply keeps_finish | with_reducible apply keeps_refuse | with_reducible apply Keeps.ite | split | (intro _; intros; try dsimp only))

theorem keeps_execPartClamp {r s t : State} (hs : Keeps r s) (hn : execPartClamp s = .next t) : Keeps r t := by
  unfold execPartClamp at hn
  repeat' (first | (split at hn) | (injection hn with hn; subst hn))
  all_goals (try dsimp only)
  all_goals repeat' (first | with_reducible assumption | with_reducible apply keeps_partClampAct | with_reducible apply keeps_cmdRow | split | (intro _; intros; try dsimp only))

theorem keeps_partQuiesceAct {r s : State} (hs : Keeps r s) (x2 : Inst) : Keeps r (partQuiesceAct s x2) := by
  unfold partQuiesceAct
  try dsimp only
  repeat' (first | with_reducible assumption | with_reducible apply keeps_setInst | with_reducible apply keeps_quiesceSettle | with_reducible apply keeps_refuse | with_reducible apply Keeps.ite | split | (intro _; intros; try dsimp only))

theorem keeps_execPartQuiesce {r s t : State} (hs : Keeps r s) (hn : execPartQuiesce s = .next t) : Keeps r t := by
  unfold execPartQuiesce at hn
  repeat' (first | (split at hn) | (injection hn with hn; subst hn))
  all_goals (try dsimp only)
  all_goals repeat' (first | with_reducible assumption | with_reducible apply keeps_partQuiesceAct | with_reducible apply keeps_cmdRow | split | (intro _; intros; try dsimp only))

theorem keeps_startLists {r s : State} (hs : Keeps r s) (x2 : Nat) : Keeps r (startLists s x2) := by
  unfold startLists
  try dsimp only
  repeat' (first | with_reducible assumption | with_reducible apply keeps_updTrain | with_reducible apply Keeps.ite | split | (intro _; intros; try dsimp only))

theorem keeps_servingReady {r s : State} (hs : Keeps r s) : Keeps r (servingReady s) := by
  unfold servingReady
  try dsimp only
  repeat' (first | with_reducible assumption | with_reducible apply keeps_replaceRise | with_reducible apply keeps_resetWritesDue | with_reducible apply Keeps.ite | split | (intro _; intros; try dsimp only) | with_reducible refine Keeps.upd ?_ (by rfl))

theorem keeps_partStartAct {r s : State} (hs : Keeps r s) (x2 : Inst) : Keeps r (partStartAct s x2) := by
  unfold partStartAct
  try dsimp only
  repeat' (first | with_reducible assumption | with_reducible apply keeps_startLists | with_reducible apply keeps_finish | with_reducible apply keeps_partIdle | with_reducible apply keeps_updPart | with_reducible apply keeps_servingReady | with_reducible apply keeps_refuse | with_reducible apply Keeps.ite | split | (intro _; intros; try dsimp only))

theorem keeps_execPartStart {r s t : State} (hs : Keeps r s) (hn : execPartStart s = .next t) : Keeps r t := by
  unfold execPartStart at hn
  repeat' (first | (split at hn) | (injection hn with hn; subst hn))
  all_goals (try dsimp only)
  all_goals repeat' (first | with_reducible assumption | with_reducible apply keeps_partStartAct | with_reducible apply keeps_cmdRow | split | (intro _; intros; try dsimp only))

theorem keeps_planInstall {r s : State} (hs : Keeps r s) (p : Nat) (w : List W64) (shape : Shape) : Keeps r (planInstall s p w shape) := by
  unfold planInstall
  extract_lets d mask share s1 s2 set s3
  have h1 : Keeps r s1 := keeps_freeSlotNow (keeps_replayYield hs _ _ _) _
  clear_value s1
  have h2 : Keeps r s2 := h1.updCnt rfl (Tab.wf_keepKeys _)
  clear_value s2
  have h3 : Keeps r s3 := h2.fold _ _ (fun _ _ h => keeps_setVal h _ _ _ _)
  exact keeps_mapShare (h3.updTabs rfl (fun h => Tab.sortedFrom_put _ h rfl) id) _

theorem keeps_planLoadAct {r s : State} (hs : Keeps r s) (x1 : Shape) (x3 : Inst) : Keeps r (planLoadAct x1 s x3) := by
  unfold planLoadAct
  try dsimp only
  repeat' (first | with_reducible assumption | with_reducible apply keeps_planInstall | with_reducible apply keeps_finish | with_reducible apply keeps_refuse | with_reducible apply Keeps.ite | split | (intro _; intros; try dsimp only))

theorem keeps_execPlanLoad {r s t : State} (hs : Keeps r s) (x1 : Shape) (hn : execPlanLoad x1 s = .next t) : Keeps r t := by
  unfold execPlanLoad at hn
  repeat' (first | (split at hn) | (injection hn with hn; subst hn))
  all_goals (try dsimp only)
  all_goals repeat' (first | with_reducible assumption | with_reducible apply keeps_planLoadAct | with_reducible apply keeps_cmdRow | split | (intro _; intros; try dsimp only))

theorem keeps_lrbFree {r s : State} (hs : Keeps r s) (x2 : Nat) : Keeps r (lrbFree s x2) := by
  unfold lrbFree
  try dsimp only
  repeat' (first | with_reducible assumption | with_reducible apply keeps_updPart | with_reducible apply keeps_quarantine | with_reducible apply keeps_forEach | split | (intro _; intros; try dsimp only))

theorem keeps_planRemove {r s : State} (hs : Keeps r s) (d : Nat) : Keeps r (planRemove s d) := by
  unfold planRemove
  split
  · exact hs
  · extract_lets s1 s2 s3 s4 src s5 s6 s7 src2
    have h1 : Keeps r s1 := keeps_forEach hs _ _ (fun _ _ h => keeps_pubFail h _)
    clear_value s1
    have h2 : Keeps r s2 := keeps_forEach h1 _ _ (fun _ _ h => keeps_moveAbort h _)
    clear_value s2
    have h3 : Keeps r s3 := keeps_dropPartReqs (keeps_lrbFree h2 _) _
    clear_value s3
    have h4 : Keeps r s4 := keeps_forEach h3 _ _ (fun _ _ h => keeps_objDrop h _ _)
    clear_value s4
    have h5 : Keeps r s5 := keeps_dropCtxs (h4.upd rfl) _
    clear_value s5
    have h6 : Keeps r s6 := by
      dsimp only [s6]
      split
      · exact keeps_freeSlotNow h5 _
      · exact h5
    clear_value s6
    have h7 : Keeps r s7 := keeps_forgetVals h6 _
    exact h7.updTabs rfl (Tab.sortedFrom_del _) id

theorem keeps_planUnloadAct {r s : State} (hs : Keeps r s) (x2 : Inst) : Keeps r (planUnloadAct s x2) := by
  unfold planUnloadAct
  try dsimp only
  repeat' (first | with_reducible assumption | with_reducible apply keeps_planRemove | with_reducible apply keeps_finish | with_reducible apply keeps_refuse | with_reducible apply Keeps.ite | split | (intro _; intros; try dsimp only))

theorem keeps_execPlanUnload {r s t : State} (hs : Keeps r s) (hn : execPlanUnload s = .next t) : Keeps r t := by
  unfold execPlanUnload at hn
  repeat' (first | (split at hn) | (injection hn with hn; subst hn))
  all_goals (try dsimp only)
  all_goals repeat' (first | with_reducible assumption | with_reducible apply keeps_planUnloadAct | with_reducible apply keeps_cmdRow | split | (intro _; intros; try dsimp only))

theorem keeps_resetPartAct {r s : State} (hs : Keeps r s) (x2 : Inst) : Keeps r (resetPartAct s x2) := by
  unfold resetPartAct
  try dsimp only
  repeat' (first | with_reducible assumption | with_reducible apply keeps_lrbFree | with_reducible apply keeps_listsRecover | with_reducible apply keeps_finish | with_reducible apply keeps_updTrain | with_reducible apply keeps_dropShare | with_reducible apply keeps_bumpD | with_reducible apply keeps_abandonStep | with_reducible apply keeps_regsClear | with_reducible apply keeps_refuse | with_reducible apply Keeps.ite | split | (intro _; intros; try dsimp only))

theorem keeps_execResetPart {r s t : State} (hs : Keeps r s) (hn : execResetPart s = .next t) : Keeps r t := by
  unfold execResetPart at hn
  repeat' (first | (split at hn) | (injection hn with hn; subst hn))
  all_goals (try dsimp only)
  all_goals repeat' (first | with_reducible assumption | with_reducible apply keeps_resetPartAct | with_reducible apply keeps_cmdRow | split | (intro _; intros; try dsimp only))

theorem keeps_reloadSettle {r s : State} (hs : Keeps r s) : Keeps r (reloadSettle s) := by
  unfold reloadSettle
  try dsimp only
  repeat' (first | with_reducible assumption | with_reducible apply keeps_post | with_reducible apply keeps_finish | with_reducible apply Keeps.ite | split | (intro _; intros; try dsimp only) | with_reducible refine Keeps.upd ?_ (by rfl))

theorem keeps_restorePool {r s : State} (hs : Keeps r s) (x2 : Nat) : Keeps r (restorePool s x2) := by
  unfold restorePool
  try dsimp only
  repeat' (first | with_reducible assumption | with_reducible apply keeps_poolBegin | with_reducible apply Keeps.ite | split | (intro _; intros; try dsimp only))

theorem keeps_restoreHold {r s : State} (hs : Keeps r s) (x2 : Nat) : Keeps r (restoreHold s x2) := by
  unfold restoreHold
  try dsimp only
  repeat' (first | with_reducible assumption | with_reducible apply keeps_holdStart | with_reducible apply Keeps.ite | split | (intro _; intros; try dsimp only))

theorem keeps_sweepSealed {r s : State} (hs : Keeps r s) (x2 : Nat) : Keeps r (sweepSealed s x2) := by
  unfold sweepSealed
  try dsimp only
  repeat' (first | with_reducible assumption | with_reducible apply keeps_updTrain | split | (intro _; intros; try dsimp only))

theorem keeps_restoreDone {r s : State} (hs : Keeps r s) (d : Nat) : Keeps r (restoreDone s d) := by
  unfold restoreDone
  split
  · exact hs
  split
  · refine Keeps.ite (fun _ => hs) (fun _ => ?_)
    extract_lets run
    split
    rename_i o s0 e
    have h0 : Keeps r s0 := keeps_takeOrder_eq hs e
    extract_lets s1 s2 s3 s4 sA s5 s6 s7
    have h1 : Keeps r s1 := keeps_updPart (keeps_lrbRestore h0 _) _ _
    clear_value s1
    have h2 : Keeps r s2 := Keeps.ite (fun _ => h1) (fun _ => keeps_latch h1 _)
    clear_value s2
    have h3 : Keeps r s3 := keeps_bumpD (keeps_sqEvent h2 _ _ _ _) _ _ _
    clear_value s3
    have h4 : Keeps r s4 := keeps_xldsAgain (Keeps.ite (fun _ => keeps_sweepSealed h3 _) (fun _ => h3)) _ _
    clear_value s4
    have h5 : Keeps r s5 := Keeps.ite (fun _ => keeps_winsSettle (keeps_forEach (keeps_restoreHold (keeps_restorePool h4 _) _) _ _
      (fun _ _ h => keeps_xpAgain h _ _)) _ _) (fun _ => h4)
    clear_value s5
    have h6 : Keeps r s6 := keeps_reloadSettle h5
    clear_value s6
    have h7 : Keeps r s7 := Keeps.ite (fun _ => keeps_partIdle h6 _) (fun _ => h6)
    split
    · exact Keeps.ite (fun _ => h7) (fun _ => keeps_preemptBegin h7 _ _)
    · exact h7
  · exact hs

theorem keeps_execRestoreEnd {r s t : State} (hs : Keeps r s) (x1 : Nat) (hn : execRestoreEnd x1 s = .next t) : Keeps r t := by
  unfold execRestoreEnd at hn
  repeat' (first | (split at hn) | (injection hn with hn; subst hn))
  all_goals (try dsimp only)
  all_goals repeat' (first | with_reducible assumption | with_reducible apply keeps_restoreDone | split | (intro _; intros; try dsimp only))

theorem keeps_restoreNow {r s : State} (hs : Keeps r s) (x2 : Nat) (x3 : Nat) (x4 : Part) : Keeps r (restoreNow s x2 x3 x4) := by
  unfold restoreNow
  try dsimp only
  repeat' (first | with_reducible assumption | with_reducible apply keeps_replayYield | with_reducible apply keeps_restoreInto | split | (intro _; intros; try dsimp only))

theorem keeps_restorePick {r s : State} (hs : Keeps r s) : Keeps r (restorePick s) := by
  unfold restorePick
  try dsimp only
  repeat' (first | with_reducible assumption | with_reducible apply keeps_makeRoomFor | with_reducible apply keeps_swapBlocked | with_reducible apply keeps_restoreNow | with_reducible apply Keeps.ite | split | (intro _; intros; try dsimp only))

theorem keeps_execRestoreStart {r s t : State} (hs : Keeps r s) (hn : execRestoreStart s = .next t) : Keeps r t := by
  unfold execRestoreStart at hn
  repeat' (first | (split at hn) | (injection hn with hn; subst hn))
  all_goals (try dsimp only)
  all_goals repeat' (first | with_reducible assumption | with_reducible apply keeps_restorePick | split | (intro _; intros; try dsimp only))

theorem keeps_execUrgentTimer {r s t : State} (hs : Keeps r s) (x1 : Nat) (hn : execUrgentTimer x1 s = .next t) : Keeps r t := by
  unfold execUrgentTimer at hn
  repeat' (first | (split at hn) | (injection hn with hn; subst hn))
  all_goals (try dsimp only)
  all_goals repeat' (first | with_reducible assumption | with_reducible apply keeps_urgentArm | split | (intro _; intros; try dsimp only))

theorem keeps_kindleCeiling {r s : State} (hs : Keeps r s) (x2 : Nat) (x3 : Hold) : Keeps r (kindleCeiling s x2 x3) := by
  unfold kindleCeiling
  try dsimp only
  repeat' (first | with_reducible assumption | with_reducible apply keeps_holdEnd | with_reducible apply keeps_setWin | with_reducible apply keeps_bypassMissing | with_reducible apply keeps_forEach | split | (intro _; intros; try dsimp only))

theorem keeps_holdSpent {r s : State} (hs : Keeps r s) (x2 : Nat) (x3 : Hold) : Keeps r (holdSpent s x2 x3) := by
  unfold holdSpent
  try dsimp only
  repeat' (first | with_reducible assumption | with_reducible apply keeps_updPart | with_reducible apply keeps_bumpD | split | (intro _; intros; try dsimp only))

theorem keeps_ceilingHit {r s : State} (hs : Keeps r s) (x2 : Nat) : Keeps r (ceilingHit s x2) := by
  unfold ceilingHit
  try dsimp only
  repeat' (first | with_reducible assumption | with_reducible apply keeps_settlePart | with_reducible apply keeps_bypassRest | with_reducible apply keeps_kindleCeiling | with_reducible apply keeps_holdSpent | split | (intro _; intros; try dsimp only))

theorem keeps_request {r s : State} (hs : Keeps r s) (x2 : Nat) (x3 : Nat) (x4 : PosKey) : Keeps r (request s x2 x3 x4) := by
  unfold request
  try dsimp only
  repeat' (first | with_reducible assumption | with_reducible apply keeps_settlePart | with_reducible apply keeps_setWin | with_reducible apply keeps_answerWin | with_reducible apply Keeps.ite | split | (intro _; intros; try dsimp only))

theorem keeps_requestWin {r s : State} (hs : Keeps r s) (x2 : Nat) (x3 : Nat) (x4 : Part) (x5 : Tgt) (x6 : PosKey) : Keeps r (requestWin s x2 x3 x4 x5 x6) := by
  unfold requestWin
  try dsimp only
  repeat' (first | with_reducible assumption | with_reducible apply keeps_holdStart | with_reducible apply keeps_settlePart | with_reducible apply keeps_setWin | with_reducible apply keeps_winsSettle | with_reducible apply keeps_bypassRest | with_reducible apply keeps_ppSeq | with_reducible apply keeps_missingPanel | with_reducible apply keeps_request | with_reducible apply keeps_answer | with_reducible apply Keeps.ite | split | (intro _; intros; try dsimp only))

theorem keeps_epilogueRequest {r s : State} (hs : Keeps r s) (x2 : Nat) : Keeps r (epilogueRequest s x2) := by
  unfold epilogueRequest
  try dsimp only
  repeat' (first | with_reducible assumption | with_reducible apply keeps_requestWin | with_reducible apply keeps_answer | with_reducible apply Keeps.ite | split | (intro _; intros; try dsimp only))

theorem keeps_execDirtyWriteBack {r s t : State} (hs : Keeps r s) (x1 : Nat) (x2 : Nat) (hn : execDirtyWriteBack x1 x2 s = .next t) : Keeps r t := by
  unfold execDirtyWriteBack at hn
  repeat' (first | (split at hn) | (injection hn with hn; subst hn))
  all_goals (try dsimp only)
  all_goals repeat' (first | with_reducible assumption | with_reducible apply keeps_writeBack | split | (intro _; intros; try dsimp only))

theorem keeps_execEpilogueRequest {r s t : State} (hs : Keeps r s) (x1 : Nat) (hn : execEpilogueRequest x1 s = .next t) : Keeps r t := by
  unfold execEpilogueRequest at hn
  repeat' (first | (split at hn) | (injection hn with hn; subst hn))
  all_goals (try dsimp only)
  all_goals repeat' (first | with_reducible assumption | with_reducible apply keeps_epilogueRequest | split | (intro _; intros; try dsimp only))

theorem keeps_execHoldCeiling {r s t : State} (hs : Keeps r s) (x1 : Nat) (hn : execHoldCeiling x1 s = .next t) : Keeps r t := by
  unfold execHoldCeiling at hn
  repeat' (first | (split at hn) | (injection hn with hn; subst hn))
  all_goals (try dsimp only)
  all_goals repeat' (first | with_reducible assumption | with_reducible apply keeps_ceilingHit | split | (intro _; intros; try dsimp only))

theorem keeps_execKindlingStart {r s t : State} (hs : Keeps r s) (x1 : Nat) (hn : execKindlingStart x1 s = .next t) : Keeps r t := by
  unfold execKindlingStart at hn
  repeat' (first | (split at hn) | (injection hn with hn; subst hn))
  all_goals (try dsimp only)
  all_goals repeat' (first | with_reducible assumption | with_reducible apply keeps_winsSettle | with_reducible apply keeps_kindleNext | with_reducible apply keeps_kindleSettle | with_reducible apply keeps_settlePart | split | (intro _; intros; try dsimp only))

theorem keeps_outcomeTake {r s : State} (hs : Keeps r s) (x1 : List (BitVec 2048)) (x3 : Nat) (x4 : Nat) (x5 : Man) (x6 : PosKey) : Keeps r (outcomeTake x1 s x3 x4 x5 x6) := by
  unfold outcomeTake
  try dsimp only
  repeat' (first | with_reducible assumption | with_reducible apply keeps_ppSeq | with_reducible apply keeps_updPart | with_reducible apply keeps_reached | with_reducible apply Keeps.ite | split | (intro _; intros; try dsimp only))

theorem keeps_recordLost {r s : State} (hs : Keeps r s) (x2 : Nat) (x3 : Nat) (x4 : Part) : Keeps r (recordLost s x2 x3 x4) := by
  unfold recordLost
  try dsimp only
  repeat' (first | with_reducible assumption | with_reducible apply keeps_ppSeq | with_reducible apply Keeps.ite | split | (intro _; intros; try dsimp only))

theorem keeps_recordEnd {r s : State} (hs : Keeps r s) (x2 : Nat) (x3 : Nat) (x4 : PosKey) : Keeps r (recordEnd s x2 x3 x4) := by
  unfold recordEnd
  try dsimp only
  repeat' (first | with_reducible assumption | with_reducible apply keeps_freezePoint | with_reducible apply keeps_settlePart | with_reducible apply Keeps.ite | split | (intro _; intros; try dsimp only))

theorem keeps_recordTake {r s : State} (hs : Keeps r s) (x2 : W64) (x3 : W64) (x4 : Nat) (x5 : Nat) (x6 : Part → PosKey → Bool) (x7 : State → Nat → Nat → Man → PosKey → State) (hx7 : ∀ (y0 : State) (y1 : Nat) (y2 : Nat) (y3 : Man) (y4 : PosKey), Keeps r y0 → Keeps r (x7 y0 y1 y2 y3 y4)) : Keeps r (recordTake s x2 x3 x4 x5 x6 x7) := by
  unfold recordTake
  try dsimp only
  repeat' (first | with_reducible assumption | with_reducible apply keeps_recordLost | with_reducible apply keeps_markOverdue | with_reducible apply keeps_recordEnd | with_reducible apply keeps_recordDrop | with_reducible apply keeps_ppSeq | apply hx7 | with_reducible apply Keeps.ite | split | (intro _; intros; try dsimp only))

theorem keeps_execOutcomeRecord {r s t : State} (hs : Keeps r s) (x1 : W64) (x2 : W64) (x3 : List (BitVec 2048)) (hn : execOutcomeRecord x1 x2 x3 s = .next t) : Keeps r t := by
  unfold execOutcomeRecord at hn
  repeat' (first | (split at hn) | (injection hn with hn; subst hn))
  all_goals (try dsimp only)
  all_goals repeat' (first | with_reducible assumption | with_reducible apply keeps_outcomeTake | with_reducible apply keeps_recordTake | split | (intro _; intros; try dsimp only))

theorem keeps_panelTake {r s : State} (hs : Keeps r s) (x1 : Nat) (x2 : List (BitVec 2048)) (x4 : Nat) (x5 : Nat) (x6 : Man) (x7 : PosKey) : Keeps r (panelTake x1 x2 s x4 x5 x6 x7) := by
  unfold panelTake
  try dsimp only
  repeat' (first | with_reducible assumption | with_reducible apply keeps_winsSettle | with_reducible apply keeps_urgentArm | with_reducible apply keeps_reached | with_reducible apply keeps_updPart | with_reducible apply keeps_takePanel | split | (intro _; intros; try dsimp only))

theorem keeps_execPanelRecord {r s t : State} (hs : Keeps r s) (x1 : W64) (x2 : W64) (x3 : List (BitVec 2048)) (hn : execPanelRecord x1 x2 x3 s = .next t) : Keeps r t := by
  unfold execPanelRecord at hn
  repeat' (first | (split at hn) | (injection hn with hn; subst hn))
  all_goals (try dsimp only)
  all_goals repeat' (first | with_reducible assumption | with_reducible apply keeps_panelTake | with_reducible apply keeps_recordTake | split | (intro _; intros; try dsimp only))

theorem keeps_execPosRecord {r s t : State} (hs : Keeps r s) (x1 : W64) (x2 : W64) (hn : execPosRecord x1 x2 s = .next t) : Keeps r t := by
  unfold execPosRecord at hn
  repeat' (first | (split at hn) | (injection hn with hn; subst hn))
  all_goals (try dsimp only)
  all_goals repeat' (first | with_reducible assumption | with_reducible apply keeps_reached | with_reducible apply keeps_recordTake | split | (intro _; intros; try dsimp only))

theorem keeps_execWeightBlockEnd {r s t : State} (hs : Keeps r s) (x1 : Nat) (x2 : Nat) (x3 : Nat) (x4 : Bool) (hn : execWeightBlockEnd x1 x2 x3 x4 s = .next t) : Keeps r t := by
  unfold execWeightBlockEnd at hn
  repeat' (first | (split at hn) | (injection hn with hn; subst hn))
  all_goals (try dsimp only)
  all_goals repeat' (first | with_reducible assumption | with_reducible apply keeps_winsSettle | with_reducible apply keeps_urgentBlock | with_reducible apply keeps_settlePart | with_reducible refine keeps_blockEnd ?_ (by with_reducible assumption) | split | (intro _; intros; try dsimp only))

theorem keeps_xpTake {r s : State} (hs : Keeps r s) (x2 : Nat) (x3 : WinCtx) (x4 : Nat) (x5 : Nat) (x6 : Nat) (x7 : List Nat) : Keeps r (xpTake s x2 x3 x4 x5 x6 x7) := by
  unfold xpTake
  try dsimp only
  repeat' (first | with_reducible assumption | with_reducible apply keeps_gradCensus | with_reducible apply keeps_setWin | split | (intro _; intros; try dsimp only))

theorem keeps_xpRead {r s : State} (hs : Keeps r s) (x2 : List (BitVec 32)) : Keeps r (xpRead s x2) := by
  unfold xpRead
  try dsimp only
  repeat' (first | with_reducible assumption | with_reducible apply keeps_xpTake | with_reducible apply keeps_xpPump | with_reducible apply keeps_updXp | with_reducible apply Keeps.ite | split | (intro _; intros; try dsimp only))

theorem keeps_execXpReadData {r s t : State} (hs : Keeps r s) (x1 : List (BitVec 32)) (hn : execXpReadData x1 s = .next t) : Keeps r t := by
  unfold execXpReadData at hn
  repeat' (first | (split at hn) | (injection hn with hn; subst hn))
  all_goals (try dsimp only)
  all_goals repeat' (first | with_reducible assumption | with_reducible apply keeps_xpRead | split | (intro _; intros; try dsimp only))

theorem keeps_xpWrite {r s : State} (hs : Keeps r s) : Keeps r (xpWrite s) := by
  unfold xpWrite
  try dsimp only
  repeat' (first | with_reducible assumption | with_reducible apply keeps_bumpCensus | with_reducible apply keeps_bumpD | with_reducible apply keeps_xpPump | with_reducible apply keeps_settlePart | with_reducible apply keeps_setWin | split | (intro _; intros; try dsimp only))

theorem keeps_execXpWriteAccept {r s t : State} (hs : Keeps r s) (hn : execXpWriteAccept s = .next t) : Keeps r t := by
  unfold execXpWriteAccept at hn
  repeat' (first | (split at hn) | (injection hn with hn; subst hn))
  all_goals (try dsimp only)
  all_goals repeat' (first | with_reducible assumption | with_reducible apply keeps_xpWrite | split | (intro _; intros; try dsimp only))

theorem keeps_ctxIdle {r s : State} (hs : Keeps r s) (x2 : Nat) : Keeps r (ctxIdle s x2) := by
  unfold ctxIdle
  try dsimp only
  repeat' (first | with_reducible assumption | with_reducible apply keeps_completions | with_reducible apply keeps_idleTry | with_reducible apply Keeps.ite | split | (intro _; intros; try dsimp only))

theorem keeps_updAway {r s : State} (hs : Keeps r s) (x2 : Nat) (x3 : Nat) (x4 : Ctx → Ctx) : Keeps r (updAway s x2 x3 x4) := by
  unfold updAway
  try dsimp only
  repeat' (first | with_reducible assumption | with_reducible apply keeps_updPart | with_reducible apply keeps_updCtx | with_reducible apply Keeps.ite | split | (intro _; intros; try dsimp only))

theorem keeps_adopted {r s : State} (hs : Keeps r s) (x2 : Nat) (x3 : Nat) (x4 : Nat) (x5 : Ctx) : Keeps r (adopted s x2 x3 x4 x5) := by
  unfold adopted
  try dsimp only
  repeat' (first | with_reducible assumption | with_reducible apply keeps_adoptsFree | with_reducible apply keeps_ctxTimers | with_reducible apply keeps_ctxIdle | with_reducible apply keeps_updAway | with_reducible apply Keeps.ite | split | (intro _; intros; try dsimp only) | with_reducible refine Keeps.store ?_ (by rfl))

theorem keeps_ctxNew {r s : State} (hs : Keeps r s) (x2 : Nat) (x3 : Part) (x4 : Nat) (x5 : List W64) : Keeps r (ctxNew s x2 x3 x4 x5) := by
  unfold ctxNew
  try dsimp only
  repeat' (first | with_reducible assumption | with_reducible apply keeps_writeT1 | with_reducible apply keeps_updPart | with_reducible apply keeps_setCtx | with_reducible apply Keeps.ite | split | (intro _; intros; try dsimp only))

theorem keeps_execAdoptionCopyEnd {r s t : State} (hs : Keeps r s) (x1 : Nat) (x2 : Nat) (hn : execAdoptionCopyEnd x1 x2 s = .next t) : Keeps r t := by
  unfold execAdoptionCopyEnd at hn
  repeat' (first | (split at hn) | (injection hn with hn; subst hn))
  all_goals (try dsimp only)
  all_goals repeat' (first | with_reducible assumption | with_reducible apply keeps_adopted | split | (intro _; intros; try dsimp only))

theorem keeps_reqQueue {r s : State} (hs : Keeps r s) (x2 : Nat) (x3 : Nat) (x4 : Nat) (x5 : List W64) : Keeps r (reqQueue s x2 x3 x4 x5) := by
  unfold reqQueue
  try dsimp only
  repeat' (first | with_reducible assumption | with_reducible apply keeps_updPart | with_reducible apply keeps_takeOrder | split | (intro _; intros; try dsimp only))

theorem keeps_reqWait {r s : State} (hs : Keeps r s) (x2 : Nat) (x3 : Part) (x4 : Nat) (x5 : List W64) : Keeps r (reqWait s x2 x3 x4 x5) := by
  unfold reqWait
  try dsimp only
  repeat' (first | with_reducible assumption | with_reducible apply keeps_applyRequest | with_reducible apply keeps_ctxTimers | with_reducible apply keeps_ctxIdle | with_reducible apply keeps_reqQueue | with_reducible apply Keeps.ite | split | (intro _; intros; try dsimp only))

theorem keeps_reqNew {r s : State} (hs : Keeps r s) (x2 : Nat) (x3 : Part) (x4 : Nat) (x5 : Nat) (x6 : List W64) : Keeps r (reqNew s x2 x3 x4 x5 x6) := by
  unfold reqNew
  try dsimp only
  repeat' (first | with_reducible assumption | with_reducible apply keeps_ctxIdle | with_reducible apply keeps_reqQueue | with_reducible apply keeps_ctxNew | with_reducible apply Keeps.ite | split | (intro _; intros; try dsimp only))

theorem keeps_reqRefuse {r s : State} (hs : Keeps r s) (x2 : Nat) (x3 : Nat) (x4 : Nat) (x5 : List W64) : Keeps r (reqRefuse s x2 x3 x4 x5) := by
  unfold reqRefuse
  try dsimp only
  repeat' (first | with_reducible assumption | with_reducible apply keeps_refuseEntry | with_reducible apply Keeps.ite | split | (intro _; intros; try dsimp only))

theorem keeps_ringRead {r s : State} (hs : Keeps r s) (x2 : Nat) (x3 : Nat → Bool) : Keeps r (ringRead s x2 x3) := by
  unfold ringRead
  try dsimp only
  repeat' (first | with_reducible assumption | with_reducible apply keeps_reqWait | with_reducible apply keeps_reqNew | with_reducible apply keeps_reqRefuse | with_reducible apply keeps_updPart | with_reducible apply Keeps.ite | split | (intro _; intros; try dsimp only))

theorem keeps_execAppend {r s t : State} (hs : Keeps r s) (x1 : Nat) (hn : execAppend x1 s = .next t) : Keeps r t := by
  unfold execAppend at hn
  repeat' (first | (split at hn) | (injection hn with hn; subst hn))
  all_goals (try dsimp only)
  all_goals repeat' (first | with_reducible assumption | with_reducible apply keeps_ringRead | split | (intro _; intros; try dsimp only))

theorem keeps_execCancel {r s t : State} (hs : Keeps r s) (x1 : Nat) (hn : execCancel x1 s = .next t) : Keeps r t := by
  unfold execCancel at hn
  repeat' (first | (split at hn) | (injection hn with hn; subst hn))
  all_goals (try dsimp only)
  all_goals repeat' (first | with_reducible assumption | with_reducible apply keeps_ringRead | split | (intro _; intros; try dsimp only))

theorem keeps_rebindRow {r s : State} (hs : Keeps r s) (x2 : Inst) : Keeps r (rebindRow s x2) := by
  unfold rebindRow
  try dsimp only
  repeat' (first | with_reducible assumption | with_reducible apply keeps_ctxIdle | with_reducible apply keeps_rebindAct | split | (intro _; intros; try dsimp only))

theorem keeps_execCtxRebind {r s t : State} (hs : Keeps r s) (hn : execCtxRebind s = .next t) : Keeps r t := by
  unfold execCtxRebind at hn
  repeat' (first | (split at hn) | (injection hn with hn; subst hn))
  all_goals (try dsimp only)
  all_goals repeat' (first | with_reducible assumption | with_reducible apply keeps_rebindRow | with_reducible apply keeps_cmdRow | split | (intro _; intros; try dsimp only))

theorem keeps_execEmberAfter {r s t : State} (hs : Keeps r s) (x1 : Nat) (x2 : Nat) (hn : execEmberAfter x1 x2 s = .next t) : Keeps r t := by
  unfold execEmberAfter at hn
  repeat' (first | (split at hn) | (injection hn with hn; subst hn))
  all_goals (try dsimp only)
  all_goals repeat' (first | with_reducible assumption | with_reducible apply keeps_ctxTimers | with_reducible apply keeps_ctxIdle | with_reducible apply keeps_updCtx | split | (intro _; intros; try dsimp only))

theorem keeps_execEmberExpiry {r s t : State} (hs : Keeps r s) (x1 : Nat) (x2 : Nat) (hn : execEmberExpiry x1 x2 s = .next t) : Keeps r t := by
  unfold execEmberExpiry at hn
  repeat' (first | (split at hn) | (injection hn with hn; subst hn))
  all_goals (try dsimp only)
  all_goals repeat' (first | with_reducible assumption | with_reducible apply keeps_ctxTimers | with_reducible apply keeps_ctxIdle | split | (intro _; intros; try dsimp only))

theorem keeps_pageCopied {r s : State} (hs : Keeps r s) (x2 : Nat) (x3 : Nat) (x4 : Nat) (x5 : Ctx) : Keeps r (pageCopied s x2 x3 x4 x5) := by
  unfold pageCopied
  try dsimp only
  repeat' (first | with_reducible assumption | with_reducible apply keeps_ctxTimers | with_reducible apply keeps_ctxIdle | with_reducible apply keeps_updAway | with_reducible apply Keeps.ite | split | (intro _; intros; try dsimp only) | with_reducible refine Keeps.store ?_ (by rfl))

theorem keeps_execEmberPageCopyEnd {r s t : State} (hs : Keeps r s) (x1 : Nat) (x2 : Nat) (hn : execEmberPageCopyEnd x1 x2 s = .next t) : Keeps r t := by
  unfold execEmberPageCopyEnd at hn
  repeat' (first | (split at hn) | (injection hn with hn; subst hn))
  all_goals (try dsimp only)
  all_goals repeat' (first | with_reducible assumption | with_reducible apply keeps_pageCopied | split | (intro _; intros; try dsimp only))

theorem keeps_manSubmitAct {r s : State} (hs : Keeps r s) (x2 : Inst) : Keeps r (manSubmitAct s x2) := by
  unfold manSubmitAct
  try dsimp only
  repeat' (first | with_reducible assumption | with_reducible apply keeps_manPrep | with_reducible apply keeps_idleTry | with_reducible apply keeps_updPart | with_reducible apply keeps_finish | with_reducible apply keeps_refuse | with_reducible apply keeps_withSlot | with_reducible apply Keeps.ite | split | (intro _; intros; try dsimp only))

theorem keeps_execManSubmit {r s t : State} (hs : Keeps r s) (hn : execManSubmit s = .next t) : Keeps r t := by
  unfold execManSubmit at hn
  repeat' (first | (split at hn) | (injection hn with hn; subst hn))
  all_goals (try dsimp only)
  all_goals repeat' (first | with_reducible assumption | with_reducible apply keeps_manSubmitAct | with_reducible apply keeps_cmdRow | split | (intro _; intros; try dsimp only))

theorem keeps_lookup {r s : State} (hs : Keeps r s) (x2 : Nat) (x3 : W64) (x4 : State → W64 → Nat) : Keeps r (lookup s x2 x3 x4) := by
  unfold lookup
  try dsimp only
  repeat' (first | with_reducible assumption | with_reducible apply keeps_bumpD | with_reducible apply Keeps.ite | split | (intro _; intros; try dsimp only) | with_reducible refine Keeps.upd ?_ (by rfl))

theorem keeps_execMaskLookup {r s t : State} (hs : Keeps r s) (x1 : W64) (hn : execMaskLookup x1 s = .next t) : Keeps r t := by
  unfold execMaskLookup at hn
  repeat' (first | (split at hn) | (injection hn with hn; subst hn))
  all_goals (try dsimp only)
  all_goals repeat' (first | with_reducible assumption | with_reducible apply keeps_lookup | split | (intro _; intros; try dsimp only))

theorem keeps_execNewReq {r s t : State} (hs : Keeps r s) (x1 : Nat) (hn : execNewReq x1 s = .next t) : Keeps r t := by
  unfold execNewReq at hn
  repeat' (first | (split at hn) | (injection hn with hn; subst hn))
  all_goals (try dsimp only)
  all_goals repeat' (first | with_reducible assumption | with_reducible apply keeps_ringRead | split | (intro _; intros; try dsimp only))

theorem keeps_execNodeLookup {r s t : State} (hs : Keeps r s) (x1 : W64) (hn : execNodeLookup x1 s = .next t) : Keeps r t := by
  unfold execNodeLookup at hn
  repeat' (first | (split at hn) | (injection hn with hn; subst hn))
  all_goals (try dsimp only)
  all_goals repeat' (first | with_reducible assumption | with_reducible apply keeps_lookup | split | (intro _; intros; try dsimp only))

theorem keeps_execPageLookup {r s t : State} (hs : Keeps r s) (x1 : W64) (hn : execPageLookup x1 s = .next t) : Keeps r t := by
  unfold execPageLookup at hn
  repeat' (first | (split at hn) | (injection hn with hn; subst hn))
  all_goals (try dsimp only)
  all_goals repeat' (first | with_reducible assumption | with_reducible apply keeps_lookup | split | (intro _; intros; try dsimp only))

theorem keeps_execPause {r s t : State} (hs : Keeps r s) (x1 : Nat) (hn : execPause x1 s = .next t) : Keeps r t := by
  unfold execPause at hn
  repeat' (first | (split at hn) | (injection hn with hn; subst hn))
  all_goals (try dsimp only)
  all_goals repeat' (first | with_reducible assumption | with_reducible apply keeps_ringRead | split | (intro _; intros; try dsimp only))

theorem keeps_execSlotLookup {r s t : State} (hs : Keeps r s) (x1 : W64) (hn : execSlotLookup x1 s = .next t) : Keeps r t := by
  unfold execSlotLookup at hn
  repeat' (first | (split at hn) | (injection hn with hn; subst hn))
  all_goals (try dsimp only)
  all_goals repeat' (first | with_reducible assumption | with_reducible apply keeps_lookup | split | (intro _; intros; try dsimp only))

theorem keeps_bdlAbortAct {r s : State} (hs : Keeps r s) (x2 : Inst) : Keeps r (bdlAbortAct s x2) := by
  unfold bdlAbortAct
  try dsimp only
  repeat' (first | with_reducible assumption | with_reducible apply keeps_bundleDiscard | with_reducible apply keeps_finish | with_reducible apply keeps_refuse | with_reducible apply Keeps.ite | split | (intro _; intros; try dsimp only))

theorem keeps_bdlCommitAct {r s : State} (hs : Keeps r s) (x2 : Inst) : Keeps r (bdlCommitAct s x2) := by
  unfold bdlCommitAct
  try dsimp only
  repeat' (first | with_reducible assumption | with_reducible apply keeps_bundleApply | with_reducible apply keeps_setInst | with_reducible apply keeps_setBundle | with_reducible apply keeps_refuse | with_reducible apply Keeps.ite | split | (intro _; intros; try dsimp only) | with_reducible refine Keeps.upd ?_ (by rfl))

theorem keeps_bdlOpenAct {r s : State} (hs : Keeps r s) (x2 : Inst) : Keeps r (bdlOpenAct s x2) := by
  unfold bdlOpenAct
  try dsimp only
  repeat' (first | with_reducible assumption | with_reducible apply keeps_setBundle | with_reducible apply keeps_finish | with_reducible apply keeps_refuse | with_reducible apply Keeps.ite | split | (intro _; intros; try dsimp only))

theorem keeps_cntClearAct {r s : State} (hs : Keeps r s) (i : Inst) : Keeps r (cntClearAct s i) := by
  unfold cntClearAct
  dsimp only
  split
  · exact keeps_refuse hs _ _ _
  · exact keeps_finish (hs.updCnt rfl (Tab.wf_keepKeys _)) _ _ _ _ _

theorem keeps_setRegs {r s : State} (hs : Keeps r s) (x2 : Path) (x3 : PathRegs) : Keeps r (setRegs s x2 x3) := by
  unfold setRegs
  try dsimp only
  repeat' (first | with_reducible assumption | split | (intro _; intros; try dsimp only) | with_reducible refine Keeps.upd ?_ (by rfl))

theorem keeps_opEnd {r s : State} (hs : Keeps r s) (x2 : Path) (x3 : W64) (x4 : OpRes) : Keeps r (opEnd s x2 x3 x4) := by
  unfold opEnd
  try dsimp only
  repeat' (first | with_reducible assumption | with_reducible apply keeps_raiseIbi | with_reducible apply keeps_setRegs | split | (intro _; intros; try dsimp only) | with_reducible refine Keeps.upd ?_ (by rfl))

theorem keeps_written {r s : State} (hs : Keeps r s) (x2 : Obj) (x3 : Nat) : Keeps r (written s x2 x3) := by
  unfold written
  try dsimp only
  repeat' (first | with_reducible assumption | with_reducible apply keeps_mapShare | with_reducible apply keeps_ctxIdle | with_reducible apply keeps_cqDrain | with_reducible apply keeps_updPart | with_reducible apply keeps_expResync | with_reducible apply keeps_updTrain | with_reducible apply keeps_setVal | with_reducible apply keeps_evDrain | split | (intro _; intros; try dsimp only) | with_reducible refine Keeps.upd ?_ (by rfl))

theorem keeps_opWrite {r s : State} (hs : Keeps r s) (x2 : Path) (x3 : Obj) (x4 : Nat) (x5 : Nat) (x6 : W64) : Keeps r (opWrite s x2 x3 x4 x5 x6).2 := by
  unfold opWrite
  try dsimp only
  repeat' (first | with_reducible assumption | with_reducible apply keeps_acceptVal | with_reducible apply keeps_written | split | (intro _; intros; try dsimp only))
theorem keeps_opWrite_eq {r s t : State} {a} {x2 : Path} {x3 : Obj} {x4 : Nat} {x5 : Nat} {x6 : W64} (hs : Keeps r s) (e : opWrite s x2 x3 x4 x5 x6 = (a, t)) : Keeps r t := by
  have := keeps_opWrite hs x2 x3 x4 x5 x6 
  rw [e] at this; exact this

theorem keeps_opDo {r s : State} (hs : Keeps r s) (x2 : Path) (x3 : W64) : Keeps r (opDo s x2 x3).2 := by
  unfold opDo
  try dsimp only
  repeat' (first | with_reducible assumption | with_reducible apply keeps_opWrite | with_reducible apply keeps_issueCmd | with_reducible apply keeps_bundleWrite | split | (intro _; intros; try dsimp only))
theorem keeps_opDo_eq {r s t : State} {a} {x2 : Path} {x3 : W64} (hs : Keeps r s) (e : opDo s x2 x3 = (a, t)) : Keeps r t := by
  have := keeps_opDo hs x2 x3 
  rw [e] at this; exact this

theorem keeps_waitOn {r s : State} (hs : Keeps r s) (x2 : Path) : Keeps r (waitOn s x2) := by
  unfold waitOn
  try dsimp only
  repeat' (first | with_reducible assumption | with_reducible apply Keeps.ite | split | (intro _; intros; try dsimp only) | with_reducible refine Keeps.upd ?_ (by rfl))

theorem keeps_opRun {r s : State} (hs : Keeps r s) (x2 : Path) (x3 : W64) : Keeps r (opRun s x2 x3) := by
  unfold opRun
  try dsimp only
  repeat' (first | with_reducible assumption | with_reducible apply keeps_opEnd | with_reducible apply keeps_opDo | with_reducible apply keeps_setRegs | with_reducible apply keeps_waitOn | with_reducible apply Keeps.ite | split | (intro _; intros; try dsimp only))

theorem keeps_opStart {r s : State} (hs : Keeps r s) (x2 : Path) (x3 : W64) : Keeps r (opStart s x2 x3) := by
  unfold opStart
  try dsimp only
  repeat' (first | with_reducible assumption | with_reducible apply keeps_latch | with_reducible apply keeps_opRun | with_reducible apply keeps_setRegs | with_reducible apply Keeps.ite | split | (intro _; intros; try dsimp only))

theorem keeps_odRegWrite {r s : State} (hs : Keeps r s) (x2 : Path) (x3 : Nat) (x4 : W64) : Keeps r (odRegWrite s x2 x3 x4) := by
  unfold odRegWrite
  try dsimp only
  repeat' (first | with_reducible assumption | with_reducible apply keeps_opStart | with_reducible apply keeps_setRegs | with_reducible apply Keeps.ite | split | (intro _; intros; try dsimp only))

theorem keeps_cpWrite {r s : State} (hs : Keeps r s) (x2 : Nat) (x3 : W64) (x4 : Nat) : Keeps r (cpWrite s x2 x3 x4) := by
  unfold cpWrite
  try dsimp only
  repeat' (first | with_reducible assumption | with_reducible apply keeps_odRegWrite | with_reducible apply Keeps.ite | split | (intro _; intros; try dsimp only) | with_reducible refine Keeps.upd ?_ (by rfl))

theorem keeps_doorbell {r s : State} (hs : Keeps r s) (x2 : Nat) (x3 : Nat) (x4 : W64) (x5 : State → Nat → State) (hx5 : ∀ (y0 : State) (y1 : Nat), Keeps r y0 → Keeps r (x5 y0 y1)) : Keeps r (doorbell s x2 x3 x4 x5) := by
  unfold doorbell
  try dsimp only
  repeat' (first | with_reducible assumption | with_reducible apply keeps_bump | apply hx5 | with_reducible apply Keeps.ite | split | (intro _; intros; try dsimp only) | with_reducible refine Keeps.upd ?_ (by rfl))

theorem keeps_execBdlAbort {r s t : State} (hs : Keeps r s) (hn : execBdlAbort s = .next t) : Keeps r t := by
  unfold execBdlAbort at hn
  repeat' (first | (split at hn) | (injection hn with hn; subst hn))
  all_goals (try dsimp only)
  all_goals repeat' (first | with_reducible assumption | with_reducible apply keeps_bdlAbortAct | with_reducible apply keeps_cmdRow | split | (intro _; intros; try dsimp only))

theorem keeps_execBdlCommit {r s t : State} (hs : Keeps r s) (hn : execBdlCommit s = .next t) : Keeps r t := by
  unfold execBdlCommit at hn
  repeat' (first | (split at hn) | (injection hn with hn; subst hn))
  all_goals (try dsimp only)
  all_goals repeat' (first | with_reducible assumption | with_reducible apply keeps_bdlCommitAct | with_reducible apply keeps_cmdRow | split | (intro _; intros; try dsimp only))

theorem keeps_execBdlOpen {r s t : State} (hs : Keeps r s) (hn : execBdlOpen s = .next t) : Keeps r t := by
  unfold execBdlOpen at hn
  repeat' (first | (split at hn) | (injection hn with hn; subst hn))
  all_goals (try dsimp only)
  all_goals repeat' (first | with_reducible assumption | with_reducible apply keeps_bdlOpenAct | with_reducible apply keeps_cmdRow | split | (intro _; intros; try dsimp only))

theorem keeps_execBundleExpired {r s t : State} (hs : Keeps r s) (x1 : Nat) (hn : execBundleExpired x1 s = .next t) : Keeps r t := by
  unfold execBundleExpired at hn
  repeat' (first | (split at hn) | (injection hn with hn; subst hn))
  all_goals (try dsimp only)
  all_goals repeat' (first | with_reducible assumption | with_reducible apply keeps_bundleDiscard | with_reducible apply keeps_post | split | (intro _; intros; try dsimp only))

theorem keeps_execCntClear {r s t : State} (hs : Keeps r s) (hn : execCntClear s = .next t) : Keeps r t := by
  unfold execCntClear at hn
  repeat' (first | (split at hn) | (injection hn with hn; subst hn))
  all_goals (try dsimp only)
  all_goals repeat' (first | with_reducible assumption | with_reducible apply keeps_cntClearAct | with_reducible apply keeps_cmdRow | split | (intro _; intros; try dsimp only))

theorem keeps_slotPointer {r s : State} (hs : Keeps r s) (x2 : Nat) (x3 : Nat) (x4 : Nat) (x5 : Nat) : Keeps r (slotPointer s x2 x3 x4 x5) := by
  unfold slotPointer
  try dsimp only
  repeat' (first | with_reducible assumption | with_reducible apply keeps_written | with_reducible apply keeps_setVal | split | (intro _; intros; try dsimp only))

theorem keeps_execCqDb {r s t : State} (hs : Keeps r s) (x1 : Nat) (x2 : W64) (x3 : Nat) (hn : execCqDb x1 x2 x3 s = .next t) : Keeps r t := by
  unfold execCqDb at hn
  repeat' (first | (split at hn) | (injection hn with hn; subst hn))
  all_goals (try dsimp only)
  all_goals repeat' (first | with_reducible assumption | with_reducible apply keeps_slotPointer | with_reducible apply keeps_doorbell | split | (intro _; intros; try dsimp only))

theorem keeps_execEvDb {r s t : State} (hs : Keeps r s) (x1 : W64) (x2 : Nat) (hn : execEvDb x1 x2 s = .next t) : Keeps r t := by
  unfold execEvDb at hn
  repeat' (first | (split at hn) | (injection hn with hn; subst hn))
  all_goals (try dsimp only)
  all_goals repeat' (first | with_reducible assumption | with_reducible apply keeps_slotPointer | with_reducible apply keeps_doorbell | split | (intro _; intros; try dsimp only))

theorem keeps_execExpDb {r s t : State} (hs : Keeps r s) (x1 : Nat) (x2 : W64) (x3 : Nat) (hn : execExpDb x1 x2 x3 s = .next t) : Keeps r t := by
  unfold execExpDb at hn
  repeat' (first | (split at hn) | (injection hn with hn; subst hn))
  all_goals (try dsimp only)
  all_goals repeat' (first | with_reducible assumption | with_reducible apply keeps_slotPointer | with_reducible apply keeps_doorbell | split | (intro _; intros; try dsimp only))

theorem keeps_odstsRead {r s : State} (hs : Keeps r s) (x2 : Path) : Keeps r (odstsRead s x2) := by
  unfold odstsRead
  try dsimp only
  repeat' (first | with_reducible assumption | with_reducible apply keeps_setRegs | split | (intro _; intros; try dsimp only) | with_reducible refine Keeps.upd ?_ (by rfl))

theorem keeps_execOdstsRead {r s t : State} (hs : Keeps r s) (x1 : Path) (hn : execOdstsRead x1 s = .next t) : Keeps r t := by
  unfold execOdstsRead at hn
  repeat' (first | (split at hn) | (injection hn with hn; subst hn))
  all_goals (try dsimp only)
  all_goals repeat' (first | with_reducible assumption | with_reducible apply keeps_odstsRead | split | (intro _; intros; try dsimp only))

theorem keeps_resumeOps {r s : State} (hs : Keeps r s) : Keeps r (resumeOps s) := by
  unfold resumeOps
  try dsimp only
  repeat' (first | with_reducible assumption | with_reducible apply keeps_opRun | with_reducible apply keeps_forEach | split | (intro _; intros; try dsimp only) | with_reducible refine Keeps.upd ?_ (by rfl))

theorem keeps_otpProgram {r s : State} (hs : Keeps r s) (off : Nat) (bs : List Byte) : Keeps r (otpProgram s off bs) :=
  hs.trans ⟨rfl, rfl, rfl, id, id, fun h => by rw [otpProgram, otpPut_eq]; exact memWf_storeBytes _ _ h,
    fun k => otp_rises _ off bs k, id, id⟩

theorem keeps_otpTorn {r s : State} (hs : Keeps r s) (x2 : List Byte) : Keeps r (otpTorn s x2).2 := by
  unfold otpTorn
  try dsimp only
  repeat' (first | with_reducible assumption | with_reducible apply keeps_draw | split | (intro _; intros; try dsimp only))
theorem keeps_otpTorn_eq {r s t : State} {a} {x2 : List Byte} (hs : Keeps r s) (e : otpTorn s x2 = (a, t)) : Keeps r t := by
  have := keeps_otpTorn hs x2 
  rw [e] at this; exact this

theorem keeps_wo1Program {r s : State} (hs : Keeps r s) (x2 : Nat) (x3 : Nat) (x4 : List W64) (x5 : Bool) : Keeps r (wo1Program s x2 x3 x4 x5) := by
  unfold wo1Program
  try dsimp only
  repeat' (first | with_reducible assumption | with_reducible apply keeps_otpProgram | with_reducible apply keeps_otpTorn | with_reducible apply Keeps.ite | split | (intro _; intros; try dsimp only))

theorem keeps_wo1End {r s : State} (hs : Keeps r s) (x2 : Path) (x3 : Bool) : Keeps r (wo1End s x2 x3) := by
  unfold wo1End
  try dsimp only
  repeat' (first | with_reducible assumption | with_reducible apply keeps_opEnd | with_reducible apply keeps_resumeOps | with_reducible apply keeps_wo1Program | split | (intro _; intros; try dsimp only))

theorem keeps_execOtpWo1Write {r s t : State} (hs : Keeps r s) (x1 : Path) (x2 : Bool) (hn : execOtpWo1Write x1 x2 s = .next t) : Keeps r t := by
  unfold execOtpWo1Write at hn
  repeat' (first | (split at hn) | (injection hn with hn; subst hn))
  all_goals (try dsimp only)
  all_goals repeat' (first | with_reducible assumption | with_reducible apply keeps_wo1End | split | (intro _; intros; try dsimp only))

theorem keeps_opRow {r s : State} (hs : Keeps r s) (x1 : Nat) (x2 : Path) (x3 : W64) : Keeps r (opRow x1 x2 x3 s) := by
  unfold opRow
  try dsimp only
  repeat' (first | with_reducible assumption | with_reducible apply keeps_opStart | with_reducible apply Keeps.ite | split | (intro _; intros; try dsimp only))

theorem keeps_execRead {r s t : State} (hs : Keeps r s) (x1 : Path) (x2 : W64) (hn : execRead x1 x2 s = .next t) : Keeps r t := by
  unfold execRead at hn
  repeat' (first | (split at hn) | (injection hn with hn; subst hn))
  all_goals (try dsimp only)
  all_goals repeat' (first | with_reducible assumption | with_reducible apply keeps_opRow | split | (intro _; intros; try dsimp only))

theorem keeps_fwWrite {r s : State} (hs : Keeps r s) (x2 : Nat) (x3 : W64) : Keeps r (fwWrite s x2 x3) := by
  unfold fwWrite
  try dsimp only
  repeat' (first | with_reducible assumption | with_reducible apply keeps_odRegWrite | with_reducible apply Keeps.ite | split | (intro _; intros; try dsimp only) | with_reducible refine Keeps.upd ?_ (by rfl))

theorem keeps_regWrite {r s : State} (hs : Keeps r s) (x2 : Path) (x3 : Nat) (x4 : W64) (x5 : Nat) : Keeps r (regWrite s x2 x3 x4 x5) := by
  unfold regWrite
  try dsimp only
  repeat' (first | with_reducible assumption | with_reducible apply keeps_fwWrite | with_reducible apply keeps_cpWrite | split | (intro _; intros; try dsimp only))

theorem keeps_execRegisterWrite {r s t : State} (hs : Keeps r s) (x1 : Path) (x2 : Nat) (x3 : W64) (x4 : Nat) (hn : execRegisterWrite x1 x2 x3 x4 s = .next t) : Keeps r t := by
  unfold execRegisterWrite at hn
  repeat' (first | (split at hn) | (injection hn with hn; subst hn))
  all_goals (try dsimp only)
  all_goals repeat' (first | with_reducible assumption | with_reducible apply keeps_regWrite | split | (intro _; intros; try dsimp only))

theorem keeps_execRqDb {r s t : State} (hs : Keeps r s) (x1 : Nat) (x2 : W64) (x3 : Nat) (hn : execRqDb x1 x2 x3 s = .next t) : Keeps r t := by
  unfold execRqDb at hn
  repeat' (first | (split at hn) | (injection hn with hn; subst hn))
  all_goals (try dsimp only)
  all_goals repeat' (first | with_reducible assumption | with_reducible apply keeps_slotPointer | with_reducible apply keeps_latch | with_reducible apply keeps_doorbell | split | (intro _; intros; try dsimp only))

theorem keeps_execWrite {r s t : State} (hs : Keeps r s) (x1 : Path) (x2 : W64) (hn : execWrite x1 x2 s = .next t) : Keeps r t := by
  unfold execWrite at hn
  repeat' (first | (split at hn) | (injection hn with hn; subst hn))
  all_goals (try dsimp only)
  all_goals repeat' (first | with_reducible assumption | with_reducible apply keeps_opRow | split | (intro _; intros; try dsimp only))

theorem keeps_execWriteB {r s t : State} (hs : Keeps r s) (x1 : Path) (x2 : W64) (hn : execWriteB x1 x2 s = .next t) : Keeps r t := by
  unfold execWriteB at hn
  repeat' (first | (split at hn) | (injection hn with hn; subst hn))
  all_goals (try dsimp only)
  all_goals repeat' (first | with_reducible assumption | with_reducible apply keeps_opRow | split | (intro _; intros; try dsimp only))

end Sys2Proof.Machine
end

