-- ==== Sys2Proof/Laws/KeepsRows.lean ====
section
/-! SUPPORT. For each operation of CoreCmds, RelCmds, BootCmds, Replay, DebugCmds, Engine, I3cCmds, TickCmds, EngineMem, MpRows: it keeps what `Keeps` says. One lemma for each
operation, so that no later proof unfolds one to know this. -/

namespace Sys2Proof.Machine

theorem keeps_apRead {r s : State} (hs : Keeps r s) (x2 : Nat) (x3 : Nat) (x4 : Nat) : Keeps r (apRead s x2 x3 x4) := by
  unfold apRead
  try dsimp only
  repeat' (first | with_reducible assumption | with_reducible apply keeps_addReq | with_reducible apply keeps_updCore | with_reducible apply Keeps.ite | split | (intro _; intros; try dsimp only))

theorem keeps_apAccess {r s : State} (hs : Keeps r s) (x2 : Bool) (x3 : Nat) (x4 : W64) : Keeps r (apAccess s x2 x3 x4) := by
  unfold apAccess
  try dsimp only
  repeat' (first | with_reducible assumption | with_reducible apply keeps_apRead | with_reducible apply keeps_objWrite | with_reducible apply keeps_updCore | with_reducible apply Keeps.ite | split | (intro _; intros; try dsimp only))

theorem keeps_changeFor {r s : State} (hs : Keeps r s) (x2 : Inst) (x3 : Nat) : Keeps r (changeFor s x2 x3) := by
  unfold changeFor
  try dsimp only
  repeat' (first | with_reducible assumption | with_reducible apply keeps_setInst | with_reducible apply keeps_changeBegin | split | (intro _; intros; try dsimp only))

theorem keeps_execApertureAccess {r s t : State} (hs : Keeps r s) (x1 : Bool) (x2 : Nat) (x3 : W64) (hn : execApertureAccess x1 x2 x3 s = .next t) : Keeps r t := by
  unfold execApertureAccess at hn
  repeat' (first | (split at hn) | (injection hn with hn; subst hn))
  all_goals (try dsimp only)
  all_goals repeat' (first | with_reducible assumption | with_reducible apply keeps_apAccess | split | (intro _; intros; try dsimp only))

theorem keeps_execEventIrqTimer {r s t : State} (hs : Keeps r s) (hn : execEventIrqTimer s = .next t) : Keeps r t := by
  unfold execEventIrqTimer at hn
  repeat' (first | (split at hn) | (injection hn with hn; subst hn))
  all_goals (try dsimp only)
  all_goals repeat' (first | with_reducible assumption | with_reducible apply keeps_updCore | split | (intro _; intros; try dsimp only))

theorem keeps_wdogExpire {r s : State} (hs : Keeps r s) (x2 : Bool) : Keeps r (wdogExpire s x2) := by
  unfold wdogExpire
  try dsimp only
  repeat' (first | with_reducible assumption | with_reducible apply keeps_changeAll | with_reducible apply keeps_updCore | with_reducible apply keeps_bump | with_reducible apply keeps_post | with_reducible apply Keeps.ite | split | (intro _; intros; try dsimp only))

theorem keeps_stallExpire {r s : State} (hs : Keeps r s) : Keeps r (stallExpire s) := by
  unfold stallExpire
  try dsimp only
  repeat' (first | with_reducible assumption | with_reducible apply keeps_wdogExpire | with_reducible apply keeps_draw | with_reducible apply Keeps.ite | split | (intro _; intros; try dsimp only))

theorem keeps_execFifoStallTimeout {r s t : State} (hs : Keeps r s) (x1 : Nat) (hn : execFifoStallTimeout x1 s = .next t) : Keeps r t := by
  unfold execFifoStallTimeout at hn
  repeat' (first | (split at hn) | (injection hn with hn; subst hn))
  all_goals (try dsimp only)
  all_goals repeat' (first | with_reducible assumption | with_reducible apply keeps_stallExpire | split | (intro _; intros; try dsimp only))

theorem keeps_fwLoadAct {r s : State} (hs : Keeps r s) (x2 : Inst) : Keeps r (fwLoadAct s x2) := by
  unfold fwLoadAct
  try dsimp only
  repeat' (first | with_reducible assumption | with_reducible apply keeps_updCore | with_reducible apply keeps_setInst | with_reducible apply keeps_setBankVer | with_reducible apply keeps_refuse | with_reducible apply Keeps.ite | split | (intro _; intros; try dsimp only))

theorem keeps_execFwLoad {r s t : State} (hs : Keeps r s) (hn : execFwLoad s = .next t) : Keeps r t := by
  unfold execFwLoad at hn
  repeat' (first | (split at hn) | (injection hn with hn; subst hn))
  all_goals (try dsimp only)
  all_goals repeat' (first | with_reducible assumption | with_reducible apply keeps_fwLoadAct | with_reducible apply keeps_cmdRow | split | (intro _; intros; try dsimp only))

theorem keeps_fwAuto {r s : State} (hs : Keeps r s) (x2 : Nat) : Keeps r (fwAuto s x2) := by
  unfold fwAuto
  try dsimp only
  repeat' (first | with_reducible assumption | with_reducible apply keeps_changeBegin | with_reducible apply keeps_changeAll | with_reducible apply Keeps.ite | split | (intro _; intros; try dsimp only))

theorem keeps_fwLoadEndAct {r s : State} (hs : Keeps r s) (x2 : Inst) : Keeps r (fwLoadEndAct s x2) := by
  unfold fwLoadEndAct
  try dsimp only
  repeat' (first | with_reducible assumption | with_reducible apply keeps_fwAuto | with_reducible apply keeps_updCore | with_reducible apply keeps_setBankVer | with_reducible apply keeps_finish | with_reducible apply keeps_refuse | with_reducible apply keeps_latch | with_reducible apply Keeps.ite | split | (intro _; intros; try dsimp only))

theorem keeps_execFwLoadEnd {r s t : State} (hs : Keeps r s) (x1 : CmdRef) (hn : execFwLoadEnd x1 s = .next t) : Keeps r t := by
  unfold execFwLoadEnd at hn
  repeat' (first | (split at hn) | (injection hn with hn; subst hn))
  all_goals (try dsimp only)
  all_goals repeat' (first | with_reducible assumption | with_reducible apply keeps_fwLoadEndAct | with_reducible apply keeps_endRow | split | (intro _; intros; try dsimp only))

theorem keeps_fwRestarted {r s : State} (hs : Keeps r s) : Keeps r (fwRestarted s) := by
  unfold fwRestarted
  try dsimp only
  repeat' (first | with_reducible assumption | with_reducible apply keeps_idleTry | with_reducible apply keeps_forEach | with_reducible apply keeps_updCore | with_reducible apply keeps_resumeOps | split | (intro _; intros; try dsimp only))

theorem keeps_execFwRestartEnd {r s t : State} (hs : Keeps r s) (hn : execFwRestartEnd s = .next t) : Keeps r t := by
  unfold execFwRestartEnd at hn
  repeat' (first | (split at hn) | (injection hn with hn; subst hn))
  all_goals (try dsimp only)
  all_goals repeat' (first | with_reducible assumption | with_reducible apply keeps_fwRestarted | split | (intro _; intros; try dsimp only))

theorem keeps_fwRevertAct {r s : State} (hs : Keeps r s) (x2 : Inst) : Keeps r (fwRevertAct s x2) := by
  unfold fwRevertAct
  try dsimp only
  repeat' (first | with_reducible assumption | with_reducible apply keeps_refuse | with_reducible apply keeps_changeFor | with_reducible apply Keeps.ite | split | (intro _; intros; try dsimp only))

theorem keeps_execFwRevert {r s t : State} (hs : Keeps r s) (hn : execFwRevert s = .next t) : Keeps r t := by
  unfold execFwRevert at hn
  repeat' (first | (split at hn) | (injection hn with hn; subst hn))
  all_goals (try dsimp only)
  all_goals repeat' (first | with_reducible assumption | with_reducible apply keeps_fwRevertAct | with_reducible apply keeps_cmdRow | split | (intro _; intros; try dsimp only))

theorem keeps_fwSwitchAct {r s : State} (hs : Keeps r s) (x2 : Inst) : Keeps r (fwSwitchAct s x2) := by
  unfold fwSwitchAct
  try dsimp only
  repeat' (first | with_reducible assumption | with_reducible apply keeps_changeFor | with_reducible apply keeps_refuse | with_reducible apply Keeps.ite | split | (intro _; intros; try dsimp only))

theorem keeps_execFwSwitch {r s t : State} (hs : Keeps r s) (hn : execFwSwitch s = .next t) : Keeps r t := by
  unfold execFwSwitch at hn
  repeat' (first | (split at hn) | (injection hn with hn; subst hn))
  all_goals (try dsimp only)
  all_goals repeat' (first | with_reducible assumption | with_reducible apply keeps_fwSwitchAct | with_reducible apply keeps_cmdRow | split | (intro _; intros; try dsimp only))

theorem keeps_execIntStatusClear {r s t : State} (hs : Keeps r s) (x1 : W64) (hn : execIntStatusClear x1 s = .next t) : Keeps r t := by
  unfold execIntStatusClear at hn
  repeat' (first | (split at hn) | (injection hn with hn; subst hn))
  all_goals (try dsimp only)
  all_goals repeat' (first | with_reducible assumption | with_reducible apply keeps_updCore | split | (intro _; intros; try dsimp only))

theorem keeps_execWatchdogExpiry {r s t : State} (hs : Keeps r s) (x1 : Bool) (hn : execWatchdogExpiry x1 s = .next t) : Keeps r t := by
  unfold execWatchdogExpiry at hn
  repeat' (first | (split at hn) | (injection hn with hn; subst hn))
  all_goals (try dsimp only)
  all_goals repeat' (first | with_reducible assumption | with_reducible apply keeps_wdogExpire | split | (intro _; intros; try dsimp only))

theorem keeps_execWatchdogHalf {r s t : State} (hs : Keeps r s) (hn : execWatchdogHalf s = .next t) : Keeps r t := by
  unfold execWatchdogHalf at hn
  repeat' (first | (split at hn) | (injection hn with hn; subst hn))
  all_goals (try dsimp only)
  all_goals repeat' (first | with_reducible assumption | with_reducible apply keeps_updCore | with_reducible apply keeps_latch | split | (intro _; intros; try dsimp only))

theorem keeps_execWatchdogWrite {r s t : State} (hs : Keeps r s) (x1 : W64) (hn : execWatchdogWrite x1 s = .next t) : Keeps r t := by
  unfold execWatchdogWrite at hn
  repeat' (first | (split at hn) | (injection hn with hn; subst hn))
  all_goals (try dsimp only)
  all_goals repeat' (first | with_reducible assumption | with_reducible apply keeps_updCore | split | (intro _; intros; try dsimp only))

theorem keeps_coreRestart {r s : State} (hs : Keeps r s) : Keeps r (coreRestart s) := by
  unfold coreRestart
  try dsimp only
  repeat' (first | with_reducible assumption | with_reducible apply keeps_updCore | with_reducible apply Keeps.ite | split | (intro _; intros; try dsimp only))

theorem keeps_execErrorScoreHalving {r s t : State} (hs : Keeps r s) (hn : execErrorScoreHalving s = .next t) : Keeps r t := by
  unfold execErrorScoreHalving at hn
  repeat' (first | (split at hn) | (injection hn with hn; subst hn))
  all_goals (try dsimp only)
  all_goals repeat' (first | with_reducible assumption | with_reducible apply keeps_updRel | split | (intro _; intros; try dsimp only))

theorem keeps_katEnd {r s : State} (hs : Keeps r s) (x2 : Nat) (x3 : Bool) : Keeps r (katEnd s x2 x3) := by
  unfold katEnd
  try dsimp only
  repeat' (first | with_reducible assumption | with_reducible apply keeps_mapOutTile | with_reducible apply keeps_updRel | with_reducible apply Keeps.ite | split | (intro _; intros; try dsimp only))

theorem keeps_execKnownAnswerTest {r s t : State} (hs : Keeps r s) (x1 : Nat) (x2 : Bool) (hn : execKnownAnswerTest x1 x2 s = .next t) : Keeps r t := by
  unfold execKnownAnswerTest at hn
  repeat' (first | (split at hn) | (injection hn with hn; subst hn))
  all_goals (try dsimp only)
  all_goals repeat' (first | with_reducible assumption | with_reducible apply keeps_katEnd | split | (intro _; intros; try dsimp only))

theorem keeps_scrubCorr {r s : State} (hs : Keeps r s) (x2 : Nat) (x3 : Nat) : Keeps r (scrubCorr s x2 x3) := by
  unfold scrubCorr
  try dsimp only
  repeat' (first | with_reducible assumption | with_reducible apply keeps_mapOutTile | with_reducible apply keeps_updRel | with_reducible apply keeps_bump | with_reducible apply Keeps.ite | split | (intro _; intros; try dsimp only))

theorem keeps_scrubValue {r s : State} (hs : Keeps r s) (x2 : Nat) : Keeps r (scrubValue s x2) := by
  unfold scrubValue
  try dsimp only
  repeat' (first | with_reducible assumption | with_reducible apply keeps_forgetVals | split | (intro _; intros; try dsimp only))

theorem keeps_scrubBank {r s : State} (hs : Keeps r s) (x2 : Nat) : Keeps r (scrubBank s x2) := by
  unfold scrubBank
  try dsimp only
  repeat' (first | with_reducible assumption | with_reducible apply keeps_changeAll | with_reducible apply keeps_coreRestart | with_reducible apply keeps_updCore | with_reducible apply keeps_setBankVer | with_reducible apply Keeps.ite | split | (intro _; intros; try dsimp only))

theorem keeps_scrubTable {r s : State} (hs : Keeps r s) (x2 : Nat) : Keeps r (scrubTable s x2) := by
  unfold scrubTable
  try dsimp only
  repeat' (first | with_reducible assumption | with_reducible apply keeps_updTraits | with_reducible apply keeps_moveAbort | with_reducible apply keeps_dissolveRick | with_reducible apply Keeps.ite | split | (intro _; intros; try dsimp only))

theorem keeps_scrubExtent {r s : State} (hs : Keeps r s) (x2 : Nat) : Keeps r (scrubExtent s x2) := by
  unfold scrubExtent
  try dsimp only
  repeat' (first | with_reducible assumption | with_reducible apply keeps_fetchItem | with_reducible apply keeps_setItem | with_reducible apply keeps_forEach | with_reducible apply keeps_updatesResume | with_reducible apply keeps_updTraits | with_reducible apply keeps_moveAbort | with_reducible apply keeps_dissolveRick | with_reducible apply keeps_delXt | with_reducible apply keeps_usersLost | with_reducible apply Keeps.ite | split | (intro _; intros; try dsimp only) | with_reducible refine Keeps.upd ?_ (by rfl))

theorem keeps_scrubPage {r s : State} (hs : Keeps r s) (x2 : Nat) : Keeps r (scrubPage s x2) := by
  unfold scrubPage
  try dsimp only
  repeat' (first | with_reducible assumption | with_reducible apply keeps_updPart | with_reducible apply keeps_ctxTimers | with_reducible apply keeps_ctxIdle | with_reducible apply keeps_freeFrame | with_reducible apply keeps_updCtx | with_reducible apply Keeps.ite | split | (intro _; intros; try dsimp only) | with_reducible refine Keeps.upd ?_ (by rfl))

theorem keeps_scrubReg {r s : State} (hs : Keeps r s) (x2 : Nat) (x3 : Nat) : Keeps r (scrubReg s x2 x3) := by
  unfold scrubReg
  try dsimp only
  repeat' (first | with_reducible assumption | with_reducible apply keeps_setEng | split | (intro _; intros; try dsimp only))

theorem keeps_scrubInter {r s : State} (hs : Keeps r s) (x2 : Nat) : Keeps r (scrubInter s x2) := by
  unfold scrubInter
  try dsimp only
  repeat' (first | with_reducible assumption | with_reducible apply keeps_faultRows | with_reducible apply keeps_forEach | with_reducible apply Keeps.ite | split | (intro _; intros; try dsimp only))

theorem keeps_fetchLine {r s : State} (hs : Keeps r s) (x2 : Nat) (x3 : Part) (x4 : LsUnit) (x5 : Nat) (x6 : ItemKind) (x7 : Nat) : Keeps r (fetchLine s x2 x3 x4 x5 x6 x7) := by
  unfold fetchLine
  try dsimp only
  repeat' (first | with_reducible assumption | with_reducible apply keeps_itemServed | with_reducible apply keeps_itemEnd | with_reducible apply keeps_serveRead | with_reducible apply keeps_addReq | with_reducible apply keeps_setItem | with_reducible apply Keeps.ite | split | (intro _; intros; try dsimp only))

theorem keeps_scrubShare {r s : State} (hs : Keeps r s) (x2 : Nat) (x3 : Nat) (x4 : Nat) : Keeps r (scrubShare s x2 x3 x4) := by
  unfold scrubShare
  try dsimp only
  repeat' (first | with_reducible assumption | with_reducible apply keeps_fetchLine | with_reducible apply keeps_faultRows | with_reducible apply keeps_forEach | with_reducible apply keeps_setUnits | with_reducible apply Keeps.ite | split | (intro _; intros; try dsimp only))

theorem keeps_scrubUncorr {r s : State} (hs : Keeps r s) (x2 : Nat) (x3 : Nat) : Keeps r (scrubUncorr s x2 x3) := by
  unfold scrubUncorr
  try dsimp only
  repeat' (first | with_reducible assumption | with_reducible apply keeps_tileFault | with_reducible apply keeps_mapOutTile | with_reducible apply keeps_scrubValue | with_reducible apply keeps_scrubBank | with_reducible apply keeps_coreRestart | with_reducible apply keeps_scrubTable | with_reducible apply keeps_scrubExtent | with_reducible apply keeps_scrubPage | with_reducible apply keeps_updRel | with_reducible apply keeps_scrubReg | with_reducible apply keeps_scrubInter | with_reducible apply keeps_scrubShare | with_reducible apply keeps_eccUncorr | split | (intro _; intros; try dsimp only))

theorem keeps_scrubFind {r s : State} (hs : Keeps r s) (x2 : Nat × Nat × Bool) : Keeps r (scrubFind s x2) := by
  unfold scrubFind
  try dsimp only
  repeat' (first | with_reducible assumption | with_reducible apply keeps_scrubCorr | with_reducible apply keeps_scrubUncorr | with_reducible apply Keeps.ite | split | (intro _; intros; try dsimp only))

theorem keeps_scrubPeriod {r s : State} (hs : Keeps r s) (x2 : List (Nat × Nat × Bool)) : Keeps r (scrubPeriod s x2) := by
  unfold scrubPeriod
  try dsimp only
  repeat' (first | with_reducible assumption | with_reducible apply keeps_scrubFind | with_reducible apply keeps_forEach | with_reducible apply keeps_updRel | with_reducible apply keeps_bump | split | (intro _; intros; try dsimp only))

theorem keeps_execScrubPeriod {r s t : State} (hs : Keeps r s) (x1 : List (Nat × Nat × Bool)) (hn : execScrubPeriod x1 s = .next t) : Keeps r t := by
  unfold execScrubPeriod at hn
  repeat' (first | (split at hn) | (injection hn with hn; subst hn))
  all_goals (try dsimp only)
  all_goals repeat' (first | with_reducible assumption | with_reducible apply keeps_scrubPeriod | split | (intro _; intros; try dsimp only))

theorem keeps_execSpareSubstitution {r s t : State} (hs : Keeps r s) (x1 : Nat) (hn : execSpareSubstitution x1 s = .next t) : Keeps r t := by
  unfold execSpareSubstitution at hn
  repeat' (first | (split at hn) | (injection hn with hn; subst hn))
  all_goals (try dsimp only)
  all_goals repeat' (first | with_reducible assumption | with_reducible apply keeps_substitute | split | (intro _; intros; try dsimp only))

theorem keeps_tileMapoutAct {r s : State} (hs : Keeps r s) (x2 : Inst) : Keeps r (tileMapoutAct s x2) := by
  unfold tileMapoutAct
  try dsimp only
  repeat' (first | with_reducible assumption | with_reducible apply keeps_finish | with_reducible apply keeps_mapOut | with_reducible apply keeps_refuse | with_reducible apply Keeps.ite | split | (intro _; intros; try dsimp only))

theorem keeps_execTileMapout {r s t : State} (hs : Keeps r s) (hn : execTileMapout s = .next t) : Keeps r t := by
  unfold execTileMapout at hn
  repeat' (first | (split at hn) | (injection hn with hn; subst hn))
  all_goals (try dsimp only)
  all_goals repeat' (first | with_reducible assumption | with_reducible apply keeps_tileMapoutAct | with_reducible apply keeps_cmdRow | split | (intro _; intros; try dsimp only))

theorem keeps_otpCut {r s : State} (hs : Keeps r s) : Keeps r (otpCut s) := by
  unfold otpCut
  try dsimp only
  repeat' (first | with_reducible assumption | with_reducible apply keeps_wo1Program | with_reducible apply keeps_forEach | split | (intro _; intros; try dsimp only))

theorem keeps_afterReset {r s : State} (hs : Keeps r s) : Keeps r (afterReset s) :=
  (keeps_otpCut hs).trans ⟨rfl, rfl, rfl, id, fun _ => rfl, id, fun _ => Rises.refl _, fun _ => rfl, fun _ => rfl⟩

theorem keeps_channelsOff {r s : State} (hs : Keeps r s) : Keeps r (channelsOff s) := by
  unfold channelsOff
  try dsimp only
  repeat' (first | with_reducible assumption | with_reducible apply keeps_updFl | split | (intro _; intros; try dsimp only))

theorem keeps_setStage {r s : State} (hs : Keeps r s) (x2 : Nat) : Keeps r (setStage s x2) := by
  unfold setStage
  try dsimp only
  repeat' (first | with_reducible assumption | split | (intro _; intros; try dsimp only) | with_reducible refine Keeps.upd ?_ (by rfl))

theorem keeps_ovrTake {r : State} {x : State × Nat} (hs : Keeps r x.1) (e : Nat × Nat) : Keeps r (ovrTake x e).1 := by
  unfold ovrTake
  dsimp only
  split
  · exact hs
  · exact hs.upd rfl

theorem keeps_ovrMark {r s : State} (hs : Keeps r s) (x2 : Nat) (x3 : Bool) : Keeps r (ovrMark s x2 x3) := by
  unfold ovrMark
  try dsimp only
  repeat' (first | with_reducible assumption | split | (intro _; intros; try dsimp only) | with_reducible refine Keeps.upd ?_ (by rfl))

theorem keeps_setSettle {r : State} {x : State × Nat} (hs : Keeps r x.1) (ms : List (Nat × Nat)) : Keeps r (setSettle x ms).1 := by
  unfold setSettle
  dsimp only
  split
  · exact hs
  · refine Keeps.fold1 _ _ (fun y k h => ?_) ?_
    · split
      · exact keeps_ovrMark h _ _
      · exact h
    · exact hs.fold _ _ (fun _ _ h => keeps_ovrMark h _ _)

theorem keeps_otpSelect {r s : State} (hs : Keeps r s) : Keeps r (otpSelect s) := by
  unfold otpSelect
  split
  · exact hs
  · extract_lets src1 src2 s1 x src3 src4
    have h1 : Keeps r s1 := hs.upd rfl
    clear_value s1 src1 src2
    have hx : Keeps r x.1 := by
      refine Keeps.fold1 _ _ (fun _ _ h => keeps_setSettle h _) ?_
      exact Keeps.fold1 _ _ (fun _ _ h => keeps_ovrTake h _) h1
    clear_value x
    exact Keeps.upd hx rfl

theorem keeps_enterSelect {r s : State} (hs : Keeps r s) : Keeps r (enterSelect s) := by
  unfold enterSelect
  try dsimp only
  repeat' (first | with_reducible assumption | with_reducible apply keeps_setStage | with_reducible apply keeps_otpSelect | split | (intro _; intros; try dsimp only) | with_reducible refine Keeps.upd ?_ (by rfl))

theorem keeps_enumTiles {r s : State} (hs : Keeps r s) (x2 : List Nat) : Keeps r (enumTiles s x2) := by
  unfold enumTiles
  try dsimp only
  repeat' (first | with_reducible assumption | with_reducible apply keeps_updRel | split | (intro _; intros; try dsimp only) | with_reducible refine Keeps.upd ?_ (by rfl))

theorem keeps_lunFree {r s : State} (hs : Keeps r s) (x2 : Nat) : Keeps r (lunFree s x2) := by
  unfold lunFree
  try dsimp only
  repeat' (first | with_reducible assumption | with_reducible apply keeps_blkErased | with_reducible apply keeps_forEach | split | (intro _; intros; try dsimp only))

theorem keeps_retentionSample {r s : State} (hs : Keeps r s) (x2 : List (Nat × Nat)) : Keeps r (retentionSample s x2) := by
  unfold retentionSample
  try dsimp only
  repeat' (first | with_reducible assumption | with_reducible apply keeps_relocate | with_reducible apply keeps_blkRead | with_reducible apply keeps_forEach | with_reducible apply Keeps.ite | split | (intro _; intros; try dsimp only))

theorem keeps_openDiscard {r s : State} (hs : Keeps r s) : Keeps r (openDiscard s) := by
  unfold openDiscard
  try dsimp only
  repeat' (first | with_reducible assumption | with_reducible apply keeps_updFl | split | (intro _; intros; try dsimp only))

theorem keeps_mountInstall {r s : State} (hs : Keeps r s) (x2 : List (Nat × Nat)) : Keeps r (mountInstall s x2) := by
  unfold mountInstall
  try dsimp only
  repeat' (first | with_reducible assumption | with_reducible apply keeps_lunFree | with_reducible apply keeps_retentionSample | with_reducible apply keeps_forEach | with_reducible apply keeps_capCheck | with_reducible apply keeps_openDiscard | with_reducible apply keeps_updFl | with_reducible apply keeps_regionInstall | split | (intro _; intros; try dsimp only))

theorem keeps_flashMount {r s : State} (hs : Keeps r s) (x2 : Bool) (x3 : List (Nat × Nat)) : Keeps r (flashMount s x2 x3) := by
  unfold flashMount
  try dsimp only
  repeat' (first | with_reducible assumption | with_reducible apply keeps_mountInstall | with_reducible apply keeps_post | with_reducible apply keeps_updFl | with_reducible apply Keeps.ite | split | (intro _; intros; try dsimp only))

theorem keeps_flashEnum {r s : State} (hs : Keeps r s) (x2 : List (Nat × Nat × List Nat)) : Keeps r (flashEnum s x2) := by
  unfold flashEnum
  try dsimp only
  repeat' (first | with_reducible assumption | with_reducible apply keeps_updFl | with_reducible apply keeps_onfi | with_reducible apply keeps_post | with_reducible apply keeps_bump | with_reducible apply keeps_forEach | split | (intro _; intros; try dsimp only))

theorem keeps_stopStage {r s : State} (hs : Keeps r s) : Keeps r (stopStage s) := by
  unfold stopStage
  try dsimp only
  repeat' (first | with_reducible assumption | split | (intro _; intros; try dsimp only) | with_reducible refine Keeps.upd ?_ (by rfl))

theorem keeps_stageEnd {r s : State} (hs : Keeps r s) (x2 : List Nat) (x3 : List (Nat × Nat × List Nat)) : Keeps r (stageEnd s x2 x3) := by
  unfold stageEnd
  try dsimp only
  repeat' (first | with_reducible assumption | with_reducible apply keeps_updCore | with_reducible apply keeps_flashMount | with_reducible apply keeps_flashEnum | with_reducible apply keeps_evDrain | with_reducible apply keeps_enumTiles | with_reducible apply keeps_setStage | with_reducible apply keeps_stopStage | with_reducible apply keeps_resumeOps | with_reducible apply keeps_enterSelect | with_reducible apply Keeps.ite | split | (intro _; intros; try dsimp only) | with_reducible refine Keeps.upd ?_ (by rfl))

theorem keeps_execBringupStageEnd {r s t : State} (hs : Keeps r s) (x1 : List Nat) (x2 : List (Nat × Nat × List Nat)) (hn : execBringupStageEnd x1 x2 s = .next t) : Keeps r t := by
  unfold execBringupStageEnd at hn
  repeat' (first | (split at hn) | (injection hn with hn; subst hn))
  all_goals (try dsimp only)
  all_goals repeat' (first | with_reducible assumption | with_reducible apply keeps_stageEnd | split | (intro _; intros; try dsimp only))

theorem keeps_execFlashMountEnd {r s t : State} (hs : Keeps r s) (x1 : Bool) (x2 : List (Nat × Nat × List Nat)) (x3 : List (Nat × Nat)) (hn : execFlashMountEnd x1 x2 x3 s = .next t) : Keeps r t := by
  unfold execFlashMountEnd at hn
  repeat' (first | (split at hn) | (injection hn with hn; subst hn))
  all_goals (try dsimp only)
  all_goals repeat' (first | with_reducible assumption | with_reducible apply keeps_channelsOff | with_reducible apply keeps_flashEnum | with_reducible apply keeps_flashMount | split | (intro _; intros; try dsimp only) | with_reducible refine Keeps.upd ?_ (by rfl))

theorem keeps_execHardReset {r s t : State} (hs : Keeps r s) (hn : execHardReset s = .next t) : Keeps r t := by
  unfold execHardReset at hn
  repeat' (first | (split at hn) | (injection hn with hn; subst hn))
  all_goals (try dsimp only)
  all_goals repeat' (first | with_reducible assumption | with_reducible apply keeps_afterReset | split | (intro _; intros; try dsimp only) | with_reducible refine Keeps.upd ?_ (by rfl))

theorem keeps_mapRebuild {r s : State} (hs : Keeps r s) : Keeps r (mapRebuild s) := by
  unfold mapRebuild
  dsimp only
  refine keeps_updFl (hs.updMem rfl ?_) _
  have : ∀ (l : List Copy) (m : Tab Byte), memWf m = true →
      memWf (l.foldl (fun m c => storeBytes m (memKey 2 (65536 * c.mu)) c.bytes) m) = true := by
    intro l
    induction l with
    | nil => exact fun _ h => h
    | cons e l ih => exact fun _ h => ih _ (memWf_storeBytes _ _ h)
  exact this _ _

theorem keeps_execMapRebuildEnd {r s t : State} (hs : Keeps r s) (hn : execMapRebuildEnd s = .next t) : Keeps r t := by
  unfold execMapRebuildEnd at hn
  repeat' (first | (split at hn) | (injection hn with hn; subst hn))
  all_goals (try dsimp only)
  all_goals repeat' (first | with_reducible assumption | with_reducible apply keeps_mapRebuild | with_reducible apply keeps_mountInstall | split | (intro _; intros; try dsimp only))

theorem keeps_otpSealAct {r s : State} (hs : Keeps r s) (x2 : Inst) : Keeps r (otpSealAct s x2) := by
  unfold otpSealAct
  try dsimp only
  repeat' (first | with_reducible assumption | with_reducible apply keeps_finish | with_reducible apply keeps_otpProgram | with_reducible apply keeps_refuse | with_reducible apply Keeps.ite | split | (intro _; intros; try dsimp only))

theorem keeps_otpRow {r s : State} (hs : Keeps r s) (x2 : Nat) (x3 : State → Inst → State) (hx3 : ∀ (y0 : State) (y1 : Inst), Keeps r y0 → Keeps r (x3 y0 y1)) : Keeps r (otpRow s x2 x3) := by
  unfold otpRow
  try dsimp only
  repeat' (first | with_reducible assumption | with_reducible apply keeps_cmdRowIf | apply hx3 | with_reducible apply Keeps.ite | split | (intro _; intros; try dsimp only))

theorem keeps_execOtpSeal {r s t : State} (hs : Keeps r s) (hn : execOtpSeal s = .next t) : Keeps r t := by
  unfold execOtpSeal at hn
  repeat' (first | (split at hn) | (injection hn with hn; subst hn))
  all_goals (try dsimp only)
  all_goals repeat' (first | with_reducible assumption | with_reducible apply keeps_otpSealAct | with_reducible apply keeps_otpRow | split | (intro _; intros; try dsimp only))

theorem keeps_otpVoidAct {r s : State} (hs : Keeps r s) (x2 : Inst) : Keeps r (otpVoidAct s x2) := by
  unfold otpVoidAct
  try dsimp only
  repeat' (first | with_reducible assumption | with_reducible apply keeps_otpProgram | with_reducible apply keeps_finish | with_reducible apply keeps_refuse | with_reducible apply Keeps.ite | split | (intro _; intros; try dsimp only))

theorem keeps_execOtpVoid {r s t : State} (hs : Keeps r s) (hn : execOtpVoid s = .next t) : Keeps r t := by
  unfold execOtpVoid at hn
  repeat' (first | (split at hn) | (injection hn with hn; subst hn))
  all_goals (try dsimp only)
  all_goals repeat' (first | with_reducible assumption | with_reducible apply keeps_otpVoidAct | with_reducible apply keeps_otpRow | split | (intro _; intros; try dsimp only))

theorem keeps_execPllLock {r s t : State} (hs : Keeps r s) (x1 : Nat) (hn : execPllLock x1 s = .next t) : Keeps r t := by
  unfold execPllLock at hn
  repeat' (first | (split at hn) | (injection hn with hn; subst hn))
  all_goals (try dsimp only)
  all_goals repeat' (first | with_reducible assumption | split | (intro _; intros; try dsimp only) | with_reducible refine Keeps.upd ?_ (by rfl))

theorem keeps_execResetRelease {r s t : State} (hs : Keeps r s) (hn : execResetRelease s = .next t) : Keeps r t := by
  unfold execResetRelease at hn
  repeat' (first | (split at hn) | (injection hn with hn; subst hn))
  all_goals (try dsimp only)
  all_goals repeat' (first | with_reducible assumption | split | (intro _; intros; try dsimp only) | with_reducible refine Keeps.upd ?_ (by rfl))

theorem keeps_reloadLeave {r s : State} (hs : Keeps r s) (x2 : Nat) : Keeps r (reloadLeave s x2) := by
  unfold reloadLeave
  try dsimp only
  repeat' (first | with_reducible assumption | with_reducible apply keeps_preemptBegin | with_reducible apply keeps_updPart | with_reducible apply Keeps.ite | split | (intro _; intros; try dsimp only))

theorem keeps_resetSoftAct {r s : State} (hs : Keeps r s) (x2 : Inst) : Keeps r (resetSoftAct s x2) := by
  unfold resetSoftAct
  try dsimp only
  repeat' (first | with_reducible assumption | with_reducible apply keeps_reloadLeave | with_reducible apply keeps_forEach | with_reducible apply keeps_setInst | with_reducible apply keeps_replayAbort | with_reducible apply keeps_refuse | with_reducible apply Keeps.ite | split | (intro _; intros; try dsimp only) | with_reducible refine Keeps.upd ?_ (by rfl))

theorem keeps_execResetSoft {r s t : State} (hs : Keeps r s) (hn : execResetSoft s = .next t) : Keeps r t := by
  unfold execResetSoft at hn
  repeat' (first | (split at hn) | (injection hn with hn; subst hn))
  all_goals (try dsimp only)
  all_goals repeat' (first | with_reducible assumption | with_reducible apply keeps_resetSoftAct | with_reducible apply keeps_cmdRow | split | (intro _; intros; try dsimp only))

theorem keeps_reloadView {r s : State} (hs : Keeps r s) : Keeps r (reloadView s) := by
  unfold reloadView
  try dsimp only
  repeat' (first | with_reducible assumption | with_reducible apply keeps_otpSelect | with_reducible apply keeps_resetWritesDue | split | (intro _; intros; try dsimp only))

theorem keeps_reloadWork {r s : State} (hs : Keeps r s) (x2 : Reload) : Keeps r (reloadWork s x2) := by
  unfold reloadWork
  try dsimp only
  repeat' (first | with_reducible assumption | with_reducible apply keeps_updFl | with_reducible apply keeps_reloadSettle | with_reducible apply keeps_updCore | with_reducible apply keeps_resetWritesDue | with_reducible apply keeps_mapOutTile | with_reducible apply keeps_forEach | with_reducible apply keeps_otpSelect | with_reducible apply Keeps.ite | split | (intro _; intros; try dsimp only) | with_reducible refine Keeps.upd ?_ (by rfl))

theorem keeps_execSoftReloadWork {r s t : State} (hs : Keeps r s) (hn : execSoftReloadWork s = .next t) : Keeps r t := by
  unfold execSoftReloadWork at hn
  repeat' (first | (split at hn) | (injection hn with hn; subst hn))
  all_goals (try dsimp only)
  all_goals repeat' (first | with_reducible assumption | with_reducible apply keeps_reloadWork | split | (intro _; intros; try dsimp only))

theorem keeps_todSample {r s : State} (hs : Keeps r s) (x2 : Nat) (x3 : Nat) (x4 : Bool) : Keeps r (todSample s x2 x3 x4) := by
  unfold todSample
  try dsimp only
  repeat' (first | with_reducible assumption | with_reducible apply keeps_latch | with_reducible apply Keeps.ite | split | (intro _; intros; try dsimp only) | with_reducible refine Keeps.upd ?_ (by rfl))

theorem keeps_execTodSample {r s t : State} (hs : Keeps r s) (x1 : Nat) (x2 : Nat) (x3 : Bool) (hn : execTodSample x1 x2 x3 s = .next t) : Keeps r t := by
  unfold execTodSample at hn
  repeat' (first | (split at hn) | (injection hn with hn; subst hn))
  all_goals (try dsimp only)
  all_goals repeat' (first | with_reducible assumption | with_reducible apply keeps_todSample | split | (intro _; intros; try dsimp only))

theorem keeps_replayOutput {r s : State} (hs : Keeps r s) (x2 : Replay) : Keeps r (replayOutput s x2).1 := by
  unfold replayOutput
  extract_lets o region room step fits ok shown bad code first all
  clear_value all region code first bad shown ok fits step room o
  dsimp only
  exact Keeps.fold1 _ _ (fun _ _ h => keeps_writeT1 h _ _ _) hs

theorem keeps_tapSet {r s : State} (hs : Keeps r s) (x2 : Nat) (x3 : W64) : Keeps r (tapSet s x2 x3) := by
  unfold tapSet
  try dsimp only
  repeat' (first | with_reducible assumption | split | (intro _; intros; try dsimp only) | with_reducible refine Keeps.upd ?_ (by rfl))

theorem keeps_execBypass {r s t : State} (hs : Keeps r s) (hn : execBypass s = .next t) : Keeps r t := by
  unfold execBypass at hn
  repeat' (first | (split at hn) | (injection hn with hn; subst hn))
  all_goals (try dsimp only)
  all_goals repeat' (first | with_reducible assumption | with_reducible apply keeps_tapSet | split | (intro _; intros; try dsimp only))

theorem keeps_execIdcode {r s t : State} (hs : Keeps r s) (hn : execIdcode s = .next t) : Keeps r t := by
  unfold execIdcode at hn
  repeat' (first | (split at hn) | (injection hn with hn; subst hn))
  all_goals (try dsimp only)
  all_goals repeat' (first | with_reducible assumption | with_reducible apply keeps_tapSet | split | (intro _; intros; try dsimp only))

theorem keeps_tapDraw {r s : State} (hs : Keeps r s) (x2 : Nat) : Keeps r (tapDraw s x2) := by
  unfold tapDraw
  try dsimp only
  repeat' (first | with_reducible assumption | with_reducible apply keeps_tapSet | with_reducible apply keeps_draw | split | (intro _; intros; try dsimp only))

theorem keeps_ijtag {r s : State} (hs : Keeps r s) (x2 : Nat) (x3 : Option (Nat × Bool)) (x4 : Option W64) : Keeps r (ijtag s x2 x3 x4) := by
  unfold ijtag
  try dsimp only
  repeat' (first | with_reducible assumption | with_reducible apply keeps_setVal | with_reducible apply keeps_tapDraw | with_reducible apply Keeps.ite | split | (intro _; intros; try dsimp only) | with_reducible refine Keeps.upd ?_ (by rfl))

theorem keeps_execIjtag {r s t : State} (hs : Keeps r s) (x1 : Nat) (x2 : Option (Nat × Bool)) (x3 : Option W64) (hn : execIjtag x1 x2 x3 s = .next t) : Keeps r t := by
  unfold execIjtag at hn
  repeat' (first | (split at hn) | (injection hn with hn; subst hn))
  all_goals (try dsimp only)
  all_goals repeat' (first | with_reducible assumption | with_reducible apply keeps_ijtag | split | (intro _; intros; try dsimp only))

theorem keeps_replayEnd {r s : State} (hs : Keeps r s) : Keeps r (replayEnd s) := by
  unfold replayEnd
  try dsimp only
  repeat' (first | with_reducible assumption | with_reducible apply keeps_finish | with_reducible apply keeps_replayOutput | split | (intro _; intros; try dsimp only) | with_reducible refine Keeps.upd ?_ (by rfl))

theorem keeps_execReplayEnd {r s t : State} (hs : Keeps r s) (hn : execReplayEnd s = .next t) : Keeps r t := by
  unfold execReplayEnd at hn
  repeat' (first | (split at hn) | (injection hn with hn; subst hn))
  all_goals (try dsimp only)
  all_goals repeat' (first | with_reducible assumption | with_reducible apply keeps_replayEnd | split | (intro _; intros; try dsimp only))

theorem keeps_replayRunAct {r s : State} (hs : Keeps r s) (x2 : Inst) : Keeps r (replayRunAct s x2) := by
  unfold replayRunAct
  try dsimp only
  repeat' (first | with_reducible assumption | with_reducible apply keeps_setInst | with_reducible apply keeps_refuse | with_reducible apply Keeps.ite | split | (intro _; intros; try dsimp only) | with_reducible refine Keeps.upd ?_ (by rfl))

theorem keeps_execReplayRun {r s t : State} (hs : Keeps r s) (hn : execReplayRun s = .next t) : Keeps r t := by
  unfold execReplayRun at hn
  repeat' (first | (split at hn) | (injection hn with hn; subst hn))
  all_goals (try dsimp only)
  all_goals repeat' (first | with_reducible assumption | with_reducible apply keeps_replayRunAct | with_reducible apply keeps_cmdRow | split | (intro _; intros; try dsimp only))

theorem keeps_execScan {r s t : State} (hs : Keeps r s) (hn : execScan s = .next t) : Keeps r t := by
  unfold execScan at hn
  repeat' (first | (split at hn) | (injection hn with hn; subst hn))
  all_goals (try dsimp only)
  all_goals repeat' (first | with_reducible assumption | with_reducible apply keeps_tapSet | with_reducible apply keeps_tapDraw | split | (intro _; intros; try dsimp only))

theorem keeps_testFall {r s : State} (hs : Keeps r s) : Keeps r (testFall s) := by
  unfold testFall
  try dsimp only
  repeat' (first | with_reducible assumption | with_reducible apply Keeps.ite | split | (intro _; intros; try dsimp only) | with_reducible refine Keeps.upd ?_ (by rfl))

theorem keeps_execTestModeFall {r s t : State} (hs : Keeps r s) (hn : execTestModeFall s = .next t) : Keeps r t := by
  unfold execTestModeFall at hn
  repeat' (first | (split at hn) | (injection hn with hn; subst hn))
  all_goals (try dsimp only)
  all_goals repeat' (first | with_reducible assumption | with_reducible apply keeps_testFall | split | (intro _; intros; try dsimp only))

theorem keeps_testRise {r s : State} (hs : Keeps r s) : Keeps r (testRise s) := by
  unfold testRise
  try dsimp only
  repeat' (first | with_reducible assumption | with_reducible apply keeps_afterReset | with_reducible apply Keeps.ite | split | (intro _; intros; try dsimp only) | with_reducible refine Keeps.upd ?_ (by rfl))

theorem keeps_execTestModeRise {r s t : State} (hs : Keeps r s) (hn : execTestModeRise s = .next t) : Keeps r t := by
  unfold execTestModeRise at hn
  repeat' (first | (split at hn) | (injection hn with hn; subst hn))
  all_goals (try dsimp only)
  all_goals repeat' (first | with_reducible assumption | with_reducible apply keeps_testRise | split | (intro _; intros; try dsimp only))

theorem keeps_execAbs {r s t : State} (hs : Keeps r s) (x1 : Nat) (x2 : W64) (hn : execAbs x1 x2 s = .next t) : Keeps r t := by
  unfold execAbs at hn
  repeat' (first | (split at hn) | (injection hn with hn; subst hn))
  all_goals (try dsimp only)
  all_goals repeat' (first | with_reducible assumption | with_reducible apply keeps_eltwise | split | (intro _; intros; try dsimp only))

theorem keeps_execAdd {r s t : State} (hs : Keeps r s) (x1 : Nat) (x2 : W64) (hn : execAdd x1 x2 s = .next t) : Keeps r t := by
  unfold execAdd at hn
  repeat' (first | (split at hn) | (injection hn with hn; subst hn))
  all_goals (try dsimp only)
  all_goals repeat' (first | with_reducible assumption | with_reducible apply keeps_eltwise | split | (intro _; intros; try dsimp only))

theorem keeps_execAnd {r s t : State} (hs : Keeps r s) (x1 : Nat) (x2 : W64) (hn : execAnd x1 x2 s = .next t) : Keeps r t := by
  unfold execAnd at hn
  repeat' (first | (split at hn) | (injection hn with hn; subst hn))
  all_goals (try dsimp only)
  all_goals repeat' (first | with_reducible assumption | with_reducible apply keeps_eltwise | split | (intro _; intros; try dsimp only))

theorem keeps_execCmpeq {r s t : State} (hs : Keeps r s) (x1 : Nat) (x2 : W64) (hn : execCmpeq x1 x2 s = .next t) : Keeps r t := by
  unfold execCmpeq at hn
  repeat' (first | (split at hn) | (injection hn with hn; subst hn))
  all_goals (try dsimp only)
  all_goals repeat' (first | with_reducible assumption | with_reducible apply keeps_eltwise | split | (intro _; intros; try dsimp only))

theorem keeps_execCmple {r s t : State} (hs : Keeps r s) (x1 : Nat) (x2 : W64) (hn : execCmple x1 x2 s = .next t) : Keeps r t := by
  unfold execCmple at hn
  repeat' (first | (split at hn) | (injection hn with hn; subst hn))
  all_goals (try dsimp only)
  all_goals repeat' (first | with_reducible assumption | with_reducible apply keeps_eltwise | split | (intro _; intros; try dsimp only))

theorem keeps_execCmplt {r s t : State} (hs : Keeps r s) (x1 : Nat) (x2 : W64) (hn : execCmplt x1 x2 s = .next t) : Keeps r t := by
  unfold execCmplt at hn
  repeat' (first | (split at hn) | (injection hn with hn; subst hn))
  all_goals (try dsimp only)
  all_goals repeat' (first | with_reducible assumption | with_reducible apply keeps_eltwise | split | (intro _; intros; try dsimp only))

theorem keeps_execCvt {r s t : State} (hs : Keeps r s) (x1 : Nat) (x2 : W64) (hn : execCvt x1 x2 s = .next t) : Keeps r t := by
  unfold execCvt at hn
  repeat' (first | (split at hn) | (injection hn with hn; subst hn))
  all_goals (try dsimp only)
  all_goals repeat' (first | with_reducible assumption | with_reducible apply keeps_convert | split | (intro _; intros; try dsimp only))

theorem keeps_execDiv {r s t : State} (hs : Keeps r s) (x1 : Nat) (x2 : W64) (hn : execDiv x1 x2 s = .next t) : Keeps r t := by
  unfold execDiv at hn
  repeat' (first | (split at hn) | (injection hn with hn; subst hn))
  all_goals (try dsimp only)
  all_goals repeat' (first | with_reducible assumption | with_reducible apply keeps_eltwise | split | (intro _; intros; try dsimp only))

theorem keeps_execEndSeg {r s t : State} (hs : Keeps r s) (x1 : Nat) (x2 : W64) (hn : execEndSeg x1 x2 s = .next t) : Keeps r t := by
  unfold execEndSeg at hn
  repeat' (first | (split at hn) | (injection hn with hn; subst hn))
  all_goals (try dsimp only)
  all_goals repeat' (first | with_reducible assumption | with_reducible apply keeps_endSegment | with_reducible apply keeps_issueWord | split | (intro _; intros; try dsimp only))

theorem keeps_execFence {r s t : State} (hs : Keeps r s) (x1 : Nat) (x2 : W64) (hn : execFence x1 x2 s = .next t) : Keeps r t := by
  unfold execFence at hn
  repeat' (first | (split at hn) | (injection hn with hn; subst hn))
  all_goals (try dsimp only)
  all_goals repeat' (first | with_reducible assumption | with_reducible apply keeps_setEng | with_reducible apply keeps_issueWord | with_reducible apply Keeps.ite | split | (intro _; intros; try dsimp only))

theorem keeps_execFifoPop {r s t : State} (hs : Keeps r s) (x1 : Nat) (x2 : Nat) (hn : execFifoPop x1 x2 s = .next t) : Keeps r t := by
  unfold execFifoPop at hn
  repeat' (first | (split at hn) | (injection hn with hn; subst hn))
  all_goals (try dsimp only)
  all_goals repeat' (first | with_reducible assumption | with_reducible apply keeps_setEng | split | (intro _; intros; try dsimp only) | with_reducible refine Keeps.upd ?_ (by rfl))

theorem keeps_execIadd {r s t : State} (hs : Keeps r s) (x1 : Nat) (x2 : W64) (hn : execIadd x1 x2 s = .next t) : Keeps r t := by
  unfold execIadd at hn
  repeat' (first | (split at hn) | (injection hn with hn; subst hn))
  all_goals (try dsimp only)
  all_goals repeat' (first | with_reducible assumption | with_reducible apply keeps_eltwise | split | (intro _; intros; try dsimp only))

theorem keeps_execImax {r s t : State} (hs : Keeps r s) (x1 : Nat) (x2 : W64) (hn : execImax x1 x2 s = .next t) : Keeps r t := by
  unfold execImax at hn
  repeat' (first | (split at hn) | (injection hn with hn; subst hn))
  all_goals (try dsimp only)
  all_goals repeat' (first | with_reducible assumption | with_reducible apply keeps_eltwise | split | (intro _; intros; try dsimp only))

theorem keeps_execImin {r s t : State} (hs : Keeps r s) (x1 : Nat) (x2 : W64) (hn : execImin x1 x2 s = .next t) : Keeps r t := by
  unfold execImin at hn
  repeat' (first | (split at hn) | (injection hn with hn; subst hn))
  all_goals (try dsimp only)
  all_goals repeat' (first | with_reducible assumption | with_reducible apply keeps_eltwise | split | (intro _; intros; try dsimp only))

theorem keeps_execImul {r s t : State} (hs : Keeps r s) (x1 : Nat) (x2 : W64) (hn : execImul x1 x2 s = .next t) : Keeps r t := by
  unfold execImul at hn
  repeat' (first | (split at hn) | (injection hn with hn; subst hn))
  all_goals (try dsimp only)
  all_goals repeat' (first | with_reducible assumption | with_reducible apply keeps_eltwise | split | (intro _; intros; try dsimp only))

theorem keeps_execIsub {r s t : State} (hs : Keeps r s) (x1 : Nat) (x2 : W64) (hn : execIsub x1 x2 s = .next t) : Keeps r t := by
  unfold execIsub at hn
  repeat' (first | (split at hn) | (injection hn with hn; subst hn))
  all_goals (try dsimp only)
  all_goals repeat' (first | with_reducible assumption | with_reducible apply keeps_eltwise | split | (intro _; intros; try dsimp only))

theorem keeps_execMax {r s t : State} (hs : Keeps r s) (x1 : Nat) (x2 : W64) (hn : execMax x1 x2 s = .next t) : Keeps r t := by
  unfold execMax at hn
  repeat' (first | (split at hn) | (injection hn with hn; subst hn))
  all_goals (try dsimp only)
  all_goals repeat' (first | with_reducible assumption | with_reducible apply keeps_eltwise | split | (intro _; intros; try dsimp only))

theorem keeps_execMin {r s t : State} (hs : Keeps r s) (x1 : Nat) (x2 : W64) (hn : execMin x1 x2 s = .next t) : Keeps r t := by
  unfold execMin at hn
  repeat' (first | (split at hn) | (injection hn with hn; subst hn))
  all_goals (try dsimp only)
  all_goals repeat' (first | with_reducible assumption | with_reducible apply keeps_eltwise | split | (intro _; intros; try dsimp only))

theorem keeps_execMov {r s t : State} (hs : Keeps r s) (x1 : Nat) (x2 : W64) (hn : execMov x1 x2 s = .next t) : Keeps r t := by
  unfold execMov at hn
  repeat' (first | (split at hn) | (injection hn with hn; subst hn))
  all_goals (try dsimp only)
  all_goals repeat' (first | with_reducible assumption | with_reducible apply keeps_eltwise | split | (intro _; intros; try dsimp only))

theorem keeps_execMul {r s t : State} (hs : Keeps r s) (x1 : Nat) (x2 : W64) (hn : execMul x1 x2 s = .next t) : Keeps r t := by
  unfold execMul at hn
  repeat' (first | (split at hn) | (injection hn with hn; subst hn))
  all_goals (try dsimp only)
  all_goals repeat' (first | with_reducible assumption | with_reducible apply keeps_eltwise | split | (intro _; intros; try dsimp only))

theorem keeps_execNeg {r s t : State} (hs : Keeps r s) (x1 : Nat) (x2 : W64) (hn : execNeg x1 x2 s = .next t) : Keeps r t := by
  unfold execNeg at hn
  repeat' (first | (split at hn) | (injection hn with hn; subst hn))
  all_goals (try dsimp only)
  all_goals repeat' (first | with_reducible assumption | with_reducible apply keeps_eltwise | split | (intro _; intros; try dsimp only))

theorem keeps_execOr {r s t : State} (hs : Keeps r s) (x1 : Nat) (x2 : W64) (hn : execOr x1 x2 s = .next t) : Keeps r t := by
  unfold execOr at hn
  repeat' (first | (split at hn) | (injection hn with hn; subst hn))
  all_goals (try dsimp only)
  all_goals repeat' (first | with_reducible assumption | with_reducible apply keeps_eltwise | split | (intro _; intros; try dsimp only))

theorem keeps_execRed {r s t : State} (hs : Keeps r s) (x1 : Nat) (x2 : W64) (hn : execRed x1 x2 s = .next t) : Keeps r t := by
  unfold execRed at hn
  repeat' (first | (split at hn) | (injection hn with hn; subst hn))
  all_goals (try dsimp only)
  all_goals repeat' (first | with_reducible assumption | with_reducible apply keeps_reduction | split | (intro _; intros; try dsimp only))

theorem keeps_execSar {r s t : State} (hs : Keeps r s) (x1 : Nat) (x2 : W64) (hn : execSar x1 x2 s = .next t) : Keeps r t := by
  unfold execSar at hn
  repeat' (first | (split at hn) | (injection hn with hn; subst hn))
  all_goals (try dsimp only)
  all_goals repeat' (first | with_reducible assumption | with_reducible apply keeps_eltwise | split | (intro _; intros; try dsimp only))

theorem keeps_execSegmentPush {r s t : State} (hs : Keeps r s) (q p : Nat) (w0 w1 : W64) (hn : execSegmentPush q p w0 w1 s = .next t) : Keeps r t := by
  unfold execSegmentPush at hn
  dsimp only at hn
  repeat' (first | (split at hn) | (injection hn with hn; subst hn))
  · exact hs
  · exact keeps_bump hs _ _
  · exact keeps_setEng hs _ _

theorem keeps_execSegmentStart {r s t : State} (hs : Keeps r s) (x1 : Nat) (x2 : Nat) (hn : execSegmentStart x1 x2 s = .next t) : Keeps r t := by
  unfold execSegmentStart at hn
  repeat' (first | (split at hn) | (injection hn with hn; subst hn))
  all_goals (try dsimp only)
  all_goals repeat' (first | with_reducible assumption | with_reducible apply keeps_startSegment | split | (intro _; intros; try dsimp only))

theorem keeps_execSel {r s t : State} (hs : Keeps r s) (x1 : Nat) (x2 : W64) (hn : execSel x1 x2 s = .next t) : Keeps r t := by
  unfold execSel at hn
  repeat' (first | (split at hn) | (injection hn with hn; subst hn))
  all_goals (try dsimp only)
  all_goals repeat' (first | with_reducible assumption | with_reducible apply keeps_eltwise | split | (intro _; intros; try dsimp only))

theorem keeps_execSetlen {r s t : State} (hs : Keeps r s) (x1 : Nat) (x2 : W64) (hn : execSetlen x1 x2 s = .next t) : Keeps r t := by
  unfold execSetlen at hn
  repeat' (first | (split at hn) | (injection hn with hn; subst hn))
  all_goals (try dsimp only)
  all_goals repeat' (first | with_reducible assumption | with_reducible apply keeps_setEng | with_reducible apply keeps_issueWord | split | (intro _; intros; try dsimp only))

theorem keeps_execShl {r s t : State} (hs : Keeps r s) (x1 : Nat) (x2 : W64) (hn : execShl x1 x2 s = .next t) : Keeps r t := by
  unfold execShl at hn
  repeat' (first | (split at hn) | (injection hn with hn; subst hn))
  all_goals (try dsimp only)
  all_goals repeat' (first | with_reducible assumption | with_reducible apply keeps_eltwise | split | (intro _; intros; try dsimp only))

theorem keeps_execShr {r s t : State} (hs : Keeps r s) (x1 : Nat) (x2 : W64) (hn : execShr x1 x2 s = .next t) : Keeps r t := by
  unfold execShr at hn
  repeat' (first | (split at hn) | (injection hn with hn; subst hn))
  all_goals (try dsimp only)
  all_goals repeat' (first | with_reducible assumption | with_reducible apply keeps_eltwise | split | (intro _; intros; try dsimp only))

theorem keeps_execSig {r s t : State} (hs : Keeps r s) (x1 : Nat) (x2 : W64) (hn : execSig x1 x2 s = .next t) : Keeps r t := by
  unfold execSig at hn
  repeat' (first | (split at hn) | (injection hn with hn; subst hn))
  all_goals (try dsimp only)
  all_goals repeat' (first | with_reducible assumption | with_reducible apply keeps_setEng | with_reducible apply keeps_issueWord | with_reducible apply Keeps.ite | split | (intro _; intros; try dsimp only))

theorem keeps_execSqrt {r s t : State} (hs : Keeps r s) (x1 : Nat) (x2 : W64) (hn : execSqrt x1 x2 s = .next t) : Keeps r t := by
  unfold execSqrt at hn
  repeat' (first | (split at hn) | (injection hn with hn; subst hn))
  all_goals (try dsimp only)
  all_goals repeat' (first | with_reducible assumption | with_reducible apply keeps_eltwise | split | (intro _; intros; try dsimp only))

theorem keeps_execSub {r s t : State} (hs : Keeps r s) (x1 : Nat) (x2 : W64) (hn : execSub x1 x2 s = .next t) : Keeps r t := by
  unfold execSub at hn
  repeat' (first | (split at hn) | (injection hn with hn; subst hn))
  all_goals (try dsimp only)
  all_goals repeat' (first | with_reducible assumption | with_reducible apply keeps_eltwise | split | (intro _; intros; try dsimp only))

theorem keeps_execSxCoreWrite {r s t : State} (hs : Keeps r s) (q p i : Nat) (w : W64) (hn : execSxCoreWrite q p i w s = .next t) : Keeps r t := by
  unfold execSxCoreWrite at hn
  dsimp only at hn
  repeat' (first | (split at hn) | (injection hn with hn; subst hn))
  · exact hs
  all_goals exact keeps_setEng hs _ _

theorem keeps_execSxget {r s t : State} (hs : Keeps r s) (x1 : Nat) (x2 : W64) (hn : execSxget x1 x2 s = .next t) : Keeps r t := by
  unfold execSxget at hn
  repeat' (first | (split at hn) | (injection hn with hn; subst hn))
  all_goals (try dsimp only)
  all_goals repeat' (first | with_reducible assumption | with_reducible apply keeps_plainRead | with_reducible apply keeps_setEng | with_reducible apply keeps_issueWord | split | (intro _; intros; try dsimp only))

theorem keeps_execSxset {r s t : State} (hs : Keeps r s) (x1 : Nat) (x2 : W64) (hn : execSxset x1 x2 s = .next t) : Keeps r t := by
  unfold execSxset at hn
  repeat' (first | (split at hn) | (injection hn with hn; subst hn))
  all_goals (try dsimp only)
  all_goals repeat' (first | with_reducible assumption | with_reducible apply keeps_setEng | with_reducible apply keeps_issueWord | split | (intro _; intros; try dsimp only))

theorem keeps_execXor {r s t : State} (hs : Keeps r s) (x1 : Nat) (x2 : W64) (hn : execXor x1 x2 s = .next t) : Keeps r t := by
  unfold execXor at hn
  repeat' (first | (split at hn) | (injection hn with hn; subst hn))
  all_goals (try dsimp only)
  all_goals repeat' (first | with_reducible assumption | with_reducible apply keeps_eltwise | split | (intro _; intros; try dsimp only))

theorem keeps_updI3c {r s : State} (hs : Keeps r s) (x2 : I3c → I3c) : Keeps r (updI3c s x2) := by
  unfold updI3c
  try dsimp only
  repeat' (first | with_reducible assumption | split | (intro _; intros; try dsimp only) | with_reducible refine Keeps.upd ?_ (by rfl))

theorem keeps_cccGet {r s t : State} (hs : Keeps r s) (x2 : I3c → List Nat) (hn : cccGet s x2 = .next t) : Keeps r t := by
  unfold cccGet at hn
  repeat' (first | (split at hn) | (injection hn with hn; subst hn))
  all_goals (try dsimp only)
  all_goals repeat' (first | with_reducible assumption | with_reducible apply keeps_updI3c | split | (intro _; intros; try dsimp only))

theorem keeps_cccRow {r s t : State} (hs : Keeps r s) (x2 : I3c → I3c) (hn : cccRow s x2 = .next t) : Keeps r t := by
  unfold cccRow at hn
  repeat' (first | (split at hn) | (injection hn with hn; subst hn))
  all_goals (try dsimp only)
  all_goals repeat' (first | with_reducible assumption | with_reducible apply keeps_updI3c | split | (intro _; intros; try dsimp only))

theorem keeps_execCccNack {r s t : State} (hs : Keeps r s) (x1 : Nat) (hn : execCccNack x1 s = .next t) : Keeps r t := by
  unfold execCccNack at hn
  repeat' (first | (split at hn) | (injection hn with hn; subst hn))
  all_goals (try dsimp only)
  all_goals repeat' (first | with_reducible assumption | with_reducible apply keeps_updI3c | split | (intro _; intros; try dsimp only))

theorem keeps_execDisec {r s t : State} (hs : Keeps r s) (x1 : Nat) (hn : execDisec x1 s = .next t) : Keeps r t := by
  unfold execDisec at hn
  repeat' (first | exact keeps_cccRow (by assumption) _ hn | (split at hn) | (injection hn with hn; subst hn))
  all_goals (try dsimp only)
  all_goals repeat' (first | with_reducible assumption | split | (intro _; intros; try dsimp only))

theorem keeps_execEnec {r s t : State} (hs : Keeps r s) (x1 : Nat) (hn : execEnec x1 s = .next t) : Keeps r t := by
  unfold execEnec at hn
  repeat' (first | exact keeps_cccRow (by assumption) _ hn | (split at hn) | (injection hn with hn; subst hn))
  all_goals (try dsimp only)
  all_goals repeat' (first | with_reducible assumption | split | (intro _; intros; try dsimp only))

theorem keeps_execEntdaa {r s t : State} (hs : Keeps r s) (x1 : Nat) (hn : execEntdaa x1 s = .next t) : Keeps r t := by
  unfold execEntdaa at hn
  repeat' (first | exact keeps_cccRow (by assumption) _ hn | (split at hn) | (injection hn with hn; subst hn))
  all_goals (try dsimp only)
  all_goals repeat' (first | with_reducible assumption | split | (intro _; intros; try dsimp only))

theorem keeps_execGetbcr {r s t : State} (hs : Keeps r s) (hn : execGetbcr s = .next t) : Keeps r t := by
  unfold execGetbcr at hn
  repeat' (first | exact keeps_cccGet (by assumption) _ hn | (split at hn) | (injection hn with hn; subst hn))
  all_goals (try dsimp only)
  all_goals repeat' (first | with_reducible assumption | split | (intro _; intros; try dsimp only))

theorem keeps_execGetdcr {r s t : State} (hs : Keeps r s) (hn : execGetdcr s = .next t) : Keeps r t := by
  unfold execGetdcr at hn
  repeat' (first | exact keeps_cccGet (by assumption) _ hn | (split at hn) | (injection hn with hn; subst hn))
  all_goals (try dsimp only)
  all_goals repeat' (first | with_reducible assumption | split | (intro _; intros; try dsimp only))

theorem keeps_execGetmrl {r s t : State} (hs : Keeps r s) (hn : execGetmrl s = .next t) : Keeps r t := by
  unfold execGetmrl at hn
  repeat' (first | exact keeps_cccGet (by assumption) _ hn | (split at hn) | (injection hn with hn; subst hn))
  all_goals (try dsimp only)
  all_goals repeat' (first | with_reducible assumption | split | (intro _; intros; try dsimp only))

theorem keeps_execGetmwl {r s t : State} (hs : Keeps r s) (hn : execGetmwl s = .next t) : Keeps r t := by
  unfold execGetmwl at hn
  repeat' (first | exact keeps_cccGet (by assumption) _ hn | (split at hn) | (injection hn with hn; subst hn))
  all_goals (try dsimp only)
  all_goals repeat' (first | with_reducible assumption | split | (intro _; intros; try dsimp only))

theorem keeps_execGetpid {r s t : State} (hs : Keeps r s) (hn : execGetpid s = .next t) : Keeps r t := by
  unfold execGetpid at hn
  repeat' (first | exact keeps_cccGet (by assumption) _ hn | (split at hn) | (injection hn with hn; subst hn))
  all_goals (try dsimp only)
  all_goals repeat' (first | with_reducible assumption | split | (intro _; intros; try dsimp only))

theorem keeps_execGetstatus {r s t : State} (hs : Keeps r s) (hn : execGetstatus s = .next t) : Keeps r t := by
  unfold execGetstatus at hn
  split at hn
  · injection hn with hn
    subst hn
    exact hs
  · exact keeps_cccGet (keeps_draw hs) _ hn

theorem keeps_execRstact {r s t : State} (hs : Keeps r s) (x1 : Nat) (hn : execRstact x1 s = .next t) : Keeps r t := by
  unfold execRstact at hn
  repeat' (first | (split at hn) | (injection hn with hn; subst hn))
  all_goals (try dsimp only)
  all_goals repeat' (first | with_reducible assumption | with_reducible apply keeps_setRegs | with_reducible apply keeps_updI3c | split | (intro _; intros; try dsimp only) | with_reducible refine Keeps.upd ?_ (by rfl))

theorem keeps_execRstdaa {r s t : State} (hs : Keeps r s) (hn : execRstdaa s = .next t) : Keeps r t := by
  unfold execRstdaa at hn
  repeat' (first | exact keeps_cccRow (by assumption) _ hn | (split at hn) | (injection hn with hn; subst hn))
  all_goals (try dsimp only)
  all_goals repeat' (first | with_reducible assumption | split | (intro _; intros; try dsimp only))

theorem keeps_execSetdasa {r s t : State} (hs : Keeps r s) (x1 : Nat) (x2 : Nat) (hn : execSetdasa x1 x2 s = .next t) : Keeps r t := by
  unfold execSetdasa at hn
  repeat' (first | exact keeps_cccRow (by assumption) _ hn | (split at hn) | (injection hn with hn; subst hn))
  all_goals (try dsimp only)
  all_goals repeat' (first | with_reducible assumption | split | (intro _; intros; try dsimp only))

theorem keeps_execSetmrl {r s t : State} (hs : Keeps r s) (x1 : Nat) (hn : execSetmrl x1 s = .next t) : Keeps r t := by
  unfold execSetmrl at hn
  repeat' (first | exact keeps_cccRow (by assumption) _ hn | (split at hn) | (injection hn with hn; subst hn))
  all_goals (try dsimp only)
  all_goals repeat' (first | with_reducible assumption | split | (intro _; intros; try dsimp only))

theorem keeps_execSetmwl {r s t : State} (hs : Keeps r s) (x1 : Nat) (hn : execSetmwl x1 s = .next t) : Keeps r t := by
  unfold execSetmwl at hn
  repeat' (first | exact keeps_cccRow (by assumption) _ hn | (split at hn) | (injection hn with hn; subst hn))
  all_goals (try dsimp only)
  all_goals repeat' (first | with_reducible assumption | split | (intro _; intros; try dsimp only))

theorem keeps_execSidebandReadFrame {r s t : State} (hs : Keeps r s) (hn : execSidebandReadFrame s = .next t) : Keeps r t := by
  unfold execSidebandReadFrame at hn
  repeat' (first | (split at hn) | (injection hn with hn; subst hn))
  all_goals (try dsimp only)
  all_goals repeat' (first | with_reducible assumption | with_reducible apply keeps_setRegs | with_reducible apply keeps_updI3c | split | (intro _; intros; try dsimp only))

theorem keeps_writeFrame {r s : State} (hs : Keeps r s) (x2 : List Byte) : Keeps r (writeFrame s x2) := by
  unfold writeFrame
  try dsimp only
  repeat' (first | with_reducible assumption | with_reducible apply keeps_setRegs | with_reducible apply keeps_opStart | with_reducible apply keeps_updI3c | with_reducible apply keeps_bump | with_reducible apply Keeps.ite | split | (intro _; intros; try dsimp only))

theorem keeps_execSidebandWriteFrame {r s t : State} (hs : Keeps r s) (x1 : List Byte) (hn : execSidebandWriteFrame x1 s = .next t) : Keeps r t := by
  unfold execSidebandWriteFrame at hn
  repeat' (first | (split at hn) | (injection hn with hn; subst hn))
  all_goals (try dsimp only)
  all_goals repeat' (first | with_reducible assumption | with_reducible apply keeps_writeFrame | split | (intro _; intros; try dsimp only))

theorem keeps_chargeKindle {r s : State} (hs : Keeps r s) (x2 : Nat) (x3 : Part) (x4 : PosKey) : Keeps r (chargeKindle s x2 x3 x4) := by
  unfold chargeKindle
  try dsimp only
  repeat' (first | with_reducible assumption | with_reducible apply keeps_bumpArr | with_reducible apply keeps_bumpD | with_reducible apply Keeps.ite | split | (intro _; intros; try dsimp only))

theorem keeps_chargeHolds {r s : State} (hs : Keeps r s) (x2 : Nat) (x3 : Part) : Keeps r (chargeHolds s x2 x3) := by
  unfold chargeHolds
  try dsimp only
  repeat' (first | with_reducible assumption | with_reducible apply keeps_chargeKindle | with_reducible apply keeps_bumpD | with_reducible apply keeps_updPart | with_reducible apply Keeps.ite | split | (intro _; intros; try dsimp only))

theorem keeps_tickTrace {r s : State} (hs : Keeps r s) : Keeps r (tickTrace s) := by
  unfold tickTrace
  try dsimp only
  repeat' (first | with_reducible assumption | with_reducible apply Keeps.ite | split | (intro _; intros; try dsimp only) | with_reducible refine Keeps.upd ?_ (by rfl))

theorem keeps_runnableKeep {r s : State} (hs : Keeps r s) (x2 : Nat) (x3 : Part) : Keeps r (runnableKeep s x2 x3) := by
  unfold runnableKeep
  try dsimp only
  repeat' (first | with_reducible assumption | with_reducible apply keeps_latch | with_reducible apply keeps_takeOrder | with_reducible apply keeps_updPart | with_reducible apply Keeps.ite | split | (intro _; intros; try dsimp only))

theorem keeps_tickPart {r s : State} (hs : Keeps r s) (x2 : Nat) : Keeps r (tickPart s x2) := by
  unfold tickPart
  try dsimp only
  repeat' (first | with_reducible assumption | with_reducible apply keeps_runnableKeep | with_reducible apply keeps_updatesResume | with_reducible apply keeps_effectDue | with_reducible apply keeps_lrbPlace | with_reducible apply keeps_bumpD | with_reducible apply keeps_chargeHolds | with_reducible apply Keeps.ite | split | (intro _; intros; try dsimp only))

theorem keeps_refill {r s : State} (hs : Keeps r s) : Keeps r (refill s) := by
  unfold refill
  try dsimp only
  repeat' (first | with_reducible assumption | split | (intro _; intros; try dsimp only) | with_reducible refine Keeps.upd ?_ (by rfl))

theorem keeps_mgmtTick {r s : State} (hs : Keeps r s) : Keeps r (mgmtTick s) := by
  unfold mgmtTick
  try dsimp only
  repeat' (first | with_reducible assumption | with_reducible apply keeps_tickTrace | with_reducible apply keeps_tickPart | with_reducible apply keeps_refill | with_reducible apply keeps_settleT3 | with_reducible apply keeps_thawRetry | with_reducible apply keeps_bumpD | with_reducible apply keeps_forEach | split | (intro _; intros; try dsimp only) | with_reducible refine Keeps.upd ?_ (by rfl))

theorem keeps_execBucketRefill {r s t : State} (hs : Keeps r s) (hn : execBucketRefill s = .next t) : Keeps r t := by
  unfold execBucketRefill at hn
  repeat' (first | (split at hn) | (injection hn with hn; subst hn))
  all_goals (try dsimp only)
  all_goals repeat' (first | with_reducible assumption | with_reducible apply keeps_mgmtTick | split | (intro _; intros; try dsimp only))

theorem keeps_partBlock {r s : State} (hs : Keeps r s) (x2 : Nat) : Keeps r (partBlock s x2) := by
  unfold partBlock
  try dsimp only
  repeat' (first | with_reducible assumption | with_reducible apply keeps_updPart | with_reducible apply keeps_latch | with_reducible apply keeps_swapBlocked | with_reducible apply keeps_takeOrder | with_reducible apply Keeps.ite | split | (intro _; intros; try dsimp only))

theorem keeps_execPartitionBlocked {r s t : State} (hs : Keeps r s) (x1 : Nat) (hn : execPartitionBlocked x1 s = .next t) : Keeps r t := by
  unfold execPartitionBlocked at hn
  repeat' (first | (split at hn) | (injection hn with hn; subst hn))
  all_goals (try dsimp only)
  all_goals repeat' (first | with_reducible assumption | with_reducible apply keeps_partBlock | split | (intro _; intros; try dsimp only))

theorem keeps_execSketchAgeing {r s t : State} (hs : Keeps r s) (hn : execSketchAgeing s = .next t) : Keeps r t := by
  unfold execSketchAgeing at hn
  repeat' (first | (split at hn) | (injection hn with hn; subst hn))
  all_goals (try dsimp only)
  all_goals repeat' (first | with_reducible assumption | with_reducible apply keeps_sketchAge | split | (intro _; intros; try dsimp only))

theorem keeps_updateItem {r s : State} (hs : Keeps r s) (x2 : Nat) : Keeps r (updateItem s x2) := by
  unfold updateItem
  try dsimp only
  repeat' (first | with_reducible assumption | with_reducible apply keeps_idleTry | with_reducible apply keeps_updateOne | with_reducible apply keeps_quiesceSettle | with_reducible apply Keeps.ite | split | (intro _; intros; try dsimp only))

theorem keeps_execUpdateItem {r s t : State} (hs : Keeps r s) (x1 : Nat) (hn : execUpdateItem x1 s = .next t) : Keeps r t := by
  unfold execUpdateItem at hn
  repeat' (first | (split at hn) | (injection hn with hn; subst hn))
  all_goals (try dsimp only)
  all_goals repeat' (first | with_reducible assumption | with_reducible apply keeps_updateItem | split | (intro _; intros; try dsimp only))

theorem keeps_execLda {r s t : State} (hs : Keeps r s) (x1 : Nat) (x2 : W64) (hn : execLda x1 x2 s = .next t) : Keeps r t := by
  unfold execLda at hn
  repeat' (first | (split at hn) | (injection hn with hn; subst hn))
  all_goals (try dsimp only)
  all_goals repeat' (first | with_reducible assumption | with_reducible apply keeps_setEng | with_reducible apply keeps_issueWord | split | (intro _; intros; try dsimp only) | with_reducible refine Keeps.upd ?_ (by rfl))

theorem keeps_execLdl {r s t : State} (hs : Keeps r s) (x1 : Nat) (x2 : W64) (hn : execLdl x1 x2 s = .next t) : Keeps r t := by
  unfold execLdl at hn
  repeat' (first | (split at hn) | (injection hn with hn; subst hn))
  all_goals (try dsimp only)
  all_goals repeat' (first | with_reducible assumption | with_reducible apply keeps_setEng | with_reducible apply keeps_issueWord | split | (intro _; intros; try dsimp only))

theorem keeps_execLds {r s t : State} (hs : Keeps r s) (x1 : Nat) (x2 : W64) (hn : execLds x1 x2 s = .next t) : Keeps r t := by
  unfold execLds at hn
  repeat' (first | (split at hn) | (injection hn with hn; subst hn))
  all_goals (try dsimp only)
  all_goals repeat' (first | with_reducible assumption | with_reducible apply keeps_setEng | with_reducible apply keeps_issueWord | split | (intro _; intros; try dsimp only))

theorem keeps_sclRow {r s : State} (hs : Keeps r s) (x2 : Nat) (x3 : Nat) (x4 : Nat) (x5 : Nat) (x6 : Nat) : Keeps r (sclRow s x2 x3 x4 x5 x6).1 := by
  unfold sclRow
  try dsimp only
  repeat' (first | with_reducible assumption | with_reducible apply keeps_setWin | with_reducible apply keeps_bumpCensus | split | (intro _; intros; try dsimp only))
theorem keeps_sclRow_eq {r s t : State} {a} {x2 : Nat} {x3 : Nat} {x4 : Nat} {x5 : Nat} {x6 : Nat} (hs : Keeps r s) (e : sclRow s x2 x3 x4 x5 x6 = (t, a)) : Keeps r t := by
  have := keeps_sclRow hs x2 x3 x4 x5 x6 
  rw [e] at this; exact this

theorem keeps_execScl {r s t : State} (hs : Keeps r s) (q : Nat) (w : W64) (hn : execScl q w s = .next t) : Keeps r t := by
  unfold execScl at hn
  injection hn with hn
  subst hn
  refine keeps_issueWord hs _ _ _ _ _ _ (fun e sg => ?_)
  split
  · exact hs
  · extract_lets l y sg1 src
    split
    · exact hs
    · have hy : Keeps r y.1 := Keeps.fold1 _ _ (fun a x h => by dsimp only; exact keeps_sclRow h _ _ _ _ _) hs
      exact keeps_winsSettle (keeps_setEng hy _ _) _ _

theorem keeps_shareWrite {r s : State} (hs : Keeps r s) (x2 : Nat) (x3 : Nat) (x4 : Nat) (x5 : Nat) : Keeps r (shareWrite s x2 x3 x4 x5) := by
  unfold shareWrite
  try dsimp only
  repeat' (first | with_reducible assumption | with_reducible apply keeps_bumpD | with_reducible apply keeps_setUnits | with_reducible apply keeps_updPart | with_reducible apply Keeps.ite | split | (intro _; intros; try dsimp only))

theorem keeps_sharePut {r s : State} (hs : Keeps r s) (x2 : Nat) (x3 : Nat) (x4 : List (Nat × List Byte)) : Keeps r (sharePut s x2 x3 x4) := by
  unfold sharePut
  try dsimp only
  repeat' (first | with_reducible assumption | with_reducible apply keeps_shareWrite | with_reducible apply keeps_forEach | split | (intro _; intros; try dsimp only))

theorem keeps_execStl {r s t : State} (hs : Keeps r s) (x1 : Nat) (x2 : W64) (hn : execStl x1 x2 s = .next t) : Keeps r t := by
  unfold execStl at hn
  repeat' (first | (split at hn) | (injection hn with hn; subst hn))
  all_goals (try dsimp only)
  all_goals repeat' (first | with_reducible assumption | with_reducible apply keeps_plainRead | with_reducible apply keeps_setEng | with_reducible apply keeps_sharePut | with_reducible apply keeps_issueWord | split | (intro _; intros; try dsimp only))

theorem keeps_execSts {r s t : State} (hs : Keeps r s) (x1 : Nat) (x2 : W64) (hn : execSts x1 x2 s = .next t) : Keeps r t := by
  unfold execSts at hn
  repeat' (first | (split at hn) | (injection hn with hn; subst hn))
  all_goals (try dsimp only)
  all_goals repeat' (first | with_reducible assumption | with_reducible apply keeps_plainRead | with_reducible apply keeps_setEng | with_reducible apply keeps_issueWord | split | (intro _; intros; try dsimp only))

theorem keeps_xferFailed {r s : State} (hs : Keeps r s) (x2 : Nat) (x3 : Xfer) : Keeps r (xferFailed s x2 x3) := by
  unfold xferFailed
  try dsimp only
  repeat' (first | with_reducible assumption | with_reducible apply keeps_bumpD | with_reducible apply keeps_recEvent | split | (intro _; intros; try dsimp only))

theorem keeps_transferEnd {r s : State} (hs : Keeps r s) (x2 : Nat) (x3 : Nat) (x4 : Bool) : Keeps r (transferEnd s x2 x3 x4) := by
  unfold transferEnd
  try dsimp only
  repeat' (first | with_reducible assumption | with_reducible apply keeps_unpin | with_reducible apply keeps_forEach | with_reducible apply keeps_xferFailed | with_reducible apply keeps_setEng | with_reducible apply Keeps.ite | split | (intro _; intros; try dsimp only))

theorem keeps_execTransferEnd {r s t : State} (hs : Keeps r s) (x1 : Nat) (x2 : Nat) (x3 : Bool) (hn : execTransferEnd x1 x2 x3 s = .next t) : Keeps r t := by
  unfold execTransferEnd at hn
  repeat' (first | (split at hn) | (injection hn with hn; subst hn))
  all_goals (try dsimp only)
  all_goals repeat' (first | with_reducible assumption | with_reducible apply keeps_transferEnd | split | (intro _; intros; try dsimp only))

theorem keeps_xferBegin {r s : State} (hs : Keeps r s) (x2 : Nat) (x3 : Nat) (x4 : Eng) (x5 : Seg) (x6 : Xfer) : Keeps r (xferBegin s x2 x3 x4 x5 x6) := by
  unfold xferBegin
  try dsimp only
  repeat' (first | with_reducible assumption | with_reducible apply keeps_noteUse | with_reducible apply keeps_pin | with_reducible apply keeps_forEach | with_reducible apply keeps_setEng | split | (intro _; intros; try dsimp only))

theorem keeps_execXld {r s t : State} (hs : Keeps r s) (x1 : Nat) (x2 : W64) (hn : execXld x1 x2 s = .next t) : Keeps r t := by
  unfold execXld at hn
  repeat' (first | (split at hn) | (injection hn with hn; subst hn))
  all_goals (try dsimp only)
  all_goals repeat' (first | with_reducible assumption | with_reducible apply keeps_xldReads | with_reducible apply keeps_xferBegin | with_reducible apply keeps_issueWord | with_reducible apply Keeps.ite | split | (intro _; intros; try dsimp only))

theorem keeps_execXst {r s t : State} (hs : Keeps r s) (x1 : Nat) (x2 : W64) (hn : execXst x1 x2 s = .next t) : Keeps r t := by
  unfold execXst at hn
  repeat' (first | (split at hn) | (injection hn with hn; subst hn))
  all_goals (try dsimp only)
  all_goals repeat' (first | with_reducible assumption | with_reducible apply keeps_objWriteQ | with_reducible apply keeps_plainRead | with_reducible apply keeps_xferBegin | with_reducible apply keeps_forEach | with_reducible apply keeps_issueWord | with_reducible apply Keeps.ite | split | (intro _; intros; try dsimp only))

theorem keeps_execFlashReadDone {r s t : State} (hs : Keeps r s) (x1 : Nat) (x2 : Bool) (x3 : Nat) (x4 : Nat) (x5 : Bool) (hn : execFlashReadDone x1 x2 x3 x4 x5 s = .next t) : Keeps r t := by
  unfold execFlashReadDone at hn
  repeat' (first | (split at hn) | (injection hn with hn; subst hn))
  all_goals (try dsimp only)
  all_goals repeat' (first | with_reducible assumption | with_reducible apply keeps_flashRead | with_reducible apply keeps_settleT3 | with_reducible apply keeps_channelGone | with_reducible apply keeps_settle | split | (intro _; intros; try dsimp only))

theorem keeps_lrbExpire {r s : State} (hs : Keeps r s) (x2 : Nat) (x3 : Nat) : Keeps r (lrbExpire s x2 x3) := by
  unfold lrbExpire
  try dsimp only
  repeat' (first | with_reducible assumption | with_reducible apply keeps_setLrb | with_reducible apply keeps_bumpD | with_reducible apply Keeps.ite | split | (intro _; intros; try dsimp only))

theorem keeps_execLrbExpiry {r s t : State} (hs : Keeps r s) (x1 : Nat) (x2 : Nat) (hn : execLrbExpiry x1 x2 s = .next t) : Keeps r t := by
  unfold execLrbExpiry at hn
  repeat' (first | (split at hn) | (injection hn with hn; subst hn))
  all_goals (try dsimp only)
  all_goals repeat' (first | with_reducible assumption | with_reducible apply keeps_lrbExpire | with_reducible apply keeps_lrbPlace | split | (intro _; intros; try dsimp only))

theorem keeps_execLunLost {r s t : State} (hs : Keeps r s) (x1 : Nat) (x2 : Nat) (x3 : Nat) (hn : execLunLost x1 x2 x3 s = .next t) : Keeps r t := by
  unfold execLunLost at hn
  repeat' (first | (split at hn) | (injection hn with hn; subst hn))
  all_goals (try dsimp only)
  all_goals repeat' (first | with_reducible assumption | with_reducible apply keeps_settleT3 | with_reducible apply keeps_lunGone | with_reducible apply keeps_settle | split | (intro _; intros; try dsimp only))

theorem keeps_execMpInitAck {r s t : State} (hs : Keeps r s) (x1 : Nat) (hn : execMpInitAck x1 s = .next t) : Keeps r t := by
  unfold execMpInitAck at hn
  repeat' (first | (split at hn) | (injection hn with hn; subst hn))
  all_goals (try dsimp only)
  all_goals repeat' (first | with_reducible assumption | split | (intro _; intros; try dsimp only) | with_reducible refine Keeps.upd ?_ (by rfl))

theorem keeps_execMpReadResponse {r s t : State} (hs : Keeps r s) (x1 : Nat) (x2 : Nat) (x3 : Nat) (x4 : Nat) (hn : execMpReadResponse x1 x2 x3 x4 s = .next t) : Keeps r t := by
  unfold execMpReadResponse at hn
  repeat' (first | (split at hn) | (injection hn with hn; subst hn))
  all_goals (try dsimp only)
  all_goals repeat' (first | with_reducible assumption | with_reducible apply keeps_replyOn | with_reducible apply keeps_settle | split | (intro _; intros; try dsimp only))

theorem keeps_mpAccept {r s : State} (hs : Keeps r s) (x2 : Nat) : Keeps r (mpAccept s x2) := by
  unfold mpAccept
  try dsimp only
  repeat' (first | with_reducible assumption | with_reducible apply keeps_issueReq | with_reducible apply Keeps.ite | split | (intro _; intros; try dsimp only))

theorem keeps_execMpRequestAccept {r s t : State} (hs : Keeps r s) (x1 : Nat) (hn : execMpRequestAccept x1 s = .next t) : Keeps r t := by
  unfold execMpRequestAccept at hn
  repeat' (first | (split at hn) | (injection hn with hn; subst hn))
  all_goals (try dsimp only)
  all_goals repeat' (first | with_reducible assumption | with_reducible apply keeps_mpAccept | split | (intro _; intros; try dsimp only))

theorem keeps_execMpWriteAck {r s t : State} (hs : Keeps r s) (x1 : Nat) (x2 : Nat) (x3 : Nat) (hn : execMpWriteAck x1 x2 x3 s = .next t) : Keeps r t := by
  unfold execMpWriteAck at hn
  repeat' (first | (split at hn) | (injection hn with hn; subst hn))
  all_goals (try dsimp only)
  all_goals repeat' (first | with_reducible assumption | with_reducible apply keeps_replyOn | with_reducible apply keeps_settle | split | (intro _; intros; try dsimp only))

theorem keeps_execQuarantineExpiry {r s t : State} (hs : Keeps r s) (x1 : Nat) (x2 : Nat) (hn : execQuarantineExpiry x1 x2 s = .next t) : Keeps r t := by
  unfold execQuarantineExpiry at hn
  repeat' (first | (split at hn) | (injection hn with hn; subst hn))
  all_goals (try dsimp only)
  all_goals repeat' (first | with_reducible assumption | split | (intro _; intros; try dsimp only) | with_reducible refine Keeps.upd ?_ (by rfl))

theorem keeps_lifetimeEnd {r s : State} (hs : Keeps r s) (x2 : Nat) (x3 : Nat) : Keeps r (lifetimeEnd s x2 x3) := by
  unfold lifetimeEnd
  try dsimp only
  repeat' (first | with_reducible assumption | with_reducible apply keeps_quarantine | with_reducible apply keeps_reqRetry | with_reducible apply keeps_flRetry | with_reducible apply Keeps.ite | split | (intro _; intros; try dsimp only))

theorem keeps_execReplyLifetimeExpiry {r s t : State} (hs : Keeps r s) (x1 : Nat) (x2 : Nat) (hn : execReplyLifetimeExpiry x1 x2 s = .next t) : Keeps r t := by
  unfold execReplyLifetimeExpiry at hn
  repeat' (first | (split at hn) | (injection hn with hn; subst hn))
  all_goals (try dsimp only)
  all_goals repeat' (first | with_reducible assumption | with_reducible apply keeps_lifetimeEnd | with_reducible apply keeps_settle | split | (intro _; intros; try dsimp only))

end Sys2Proof.Machine
end

