-- ==== Sys2Proof/Laws/Dict.lean ====
section
/-! SUPPORT. What the shared operations of the rows do, said once, for the provers to cite. -/

namespace Sys2Proof.Machine

theorem not_not_of {p : Prop} (h : p) : ¬¬p := fun g => g h

theorem opEnd_answered (u : State) (path : Path) (w : W64) (x : OpRes) : Answered u path w x (opEnd u path w x) := by
  cases path
  · exact ⟨rfl, fun q hq => by cases q <;> first | rfl | exact absurd rfl hq, rfl, rfl, by simp [opEnd, setRegs]⟩
  · have e : ∃ c : State, c = raiseIbi (setRegs u .i3c { u.od.i3c with
        busy := none
        prog := false
        pend := x.pend
        cseq := x.cseq
        rlen := x.rlen
        code := x.code
        tag := cmdTag w
        dat := match x.dat with | some l => putDat u.od.i3c.dat l | none => u.od.i3c.dat }) 0xA1 := ⟨_, rfl⟩
    by_cases hb : u.i3c.ibiOn = true
    · have hr : raiseIbi (setRegs u .i3c { u.od.i3c with
        busy := none
        prog := false
        pend := x.pend
        cseq := x.cseq
        rlen := x.rlen
        code := x.code
        tag := cmdTag w
        dat := match x.dat with | some l => putDat u.od.i3c.dat l | none => u.od.i3c.dat }) 0xA1 = _ := if_pos hb
      have e2 : opEnd u .i3c w x = _ := hr
      rw [e2]
      exact ⟨rfl, fun q hq => by cases q <;> first | rfl | exact absurd rfl hq, rfl, rfl, by simp [setRegs, hb]⟩
    · have hr : raiseIbi (setRegs u .i3c { u.od.i3c with
        busy := none
        prog := false
        pend := x.pend
        cseq := x.cseq
        rlen := x.rlen
        code := x.code
        tag := cmdTag w
        dat := match x.dat with | some l => putDat u.od.i3c.dat l | none => u.od.i3c.dat }) 0xA1 = _ := if_neg hb
      have e2 : opEnd u .i3c w x = _ := hr
      rw [e2]
      exact ⟨rfl, fun q hq => by cases q <;> first | rfl | exact absurd rfl hq, rfl, rfl, by rw [if_neg (by simpa using hb)]; rfl⟩
  · exact ⟨rfl, fun q hq => by cases q <;> first | rfl | exact absurd rfl hq, rfl, rfl, by simp [opEnd, setRegs]⟩

theorem regsOf_served (s : State) (p q : Path) (w : W64) : regsOf (served s p w) q = regsOf s q := by
  unfold served; split <;> rfl

theorem served_od (s : State) (p : Path) (w : W64) : (served s p w).od = s.od := by unfold served; split <;> rfl

theorem served_st (s : State) (p : Path) (w : W64) : (served s p w).core.st = s.core.st := by unfold served; split <;> rfl

theorem served_boot (s : State) (p : Path) (w : W64) : (served s p w).boot = s.boot := by unfold served; split <;> rfl

theorem served_rest (s : State) (p : Path) (w : W64) : served s p w = { s with core := (served s p w).core } := by unfold served; split <;> rfl

/-- what a row op does from OpFree -/
theorem opRow_free {s : State} {path : Path} {w : W64} {op : Nat} (h : OpFree s path w) (ho : cmdOp w = op) :
    opRow op path w s = (let x := opDo (served s path w) path w
      if x.1.prog then setRegs x.2 path { regsOf x.2 path with busy := some w, prog := true } else opEnd x.2 path w x.1) := by
  obtain ⟨h1, h2, h3, h4⟩ := h
  have hw : opWaits (served s path w) path w = false := by
    unfold served; split <;> exact h4
  unfold opRow
  rw [h1]
  simp only [ho, ne_eq, not_true_eq_false, decide_false, Bool.or_false, Bool.false_eq_true, if_false]
  unfold opStart
  dsimp only
  rw [h2]
  simp only [Option.isSome_none, Bool.false_eq_true, if_false]
  show opRun (served s path w) path w = _
  unfold opRun
  dsimp only
  rw [regsOf_served, h3, hw]
  simp

theorem opDo_names {s : State} {path : Path} {w : W64} {o : Obj} {x : Nat} {op : Nat} (hn : Names s path o x) (ho : cmdOp w = op)
    (h1 : 1 ≤ op) (h3 : op ≤ 3) :
    opDo (served s path w) path w = (
      if op = 1 then (opRead (served s path w) path o x, served s path w)
      else if op = 3 then
        let y := bundleWrite (served s path w) path (cmdBid w) o x (cmdLen w) (liveBits o ((regsOf s path).dat.getD 0 0))
        ({ code := y.1 }, y.2)
      else if o.right = .cmd then
        let y := issueCmd (served s path w) path o (datWords (regsOf s path) (cmdLen w)) (cmdTag w)
        ({ code := y.1, cseq := y.2.1 }, y.2.2)
      else opWrite (served s path w) path o x (cmdLen w) ((regsOf s path).dat.getD 0 0)) := by
  obtain ⟨a, b⟩ := hn
  unfold opDo
  dsimp only
  rw [regsOf_served, served_st, a, ho]
  have e1 : (decide (op = 0) || decide (3 < op)) = false := by simp; omega
  have e2 : (decide (s.core.st = FwSt.boot) && decide (selArea (regsOf s path) ≠ 0) && decide (selArea (regsOf s path) ≠ 1) && decide (selArea (regsOf s path) ≠ 11)) = false := by
    simp only [Bool.and_eq_false_iff, decide_eq_false_iff_not]
    by_cases hb : s.core.st = .boot
    · have := b hb; omega
    · simp [hb]
  simp only [e1, Bool.false_eq_true, if_false]
  rw [if_neg (by simpa using e2)]

theorem pendFlag_served (s : State) (p : Path) (w : W64) (o : Obj) (x : Nat) : pendFlag (served s p w) o x = pendFlag s o x := by
  simp only [pendFlag, served_od]

theorem outside_served (s : State) (p : Path) (w : W64) (ix : Ix) (x : Nat) : outside (served s p w) ix x = outside s ix x := by
  unfold served; split <;> rfl

theorem there_served (s : State) (p : Path) (w : W64) (ow : Owner) : ownerThere (served s p w) ow = ownerThere s ow := by
  unfold served; split <;> rfl

theorem opRow_ends {s u : State} {path : Path} {w : W64} {op : Nat} {y : OpRes} (h : OpFree s path w) (ho : cmdOp w = op)
    (hd : opDo (served s path w) path w = (y, u)) (hp : y.prog = false) : Answered u path w y (opRow op path w s) := by
  rw [opRow_free h ho, hd]; simp only [hp, Bool.false_eq_true, if_false]; exact opEnd_answered _ _ _ _

theorem tab_getD_put_self {α : Type} (t : Tab α) (k : Nat) (v d : α) : ((t.put k v).find? k).getD d = v := by
  rw [Tab.find?_put_self]; rfl

theorem acceptVal_eq (s : State) (o : Obj) (x : Nat) (v : W64) : ∃ pe, (acceptVal s o x v) = { s with od := { s.od with
    vals := s.od.vals.put (okey o.area o.item x) v, pend := pe } } ∧
   pe = s.od.pend ++ ((match o.cls with
    | .reset => some PendKind.reset
    | .step => stepKind s (ownerOf o.ix x)
    | _ => none).map (fun kd => ({ area := o.area, item := o.item, index := x, old := lastVal s o.area o.item x, kind := kd } : PendVal))).toList := by
  unfold acceptVal
  dsimp only
  cases o.cls <;> simp <;> (try split) <;> simp_all

theorem live_served (s : State) (p : Path) (w : W64) (a i : Nat) (q : Path) : liveInsts (served s p w) a i q = liveInsts s a i q := by
  simp only [liveInsts, served_od]

/-- pigeonhole -/
theorem nextCseq_free (s : State) (a i : Nat) (p : Path) (h : (liveInsts s a i p).length < 16) :
    nextCseq s a i p < 16 ∧ ∀ j ∈ liveInsts s a i p, j.cseq ≠ nextCseq s a i p := by
  unfold nextCseq
  dsimp only
  generalize ((s.od.lastCseq.find? (okey a i p.num)).map (· + 1)).getD 0 = f0
  generalize liveInsts s a i p = live at *
  cases hf : ((List.range 16).map (fun j => (f0 + j) % 16)).find? (fun c => !live.any (fun i => i.cseq == c)) with
  | some c =>
    have h1 := List.find?_some hf
    have h2 := List.mem_of_find?_eq_some hf
    simp only [List.mem_map, List.mem_range] at h2
    obtain ⟨b, hb, rfl⟩ := h2
    refine ⟨?_, ?_⟩
    · simp; omega
    · intro j hj
      simp at h1
      simpa using h1 j hj
  | none =>
    exfalso
    have h1 := List.find?_eq_none.mp hf
    have sub : ∀ c ∈ List.range 16, c ∈ live.map (fun i => i.cseq) := by
      intro c hc
      have hc' : c < 16 := List.mem_range.mp hc
      have : c ∈ (List.range 16).map (fun j => (f0 + j) % 16) := by
        simp only [List.mem_map, List.mem_range]
        exact ⟨(c + 16 - f0 % 16) % 16, by omega, by omega⟩
      have := h1 c this
      simp at this
      obtain ⟨x, hx, hxc⟩ := this
      exact List.mem_map.mpr ⟨x, hx, hxc⟩
    have := (List.nodup_range.subperm sub).length_le
    simp at this; omega

theorem cmdRow_due {s : State} {a it : Nat} {i : Inst} (h : Due s a it i) (f : State → Inst → State) : cmdRow s a it f = f s i := by
  unfold cmdRow; rw [h.1, h.2]; rfl

theorem cmdRowIf_due {s : State} {a it : Nat} {i : Inst} (h : Due s a it i) (g : Inst → Bool) (f : State → Inst → State) :
    cmdRowIf s a it g f = if g i then f s i else s := by
  unfold cmdRowIf; rw [h.1, h.2]; rfl

theorem wo1Program_frame (s : State) (a b : Nat) (ws : List W64) (ok : Bool) :
    (wo1Program s a b ws ok) = { s with otp := (wo1Program s a b ws ok).otp, free := (wo1Program s a b ws ok).free } := by
  unfold wo1Program
  dsimp only
  split
  · rfl
  · cases ok <;> rfl

theorem find_range4 (p : Nat → Bool) : ((List.range 4).find? p = none ↔ ∀ b, b < 4 → p b = false) ∧
    ∀ b, (List.range 4).find? p = some b ↔ (b < 4 ∧ p b = true ∧ ∀ c, c < b → p c = false) := by
  refine ⟨?_, ?_⟩
  · simp [List.find?_eq_none]
  · intro b
    rw [List.find?_range_eq_some]
    simp
    tauto

theorem bundleOf_set (s : State) (t : Tab Bundle) (b c : Nat) (x : Bundle) : ((t.set {} b x).find? c).getD {} = if c = b then x else (t.find? c).getD {} :=
  Tab.getD_set t {} b c x

theorem commitInst_freed (s : State) (b c : Nat) : commitInst (bundleFreed s b) c = commitInst s c := rfl

theorem ownBundle_freed (s : State) (b : Nat) (path : Path) : ownBundle (bundleFreed s b) path b = none := by
  have : bundleOf (bundleFreed s b) b = {} := by
    show (((s.od.bundles.set {} b {}).find? b).getD {}) = _
    rw [bundleOf_set s, if_pos rfl]
  unfold ownBundle; rw [this]; rfl

theorem ends_od_bundles {s t : State} {i : Inst} {d : Option Nat} {c : Nat} {r0 r1 : W64} (h : Ends s i d c r0 r1 t) : t.od.bundles = s.od.bundles := by
  rw [h.posted.od]; rfl

theorem ownBundle_congr {s t : State} (h : t.od.bundles = s.od.bundles) (p : Path) (b : Nat) : ownBundle t p b = ownBundle s p b := by
  unfold ownBundle bundleOf; rw [h]

theorem posted_bundles {s t : State} (h : Posted s t) : t.od.bundles = s.od.bundles := by rw [h.od]

theorem bundleDiscard_cases (s : State) (b : Nat) :
    (commitInst s b = none → bundleDiscard s b = bundleFreed s b) ∧
    (∀ j, commitInst s b = some j → Ends (bundleFreed s b) j none Code.bundleNone 0 0 (bundleDiscard s b)) := by
  have e : commitInst (setBundle s b {}) b = commitInst s b := rfl
  refine ⟨?_, ?_⟩
  · intro h; unfold bundleDiscard; dsimp only; rw [e, h]; rfl
  · intro j h; unfold bundleDiscard; dsimp only; rw [e, h]; exact refuse_ends _ _ _ _

theorem bundleDiscard_own (s : State) (b : Nat) (p : Path) : ownBundle (bundleDiscard s b) p b = none := by
  obtain ⟨h1, h2⟩ := bundleDiscard_cases s b
  cases hc : commitInst s b with
  | none => rw [h1 hc]; exact ownBundle_freed _ _ _
  | some j => rw [ownBundle_congr (ends_od_bundles (h2 j hc))]; exact ownBundle_freed _ _ _

theorem evDrainAux_spec (l : List EvEntry) : ∀ s : State, evEntries s ≠ 0 →
    ∃ gone, gone ++ (evDrainAux l s).core.backlog = l ∧
      ((evDrainAux l s).core.backlog = [] ∨ evRoom (evDrainAux l s) = false) ∧
      evEntries (evDrainAux l s) = evEntries s ∧
      (evDrainAux l s).core.evHead % evEntries s = (s.core.evHead + gone.length) % evEntries s := by
  induction l with
  | nil => intro s h; exact ⟨[], rfl, Or.inl rfl, rfl, rfl⟩
  | cons e t ih =>
    intro s h
    unfold evDrainAux
    by_cases hr : evRoom s = true
    · rw [if_pos hr]
      have he : evEntries (evWrite s e) = evEntries s := by rw [evWrite_is]; rfl
      have hn : (evWrite s e).core.evHead = (s.core.evHead + 1) % evEntries s := by rw [evWrite_is]; rfl
      obtain ⟨g, h1, h2, h3, h4⟩ := ih (evWrite s e) (by rw [he]; exact h)
      refine ⟨e :: g, by rw [List.cons_append, h1], h2, h3.trans he, ?_⟩
      rw [he, hn] at h4; rw [h4]
      show ((s.core.evHead + 1) % evEntries s + g.length) % evEntries s = (s.core.evHead + (g.length + 1)) % evEntries s
      rw [Nat.mod_add_mod]; congr 1; omega
    · rw [if_neg hr]
      exact ⟨[], rfl, Or.inr (show evRoom s = false by simpa using hr), rfl, rfl⟩

theorem leNat_leBytes : ∀ (n v : Nat), leNat (leBytes n v) = v % 256 ^ n := by
  intro n
  induction n with
  | zero => intro v; simp [leBytes, leNat]; omega
  | succ n ih =>
    intro v
    have h : leNat (leBytes (n + 1) v) = (BitVec.ofNat 8 v).toNat + 256 * leNat (leBytes n (v / 256)) := rfl
    rw [h, ih, Nat.pow_succ', Nat.mod_mul]; simp

theorem wordBytes_cons (w : W64) (ws : List W64) : wordBytes (w :: ws) = leBytes 8 w.toNat ++ wordBytes ws := rfl

theorem leBytes_len : ∀ n v, (leBytes n v).length = n := by
  intro n; induction n with
  | zero => intro v; rfl
  | succ n ih => intro v; simp [leBytes, ih]

theorem store_append (m : Tab Byte) (k : Nat) (a b : List Byte) : storeBytes m k (a ++ b) = storeBytes (storeBytes m k a) (k + a.length) b := by
  induction a generalizing m k with
  | nil => rfl
  | cons x a ih => simp only [List.cons_append, storeBytes, List.length_cons]; rw [ih]; congr 1; omega

theorem words_back (ws : List W64) : ∀ (m : Tab Byte) (k : Nat), wordsAt (storeBytes m k (wordBytes ws)) k ws.length = ws := by
  induction ws with
  | nil => intro m k; rfl
  | cons w ws ih =>
    intro m k
    rw [wordBytes_cons, store_append, leBytes_len]
    unfold wordsAt
    rw [List.length_cons, List.range_succ_eq_map, List.map_cons, List.map_map]
    have h1 : wordAt (storeBytes (storeBytes m k (leBytes 8 w.toNat)) (k + 8) (wordBytes ws)) (k + 8 * 0) = w := by
      unfold wordAt
      have : bytesAt (storeBytes (storeBytes m k (leBytes 8 w.toNat)) (k + 8) (wordBytes ws)) (k + 8 * 0) 8 = leBytes 8 w.toNat := by
        have h2 := bytesAt_storeBytes (m := m) k (leBytes 8 w.toNat)
        rw [leBytes_len] at h2
        refine Eq.trans ?_ h2
        unfold bytesAt
        apply List.map_congr_left
        intro j hj
        have : j < 8 := List.mem_range.mp hj
        exact byteAt_storeBytes_out _ (Or.inl (by omega))
      rw [this, leNat_leBytes]
      unfold w64
      apply BitVec.eq_of_toNat_eq
      have := w.isLt
      simp; omega
    rw [h1]
    congr 1
    refine Eq.trans ?_ (ih (storeBytes m k (leBytes 8 w.toNat)) (k + 8))
    unfold wordsAt
    apply List.map_congr_left
    intro j hj
    show wordAt _ (k + 8 * (j + 1)) = wordAt _ (k + 8 + 8 * j)
    congr 1; omega

theorem bundleWrites_frame (x : Bundle) : ∀ (s : State), bundleWrites s x = { s with od := { s.od with vals := (bundleWrites s x).od.vals, pend := (bundleWrites s x).od.pend } } := by
  unfold bundleWrites forEach
  generalize x.writes = l
  induction l with
  | nil => intro s; rfl
  | cons w l ih => intro s; rw [List.foldl_cons]; rw [ih]

theorem bundleWrites_vals (l : List (Nat × Nat × Nat × W64)) : ∀ (s : State) (k : Nat),
    (l.foldl (fun (s : State) w =>
    let k := okey w.1 w.2.1 w.2.2.1
    { s with od := { s.od with
      vals := s.od.vals.put k w.2.2.2
      pend := s.od.pend.filter (fun v => !(v.area == w.1 && v.item == w.2.1 && v.index == w.2.2.1 && v.kind != .reset)) } }) s).od.vals.find? k
      = (lastWrite l k).or (s.od.vals.find? k) := by
  induction l with
  | nil => intro s k; rfl
  | cons w l ih =>
    intro s k
    rw [List.foldl_cons, ih]
    unfold lastWrite
    rw [List.reverse_cons, List.find?_append]
    cases h : l.reverse.find? (fun e => okey e.1 e.2.1 e.2.2.1 == k) with
    | some y => simp
    | none =>
      dsimp only
      rw [Tab.find?_put]
      by_cases hk : k = okey w.1 w.2.1 w.2.2.1
      · simp [hk]
      · have : ¬ okey w.1 w.2.1 w.2.2.1 = k := fun h => hk h.symm
        simp [hk, this]

theorem same_refl (i : Inst) : i.same i = true := by simp [Inst.same]

theorem fwAlive_notHeld {s : State} (h : fwAlive s = true) : held s = false := by
  unfold fwAlive at h; cases hh : held s <;> simp_all

theorem expired_wdog (u : State) (b : Bool) : Expired u b (wdogExpire u b) := by
  unfold wdogExpire
  dsimp only
  have hp := post_posted (bump u Cnt.fwWdog 1) Ev.fwWdog none 0 (if b then 2 else 1) ((bankVer u u.core.bank).getD 0)
  refine ⟨_, _, hp, rfl, rfl, ?_⟩
  generalize post (bump u Cnt.fwWdog 1) Ev.fwWdog none 0 (if b then 2 else 1) ((bankVer u u.core.bank).getD 0) = v at hp
  have hc := hp.core
  have h1 : v.core.st = u.core.st := by rw [hc]; rfl
  have h2 : v.core.back = u.core.back := by rw [hc]; rfl
  rw [show u.core.st = v.core.st from h1.symm, show u.core.back = v.core.back from h2.symm]
  rfl

theorem bitOf_bitsum (p : Nat → Bool) : ∀ n, (List.range n).foldl (fun a i => if p i then a + 2 ^ i else a) 0 < 2 ^ n ∧
    ∀ k, k < n → bitOf ((List.range n).foldl (fun a i => if p i then a + 2 ^ i else a) 0) k = p k := by
  intro n
  induction n with
  | zero => exact ⟨by simp, by omega⟩
  | succ n ih =>
    rw [List.range_succ, List.foldl_append]
    simp only [List.foldl_cons, List.foldl_nil]
    generalize (List.range n).foldl (fun a i => if p i then a + 2 ^ i else a) 0 = x at ih ⊢
    obtain ⟨h1, h2⟩ := ih
    have hb : ∀ y k, bitOf y k = y.testBit k := by
      intro y k; unfold bitOf; rw [Nat.testBit_eq_decide_div_mod_eq, Nat.shiftRight_eq_div_pow]; cases h : decide (y / 2 ^ k % 2 = 1) <;> simp_all
    simp only [hb] at h2 ⊢
    constructor
    · split <;> omega
    · intro k hk
      by_cases hk' : k < n
      · rw [← h2 k hk']
        split
        · rw [Nat.add_comm]; exact Nat.testBit_two_pow_add_gt hk' x
        · rfl
      · have : k = n := by omega
        subst this
        have hx : x.testBit k = false := Nat.testBit_lt_two_pow h1
        cases hp : p k
        · simpa using hx
        · simp only [if_true]; rw [Nat.add_comm, Nat.testBit_two_pow_add_eq, hx]; rfl

theorem changeFor_none {s : State} {i : Inst} {bank : Nat} (hc : s.core.change = none) (hr : residents s = []) (hrun : runningParts s = [])
    (hd : s.dbg.replay = none) (hi : i ∈ s.od.insts) (ha : i.area = 1) (hb : bank ≠ s.core.bank) :
    (changeFor s i bank).core.bank = bank ∧ (changeFor s i bank).core.change = none ∧ Gone (changeFor s i bank) i := by
  unfold changeFor
  generalize hj : ({ i with st := .pending, part := 32 } : Inst) = j
  have e1 : changeRefuse (setInst s j) = setInst s j := by
    unfold changeRefuse; rw [show (setInst s j).core.change = none from hc]; rfl
  have e2 : replayAbort (setInst s j) = setInst s j := by
    unfold replayAbort; rw [show (setInst s j).dbg.replay = none from hd]
  unfold changeBegin
  rw [e1, e2]
  dsimp only
  have e3 : residents (updCore (setInst s j) (fun c =>
    { c with
      st := if c.st = .restarting then .restarting else .changeover
      back := .changeover
      change := some { bank := bank, inst := some (i.item, i.path, i.cseq) } })) = [] := hr
  rw [e3]
  simp only [List.filter_nil, forEach, List.foldl_nil]
  generalize hs1 : updCore (setInst s j) (fun c =>
    { c with
      st := if c.st = .restarting then .restarting else .changeover
      back := .changeover
      change := some { bank := bank, inst := some (i.item, i.path, i.cseq) } }) = s1
  have hs1c : s1.core.change = some { bank := bank, inst := some (i.item, i.path, i.cseq) } := by rw [← hs1]; rfl
  have hs1b : s1.core.bank = s.core.bank := by rw [← hs1]; rfl
  have hs1i : s1.od.insts = s.od.insts.map (fun k => if j.same k then j else k) := by rw [← hs1]; rfl
  have hs1r : runningParts s1 = [] := by rw [← hs1]; exact hrun
  unfold changeDone
  rw [hs1c]
  simp only [hs1r, List.any_nil, Bool.false_eq_true, if_false]
  have hfl : (bank != s1.core.bank) = true := by rw [hs1b]; simpa using hb
  rw [hfl, if_pos rfl]
  simp only [Option.bind_some]
  generalize hs2 : updCore (updCore s1 fun k => { k with bank := bank, change := none }) _ = s2
  have hs2c : s2.core.change = none ∧ s2.core.bank = bank := by rw [← hs2]; exact ⟨rfl, rfl⟩
  have hs2i : s2.od.insts = s1.od.insts := by rw [← hs2]; rfl
  have hp := post_posted s2 Ev.fwSwitched none 0 bank ((bankVer s2 bank).getD 0)
  generalize post s2 Ev.fwSwitched none 0 bank ((bankVer s2 bank).getD 0) = s3 at hp
  have hs3i : s3.od.insts = s1.od.insts := by rw [hp.od, ← hs2i]
  have hs3c : s3.core.change = none ∧ s3.core.bank = bank := by rw [hp.core]; exact hs2c
  cases hf : s3.od.insts.find? (fun k => k.area == 1 && k.item == i.item && k.path == i.path && k.cseq == i.cseq) with
  | some y =>
    dsimp only
    have hE := finish_ends s3 y none Code.ok 0 0
    generalize finish s3 y none Code.ok 0 0 = t at hE ⊢
    have hc : t.core.change = none ∧ t.core.bank = bank := by rw [hE.posted.core]; exact hs3c
    refine ⟨hc.2, hc.1, ?_⟩
    intro k hk
    have := hE.gone k hk
    have hy := List.find?_some hf
    simp only [Bool.and_eq_true, beq_iff_eq] at hy
    simp only [Inst.same, ha, hy.1.1.1, hy.1.1.2, hy.1.2, hy.2] at this ⊢
    exact this
  | none =>
    exfalso
    have := List.find?_eq_none.mp hf j (by
      rw [hs3i, hs1i]; refine List.mem_map.mpr ⟨i, hi, ?_⟩
      have : j.same i = true := by rw [← hj]; exact same_refl i
      simp [this])
    apply this
    rw [← hj]; simp [ha]

theorem byte_mod (n : Nat) : BitVec.ofNat 8 (n % 256) = BitVec.ofNat 8 n := by apply BitVec.eq_of_toNat_eq; simp

theorem otpCut_none {s : State} (h : programming s = false) : otpCut s = s := by
  unfold programming at h
  simp only [Bool.or_eq_false_iff] at h
  unfold otpCut forEach
  simp only [List.foldl_cons, List.foldl_nil, regsOf]
  rw [h.1.1]
  dsimp only
  rw [h.1.2]

theorem otpProgram_frame (s : State) (o : Nat) (b : List Byte) : otpProgram s o b = { s with otp := (otpProgram s o b).otp } := rfl

theorem otpCut_frame (s : State) : otpCut s = { s with otp := (otpCut s).otp, free := (otpCut s).free } := by
  have key : ∀ (f : State → Path → State), (∀ u p, f u p = { u with otp := (f u p).otp, free := (f u p).free }) → ∀ (l : List Path) (s : State),
      l.foldl f s = { s with otp := (l.foldl f s).otp, free := (l.foldl f s).free } := by
    intro f hf l
    induction l with
    | nil => intro s; rfl
    | cons p l ih => intro s; rw [List.foldl_cons, ih, hf s p]
  unfold otpCut forEach
  refine key _ ?_ _ _
  intro u p
  dsimp only
  split
  · exact wo1Program_frame _ _ _ _ _
  · rfl

theorem operandB_list (s : State) (q p w i m : Nat) : operandB (engOf s q) p w i m = (List.range m).map (laneB s q p w i) := by
  unfold operandB laneB
  split <;> simp_all [lane, List.map_const', List.length_range]

theorem lane_lt (s : State) (q r i j : Nat) : lane s q r i j < 2 ^ 32 := Nat.mod_lt _ (by decide)

theorem laneB_lt (s : State) (q p w i j : Nat) : laneB s q p w i j < 2 ^ 32 := by
  unfold laneB
  split
  · exact lane_lt ..
  · exact Nat.mod_lt _ (by decide)
  · exact lane_lt ..
  · exact lane_lt ..

/-- results list of the model at row i -/
theorem zip3_map_range (f : Nat → Nat → Nat → Nat × Census) (m : Nat) (A B C : Nat → Nat) :
    (List.zip ((List.range m).map A) (List.zip ((List.range m).map B) ((List.range m).map C))).map (fun x => f x.1 x.2.1 x.2.2)
      = (List.range m).map (fun j => f (A j) (B j) (C j)) := by
  apply List.ext_getElem <;> simp

theorem setSx3_frame (e : Eng) (p i : Nat) (x) : setSx3 e p i x = { e with sx := (setSx3 e p i x).sx } := rfl

theorem sx_setSx (e : Eng) (p i : Nat) (w : W64) (k : Nat) : (setSx e p i w).sx.getD k 0 = if k = sxKey p i then w else e.sx.getD k 0 := by
  simp [setSx, Tab.getD_set]

theorem sxKey_inj {p a b : Nat} : sxKey p a = sxKey p b ↔ a = b := by unfold sxKey; omega

theorem sx_setSx3 (e : Eng) (p i : Nat) (x : W64 × W64 × W64) : (setSx3 e p i x).sx.getD (sxKey p i) 0 = x.1 ∧
    (setSx3 e p i x).sx.getD (sxKey p (i + 1)) 0 = x.2.1 ∧ (setSx3 e p i x).sx.getD (sxKey p (i + 2)) 0 = x.2.2 := by
  unfold setSx3
  refine ⟨?_, ?_, ?_⟩
  · rw [sx_setSx, if_neg (by rw [sxKey_inj]; omega), sx_setSx, if_neg (by rw [sxKey_inj]; omega), sx_setSx, if_pos rfl]
  · rw [sx_setSx, if_neg (by rw [sxKey_inj]; omega), sx_setSx, if_pos rfl]
  · rw [sx_setSx, if_pos rfl]

theorem getD_map_range (f : Nat → Nat) (m j : Nat) (h : j < m) : ((List.range m).map f).getD j 0 = f j := by
  simp [List.getD, h]

theorem retire_executed {s s' : State} {q : Nat} {sg sg1 : Seg} {md n sxd : Nat} {sum : Bool} {x : W64 × W64 × W64} {c : Census} {e1 : Eng}
    (hs : s' = { s with free := s'.free })
    (he : e1 = { engOf s q with m := e1.m })
    (hr : ∀ r i, i < 32 → ¬ (r = md ∧ i < n) → rowOf e1 r i = rowOf (engOf s q) r i)
    (hg : sg1 = { sg with now := sg1.now, ready := sg1.ready, lat := sg1.lat, loose := sg1.loose }) :
    Executed s q sg md n (if sum then [sxd, sxd + 1, sxd + 2] else []) c (retire s' q e1 sg1 sum sxd x c) ∧
    (engOf (retire s' q e1 sg1 sum sxd x c) q).m = e1.m ∧
    (sum = true → (sxOf (engOf (retire s' q e1 sg1 sum sxd x c) q) sg.slot sxd = x.1 ∧
      sxOf (engOf (retire s' q e1 sg1 sum sxd x c) q) sg.slot (sxd + 1) = x.2.1 ∧
      sxOf (engOf (retire s' q e1 sg1 sum sxd x c) q) sg.slot (sxd + 2) = x.2.2)) := by
  obtain ⟨fr, rfl⟩ : ∃ fr, s' = { s with free := fr } := ⟨_, hs⟩
  clear hs
  have hslot : sg1.slot = sg.slot := by rw [hg]
  have hcnt : counted { s with free := fr } sg1.slot c = counted s sg.slot c := by
    rw [hslot]
    unfold counted slotD slotPart
    dsimp only
    cases Option.map (fun x => x.1) (List.find? (fun e => e.2.slot == some sg.slot) s.parts) with
    | none => rfl
    | some d => dsimp only; rw [bumpCensus_congr (s := s) (t := { s with free := fr }) rfl rfl d c]
  rw [retire_frame, hcnt, hslot]
  generalize hE : (if sum = true then setSx3 e1 sg.slot sxd x else e1) = E
  have hE1 : E = { e1 with sx := E.sx } := by rw [← hE]; split <;> rfl
  have hEm : E.m = e1.m := by rw [hE1]
  have hq : ∀ r, engOf { setEng { s with free := fr } q { E with run := some sg1.next } with cnt := counted s sg.slot c } r =
      if r = q then { E with run := some sg1.next } else engOf s r := by
    intro r
    have : engOf { setEng { s with free := fr } q { E with run := some sg1.next } with cnt := counted s sg.slot c } r = engOf (setEng { s with free := fr } q { E with run := some sg1.next }) r := rfl
    rw [this, engOf_setEng]
    split
    · rfl
    · exact engOf_congr rfl r
  refine ⟨⟨?_, fun _ => rfl, fun r hr => by rw [hq, if_neg hr], ?_, ?_, ?_, ?_⟩, by rw [hq, if_pos rfl]; exact hEm, ?_⟩
  · rfl
  · rw [hq, if_pos rfl]
    obtain ⟨m1, rfl⟩ : ∃ m1, e1 = { engOf s q with m := m1 } := ⟨_, he⟩
    clear he
    obtain ⟨x1, rfl⟩ : ∃ x1, E = { ({ engOf s q with m := m1 } : Eng) with sx := x1 } := ⟨_, hE1⟩
    rfl
  · intro r i hi hn
    have : rowOf (engOf { setEng { s with free := fr } q { E with run := some sg1.next } with cnt := counted s sg.slot c } q) r i = rowOf e1 r i := by
      rw [hq, if_pos rfl]; unfold rowOf; dsimp only; rw [hEm]
    rw [this]; exact hr r i hi hn
  · intro k hk
    rw [hq, if_pos rfl]
    show E.sx.getD k 0 = _
    rw [← hE]
    split
    · rename_i hsum
      rw [if_pos hsum] at hk
      have hk1 := hk sxd (by simp)
      have hk2 := hk (sxd + 1) (by simp)
      have hk3 := hk (sxd + 2) (by simp)
      unfold setSx3
      rw [sx_setSx, if_neg hk3, sx_setSx, if_neg hk2, sx_setSx, if_neg hk1, he]
    · rw [he]
  · exact ⟨sg1.next, by rw [hq, if_pos rfl], by obtain ⟨a, b, c, d, rfl⟩ : ∃ a b c d, sg1 = { sg with now := a, ready := b, lat := c, loose := d } := ⟨_, _, _, _, hg⟩; rfl⟩
  · intro hsum
    have hx : ∀ i, sxOf (engOf { setEng { s with free := fr } q { E with run := some sg1.next } with cnt := counted s sg.slot c } q) sg.slot i = E.sx.getD (sxKey sg.slot i) 0 := by
      intro i; rw [hq, if_pos rfl]; rfl
    rw [hx, hx, hx, ← hE, if_pos hsum]
    exact sx_setSx3 _ _ _ _

theorem eltwise_acts (x : LaneRow) (reading : Option (Nat → Nat)) (k : ResKind) (slow : Nat → Bool) (f : Nat → Nat → Nat → Nat × Census)
    (hcmd : ∀ q (w : W64) s, exec (x.cmd q w) s = .next (eltwise s q w.toNat x.op x.useB x.useC k (slow w.toNat) f))
    (hop : opcodes.contains x.op = true)
    (hv : ∀ a b c, a < 2 ^ 32 → b < 2 ^ 32 → c < 2 ^ 32 → (f a b c).1 % 2 ^ 32 = x.val a b c % 2 ^ 32)
    (hk : (k = .fp ∧ reading = some id ∧ ∀ a b c, a < 2 ^ 32 → b < 2 ^ 32 → c < 2 ^ 32 → (f a b c).1 = x.val a b c) ∨
      (k = .int ∧ reading = some (fun v => near (Dy.ofInt (signed 32 v))) ∧ ∀ a b c, a < 2 ^ 32 → b < 2 ^ 32 → c < 2 ^ 32 → (f a b c).1 = x.val a b c) ∨
      (k = .raw ∧ reading = none)) : x.Acts reading := by
  intro q w s sg h hb n m hn hm
  rw [hcmd]
  unfold eltwise
  unfold LaneRow.regs at h
  dsimp only
  rw [issueWord_go h hb hop, h.sound]
  simp only [poisonCensus_nil, poisonRead_nil, census_zero_add, wipe_setRows h.sound]
  -- operand functions
  obtain ⟨A, hA⟩ : ∃ A : Nat → Nat → Nat, A = fun i j => lane s q (fMa w.toNat) i j := ⟨_, rfl⟩
  obtain ⟨B, hB⟩ : ∃ B : Nat → Nat → Nat, B = fun i j => if x.useB then laneB s q sg.slot w.toNat i j else lane s q (fMa w.toNat) i j := ⟨_, rfl⟩
  obtain ⟨C, hC⟩ : ∃ C : Nat → Nat → Nat, C = fun i j => if x.useC then lane s q (fMc w.toNat) i j else lane s q (fMa w.toNat) i j := ⟨_, rfl⟩
  have hBlt : ∀ i j, B i j < 2 ^ 32 := fun i j => by rw [hB]; dsimp only; split; exact laneB_lt ..; exact lane_lt ..
  have hClt : ∀ i j, C i j < 2 ^ 32 := fun i j => by rw [hC]; dsimp only; split <;> exact lane_lt ..
  have hAlt : ∀ i j, A i j < 2 ^ 32 := fun i j => by rw [hA]; exact lane_lt ..
  have hat : ∀ i j, x.at s q sg.slot w.toNat i j = x.val (A i j) (B i j) (C i j) := fun i j => by rw [hA, hB, hC]; rfl
  have hres : ((List.range (lenRows (engOf s q) sg.slot)).map (fun i =>
      (List.zip (operandReg (engOf s q) (fMa w.toNat) i (lenCols (engOf s q) sg.slot))
        (List.zip (if x.useB = true then operandB (engOf s q) sg.slot w.toNat i (lenCols (engOf s q) sg.slot) else operandReg (engOf s q) (fMa w.toNat) i (lenCols (engOf s q) sg.slot))
          (if x.useC = true then operandReg (engOf s q) (fMc w.toNat) i (lenCols (engOf s q) sg.slot) else operandReg (engOf s q) (fMa w.toNat) i (lenCols (engOf s q) sg.slot)))).map
        (fun y => f y.1 y.2.1 y.2.2))) = (List.range n).map (fun i => (List.range m).map (fun j => f (A i j) (B i j) (C i j))) := by
    rw [← hn, ← hm]
    refine List.map_congr_left (fun i _ => ?_)
    rw [← zip3_map_range]
    congr 1
    have e1 : operandReg (engOf s q) (fMa w.toNat) i m = (List.range m).map (A i) := by rw [hA]; rfl
    have e2 : (if x.useB = true then operandB (engOf s q) sg.slot w.toNat i m else operandReg (engOf s q) (fMa w.toNat) i m) = (List.range m).map (B i) := by
      rw [hB]; split
      · rw [operandB_list]
      · rfl
    have e3 : (if x.useC = true then operandReg (engOf s q) (fMc w.toNat) i m else operandReg (engOf s q) (fMa w.toNat) i m) = (List.range m).map (C i) := by
      rw [hC]; split <;> rfl
    rw [e2, e3, e1]
  rw [hres]
  obtain ⟨R, hR⟩ : ∃ R, R = (List.range n).map (fun i => (List.range m).map (fun j => f (A i j) (B i j) (C i j))) := ⟨_, rfl⟩
  rw [← hR]
  obtain ⟨vals, hvals⟩ : ∃ v, v = R.map (fun r => r.map Prod.fst) := ⟨_, rfl⟩
  rw [← hvals]
  have hvals2 : vals = (List.range n).map (fun i => (List.range m).map (fun j => (f (A i j) (B i j) (C i j)).1)) := by
    rw [hvals, hR, List.map_map]; refine List.map_congr_left (fun i _ => ?_); simp [Function.comp_def]
  have hlen : vals.length = n := by rw [hvals2]; simp
  have hn32 : n ≤ 32 := hn ▸ lenRows_le _ _
  have hm128 : m ≤ 128 := hm ▸ lenCols_le _ _
  rw [hlen]
  obtain ⟨L, hL⟩ : ∃ L, L = ((List.zip (List.range n) vals).map (fun x => rowPut (rowOf (engOf s q) (fMd w.toNat) x.1) 32 0 x.2)) := ⟨_, rfl⟩
  rw [← hL]
  have hLlen : L.length = n := by rw [hL]; simp [hlen]
  have hLget : ∀ i, i < n → L.getD i 0 = rowPut (rowOf (engOf s q) (fMd w.toNat) i) 32 0 ((List.range m).map (fun j => (f (A i j) (B i j) (C i j)).1)) := by
    intro i hi
    rw [hL, hvals2]
    simp [List.getD, hi]
  obtain ⟨sg1, hsg1⟩ : ∃ g, g = (if slow w.toNat = true then sg.issue (groupsOf n) 4 14 (fun g => (readyAt sg (fMa w.toNat) g).max
      ((if (x.useB && decide (fBsel w.toNat ≠ 1)) = true then readyAt sg (fMb w.toNat) (if fBsel w.toNat = 2 then fld (sxOf (engOf s q) sg.slot (fSxi w.toNat)).toNat 4 0 / 4 else g) else 0).max
        (if x.useC = true then readyAt sg (fMc w.toNat) g else 0))) (some (fMd w.toNat)) id
      else sg.issue (groupsOf n) 1 6 (fun g => (readyAt sg (fMa w.toNat) g).max
      ((if (x.useB && decide (fBsel w.toNat ≠ 1)) = true then readyAt sg (fMb w.toNat) (if fBsel w.toNat = 2 then fld (sxOf (engOf s q) sg.slot (fSxi w.toNat)).toNat 4 0 / 4 else g) else 0).max
        (if x.useC = true then readyAt sg (fMc w.toNat) g else 0))) (some (fMd w.toNat)) id) := ⟨_, rfl⟩
  rw [← hsg1]
  have hg : sg1 = { sg with now := sg1.now, ready := sg1.ready, lat := sg1.lat, loose := sg1.loose } := by rw [hsg1]; split <;> rfl
  clear hsg1
  obtain ⟨y, hy⟩ : ∃ y, y = (if fSum w.toNat = true then summaryOf s k 0 0 vals (censusOf R.flatten) else ((0, 0, 0), s)) := ⟨_, rfl⟩
  rw [← hy]
  have hys : y.2 = { s with free := y.2.free } := by
    rw [hy]; split
    · unfold summaryOf; cases k <;> rfl
    · rfl
  obtain ⟨h1, h2, h3⟩ := retire_executed (s' := y.2) (q := q) (sg := sg) (sg1 := sg1) (md := fMd w.toNat) (n := n) (sxd := fSxd w.toNat) (sum := fSum w.toNat)
    (x := y.1) (c := censusOf R.flatten) (e1 := setRows (engOf s q) (fMd w.toNat) L) hys (setRows_frame _ _ _)
    (fun r i hi hno => by rw [rowOf_setRows _ _ _ (by omega) _ _ hi, if_neg (by rw [hLlen]; exact hno)]) hg
  have hrow : ∀ i, i < n → rowOf (engOf (retire y.2 q (setRows (engOf s q) (fMd w.toNat) L) sg1 (fSum w.toNat) (fSxd w.toNat) y.1 (censusOf R.flatten)) q) (fMd w.toNat) i =
      rowPut (rowOf (engOf s q) (fMd w.toNat) i) 32 0 ((List.range m).map (fun j => (f (A i j) (B i j) (C i j)).1)) % 2 ^ 4096 := by
    intro i hi
    have : ∀ e : Eng, e.m = (setRows (engOf s q) (fMd w.toNat) L).m → rowOf e (fMd w.toNat) i = rowOf (setRows (engOf s q) (fMd w.toNat) L) (fMd w.toNat) i := fun e he => by unfold rowOf; rw [he]
    rw [this _ h2, rowOf_setRows _ _ _ (by omega) _ _ (by omega), if_pos ⟨rfl, by omega⟩, hLget i hi]
  refine ⟨_, censusOf R.flatten, rfl, h1, ?_, ?_, ?_⟩
  · intro i j hi hj
    unfold lane
    rw [hrow i hi, elemAt_row _ (by omega)]
    have := elemAt_rowPut_in (rowOf (engOf s q) (fMd w.toNat) i) 32 0 ((List.range m).map (fun j => (f (A i j) (B i j) (C i j)).1)) (i := j) (by simpa using hj)
    rw [Nat.zero_add] at this
    rw [this, getD_map_range _ _ _ hj, hat]
    exact hv _ _ _ (hAlt i j) (hBlt i j) (hClt i j)
  · intro i j hi hj hj2
    unfold lane
    rw [hrow i hi, elemAt_row _ (by omega), elemAt_rowPut_out]
    right; simp; omega
  · intro hsum
    obtain ⟨g1, g2, g3⟩ := h3 hsum
    rw [g1, g2, g3, hy, if_pos hsum]
    have hx2 : ∀ (hf : ∀ a b c, a < 2 ^ 32 → b < 2 ^ 32 → c < 2 ^ 32 → (f a b c).1 = x.val a b c),
        vals = (List.range n).map (fun i => (List.range m).map (fun j => x.at s q sg.slot w.toNat i j)) := by
      intro hf
      rw [hvals2]
      refine List.map_congr_left (fun i _ => List.map_congr_left (fun j _ => ?_))
      rw [hat, hf _ _ _ (hAlt i j) (hBlt i j) (hClt i j)]
    rcases hk with ⟨rfl, hr, hf⟩ | ⟨rfl, hr, hf⟩ | ⟨rfl, hr⟩
    · refine ⟨rfl, fun read hread rows hrows => ?_⟩
      rw [hr] at hread
      cases hread
      have : rows = vals := by rw [hrows, hx2 hf]; rfl
      rw [this]
      exact ⟨rfl, rfl⟩
    · refine ⟨rfl, fun read hread rows hrows => ?_⟩
      rw [hr] at hread
      cases hread
      have : rows = vals.map (fun r => r.map (fun v => (rnd32 (Dy.ofInt (signed 32 v))).1)) := by
        rw [hrows, hx2 hf, List.map_map]; refine List.map_congr_left (fun i _ => ?_); simp [Function.comp_def, near]
      rw [this]
      exact ⟨rfl, rfl⟩
    · exact ⟨rfl, fun read hread => by rw [hr] at hread; cases hread⟩

theorem near_def (v : Dy) : near v = (rnd32 v).1 := rfl

theorem satInt32_eq (i : Int) : (satInt 32 i).1 = sat32 i := by
  unfold satInt sat32
  have hp : (2 : Int) ^ 31 = 2147483648 := by decide
  have hq : (2 : Int) ^ 32 = 4294967296 := by decide
  simp only [show (32 - 1 : Nat) = 31 from rfl, hp, hq]
  split
  · rw [show max (-2147483648) (min (2147483648 - 1) i) = (2147483647 : Int) by omega]; rfl
  · split
    · rw [show max (-2147483648) (min (2147483648 - 1) i) = (-2147483648 : Int) by omega]
    · rw [show max (-2147483648) (min (2147483648 - 1) i) = i by omega]

theorem sar_lt (a k : Nat) : sar32 a k < 2 ^ 32 := by
  unfold sar32
  have : (signed 32 a / 2 ^ k : Int) % (2 : Int) ^ 32 < 2 ^ 32 := Int.emod_lt_of_pos _ (by decide)
  have h2 : 0 ≤ (signed 32 a / 2 ^ k : Int) % (2 : Int) ^ 32 := Int.emod_nonneg _ (by decide)
  omega

theorem endSegment_ended (s : State) (q : Nat) (sg : Seg) (status idx : Nat) (hl : (engOf s q).segFifo.length < 64) :
    SegEnded s q sg status idx (endSegment s q sg status idx) := by
  have hbs : ∀ (u : State) (it p n : Nat), (bumpSlot u it p n) = { u with cnt := (bumpSlot u it p n).cnt } := by
    intro u it p n; unfold bumpSlot; split
    · unfold bumpD; split <;> rfl
    · rfl
  have hheld : ∀ (l : List (Nat × W64)) (e : Eng), l.foldl (fun e x => setSx e sg.slot x.1 x.2) e = { e with sx := (l.foldl (fun e x => setSx e sg.slot x.1 x.2) e).sx } := by
    intro l; induction l with
    | nil => intro e; rfl
    | cons a l ih => intro e; rw [List.foldl_cons, ih]; rfl
  obtain ⟨x1, hx1⟩ : ∃ x1, applyHeld (engOf s q) sg = { engOf s q with sx := x1 } := ⟨_, hheld _ _⟩
  have hx2 : (sg.held.foldl (fun e x => setSx e sg.slot x.1 x.2) (engOf s q)).sx = x1 := by
    have := hx1; unfold applyHeld at this; rw [this]
  obtain ⟨cyc, fr, hc⟩ : ∃ cyc fr, segCycles sg s = (cyc, { s with free := fr }) := by
    unfold segCycles; split
    · exact ⟨_, _, rfl⟩
    · exact ⟨_, s.free, rfl⟩
  unfold endSegment
  dsimp only
  rw [if_neg (by omega), hc, hx1]
  dsimp only
  generalize hS1 : setEng { s with free := fr } q _ = S1
  have key : ∀ t : State, t = { S1 with cnt := t.cnt } → SegEnded s q sg status idx t := by
    intro t ht
    have hee : t.ee = S1.ee := by rw [ht]
    refine ⟨by rw [ht, ← hS1]; rfl, fun r hr => ?_, cyc, ?_⟩
    · rw [engOf_congr hee, ← hS1, engOf_setEng, if_neg hr]; exact engOf_congr rfl r
    · rw [engOf_congr hee, ← hS1, engOf_setEng, if_pos rfl, hx2]
  have h2 : ∃ c2, (if 256 < cyc then bumpSlot S1 Cnt.eeLongseg sg.slot 1 else S1) = { S1 with cnt := c2 } := by
    split
    · exact ⟨_, hbs _ _ _ _⟩
    · exact ⟨S1.cnt, rfl⟩
  obtain ⟨c2, h2⟩ := h2
  rw [h2]
  split
  · apply key; rw [hbs]
  · apply key; rfl

theorem issueWord_badOp {s : State} {q : Nat} {w : W64} {sg : Seg} (hh : held s = false) (hr : (engOf s q).run = some sg) (ho : fOp w.toNat ∉ opcodes)
    (op : Nat) (bad regs go) : issueWord s q w.toNat op bad regs go = endSegment s q sg 1 sg.idx := by
  unfold issueWord
  simp [hr, hh, ho]

theorem issueWord_bad {s : State} {q : Nat} {w : W64} {sg : Seg} {op : Nat} {bad : Eng → Seg → Bool} (hh : held s = false) (hr : (engOf s q).run = some sg)
    (ho : fOp w.toNat = op) (hop : opcodes.contains op = true) (hb : bad (engOf s q) sg = true)
    (regs go) : issueWord s q w.toNat op bad regs go = endSegment s q sg 1 sg.idx := by
  have hop' : op ∈ opcodes := by simpa using hop
  unfold issueWord
  simp [hr, hh, ho, hop', hb]

theorem eltwise_badOp {s : State} {q : Nat} {w : W64} {sg : Seg} (hh : held s = false) (hr : (engOf s q).run = some sg) (ho : fOp w.toNat ∉ opcodes)
    (op ub uc k sl f) : eltwise s q w.toNat op ub uc k sl f = endSegment s q sg 1 sg.idx := by
  unfold eltwise; exact issueWord_badOp hh hr ho _ _ _ _

theorem eltwise_bad {s : State} {q : Nat} {w : W64} {sg : Seg} {op : Nat} (hh : held s = false) (hr : (engOf s q).run = some sg)
    (ho : fOp w.toNat = op) (hop : opcodes.contains op = true) (ub uc : Bool) (hb : badA s w.toNat ub uc (engOf s q) sg = true)
    (k sl f) : eltwise s q w.toNat op ub uc k sl f = endSegment s q sg 1 sg.idx := by
  unfold eltwise; exact issueWord_bad hh hr ho hop hb _ _

theorem cvtRow_copy_flt {s : State} {e : Eng} {p w i m : Nat} (hb : e.bad = []) (h : cFsrc w = cFdst w) (f : Fmt) (hf : fmtOf (cFdst w) = some f) (hx : f.isMx = false) :
    (cvtRow s e p w i m).1 = rowPut (rowOf e (fMd w) i) f.bits (cDoff w) ((List.range m).map (fun j => elemAt (rowOf e (fMa w) i) f.bits (cSoff w + j))) := by
  have hc : cvtCell (cFsrc w) (cFdst w) = .copy := by unfold cvtCell; rw [if_pos h]
  unfold cvtRow
  rw [seenRow_sound hb]
  rw [hf, hc]
  cases f with
  | flt g => rfl
  | int n => rfl
  | mx g => cases hx

theorem cvtRow_copy_mx {s : State} {e : Eng} {p w i m : Nat} (hb : e.bad = []) (h : cFsrc w = cFdst w) (g : MxFmt) (hf : fmtOf (cFdst w) = some (.mx g)) :
    (cvtRow s e p w i m).1 = rowPut (rowPut (rowOf e (fMd w) i) g.bits (cDoff w) ((List.range (p32 m)).map (fun j => if j < m then elemAt (rowOf e (fMa w) i) g.bits (cSoff w + j) else 0)))
      8 (480 + cDoff w / 32) ((List.range (p32 m / 32)).map (fun b => elemAt (rowOf e (fMa w) i) 8 (480 + cSoff w / 32 + b))) := by
  have hc : cvtCell (cFsrc w) (cFdst w) = .copy := by unfold cvtCell; rw [if_pos h]
  unfold cvtRow
  rw [seenRow_sound hb]
  rw [hf, hc]
  rfl

theorem cvtCell_ne_copy {a b : Nat} (h : a ≠ b) : cvtCell a b ≠ .copy := by
  unfold cvtCell
  rw [if_neg h]
  repeat' split
  all_goals decide

theorem cvtRow_flt {s : State} {e : Eng} {p w i m : Nat} (hb : e.bad = []) (h : cFsrc w ≠ cFdst w) (g : FloatFmt) (hf : fmtOf (cFdst w) = some (.flt g)) :
    (cvtRow s e p w i m).1 = rowPut (rowOf e (fMd w) i) (Fmt.flt g).bits (cDoff w)
      ((List.range m).map (fun j => (g.round (cvtRnd s e p w i (cDoff w + j)) (readCol (rowOf e (fMa w) i) (cFsrc w) (cSoff w + j)).1).1)) := by
  have hc := cvtCell_ne_copy h
  unfold cvtRow
  rw [seenRow_sound hb]
  rw [hf]
  generalize hcc : cvtCell (cFsrc w) (cFdst w) = cc at hc
  have e1 : ∀ (F : Dy × Census → Nat → Nat × Bool), (List.map Prod.fst (List.map (fun x => F x.2 x.1) ((List.range m).zip (List.map (fun j => readCol (rowOf e (fMa w) i) (cFsrc w) (cSoff w + j)) (List.range m))))) =
      (List.range m).map (fun j => (F (readCol (rowOf e (fMa w) i) (cFsrc w) (cSoff w + j)) j).1) := by
    intro F; apply List.ext_getElem <;> simp
  have e2 := e1 (fun v j => g.round (cvtRnd s e p w i (cDoff w + j)) v.1)
  cases cc
  · exact absurd rfl hc
  all_goals (dsimp only; rw [← e2])

theorem cvtRow_int {s : State} {e : Eng} {p w i m : Nat} (hb : e.bad = []) (h : cFsrc w ≠ cFdst w) (n : Nat) (hf : fmtOf (cFdst w) = some (.int n)) :
    (cvtRow s e p w i m).1 = rowPut (rowOf e (fMd w) i) (Fmt.int n).bits (cDoff w)
      ((List.range m).map (fun j => (satInt n ((readCol (rowOf e (fMa w) i) (cFsrc w) (cSoff w + j)).1.toInt .rne)).1)) := by
  have hc := cvtCell_ne_copy h
  unfold cvtRow
  rw [seenRow_sound hb]
  rw [hf]
  generalize hcc : cvtCell (cFsrc w) (cFdst w) = cc at hc
  cases cc
  · exact absurd rfl hc
  all_goals (dsimp only; congr 1; simp only [List.map_map, Function.comp_def])

theorem cvtRow_mx {s : State} {e : Eng} {p w i m : Nat} (hb : e.bad = []) (h : cFsrc w ≠ cFdst w) (g : MxFmt) (hf : fmtOf (cFdst w) = some (.mx g)) :
    ∃ y, y = (fun b => g.convBlock ((List.range 32).map (fun k =>
              (if 32 * b + k < m then (readCol (rowOf e (fMa w) i) (cFsrc w) (cSoff w + (32 * b + k))).1 else Dy.zero,
                cvtRnd s e p w i (cDoff w + (32 * b + k)))))) ∧
    (cvtRow s e p w i m).1 = rowPut (rowPut (rowOf e (fMd w) i) g.bits (cDoff w) ((List.range (p32 m / 32)).flatMap (fun b => (y b).2.1)))
      8 (480 + cDoff w / 32) ((List.range (p32 m / 32)).map (fun b => (y b).1)) := by
  refine ⟨_, rfl, ?_⟩
  have hc := cvtCell_ne_copy h
  unfold cvtRow
  rw [seenRow_sound hb]
  rw [hf]
  generalize hcc : cvtCell (cFsrc w) (cFdst w) = cc at hc
  have hval : ∀ j, ((List.map (fun j => readCol (rowOf e (fMa w) i) (cFsrc w) (cSoff w + j)) (List.range m)).getD j (Dy.zero, {})).1 =
      if j < m then (readCol (rowOf e (fMa w) i) (cFsrc w) (cSoff w + j)).1 else Dy.zero := by
    intro j
    by_cases hj : j < m
    · simp [List.getD, hj]
    · simp [List.getD, hj]
  cases cc
  · exact absurd rfl hc
  all_goals
    dsimp only
    simp only [hval, List.map_map, Function.comp_def, List.flatMap_map, Nat.add_assoc]
    rfl

theorem convBlock_len (g : MxFmt) (l : List (Dy × Rnd)) : (g.convBlock l).2.1.length = l.length := by
  unfold MxFmt.convBlock
  cases topExp (List.map Prod.fst l) <;> simp

theorem flatMap32 (y : Nat → List Nat) (hy : ∀ b, (y b).length = 32) (n : Nat) : ((List.range n).flatMap y).length = 32 * n ∧
    ∀ b k, b < n → k < 32 → ((List.range n).flatMap y).getD (32 * b + k) 0 = (y b).getD k 0 := by
  induction n with
  | zero => simp
  | succ n ih =>
    obtain ⟨h1, h2⟩ := ih
    rw [List.range_succ, List.flatMap_append]
    refine ⟨by simp [h1, hy]; omega, fun b k hb hk => ?_⟩
    by_cases hbn : b < n
    · rw [List.getD_append _ _ _ _ (by rw [h1]; omega)]; exact h2 b k hbn hk
    · have : b = n := by omega
      subst this
      rw [List.getD_append_right _ _ _ _ (by rw [h1]; omega), h1]
      simp

theorem rowCapacity_bits (c : Nat) (f : Fmt) (hf : fmtOf c = some f) : rowCapacity c = (if f.isMx then 3840 else 4096) / f.bits ∧ 0 < f.bits ∧
    f.bits * rowCapacity c ≤ (if f.isMx then 3840 else 4096) ∧ isMxCode c = f.isMx := by
  unfold rowCapacity
  rw [hf]
  dsimp only
  refine ⟨rfl, ?_, ?_, ?_⟩
  all_goals
    unfold fmtOf at hf
    split at hf <;> first | (cases hf; done) | (cases hf; decide)

theorem p32_div (m : Nat) : 32 * (p32 m / 32) = p32 m ∧ m ≤ p32 m := by
  have : p32 m = (m + 32 - 1) / 32 * 32 := rfl
  rw [this]
  omega

theorem elemAt_rowPut_one (old : Nat) (di v j : Nat) : elemAt (rowPut old 32 di [v]) 32 j = if j = di then v % 2 ^ 32 else elemAt old 32 j := by
  by_cases h : j = di
  · rw [if_pos h, h]
    have := elemAt_rowPut_in old 32 di [v] (i := 0) (by simp)
    simpa using this
  · rw [if_neg h]
    apply elemAt_rowPut_out
    simp only [List.length_singleton]
    omega

theorem operandReg_list (s : State) (q r i m : Nat) : operandReg (engOf s q) r i m = (List.range m).map (fun j => lane s q r i j) := rfl

theorem loadRows_m (e : Eng) (reg : Nat) (r : Rows) (read) (hn : r.n ≤ 32) (e' : Eng) (he : e'.m = (loadRows e reg r read).m) :
    (∀ i, i < r.n → rowOf e' reg i = unpackRow r (rowOf e reg i) (read (r.base + i * r.stride) r.size) (read (r.scale + i * r.blocks) r.blocks) % 2 ^ 4096) ∧
    (∀ r' i, i < 32 → ¬ (r' = reg ∧ i < r.n) → rowOf e' r' i = rowOf e r' i) := by
  have h0 : ∀ r' i, rowOf e' r' i = rowOf (loadRows e reg r read) r' i := fun r' i => by unfold rowOf; rw [he]
  have hl : ((List.range r.n).map (fun i => unpackRow r (rowOf e reg i) (read (r.base + i * r.stride) r.size) (read (r.scale + i * r.blocks) r.blocks))).length = r.n := by simp
  refine ⟨fun i hi => ?_, fun r' i hi hno => ?_⟩
  · rw [h0]
    unfold loadRows
    rw [rowOf_wipe, rowOf_setRows _ _ _ (by rw [hl]; exact hn) _ _ (by omega), if_pos ⟨rfl, by rw [hl]; exact hi⟩, getD_map_range _ _ _ hi]
  · rw [h0]
    unfold loadRows
    rw [rowOf_wipe, rowOf_setRows _ _ _ (by rw [hl]; exact hn) _ _ hi, if_neg (by rw [hl]; exact hno)]

theorem bumpD_zero (s : State) (i d k : Nat) : (bumpD s i d 0).cnt.getD k 0 = s.cnt.getD k 0 := by
  unfold bumpD
  split
  · unfold bumpAt
    dsimp only
    rw [Tab.getD_set]
    split
    · subst_vars; simp [w64]
    · rfl
  · rfl

theorem counted_nil (s : State) (p k : Nat) : (counted s p {}).getD k 0 = s.cnt.getD k 0 := by
  unfold counted
  split
  · unfold bumpCensus; dsimp only; rw [bumpD_zero, bumpD_zero, bumpD_zero, bumpD_zero, bumpD_zero]
  · rfl

theorem lineRead_len (f a n) : (lineRead f a n).length = n := by simp [lineRead]

theorem leNat_cons (b : Byte) (bs : List Byte) : leNat (b :: bs) = b.toNat + 256 * leNat bs := rfl

theorem elemAt_leNat (bs : List Byte) (j : Nat) : elemAt (leNat bs) 8 j = (bs.getD j 0).toNat := by
  induction bs generalizing j with
  | nil => simp [leNat, elemAt]
  | cons b bs ih =>
    have hb : b.toNat < 256 := b.isLt
    cases j with
    | zero =>
      rw [leNat_cons]; unfold elemAt
      simp only [Nat.mul_zero, Nat.shiftRight_zero, List.getD_cons_zero]
      omega
    | succ j =>
      rw [List.getD_cons_succ, ← ih j, leNat_cons]
      unfold elemAt
      have : (b.toNat + 256 * leNat bs) >>> 8 = leNat bs := by rw [Nat.shiftRight_eq_div_pow]; omega
      rw [show 8 * (j + 1) = 8 + 8 * j by omega, Nat.shiftRight_add, this]

def byteLine (f : Nat → Nat) (a : Nat) : Byte := BitVec.ofNat 8 (elemAt (f (a / 64)) 8 (a % 64))

theorem ofNat_byte (b : Byte) : BitVec.ofNat 8 b.toNat = b := by simp

/-- one piece over a line space as a table fold -/
theorem foldl_set_lines (l : List (Nat × Nat)) (hnd : (l.map Prod.fst).Nodup) : ∀ (t : Tab Nat) (k : Nat),
    (l.foldl (fun t y => t.set 0 y.1 y.2) t).getD k 0 = match l.find? (fun y => y.1 == k) with | some y => y.2 | none => t.getD k 0 := by
  induction l with
  | nil => intro t k; rfl
  | cons a l ih =>
    intro t k
    rw [List.map_cons, List.nodup_cons] at hnd
    rw [List.foldl_cons, ih hnd.2, List.find?_cons]
    by_cases h : a.1 = k
    · have hb : (a.1 == k) = true := by simpa using h
      rw [hb]
      have : l.find? (fun y => y.1 == k) = none := by
        rw [List.find?_eq_none]
        intro y hy hyk
        exact hnd.1 (by rw [h, ← (by simpa using hyk : y.1 = k)]; exact List.mem_map_of_mem hy)
      rw [this]
      dsimp only
      rw [Tab.getD_set, if_pos h.symm]
    · have hb : (a.1 == k) = false := by simpa using h
      rw [hb]
      cases l.find? (fun y => y.1 == k) with
      | some y => rfl
      | none => dsimp only; rw [Tab.getD_set, if_neg (Ne.symm h)]

theorem lineWrites_find (line : Nat → Nat) (a : Nat) (bs : List Byte) (k : Nat) :
    ((lineWrites line a bs).map Prod.fst).Nodup ∧
    ∀ j, j < 64 → BitVec.ofNat 8 (elemAt (match (lineWrites line a bs).find? (fun y => y.1 == k) with | some y => y.2 | none => line k) 8 j) =
      if a ≤ 64 * k + j ∧ 64 * k + j < a + bs.length then bs.getD (64 * k + j - a) 0 else BitVec.ofNat 8 (elemAt (line k) 8 j) := by
  unfold lineWrites
  by_cases hbs : bs.isEmpty = true
  · rw [if_pos hbs]
    have : bs = [] := by simpa using hbs
    subst this
    refine ⟨List.nodup_nil, fun j _ => ?_⟩
    have hno : ¬ (a ≤ 64 * k + j ∧ 64 * k + j < a + ([] : List Byte).length) := by simp only [List.length_nil]; omega
    rw [if_neg hno]; rfl
  · rw [if_neg hbs]
    have hpos : 0 < bs.length := by
      cases bs with
      | nil => simp at hbs
      | cons _ _ => simp
    refine ⟨?_, fun j hj => ?_⟩
    · rw [List.map_map]
      have : (Prod.fst ∘ fun k : Nat => (a / 64 + k, leNat ((List.range 64).map (fun j =>
        if (decide (a ≤ 64 * (a / 64 + k) + j) && decide (64 * (a / 64 + k) + j < a + bs.length)) = true then bs.getD (64 * (a / 64 + k) + j - a) 0
        else BitVec.ofNat 8 (elemAt (line (a / 64 + k)) 8 j))))) = fun k => a / 64 + k := by funext k; rfl
      show (List.map (fun k => a / 64 + k) (List.range _)).Nodup
      exact List.Nodup.map (fun x y hxy => by simpa using hxy) List.nodup_range
    · rw [List.find?_map]
      by_cases hk : a / 64 ≤ k ∧ k ≤ (a + bs.length - 1) / 64
      · have hf : (List.range ((a + bs.length - 1) / 64 - a / 64 + 1)).find? ((fun y : Nat × Nat => y.1 == k) ∘ fun k : Nat => (a / 64 + k, leNat ((List.range 64).map (fun j =>
            if (decide (a ≤ 64 * (a / 64 + k) + j) && decide (64 * (a / 64 + k) + j < a + bs.length)) = true then bs.getD (64 * (a / 64 + k) + j - a) 0
            else BitVec.ofNat 8 (elemAt (line (a / 64 + k)) 8 j))))) = some (k - a / 64) := by
          rw [List.find?_range_eq_some]
          refine ⟨by simp; omega, by rw [List.mem_range]; omega, fun m hm => by simp; omega⟩
        rw [hf]
        dsimp only [Option.map]
        have hkk : a / 64 + (k - a / 64) = k := by omega
        rw [hkk, elemAt_leNat, ofNat_byte]
        rw [List.getD_eq_getElem?_getD, List.getElem?_map, List.getElem?_range hj]
        dsimp only [Option.map, Option.getD]
        simp only [Bool.and_eq_true, decide_eq_true_eq]
      · have hf : (List.range ((a + bs.length - 1) / 64 - a / 64 + 1)).find? ((fun y : Nat × Nat => y.1 == k) ∘ fun k : Nat => (a / 64 + k, leNat ((List.range 64).map (fun j =>
            if (decide (a ≤ 64 * (a / 64 + k) + j) && decide (64 * (a / 64 + k) + j < a + bs.length)) = true then bs.getD (64 * (a / 64 + k) + j - a) 0
            else BitVec.ofNat 8 (elemAt (line (a / 64 + k)) 8 j))))) = none := by
          rw [List.find?_eq_none]
          intro m hm
          rw [List.mem_range] at hm
          simp
          omega
        rw [hf]
        dsimp only [Option.map]
        rw [if_neg (by omega)]

theorem scratchPut_bytes (l : List (Nat × List Byte)) : ∀ sg : Seg, scratchPut sg l = { sg with scratch := (scratchPut sg l).scratch } ∧
    ∀ a, scratchByte (scratchPut sg l) a = (pieceAt l a).getD (scratchByte sg a) := by
  induction l using List.reverseRecOn with
  | nil => intro sg; exact ⟨rfl, fun a => rfl⟩
  | append_singleton l x ih =>
    intro sg
    obtain ⟨h1, h2⟩ := ih sg
    have he : scratchPut sg (l ++ [x]) = { scratchPut sg l with scratch := (lineWrites (scratchLine (scratchPut sg l)) x.1 x.2).foldl (fun t y => t.set 0 y.1 y.2) (scratchPut sg l).scratch } := by
      unfold scratchPut; rw [List.foldl_append]; rfl
    refine ⟨?_, fun a => ?_⟩
    · rw [he]
      generalize (lineWrites (scratchLine (scratchPut sg l)) x.1 x.2).foldl (fun t y => t.set 0 y.1 y.2) (scratchPut sg l).scratch = z
      obtain ⟨c, hc⟩ : ∃ c, scratchPut sg l = { sg with scratch := c } := ⟨_, h1⟩
      rw [hc]
    · rw [he]
      obtain ⟨n1, n2⟩ := lineWrites_find (scratchLine (scratchPut sg l)) x.1 x.2 (a / 64)
      have n3 := n2 (a % 64) (Nat.mod_lt _ (by decide))
      have ha : 64 * (a / 64) + a % 64 = a := Nat.div_add_mod a 64
      rw [ha] at n3
      have hline : scratchLine { scratchPut sg l with scratch := (lineWrites (scratchLine (scratchPut sg l)) x.1 x.2).foldl (fun t y => t.set 0 y.1 y.2) (scratchPut sg l).scratch } (a / 64) =
          match (lineWrites (scratchLine (scratchPut sg l)) x.1 x.2).find? (fun y => y.1 == a / 64) with | some y => y.2 | none => scratchLine (scratchPut sg l) (a / 64) := by
        unfold scratchLine
        exact foldl_set_lines _ n1 _ _
      have hb : scratchByte { scratchPut sg l with scratch := (lineWrites (scratchLine (scratchPut sg l)) x.1 x.2).foldl (fun t y => t.set 0 y.1 y.2) (scratchPut sg l).scratch } a =
          if x.1 ≤ a ∧ a < x.1 + x.2.length then x.2.getD (a - x.1) 0 else scratchByte (scratchPut sg l) a := by
        unfold scratchByte
        rw [hline, n3]
      rw [hb]
      unfold pieceAt
      rw [List.reverse_append, List.reverse_singleton, List.singleton_append, List.find?_cons]
      by_cases hc : x.1 ≤ a ∧ a < x.1 + x.2.length
      · have : (decide (x.1 ≤ a) && decide (a < x.1 + x.2.length)) = true := by simp [hc]
        rw [this, if_pos hc]; rfl
      · have : (decide (x.1 ≤ a) && decide (a < x.1 + x.2.length)) = false := by
          by_contra hh
          simp at hh
          exact hc hh
        rw [this, if_neg hc, h2 a]
        rfl

theorem issueLoad_seg (sg : Seg) (r : Rows) (load : Bool) (reg : Nat) :
    issueLoad sg r load reg = { sg with idx := sg.idx + 1, now := (issueLoad sg r load reg).now, ready := (issueLoad sg r load reg).ready, lat := (issueLoad sg r load reg).lat, loose := true } := rfl

theorem loadRows_loaded {s s0 : State} {q : Nat} {sg g : Seg} {reg : Nat} {r : Rows} {read} (hb : (engOf s q).bad = []) (hn : r.n ≤ 32) (hs : s0 = { s with free := s0.free })
    (hg : g = { sg with idx := sg.idx + 1, now := g.now, ready := g.ready, lat := g.lat, loose := g.loose }) :
    Loaded s q sg reg r read (setEng s0 q { loadRows (engOf s q) reg r read with run := some g }) := by
  obtain ⟨fr, rfl⟩ : ∃ fr, s0 = { s with free := fr } := ⟨_, hs⟩
  clear hs
  have hq : ∀ k, engOf (setEng { s with free := fr } q { loadRows (engOf s q) reg r read with run := some g }) k = if k = q then { loadRows (engOf s q) reg r read with run := some g } else engOf s k := by
    intro k; rw [engOf_setEng]; split
    · rfl
    · exact engOf_congr rfl k
  obtain ⟨m1, hm⟩ : ∃ m1, loadRows (engOf s q) reg r read = { engOf s q with m := m1 } := ⟨_, (wipe_setRows hb _ _ _).trans (setRows_frame _ _ _)⟩
  have hL := loadRows_m (engOf s q) reg r read hn (engOf (setEng { s with free := fr } q { loadRows (engOf s q) reg r read with run := some g }) q) (by rw [hq, if_pos rfl])
  refine ⟨⟨rfl, ?_, fun k hk => by rw [hq, if_neg hk], ?_, hL.2, ?_, g, ?_, hg⟩, hL.1⟩
  · intro k; rw [counted_nil]; rfl
  · rw [hq, if_pos rfl, hm]
  · intro k _; rw [hq, if_pos rfl, hm]
  · rw [hq, if_pos rfl]

theorem partOf_updPart (s : State) (d e : Nat) (f : Part → Part) : partOf (updPart s d f) e = if e = d then (partOf s d).map f else partOf s e := by
  unfold partOf updPart
  dsimp only
  exact Tab.find?_upd _ _ _ _

theorem forEach_ee {α : Type} (l : List α) (f : State → α → State) (hf : ∀ s a, (f s a).ee = s.ee) : ∀ s, (forEach l s f).ee = s.ee := by
  unfold forEach
  induction l with
  | nil => intro s; rfl
  | cons a l ih => intro s; rw [List.foldl_cons, ih, hf]

theorem drainEnd_ee (s : State) (x : Nat) : (drainEnd s x).ee = s.ee := by
  unfold drainEnd
  split
  · split
    · split
      · dsimp only
        rw [forEach_ee]
        · rfl
        · intro _ _; rfl
      · split
        · rfl
        · rfl
    · rfl
  · rfl

theorem oldFree_ee (s : State) (x : Nat) : (oldFree s x).ee = s.ee := by unfold oldFree; split <;> rfl

theorem homeEntryIdle_ee (s : State) (x : Nat) : (homeEntryIdle s x).ee = s.ee := by
  unfold homeEntryIdle; split
  · split <;> rfl
  · rfl

theorem unpin_ee (s : State) (x c : Nat) : (unpin s x c).ee = s.ee := by
  unfold unpin; rw [homeEntryIdle_ee, oldFree_ee, drainEnd_ee]; rfl

theorem bumpD_ee (s : State) (i d n : Nat) : (bumpD s i d n).ee = s.ee := by unfold bumpD; split <;> rfl

theorem xferFailed_ee (s : State) (d : Nat) (x : Xfer) : (xferFailed s d x).ee = s.ee := by
  unfold xferFailed
  split
  · unfold recEvent recEntry; dsimp only; split <;> exact bumpD_ee _ _ _ _
  · rfl

theorem keepKeys_getD (t : Tab W64) (f : Nat → Bool) (k : Nat) (h : f k = false) : (t.keepKeys f).getD k 0 = 0 := by
  unfold Tab.getD
  have : (t.keepKeys f).find? k = none := by
    unfold Tab.keepKeys
    induction t with
    | nil => rfl
    | cons e t ih =>
      rw [List.filter_cons]
      split
      · rename_i he
        obtain ⟨a, b⟩ := e
        have : k ≠ a := by intro hk; subst hk; simp [h] at he
        rw [show Tab.find? ((a, b) :: List.filter (fun e => f e.1) t) k = if k = a then some b else Tab.find? (List.filter (fun e => f e.1) t) k from rfl, if_neg this]
        exact ih
      · exact ih
  rw [this]; rfl

theorem slotFor_free (s : State) (p : Nat) (h : slotFor s = some p) : (slotPart s p).isNone := by
  unfold slotFor at h
  dsimp only at h
  have hm : p ∈ (List.range 8).filter (fun p => (slotPart s p).isNone) := by
    split at h
    · rename_i q hq
      cases h
      exact List.mem_of_find?_eq_some hq
    · exact List.mem_of_mem_head? h
  simpa using (List.mem_filter.mp hm).2

theorem mapShare_od (s : State) (d : Nat) : (mapShare s d).od = s.od := by unfold mapShare; split <;> rfl

theorem mapShare_cnt (s : State) (d : Nat) : (mapShare s d).cnt = s.cnt := by unfold mapShare; split <;> rfl

theorem mapShare_part {s : State} {d : Nat} {P : Machine.Part} (h : partOf s d = some P) : ∃ g, partOf (mapShare s d) d = some { P with granules := g } := by
  unfold mapShare
  rw [h]
  dsimp only [Option.bind]
  cases hs : P.slot with
  | none =>
    refine ⟨P.granules, ?_⟩
    show partOf s d = _
    rw [h, ← hs]
  | some p =>
    dsimp only [Option.map]
    rw [partOf_updPart, if_pos rfl, h]
    exact ⟨_, by rw [← hs]; rfl⟩

theorem partOf_put (S : State) (d : Nat) (V : Machine.Part) : partOf { S with parts := S.parts.put d V } d = some V := Tab.find?_put_self _ _ _

theorem parts_del_find (t : Tab Machine.Part) (d : Nat) : (t.del d).find? d = none := by simp [Tab.find?_del]

theorem post_boot (s : State) (a : Nat) (d : Option Nat) (b c e : Nat) : (post s a d b c e).boot = s.boot := by
  rw [(post_posted s a d b c e).rest]

theorem raiseIbi_boot (s : State) (b : Nat) : (raiseIbi s b).boot = s.boot := by unfold raiseIbi; split <;> rfl

theorem replaceRise_boot (s : State) : (replaceRise s).boot = s.boot := by
  unfold replaceRise; split
  · rfl
  · rw [raiseIbi_boot, post_boot]; rfl

theorem forEach_setEng (l : List Nat) (f : State → Nat → Eng) : ∀ s, (forEach l s (fun s q => setEng s q (f s q))) = { s with ee := (forEach l s (fun s q => setEng s q (f s q))).ee } := by
  unfold forEach
  induction l with
  | nil => intro s; rfl
  | cons a l ih => intro s; rw [List.foldl_cons, ih]; rfl

theorem freeSlot_frame (s : State) (p : Nat) : ∃ od ee mp, freeSlotNow s p = { s with od := od, ee := ee, mp := mp } := by
  unfold freeSlotNow engsClear
  dsimp only
  rw [forEach_setEng]
  exact ⟨_, _, _, rfl⟩

theorem tileState_put (t : Tab Nat) (x v y : Nat) : (t.put x v).getD y 3 = if y = x then v else t.getD y 3 := by
  unfold Tab.getD; rw [Tab.find?_put]; split <;> rfl

theorem post_rel (s : State) (a : Nat) (d : Option Nat) (b c e : Nat) : (post s a d b c e).rel = s.rel := by
  rw [(post_posted s a d b c e).rest]

theorem post_cntk (s : State) (a : Nat) (d : Option Nat) (b c e k : Nat) (hk : k ≠ cntKey Cnt.evDrop 0) : (post s a d b c e).cnt.getD k 0 = s.cnt.getD k 0 :=
  (post_posted s a d b c e).cnt k hk

theorem raiseIbi_rel (s : State) (b : Nat) : (raiseIbi s b).rel = s.rel := by unfold raiseIbi; split <;> rfl

theorem raiseIbi_cnt (s : State) (b : Nat) : (raiseIbi s b).cnt = s.cnt := by unfold raiseIbi; split <;> rfl

theorem replaceRise_rel (s : State) : (replaceRise s).rel = { s.rel with replace := true } := by
  unfold replaceRise
  split
  · rename_i h
    have : s.rel = { s.rel with replace := s.rel.replace } := rfl
    rw [this, h]
  · rw [raiseIbi_rel, post_rel]; rfl

theorem replaceRise_cntk (s : State) (k : Nat) (hk : k ≠ cntKey Cnt.evDrop 0) : (replaceRise s).cnt.getD k 0 = s.cnt.getD k 0 := by
  unfold replaceRise
  split
  · rfl
  · rw [raiseIbi_cnt, post_cntk _ _ _ _ _ _ _ hk]; rfl

theorem bumpD_other (s : State) (i d n k : Nat) (hk : k ≠ cntKey i d) : (bumpD s i d n).cnt.getD k 0 = s.cnt.getD k 0 := by
  unfold bumpD; split
  · unfold bumpAt; dsimp only; rw [Tab.getD_set, if_neg hk]
  · rfl

theorem bumpD_rel (s : State) (i d n : Nat) : (bumpD s i d n).rel = s.rel := by unfold bumpD; split <;> rfl

theorem substitute_frame (s : State) (l sp : Nat) : (substitute s l sp).rel = { s.rel with map := s.rel.map.put l sp, tiles := s.rel.tiles.put sp 0, subst := s.rel.subst.filter (fun x => x.1 != l), substAt := s.rel.substAt.filter (fun x => x.1 != l) } ∧
    (substitute s l sp) = { s with rel := (substitute s l sp).rel, cnt := (substitute s l sp).cnt } ∧
    ∀ k, (∀ d, k ≠ cntKey Cnt.tileSubst d) → (substitute s l sp).cnt.getD k 0 = s.cnt.getD k 0 := by
  unfold substitute
  dsimp only
  generalize hs1 : (updRel s (fun r => { r with map := r.map.put l sp, tiles := r.tiles.put sp 0, subst := r.subst.filter (fun x => x.1 != l), substAt := r.substAt.filter (fun x => x.1 != l) })) = s1
  have key : ∀ (f : State → Nat × Machine.Part → State) (hf : ∀ S a, f S a = S ∨ f S a = bumpD S Cnt.tileSubst a.1 1) (L : List (Nat × Machine.Part)) (S : State),
      forEach L S f = { S with cnt := (forEach L S f).cnt } ∧ ∀ k, (∀ d, k ≠ cntKey Cnt.tileSubst d) → (forEach L S f).cnt.getD k 0 = S.cnt.getD k 0 := by
    intro f hf L
    unfold forEach
    induction L with
    | nil => intro S; exact ⟨rfl, fun _ _ => rfl⟩
    | cons a L ih =>
      intro S
      rw [List.foldl_cons]
      rcases hf S a with h | h
      · rw [h]; exact ih S
      · rw [h]
        obtain ⟨h1, h2⟩ := ih (bumpD S Cnt.tileSubst a.1 1)
        refine ⟨?_, fun k hk => ?_⟩
        · rw [h1]
          have : ∃ c, bumpD S Cnt.tileSubst a.1 1 = { S with cnt := c } := by unfold bumpD; split; exact ⟨_, rfl⟩; exact ⟨S.cnt, rfl⟩
          obtain ⟨c, hc⟩ := this
          rw [hc]
        · rw [h2 k hk, bumpD_other _ _ _ _ _ (hk _)]
  have hgen : ∀ (T : State) (f : State → Nat × Machine.Part → State), forEach (residents s1) s1 f = T →
      (∀ S a, f S a = S ∨ f S a = bumpD S Cnt.tileSubst a.1 1) → T = { s1 with cnt := T.cnt } ∧ ∀ k, (∀ d, k ≠ cntKey Cnt.tileSubst d) → T.cnt.getD k 0 = s1.cnt.getD k 0 :=
    fun T f h hf => h ▸ key f hf _ _
  generalize hT : forEach (residents s1) s1 _ = T
  obtain ⟨h1, h2⟩ := hgen T _ hT (fun S a => by
    cases h : a.2.slot with
    | none => exact .inl rfl
    | some p => dsimp only; split; exact .inr rfl; exact .inl rfl)
  refine ⟨?_, ?_, fun k hk => ?_⟩
  · rw [h1, ← hs1]; rfl
  · obtain ⟨c, hc⟩ : ∃ c, T = { s1 with cnt := c } := ⟨_, h1⟩
    rw [hc, ← hs1]; rfl
  · rw [h2 k hk, ← hs1]; rfl

theorem zeroed_lane (old k j : Nat) : elemAt (rowPut old 64 k [0]) 32 j = if j / 2 = k then 0 else elemAt old 32 j := by
  by_cases h : j / 2 = k
  · rw [if_pos h]
    have e : elemAt (rowPut old 64 k [0]) 32 j = elemAt (rowPut old 64 k [0] >>> (64 * k)) 32 (j % 2) := by
      unfold elemAt; rw [← Nat.shiftRight_add]; congr 2; omega
    rw [e, rowPut_shift]
    have z : elemAt (packed 64 [0] + (old >>> (64 * (k + [0].length))) * 2 ^ (64 * [0].length)) 32 (j % 2) = elemAt 0 32 (j % 2) := by
      refine elemAt_low (k := 64) ?_ (by omega)
      rw [show packed 64 [0] = 0 from rfl, List.length_singleton, Nat.mul_one, Nat.zero_add, Nat.mul_mod_left, Nat.zero_mod]
    rw [z]; unfold elemAt; simp
  · rw [if_neg h]
    refine elemAt_rowPut_out _ _ _ _ ?_
    rw [List.length_singleton]; omega

/-- What a find in a tile register leaves. -/
theorem scrubReg_is (s : State) (q k : Nat) (hk : k < 32768) :
    (∀ x, x ∈ (engOf (scrubReg s q k) q).bad ↔ x = k ∨ x ∈ (engOf s q).bad) ∧ (∀ r, r ≠ q → engOf (scrubReg s q k) r = engOf s r) ∧
    ∀ r i j, i < 32 → j < 128 → lane (scrubReg s q k) q r i j = if 2048 * r + 64 * i + j / 2 = k then 0 else lane s q r i j := by
  unfold scrubReg
  dsimp only
  refine ⟨fun x => ?_, fun r hr => ?_, fun r i j hi hj => ?_⟩
  · rw [engOf_setEng, if_pos rfl]
    dsimp only
    split
    · rename_i h
      have : k ∈ (engOf s q).bad := by simpa using h
      constructor
      · exact .inr
      · rintro (rfl | h)
        · exact this
        · exact h
    · exact List.mem_cons
  · rw [engOf_setEng, if_neg hr]
  · unfold lane
    rw [engOf_setEng, if_pos rfl]
    have : ∀ (e : Eng) (b : List Nat), rowOf { e with bad := b } r i = rowOf e r i := fun _ _ => rfl
    rw [this, rowOf_setRow _ _ _ _ _ _ (by omega) hi]
    by_cases h : r = k / 2048 ∧ i = k % 2048 / 64
    · rw [if_pos h, elemAt_row _ (by omega), zeroed_lane, h.1, h.2]
      by_cases h2 : j / 2 = k % 64
      · rw [if_pos h2, if_pos (by omega)]
      · rw [if_neg h2, if_neg (by omega)]
    · rw [if_neg h, if_neg (by omega)]

theorem eccUncorr_ee (s : State) (a b : Nat) (c : Bool) (d : Nat) : (eccUncorr s a b c d).ee = s.ee := by
  unfold eccUncorr; rw [(post_posted _ _ _ _ _ _).rest]; rfl

theorem scrub_reg_find (s : State) (q k : Nat) (hq : q < cfgQuads s) (hk : k < 32768) :
    ∃ u : State, u.ee = s.ee ∧ scrubFind s (6, 32768 * q + k, true) = scrubReg u q k := by
  refine ⟨eccUncorr s 6 q true (k / 8), eccUncorr_ee _ _ _ _ _, ?_⟩
  unfold scrubFind
  dsimp only
  have hr : scrubRange s 6 = cfgQuads s * 32768 := rfl
  have hs : scrubbed 6 = true := rfl
  have h1 : (32768 * q + k) / 32768 = q := by omega
  have h2 : (32768 * q + k) % 32768 = k := by omega
  rw [hr, hs, if_neg (by simp; omega), if_pos rfl]
  show scrubReg (eccUncorr s 6 ((32768 * q + k) / 32768) true ((32768 * q + k) % 32768 / 8)) ((32768 * q + k) / 32768) ((32768 * q + k) % 32768) = _
  rw [h1, h2]

theorem withSlot_command {s : State} {i : Inst} {code : Nat → Machine.Part → Nat} {go : Nat → Machine.Part → State} :
    SlotCommand s i code go (withSlot s i (fun d P => if code d P ≠ 0 then refuse s i (some d) (code d P) else go d P)) := by
  unfold withSlot
  refine ⟨fun h => ?_, fun d P h => ⟨fun hc => ?_, fun hc => ?_⟩⟩
  · rw [h]; exact refuse_ends _ _ _ _
  · rw [h]; dsimp only; rw [if_pos hc]; exact refuse_ends _ _ _ _
  · rw [h]; dsimp only; rw [if_neg (by simp [hc])]

theorem atBoundary_now {s : State} {i : Inst} {d : Nat} {P : Machine.Part} (h : boundaries P = 0) (f : State → Inst → State) : atBoundary s i d P f = f s i := by
  unfold atBoundary; rw [if_pos h]

theorem foldl_least (key : Nat × Blk → Nat) (l : List (Nat × Blk)) : ∀ a : Option (Nat × Blk), (∀ e, a = some e → True) →
    ∀ r, r = l.foldl (fun (a : Option (Nat × Blk)) e => match a with
    | none => some e
    | some x => if key e < key x then some e else some x) a →
    (∀ x, a = some x → ∃ y, r = some y ∧ key y ≤ key x ∧ (y = x ∨ y ∈ l)) ∧ (a = none → l ≠ [] → ∃ y, r = some y ∧ y ∈ l) ∧ (∀ y, r = some y → ∀ e ∈ l, key y ≤ key e) := by
  induction l with
  | nil =>
    intro a _ r hr
    subst hr
    exact ⟨(fun x hx => ⟨x, hx, Nat.le_refl _, .inl rfl⟩), (fun _ h => absurd rfl h), (fun y _ e he => nomatch he)⟩
  | cons e l ih =>
    intro a _ r hr
    rw [List.foldl_cons] at hr
    cases a with
    | none =>
      obtain ⟨i1, i2, i3⟩ := ih (some e) (fun _ _ => trivial) r hr
      obtain ⟨y, hy, hle, hmem⟩ := i1 e rfl
      refine ⟨(fun x hx => nomatch hx), fun _ _ => ⟨y, hy, ?_⟩, fun z hz e' he' => ?_⟩
      · rcases hmem with rfl | h
        · exact List.mem_cons_self
        · exact List.mem_cons_of_mem _ h
      · rcases List.mem_cons.mp he' with rfl | h
        · rw [hy] at hz; cases hz; exact hle
        · exact i3 z hz e' h
    | some x =>
      by_cases hk : key e < key x
      · dsimp only at hr; rw [if_pos hk] at hr
        obtain ⟨i1, i2, i3⟩ := ih (some e) (fun _ _ => trivial) r hr
        obtain ⟨y, hy, hle, hmem⟩ := i1 e rfl
        refine ⟨fun x' hx' => ?_, (fun h => nomatch h), fun z hz e' he' => ?_⟩
        · cases hx'
          refine ⟨y, hy, by omega, ?_⟩
          rcases hmem with rfl | h
          · exact .inr List.mem_cons_self
          · exact .inr (List.mem_cons_of_mem _ h)
        · rcases List.mem_cons.mp he' with rfl | h
          · rw [hy] at hz; cases hz; exact hle
          · exact i3 z hz e' h
      · dsimp only at hr; rw [if_neg hk] at hr
        obtain ⟨i1, i2, i3⟩ := ih (some x) (fun _ _ => trivial) r hr
        obtain ⟨y, hy, hle, hmem⟩ := i1 x rfl
        refine ⟨fun x' hx' => ?_, (fun h => nomatch h), fun z hz e' he' => ?_⟩
        · cases hx'
          refine ⟨y, hy, hle, ?_⟩
          rcases hmem with rfl | h
          · exact .inl rfl
          · exact .inr (List.mem_cons_of_mem _ h)
        · rcases List.mem_cons.mp he' with rfl | h
          · rw [hy] at hz; cases hz; omega
          · exact i3 z hz e' h

theorem insertBy_head {α : Type} (f : α → Nat) (x : α) : ∀ l : List α, ∃ y t, insertBy f x l = y :: t ∧ f y ≤ f x ∧ (∀ z, l.head? = some z → f y ≤ f z) ∧ (y = x ∨ l.head? = some y) := by
  intro l
  cases l with
  | nil => exact ⟨x, [], rfl, Nat.le_refl _, (fun _ h => nomatch h), .inl rfl⟩
  | cons a t =>
    unfold insertBy
    split
    · exact ⟨x, a :: t, rfl, Nat.le_refl _, (fun z hz => by cases hz; omega), .inl rfl⟩
    · exact ⟨a, _, rfl, by omega, (fun z hz => by cases hz; exact Nat.le_refl _), .inr rfl⟩

theorem sortBy_head {α : Type} (f : α → Nat) (l : List α) : ∀ acc : List α,
    (∀ y, (l.foldl (fun acc x => insertBy f x acc) acc).head? = some y → (y ∈ l ∨ acc.head? = some y) ∧ (∀ z ∈ l, f y ≤ f z) ∧ (∀ z, acc.head? = some z → f y ≤ f z)) ∧
    ((l.foldl (fun acc x => insertBy f x acc) acc).head? = none → l = [] ∧ acc.head? = none) := by
  induction l with
  | nil => intro acc; exact ⟨fun y hy => ⟨.inr hy, (fun _ h => nomatch h), fun z hz => by rw [List.foldl_nil] at hy; rw [hy] at hz; cases hz; exact Nat.le_refl _⟩, fun h => ⟨rfl, h⟩⟩
  | cons a l ih =>
    intro acc
    rw [List.foldl_cons]
    obtain ⟨h1, h2⟩ := ih (insertBy f a acc)
    obtain ⟨b, t, hb, hb1, hb2, hb3⟩ := insertBy_head f a acc
    refine ⟨fun y hy => ?_, fun h => ?_⟩
    · obtain ⟨i1, i2, i3⟩ := h1 y hy
      have hyb := i3 b (by rw [hb]; rfl)
      refine ⟨?_, fun z hz => ?_, fun z hz => Nat.le_trans hyb (hb2 z hz)⟩
      · rcases i1 with i | i
        · exact .inl (List.mem_cons_of_mem _ i)
        · rw [hb] at i; cases i
          rcases hb3 with rfl | h
          · exact .inl List.mem_cons_self
          · exact .inr h
      · rcases List.mem_cons.mp hz with rfl | hz
        · exact Nat.le_trans hyb hb1
        · exact i2 z hz
    · have := (h2 h).2; rw [hb] at this; cases this

theorem zq_is (l : List Nat) : ∀ S : State, forEach l S (fun s ch => onfi s ch onfiZq) = { S with fl := { S.fl with ops := (forEach l S (fun s ch => onfi s ch onfiZq)).fl.ops } } ∧
    ∀ ch, (forEach l S (fun s ch => onfi s ch onfiZq)).fl.ops.find? ch = if ch ∈ l then some onfiZq else S.fl.ops.find? ch := by
  unfold forEach
  induction l with
  | nil => intro S; exact ⟨rfl, fun ch => by simp⟩
  | cons a l ih =>
    intro S
    rw [List.foldl_cons]
    obtain ⟨h1, h2⟩ := ih (onfi S a onfiZq)
    refine ⟨?_, fun ch => ?_⟩
    · rw [h1]; rfl
    · rw [h2]
      have : (onfi S a onfiZq).fl.ops.find? ch = if ch = a then some onfiZq else S.fl.ops.find? ch := Tab.find?_put _ _ _ _
      rw [this]
      by_cases hl : ch ∈ l
      · simp [hl]
      · by_cases ha : ch = a <;> simp [hl, ha]

theorem endRow_is {s : State} {a it : Nat} {r : CmdRef} {i : Inst} (hh : held s = false) (h : instAt s a it r = some i) (st : InstSt) (f : State → Inst → State) :
    endRow s a it r st f = if i.st = st then f s i else s := by
  unfold endRow; rw [hh, if_neg (by simp), h]

theorem status_setInst (s : State) (i : Inst) : statusOf (setInst s i) i = some { state := (match i.st with | .pending => 2 | _ => 1), tag := i.tag } := by
  unfold statusOf setInst putStat
  dsimp only
  exact Tab.find?_put_self _ _ _

theorem partOf_updPart_self {s : State} {d : Nat} {P : Machine.Part} (hp : partOf s d = some P) (f : Machine.Part → Machine.Part) : partOf (updPart s d f) d = some (f P) := by
  unfold updPart partOf
  dsimp only
  rw [Tab.find?_upd, if_pos rfl]
  unfold partOf at hp
  rw [hp]
  rfl

theorem partOf_updPart_other (s : State) {d e : Nat} (h : e ≠ d) (f : Machine.Part → Machine.Part) : partOf (updPart s d f) e = partOf s e := by
  unfold updPart partOf
  dsimp only
  rw [Tab.find?_upd, if_neg h]

theorem setStride_tm (s : State) (d h n : Nat) : ∃ x, setStride s d h n = { s with tm := { s.tm with objs := x } } := ⟨_, rfl⟩

theorem ringRead_is {s : State} {p d idx : Nat} {P : Machine.Part} {w : List W64} (h : ringNext s p = some (d, P, idx, w)) (mine : Nat → Bool) :
    ringRead s p mine = if !mine (reqOp w) then s else
      let code := reqCheck s p d P w
      let s1 := updPart s d (fun P => { P with rqTail := (idx + 1) % Nat.max (lastVal s 6 0x21 p).toNat 1 })
      if code ≠ 0 then reqRefuse s1 d code idx w
      else match reqOp w, freeCtxNo s1 d with
        | 1, some c => reqNew s1 d P idx c w
        | 1, none => s1
        | _, _ => reqWait s1 d P idx w := by
  unfold ringRead; rw [h] <;> rfl

theorem ringRead_other {s : State} {p d idx : Nat} {P : Machine.Part} {w : List W64} (h : ringNext s p = some (d, P, idx, w)) (mine : Nat → Bool) (hm : mine (reqOp w) = false) :
    ringRead s p mine = s := by
  rw [ringRead_is h, hm, if_pos (by rfl)]

theorem ringRead_mine {s : State} {p d idx : Nat} {P : Machine.Part} {w : List W64} (h : ringNext s p = some (d, P, idx, w)) (mine : Nat → Bool) (hm : mine (reqOp w) = true) :
    ringRead s p mine = ringRead s p (fun _ => true) := by
  rw [ringRead_is h, ringRead_is h, hm]

theorem writeT1_ctxs (s : State) (d a : Nat) (bs : List Byte) : (writeT1 s d a bs).ctxs = s.ctxs := by
  unfold writeT1; rw [(queued_storeT1 s d 1 a bs .misc false).rest]

theorem ctxNew_ctxs (s : State) (d : Nat) (P : Machine.Part) (c : Nat) (w : List W64) : ∃ x : Ctx, (ctxNew s d P c w).ctxs = s.ctxs.put c x ∧
    x.st = .ready ∧ x.part = d ∧ x.pos = 0 ∧ x.pend = attWord w 3 63 40 ∧ x.cls = attWord w 0 45 43 ∧ x.rtag = w.getD 1 0 ∧
    x.deadline = w.getD 2 0 ∧ x.nbag = attWord w 3 39 31 ∧ x.bind = reqBind w ∧ x.arrseq = P.arrseq := by
  refine ⟨{
      st := .ready
      cls := attWord w 0 45 43
      policy := attWord w 0 42 42 == 1
      phase := false
      spec := attWord w 5 63 0 != 0
      part := d
      pos := 0
      pend := attWord w 3 63 40
      rtag := w.getD 1 0
      deadline := w.getD 2 0
      dlstep := if attWord w 2 63 0 = 0 then 2 ^ 40 - 1 else buildStep P
      nbag := attWord w 3 39 31
      arrseq := P.arrseq
      tmark := 0
      bind := reqBind w
      npage := 0
      tnodes := if attWord w 5 63 0 = 0 then 0 else tplNodes (tplBytes s (attWord w 5 63 0)) - 1
      map := [] }, ?_, rfl, rfl, rfl, rfl, rfl, rfl, rfl, rfl, rfl, rfl⟩
  unfold ctxNew
  dsimp only
  generalize hE : setCtx _ c _ = s1
  have h1 := congrArg State.ctxs hE
  refine Eq.trans (b := s1.ctxs) ?_ h1.symm
  clear h1 hE
  generalize (attWord w 3 39 31 : Nat) = n
  generalize (attWord w 5 63 0 : Nat) = t
  by_cases h0 : (objOf s1 d (valD s1 6 40 d none20)).isNone = true
  · rw [if_pos h0]
  · rw [if_neg h0, writeT1_ctxs]
    by_cases ha : n = 0
    · rw [if_pos ha]
      by_cases hb : t = 0
      · rw [if_pos hb]
      · rw [if_neg hb, writeT1_ctxs]
    · rw [if_neg ha]
      by_cases hb : t = 0
      · rw [if_pos hb, writeT1_ctxs]
      · rw [if_neg hb, writeT1_ctxs, writeT1_ctxs]

theorem request_new {s s1 : State} {d idx : Nat} {P : Machine.Part} {w : List W64} (hs1 : s1.ctxs = s.ctxs) (c : Nat) (hc : freeCtxNo s1 d = some c) (h1 : reqOp w = 1) :
    ∃ v x, (P.inStep = false → (match reqOp w, freeCtxNo s1 d with
        | 1, some c => reqNew s1 d P idx c w
        | 1, none => s1
        | _, _ => reqWait s1 d P idx w) = ctxIdle v d) ∧ (P.inStep = true → (match reqOp w, freeCtxNo s1 d with
        | 1, some c => reqNew s1 d P idx c w
        | 1, none => s1
        | _, _ => reqWait s1 d P idx w) = updPart { v with order := v.order + 1 } d (fun P => { P with
              rqWait := P.rqWait ++ [{ order := v.order, idx := idx, op := reqOp w, ctx := c, words := w, wait := boundaries P }] })) ∧ ctxOf v c = some x ∧ (∀ k, k ≠ c → ctxOf v k = ctxOf s k) ∧
            x.st = .ready ∧ x.part = d ∧ x.pos = 0 ∧ x.pend = attWord w 3 63 40 ∧ x.cls = attWord w 0 45 43 ∧ x.rtag = w.getD 1 0 ∧
            x.deadline = w.getD 2 0 ∧ x.nbag = attWord w 3 39 31 ∧ x.bind = reqBind w ∧ x.arrseq = P.arrseq := by
  rw [h1, hc]
  obtain ⟨x, hx, hr⟩ := ctxNew_ctxs s1 d P c w
  refine ⟨ctxNew s1 d P c w, x, fun h => ?_, fun h => ?_, ?_, fun k hk => ?_, hr⟩
  · show reqNew s1 d P idx c w = _; unfold reqNew; dsimp only; rw [if_neg (by simp [h])]
  · show reqNew s1 d P idx c w = _; unfold reqNew; dsimp only; rw [if_pos h]; unfold reqQueue takeOrder; dsimp only; rw [h1]
  · unfold ctxOf; rw [hx]; exact Tab.find?_put_self _ _ _
  · unfold ctxOf; rw [hx, Tab.find?_put, if_neg hk, hs1]

theorem request_other {s1 : State} {d idx : Nat} {P : Machine.Part} {w : List W64} (h1 : reqOp w ≠ 1) :
    (match reqOp w, freeCtxNo s1 d with
        | 1, some c => reqNew s1 d P idx c w
        | 1, none => s1
        | _, _ => reqWait s1 d P idx w) = reqWait s1 d P idx w := by
  split <;> first | rfl | exact absurd ‹reqOp w = 1› h1

theorem updAway_part {s : State} {c : Nat} {x : Ctx} (h : ctxOf s c = some x) (d : Nat) (f : Ctx → Ctx) (e : Nat) : partOf (updAway s d c f) e = partOf s e := by
  unfold updAway; rw [h, if_pos (by rfl)]; rfl

theorem recordTake_cases (s : State) (w0 w1 : W64) (beats due : Nat) (late : Machine.Part → PosKey → Bool) (take : State → Nat → Nat → Man → PosKey → State) (d : Nat) (k : PosKey) (hd : d = recPart w1) (hk : k = recKey w0 w1) :
    (partOf s d = none → recordTake s w0 w1 beats due late take = s) ∧
    ∀ P, partOf s d = some P →
          (∀ p, P.slot = some p → P.st = .running → ∀ u, u = ppSeq s d (beats - due) →
            (P.man = none ∨ P.inStep = false ∨ k.step ≠ P.step ∨ late P k = true → recordTake s w0 w1 beats due late take = recordDrop u d k) ∧
            (∀ m, P.man = some m → P.inStep = true → k.step = P.step → late P k = false →
              recordTake s w0 w1 beats due late take = recordEnd (take (markOverdue u p d m k) p d m k) p d k)) ∧
          (P.st = .quiesced → recordTake s w0 w1 beats due late take = ppSeq s d (1 + (beats - due))) ∧
          (P.st ≠ .running → P.st ≠ .quiesced → recordTake s w0 w1 beats due late take = s) := by
  refine ⟨fun h => ?_, fun P hp => ⟨fun p hs hr u hu => ⟨fun h => ?_, fun m hm h1 h2 h3 => ?_⟩, fun h => ?_, fun h1 h2 => ?_⟩⟩
  · unfold recordTake; dsimp only; rw [← hd, h]
  · unfold recordTake; dsimp only; rw [← hd, ← hk, hp]; dsimp only; rw [hs, hr]; dsimp only
    cases hm : P.man with
    | none => dsimp only; rw [hu]
    | some m => dsimp only; rw [if_pos (by rcases h with h | h | h | h <;> simp_all), hu]
  · unfold recordTake; dsimp only; rw [← hd, ← hk, hp]; dsimp only; rw [hs, hr]; dsimp only; rw [hm]; dsimp only
    rw [if_neg (by simp [h1, h2, h3]), hu]
  · unfold recordTake; dsimp only; rw [← hd, ← hk, hp]; dsimp only
    split
    · next h' => rw [h] at h'; cases h'
    · unfold recordLost; rw [if_pos h]
  · unfold recordTake; dsimp only; rw [← hd, ← hk, hp]; dsimp only
    split
    · next h' => exact absurd h' h1
    · unfold recordLost; rw [if_neg h2]

theorem epilogueRequest_is {s : State} {e p d : Nat} {P : Machine.Part} (hp : p = fld e 25 23) (hs : slotPart s p = some (d, P)) (hr : P.st = .running) (k : PosKey)
    (hk : k = ({ step := P.step, bwd := fld e 22 22 == 1, layer := fld e 21 14, tslot := fld e 13 10, win := fld e 9 0, tick := 0 } : PosKey)) :
    epilogueRequest s e = (match P.inStep, P.man, passTgt P k with
      | true, some m, some t => if manWins m ≤ k.win then answer s p k else requestWin s p d P t k
      | _, _, _ => answer s p k) := by
  subst hp hk
  unfold epilogueRequest
  dsimp only
  rw [hs]
  dsimp only
  rw [if_neg (by simp [hr])] <;> rfl

theorem tilesTake_parts (s : State) : (tilesTake s).parts = s.parts := rfl

theorem pin_mp (s : State) (x c : Nat) : (pin s x c).mp = s.mp := by
  have h1 : ∀ s : State, (cancelDrain s x).mp = s.mp := by
    intro s; unfold cancelDrain; split
    · split
      · unfold bumpD; split <;> rfl
      · rfl
    · rfl
  have h2 : (pinEntry s x).mp = s.mp := by
    unfold pinEntry; split
    · split
      · rfl
      · split
        · rfl
        · unfold bumpD; split <;> rfl
    · rfl
  exact (h1 (pinEntry s x)).trans h2

theorem issuePin_mp (s : State) (r : Req) : (issuePin s r).mp = s.mp := by
  unfold issuePin; split
  · split
    · exact pin_mp _ _ _
    · rfl
  · rfl

theorem issueReq_mp (s : State) (r : Req) (b : Bool) : (issuePin (if b = true then bumpD s Cnt.regBorrow r.part 1 else s) r).mp = s.mp := by
  rw [issuePin_mp]; split
  · unfold bumpD; split <;> rfl
  · rfl

theorem storeBytes_append (m : Tab Byte) (k : Nat) (a b : List Byte) : storeBytes (storeBytes m k a) (k + a.length) b = storeBytes m k (a ++ b) := by
  induction a generalizing m k with
  | nil => rfl
  | cons x a ih => rw [List.cons_append, storeBytes, storeBytes, ← ih, List.length_cons, show k + (a.length + 1) = k + 1 + a.length from by omega]

theorem chunksAux_flatten {α : Type} (n : Nat) (hn : 0 < n) : ∀ (f : Nat) (l : List α), l.length ≤ f → (chunksAux n f l).flatten = l := by
  intro f
  induction f with
  | zero => intro l h; rw [List.length_eq_zero_iff.mp (Nat.le_zero.mp h)]; rfl
  | succ f ih =>
    intro l h
    unfold chunksAux
    cases l with
    | nil => rfl
    | cons a l =>
      show (List.take n (a :: l) :: chunksAux n f (List.drop n (a :: l))).flatten = _
      rw [List.flatten_cons, ih _ (by rw [List.length_drop, List.length_cons] at *; omega), List.take_append_drop]

theorem chunks_flatten {α : Type} (n : Nat) (hn : 0 < n) (l : List α) : (chunks n l).flatten = l := chunksAux_flatten n hn _ l (Nat.le_refl _)

/-- Blocks stored in T1 one behind the other: their bytes, and the requests that carry them. -/
theorem writeBlocks_is (d : Nat) (l : List (List Byte)) : ∀ (s : State) (a : Nat), ∃ t, (l.foldl (fun (x : State × Nat) b => (writeT1 x.1 d x.2 b, x.2 + b.length)) (s, a)).1 = t ∧
    t = { s with mem := storeBytes s.mem (memKey 0 a) l.flatten, mp := { s.mp with nextId := t.mp.nextId, waiting := t.mp.waiting } } := by
  induction l with
  | nil => intro s a; exact ⟨s, rfl, rfl⟩
  | cons b l ih =>
    intro s a
    rw [List.foldl_cons]
    obtain ⟨t, h1, h2⟩ := ih (writeT1 s d a b) (a + b.length)
    have hq := queued_storeT1 s d 1 a b .misc false
    refine ⟨t, h1, ?_⟩
    have hw : writeT1 s d a b = { s with mem := storeBytes s.mem (memKey 0 a) b, mp := { s.mp with nextId := (writeT1 s d a b).mp.nextId, waiting := (writeT1 s d a b).mp.waiting } } := by
      have e1 : writeT1 s d a b = { s with mem := storeBytes s.mem (memKey 0 a) b, mp := (writeT1 s d a b).mp } := hq.rest
      have e2 : (writeT1 s d a b).mp = { s.mp with nextId := (writeT1 s d a b).mp.nextId, waiting := (writeT1 s d a b).mp.waiting } := hq.mp
      rw [← e2]; exact e1
    rw [List.flatten_cons, ← storeBytes_append, show memKey 0 a + b.length = memKey 0 (a + b.length) from by unfold memKey; omega]
    generalize writeT1 s d a b = w at *
    rw [hw] at h2
    exact h2

theorem replayOutput_is (s : State) (r : Replay) : ∃ t all code n q, replayOutput s r = (t, code) ∧ (code = Code.ok ∨ code = Code.replayMissing) ∧
    t = { s with mem := storeBytes s.mem (memKey 0 (r.capAt + t1Word s r.capAt 8)) (all.take (t1Word s r.capAt 9)), mp := { s.mp with nextId := n, waiting := q } } ∧
    ∃ a b c e rest, all = wordBytes (replayHeader (fld (t1Word s r.capAt 1) 63 24) code a b c e) ++ rest := by
  obtain ⟨all, code, hx, hcode, hall⟩ : ∃ all code, replayOutput s r = (((chunks 4096 (all.take (t1Word s r.capAt 9))).foldl (fun (x : State × Nat) b => (writeT1 x.1 32 x.2 b, x.2 + b.length)) (s, r.capAt + t1Word s r.capAt 8)).1, code) ∧
        (code = Code.ok ∨ code = Code.replayMissing) ∧
        ∃ a b c e rest, all = wordBytes (replayHeader (fld (t1Word s r.capAt 1) 63 24) code a b c e) ++ rest := by
      unfold replayOutput
      dsimp only
      refine ⟨_, _, rfl, ?_, ?_⟩
      · split
        · exact .inl rfl
        · exact .inr rfl
      · exact ⟨_, _, _, _, _, List.append_assoc _ _ _⟩
  obtain ⟨t, h1, h2⟩ := writeBlocks_is 32 (chunks 4096 (all.take (t1Word s r.capAt 9))) s (r.capAt + t1Word s r.capAt 8)
  rw [h1] at hx
  rw [chunks_flatten 4096 (by decide)] at h2
  exact ⟨t, all, code, _, _, hx, hcode, h2, hall⟩

theorem header_reads {m : Tab Byte} {k : Nat} {w0 w1 : W64} {bs : List Byte} (h16 : 16 ≤ bs.length) (hb : ∀ j, j < 16 → bs.getD j 0 = (leBytes 8 w0.toNat ++ leBytes 8 w1.toNat).getD j 0) :
    wordsAt (storeBytes m k bs) k 2 = [w0, w1] := by
  have hr : ∀ j, j < 16 → byteAt (storeBytes m k bs) (k + j) = (leBytes 8 w0.toNat ++ leBytes 8 w1.toNat).getD j 0 := by
    intro j hj
    rw [byteAt_storeBytes, if_pos (by omega), show k + j - k = j from by omega, hb j hj]
  have hw : ∀ (a : Nat) (w : W64), (∀ j, j < 8 → byteAt (storeBytes m k bs) (a + j) = (leBytes 8 w.toNat).getD j 0) → wordAt (storeBytes m k bs) a = w := by
    intro a w h
    unfold wordAt
    have : bytesAt (storeBytes m k bs) a 8 = leBytes 8 w.toNat := by
      apply List.ext_getElem
      · simp [bytesAt, leBytes_len]
      · intro j h1 h2
        rw [leBytes_len] at h2
        have := h j h2
        simp only [bytesAt, List.getElem_map, List.getElem_range]
        rw [this, List.getD_eq_getElem?_getD, List.getElem?_eq_getElem (by rw [leBytes_len]; exact h2)]
        rfl
    rw [this, leNat_leBytes]
    unfold w64
    rw [Nat.mod_eq_of_lt (show w.toNat < 256 ^ 8 from w.isLt)]
    simp
  show [wordAt (storeBytes m k bs) (k + 8 * 0), wordAt (storeBytes m k bs) (k + 8 * 1)] = _
  rw [hw _ w0 (fun j hj => ?_), hw _ w1 (fun j hj => ?_)]
  · rw [show k + 8 * 1 + j = k + (8 + j) from by omega, hr (8 + j) (by omega), List.getD_append_right _ _ _ _ (by rw [leBytes_len]; omega), leBytes_len, show 8 + j - 8 = j from by omega]
  · rw [show k + 8 * 0 + j = k + j from by omega, hr j (by omega), List.getD_append _ _ _ _ (by rw [leBytes_len]; exact hj)]

theorem dbgOf_is {s t : State} {m : Tab Byte} {n : Nat} {q : List Req} (h : t = { s with mem := m, mp := { s.mp with nextId := n, waiting := q } }) :
    ({ t with dbg := { t.dbg with replay := none } } : State) =
      { s with mem := ({ t with dbg := { t.dbg with replay := none } } : State).mem,
               mp := { s.mp with nextId := ({ t with dbg := { t.dbg with replay := none } } : State).mp.nextId, waiting := ({ t with dbg := { t.dbg with replay := none } } : State).mp.waiting },
               dbg := { s.dbg with replay := none } } := by
  subst h; rfl

theorem cmdRow_held {s : State} (h : held s = true) (a i : Nat) (f) : cmdRow s a i f = s := by simp [cmdRow, h]

theorem cmdRowIf_held {s : State} (h : held s = true) (a i : Nat) (f g) : cmdRowIf s a i f g = s := by simp [cmdRowIf, h]

theorem endRow_held {s : State} (h : held s = true) (a i : Nat) (r st f) : endRow s a i r st f = s := by simp [endRow, h]

theorem issueWord_held {s : State} (h : held s = true) (q w op : Nat) (b r g) : issueWord s q w op b r g = s := by
  unfold issueWord; dsimp only; split <;> simp [h]

theorem fwAlive_held {s : State} (h : held s = true) : fwAlive s = false := by simp [fwAlive, h]

theorem doorbell_held {s : State} (h : held s = true) (be n w go) : doorbell s be n w go = s := by simp [doorbell, h]

theorem lookup_held {s : State} (h : held s = true) (k w f) : lookup s k w f = s := by simp [lookup, h]

theorem opRow_held {s : State} (h : held s = true) (k p w) : opRow k p w s = s := by simp [opRow, h]

theorem startSegment_held {s : State} (h : held s = true) (q p) : startSegment s q p = s := by simp [startSegment, h]

theorem katEnd_held {s : State} (h : held s = true) (q p) : katEnd s q p = s := by simp [katEnd, h]

end Sys2Proof.Machine
end

