-- ==== Sys2Proof/WellFormed.lean ====
section
/-! DEFINITION. Which operands of a command name something that the block has: slots, partitions, engines, ports,
channels, indexes within their ranges. -/

namespace Sys2Proof

/-- The operands lie in the ranges of the manual's indexes (R315, R338, Tables PORT-3 to PORT-8). -/
def Instr.wellFormed : Instr → Bool
  | .resetSoft => true
  | .softReloadWork => true
  | .resetPart => true
  | .bdlOpen => true
  | .bdlCommit => true
  | .bdlAbort => true
  | .bundleExpired b => decide (b < 4)
  | .fwLoad => true
  | .fwLoadEnd r => decide (r.cseq < 16)
  | .fwSwitch => true
  | .fwRevert => true
  | .objAlloc => true
  | .objFree => true
  | .objMove => true
  | .objMoveCancel => true
  | .moveCopyEnd d handle xidx _ => decide (d < 32) && decide (handle < 2 ^ 20) && decide (xidx < 2 ^ 32)
  | .publishImage => true
  | .publishThawed => true
  | .publishReadBack mu _ => decide (mu < 2 ^ 30)
  | .flFormat => true
  | .adptLoad => true
  | .adptLoadChecksEnd r => decide (r.cseq < 16)
  | .adptUnload => true
  | .ctxRebind => true
  | .tblDefine => true
  | .tblDrop => true
  | .poolDef => true
  | .trowPut => true
  | .trowPutCopyEnd r _ => decide (r.cseq < 16)
  | .trowFlip => true
  | .foldBackEnd d tid row _ => decide (d < 32) && decide (tid < 64) && decide (row < 2 ^ 32)
  | .trainAttach => true
  | .trainDetach => true
  | .trainSweep => true
  | .trainDiscard => true
  | .exportSnap => true
  | .manSubmit => true
  | .planLoad _ => true
  | .planUnload => true
  | .partStart => true
  | .partQuiesce => true
  | .partClamp => true
  | .tileMapout => true
  | .cntClear => true
  | .replayRun => true
  | .replayEnd => true
  | .otpSeal => true
  | .otpVoid => true
  | .otpWo1Write _ _ => true
  | .read _ _ => true
  | .write _ _ => true
  | .writeB _ _ => true
  | .odstsRead _ => true
  | .registerWrite _ _ _ be => decide (be < 256)
  | .rqDb p _ be => decide (p < 8) && decide (be < 256)
  | .cqDb p _ be => decide (p < 8) && decide (be < 256)
  | .expDb p _ be => decide (p < 8) && decide (be < 256)
  | .evDb _ be => decide (be < 256)
  | .watchdogWrite _ => true
  | .intStatusClear _ => true
  | .segmentPush q p _ _ => decide (q < 8) && decide (p < 8)
  | .fifoPop q which => decide (q < 8) && decide (which < 3)
  | .sxCoreWrite q p i _ => decide (q < 8) && decide (p < 8) && decide (i < 64)
  | .apertureAccess _ _ _ => true
  | .sidebandWriteFrame _ => true
  | .sidebandReadFrame => true
  | .entdaa addr => decide (addr < 128)
  | .setdasa saddr addr => decide (saddr < 128) && decide (addr < 128)
  | .rstdaa => true
  | .enec events => decide (events < 256)
  | .disec events => decide (events < 256)
  | .getpid => true
  | .getbcr => true
  | .getdcr => true
  | .getstatus => true
  | .setmwl n => decide (n < 65536)
  | .getmwl => true
  | .setmrl n => decide (n < 65536)
  | .getmrl => true
  | .rstact action => decide (action < 256)
  | .cccNack code => decide (code < 256)
  | .idcode => true
  | .ijtag _ _ _ => true
  | .scan => true
  | .bypass => true
  | .testModeRise => true
  | .testModeFall => true
  | .hardReset => true
  | .resetRelease => true
  | .pllLock pll => decide (pll < 25)
  | .bringupStageEnd _ _ => true
  | .mapRebuildEnd => true
  | .mpInitAck m => decide (m < 12)
  | .panelRecord _ _ _ => true
  | .posRecord _ _ => true
  | .outcomeRecord _ _ _ => true
  | .epilogueRequest ereq => decide (ereq < 2 ^ 32)
  | .xpReadData _ => true
  | .xpWriteAccept => true
  | .emberAfter d c => decide (d < 32) && decide (c < 16384)
  | .emberExpiry d c => decide (d < 32) && decide (c < 16384)
  | .emberPageCopyEnd c page => decide (c < 16384) && decide (page < 2048)
  | .adoptionCopyEnd c pos => decide (c < 16384) && decide (pos < 2 ^ 24)
  | .newReq p => decide (p < 8)
  | .append p => decide (p < 8)
  | .pause p => decide (p < 8)
  | .cancel p => decide (p < 8)
  | .mpReadResponse m tag beat st => decide (m < 12) && decide (tag < 2048) && decide (beat < 64) && decide (st < 4)
  | .mpWriteAck m tag st => decide (m < 12) && decide (tag < 2048) && decide (st < 4)
  | .replyLifetimeExpiry m tag => decide (m < 32) && (decide (16 ≤ m) || (decide (m < 12) && decide (tag < 2048)))
  | .quarantineExpiry m tag => decide (m < 12) && decide (tag < 2048)
  | .lrbExpiry d entry => decide (d < 32) && decide (entry < 1024)
  | .slotLookup _ => true
  | .nodeLookup _ => true
  | .pageLookup _ => true
  | .maskLookup _ => true
  | .todSample sec ns _ => decide (sec < 2 ^ 48) && decide (ns < 10 ^ 9)
  | .flashReadDone ch _ _ _ _ => decide (ch < 16)
  | .flashProgramDone ch ce lun block _ => decide (ch < 16) && decide (ce < 8) && decide (lun < 4) && decide (block < 2 ^ 20)
  | .flashEraseDone ch ce lun block _ => decide (ch < 16) && decide (ce < 8) && decide (lun < 4) && decide (block < 2 ^ 20)
  | .checkpoint => true
  | .gcReclaim ch ce lun => decide (ch < 16) && decide (ce < 8) && decide (lun < 4)
  | .wearLevel => true
  | .readDisturbRelocate ch ce lun block => decide (ch < 16) && decide (ce < 8) && decide (lun < 4) && decide (block < 2 ^ 20)
  | .fenceBreak ch ce lun => decide (ch < 16) && decide (ce < 8) && decide (lun < 4)
  | .zqShort => true
  | .lunLost ch ce lun => decide (ch < 16) && decide (ce < 8) && decide (lun < 4)
  | .kindlingStart p => decide (p < 8)
  | .dirtyWriteBack p _ => decide (p < 8)
  | .weightBlockEnd p win _ _ => decide (p < 8) && decide (win < 1024)
  | .spareSubstitution l => decide (l < 32)
  | .holdCeiling p => decide (p < 8)
  | .urgentTimer d => decide (d < 32)
  | .clampSaveEnd d => decide (d < 32)
  | .restoreStart => true
  | .restoreEnd d => decide (d < 32)
  | .partitionBlocked d => decide (d < 32)
  | .weightGradientPhase p tslot => decide (p < 8) && decide (tslot < 16)
  | .updatePass1 p group => decide (p < 8) && decide (group < 64)
  | .updateItem p => decide (p < 8)
  | .segmentStart q p => decide (q < 8) && decide (p < 8)
  | .endSeg q _ => decide (q < 8)
  | .setlen q _ => decide (q < 8)
  | .sig q _ => decide (q < 8)
  | .fence q _ => decide (q < 8)
  | .sxset q _ => decide (q < 8)
  | .sxget q _ => decide (q < 8)
  | .add q _ => decide (q < 8)
  | .sub q _ => decide (q < 8)
  | .mul q _ => decide (q < 8)
  | .div q _ => decide (q < 8)
  | .sqrt q _ => decide (q < 8)
  | .min q _ => decide (q < 8)
  | .max q _ => decide (q < 8)
  | .abs q _ => decide (q < 8)
  | .neg q _ => decide (q < 8)
  | .cmplt q _ => decide (q < 8)
  | .cmple q _ => decide (q < 8)
  | .cmpeq q _ => decide (q < 8)
  | .sel q _ => decide (q < 8)
  | .iadd q _ => decide (q < 8)
  | .isub q _ => decide (q < 8)
  | .imul q _ => decide (q < 8)
  | .and q _ => decide (q < 8)
  | .or q _ => decide (q < 8)
  | .xor q _ => decide (q < 8)
  | .shl q _ => decide (q < 8)
  | .shr q _ => decide (q < 8)
  | .sar q _ => decide (q < 8)
  | .imin q _ => decide (q < 8)
  | .imax q _ => decide (q < 8)
  | .mov q _ => decide (q < 8)
  | .cvt q _ => decide (q < 8)
  | .red q _ => decide (q < 8)
  | .lda q _ => decide (q < 8)
  | .ldl q _ => decide (q < 8)
  | .stl q _ => decide (q < 8)
  | .lds q _ => decide (q < 8)
  | .sts q _ => decide (q < 8)
  | .xld q _ => decide (q < 8)
  | .xst q _ => decide (q < 8)
  | .scl q _ => decide (q < 8)
  | .transferEnd q xtag _ => decide (q < 8) && decide (xtag < 64)
  | .watchdogExpiry _ => true
  | .watchdogHalf => true
  | .eventIrqTimer => true
  | .scrubPeriod _ => true
  | .errorScoreHalving => true
  | .knownAnswerTest tile _ => decide (tile < 34)
  | .sketchAgeing => true
  | .flashMountEnd _ _ _ => true
  | .fwRestartEnd => true
  | .bucketRefill => true
  | .mpRequestAccept m => decide (m < 12)
  | .fifoStallTimeout q => decide (q < 8)

end Sys2Proof
end

