-- ==== Sys2Proof/Laws/PerInstr.lean ====
section
/-! SUPPORT. The family Bounds: every index that a well-formed command carries names something that the block has. -/

namespace Sys2Proof

/-- The indexes of a command, each with how many such things there are: engines, resident slots, defined partitions, memory
ports, flash channels, chip enables, LUNs, tags, contexts and handles (R315, Tables PORT-3 to PORT-8). -/
def Laws.Bounds.indexes : Instr → List (Nat × Nat)
  | .moveCopyEnd d handle _ _ => [(d, 32), (handle, 2 ^ 20)]
  | .foldBackEnd d _ _ _ => [(d, 32)]
  | .rqDb p _ _ => [(p, 8)]
  | .cqDb p _ _ => [(p, 8)]
  | .expDb p _ _ => [(p, 8)]
  | .segmentPush q p _ _ => [(q, 8), (p, 8)]
  | .fifoPop q _ => [(q, 8)]
  | .sxCoreWrite q p _ _ => [(q, 8), (p, 8)]
  | .mpInitAck m => [(m, 12)]
  | .emberAfter d c => [(d, 32), (c, 16384)]
  | .emberExpiry d c => [(d, 32), (c, 16384)]
  | .emberPageCopyEnd c _ => [(c, 16384)]
  | .adoptionCopyEnd c _ => [(c, 16384)]
  | .newReq p => [(p, 8)]
  | .append p => [(p, 8)]
  | .pause p => [(p, 8)]
  | .cancel p => [(p, 8)]
  | .mpReadResponse m tag _ _ => [(m, 12), (tag, 2048)]
  | .mpWriteAck m tag _ => [(m, 12), (tag, 2048)]
  | .replyLifetimeExpiry m _ => [(m, 32)]
  | .quarantineExpiry m tag => [(m, 12), (tag, 2048)]
  | .lrbExpiry d _ => [(d, 32)]
  | .flashReadDone ch _ _ _ _ => [(ch, 16)]
  | .flashProgramDone ch ce lun _ _ => [(ch, 16), (ce, 8), (lun, 4)]
  | .flashEraseDone ch ce lun _ _ => [(ch, 16), (ce, 8), (lun, 4)]
  | .gcReclaim ch ce lun => [(ch, 16), (ce, 8), (lun, 4)]
  | .readDisturbRelocate ch ce lun _ => [(ch, 16), (ce, 8), (lun, 4)]
  | .fenceBreak ch ce lun => [(ch, 16), (ce, 8), (lun, 4)]
  | .lunLost ch ce lun => [(ch, 16), (ce, 8), (lun, 4)]
  | .kindlingStart p => [(p, 8)]
  | .dirtyWriteBack p _ => [(p, 8)]
  | .weightBlockEnd p _ _ _ => [(p, 8)]
  | .holdCeiling p => [(p, 8)]
  | .urgentTimer d => [(d, 32)]
  | .clampSaveEnd d => [(d, 32)]
  | .restoreEnd d => [(d, 32)]
  | .partitionBlocked d => [(d, 32)]
  | .weightGradientPhase p _ => [(p, 8)]
  | .updatePass1 p _ => [(p, 8)]
  | .updateItem p => [(p, 8)]
  | .segmentStart q p => [(q, 8), (p, 8)]
  | .endSeg q _ => [(q, 8)]
  | .setlen q _ => [(q, 8)]
  | .sig q _ => [(q, 8)]
  | .fence q _ => [(q, 8)]
  | .sxset q _ => [(q, 8)]
  | .sxget q _ => [(q, 8)]
  | .add q _ => [(q, 8)]
  | .sub q _ => [(q, 8)]
  | .mul q _ => [(q, 8)]
  | .div q _ => [(q, 8)]
  | .sqrt q _ => [(q, 8)]
  | .min q _ => [(q, 8)]
  | .max q _ => [(q, 8)]
  | .abs q _ => [(q, 8)]
  | .neg q _ => [(q, 8)]
  | .cmplt q _ => [(q, 8)]
  | .cmple q _ => [(q, 8)]
  | .cmpeq q _ => [(q, 8)]
  | .sel q _ => [(q, 8)]
  | .iadd q _ => [(q, 8)]
  | .isub q _ => [(q, 8)]
  | .imul q _ => [(q, 8)]
  | .and q _ => [(q, 8)]
  | .or q _ => [(q, 8)]
  | .xor q _ => [(q, 8)]
  | .shl q _ => [(q, 8)]
  | .shr q _ => [(q, 8)]
  | .sar q _ => [(q, 8)]
  | .imin q _ => [(q, 8)]
  | .imax q _ => [(q, 8)]
  | .mov q _ => [(q, 8)]
  | .cvt q _ => [(q, 8)]
  | .red q _ => [(q, 8)]
  | .lda q _ => [(q, 8)]
  | .ldl q _ => [(q, 8)]
  | .stl q _ => [(q, 8)]
  | .lds q _ => [(q, 8)]
  | .sts q _ => [(q, 8)]
  | .xld q _ => [(q, 8)]
  | .xst q _ => [(q, 8)]
  | .scl q _ => [(q, 8)]
  | .transferEnd q xtag _ => [(q, 8), (xtag, 64)]
  | .mpRequestAccept m => [(m, 12)]
  | .fifoStallTimeout q => [(q, 8)]
  | _ => []

/-- Every index of a well-formed command is below the number of things that it selects from. -/
def Laws.Bounds.Statement (i : Instr) : Prop := i.wellFormed = true → ∀ x ∈ Laws.Bounds.indexes i, x.1 < x.2

theorem Laws.left {a b : Bool} (h : (a && b) = true) : a = true := (Bool.and_eq_true_iff.mp h).1

theorem Laws.right {a b : Bool} (h : (a && b) = true) : b = true := (Bool.and_eq_true_iff.mp h).2

theorem Laws.below_nil : ∀ x ∈ ([] : List (Nat × Nat)), x.1 < x.2 := fun _ h => nomatch h

theorem Laws.below_cons {a b : Nat} {l : List (Nat × Nat)} (h : decide (a < b) = true) (hl : ∀ x ∈ l, x.1 < x.2) :
    ∀ x ∈ (a, b) :: l, x.1 < x.2 :=
  List.forall_mem_cons.mpr ⟨of_decide_eq_true h, hl⟩

theorem Laws.Bounds.resetSoft : Laws.Bounds.Statement .resetSoft := fun _ => Laws.below_nil
theorem Laws.Bounds.softReloadWork : Laws.Bounds.Statement .softReloadWork := fun _ => Laws.below_nil
theorem Laws.Bounds.resetPart : Laws.Bounds.Statement .resetPart := fun _ => Laws.below_nil
theorem Laws.Bounds.bdlOpen : Laws.Bounds.Statement .bdlOpen := fun _ => Laws.below_nil
theorem Laws.Bounds.bdlCommit : Laws.Bounds.Statement .bdlCommit := fun _ => Laws.below_nil
theorem Laws.Bounds.bdlAbort : Laws.Bounds.Statement .bdlAbort := fun _ => Laws.below_nil
theorem Laws.Bounds.bundleExpired (b0 : Nat) : Laws.Bounds.Statement (.bundleExpired b0) := fun _ => Laws.below_nil
theorem Laws.Bounds.fwLoad : Laws.Bounds.Statement .fwLoad := fun _ => Laws.below_nil
theorem Laws.Bounds.fwLoadEnd (r0 : Machine.CmdRef) : Laws.Bounds.Statement (.fwLoadEnd r0) := fun _ => Laws.below_nil
theorem Laws.Bounds.fwSwitch : Laws.Bounds.Statement .fwSwitch := fun _ => Laws.below_nil
theorem Laws.Bounds.fwRevert : Laws.Bounds.Statement .fwRevert := fun _ => Laws.below_nil
theorem Laws.Bounds.objAlloc : Laws.Bounds.Statement .objAlloc := fun _ => Laws.below_nil
theorem Laws.Bounds.objFree : Laws.Bounds.Statement .objFree := fun _ => Laws.below_nil
theorem Laws.Bounds.objMove : Laws.Bounds.Statement .objMove := fun _ => Laws.below_nil
theorem Laws.Bounds.objMoveCancel : Laws.Bounds.Statement .objMoveCancel := fun _ => Laws.below_nil
theorem Laws.Bounds.moveCopyEnd (d0 : Nat) (handle1 : Nat) (xidx2 : Nat) (ok3 : Bool) : Laws.Bounds.Statement (.moveCopyEnd d0 handle1 xidx2 ok3) := fun h => Laws.below_cons (Laws.left (Laws.left h)) (Laws.below_cons (Laws.right (Laws.left h)) Laws.below_nil)
theorem Laws.Bounds.publishImage : Laws.Bounds.Statement .publishImage := fun _ => Laws.below_nil
theorem Laws.Bounds.publishThawed : Laws.Bounds.Statement .publishThawed := fun _ => Laws.below_nil
theorem Laws.Bounds.publishReadBack (mu0 : Nat) (crcs1 : List Nat) : Laws.Bounds.Statement (.publishReadBack mu0 crcs1) := fun _ => Laws.below_nil
theorem Laws.Bounds.flFormat : Laws.Bounds.Statement .flFormat := fun _ => Laws.below_nil
theorem Laws.Bounds.adptLoad : Laws.Bounds.Statement .adptLoad := fun _ => Laws.below_nil
theorem Laws.Bounds.adptLoadChecksEnd (r0 : Machine.CmdRef) : Laws.Bounds.Statement (.adptLoadChecksEnd r0) := fun _ => Laws.below_nil
theorem Laws.Bounds.adptUnload : Laws.Bounds.Statement .adptUnload := fun _ => Laws.below_nil
theorem Laws.Bounds.ctxRebind : Laws.Bounds.Statement .ctxRebind := fun _ => Laws.below_nil
theorem Laws.Bounds.tblDefine : Laws.Bounds.Statement .tblDefine := fun _ => Laws.below_nil
theorem Laws.Bounds.tblDrop : Laws.Bounds.Statement .tblDrop := fun _ => Laws.below_nil
theorem Laws.Bounds.poolDef : Laws.Bounds.Statement .poolDef := fun _ => Laws.below_nil
theorem Laws.Bounds.trowPut : Laws.Bounds.Statement .trowPut := fun _ => Laws.below_nil
theorem Laws.Bounds.trowPutCopyEnd (r0 : Machine.CmdRef) (ok1 : Bool) : Laws.Bounds.Statement (.trowPutCopyEnd r0 ok1) := fun _ => Laws.below_nil
theorem Laws.Bounds.trowFlip : Laws.Bounds.Statement .trowFlip := fun _ => Laws.below_nil
theorem Laws.Bounds.foldBackEnd (d0 : Nat) (tid1 : Nat) (row2 : Nat) (ok3 : Bool) : Laws.Bounds.Statement (.foldBackEnd d0 tid1 row2 ok3) := fun h => Laws.below_cons (Laws.left (Laws.left h)) Laws.below_nil
theorem Laws.Bounds.trainAttach : Laws.Bounds.Statement .trainAttach := fun _ => Laws.below_nil
theorem Laws.Bounds.trainDetach : Laws.Bounds.Statement .trainDetach := fun _ => Laws.below_nil
theorem Laws.Bounds.trainSweep : Laws.Bounds.Statement .trainSweep := fun _ => Laws.below_nil
theorem Laws.Bounds.trainDiscard : Laws.Bounds.Statement .trainDiscard := fun _ => Laws.below_nil
theorem Laws.Bounds.exportSnap : Laws.Bounds.Statement .exportSnap := fun _ => Laws.below_nil
theorem Laws.Bounds.manSubmit : Laws.Bounds.Statement .manSubmit := fun _ => Laws.below_nil
theorem Laws.Bounds.planLoad (shape0 : Machine.Shape) : Laws.Bounds.Statement (.planLoad shape0) := fun _ => Laws.below_nil
theorem Laws.Bounds.planUnload : Laws.Bounds.Statement .planUnload := fun _ => Laws.below_nil
theorem Laws.Bounds.partStart : Laws.Bounds.Statement .partStart := fun _ => Laws.below_nil
theorem Laws.Bounds.partQuiesce : Laws.Bounds.Statement .partQuiesce := fun _ => Laws.below_nil
theorem Laws.Bounds.partClamp : Laws.Bounds.Statement .partClamp := fun _ => Laws.below_nil
theorem Laws.Bounds.tileMapout : Laws.Bounds.Statement .tileMapout := fun _ => Laws.below_nil
theorem Laws.Bounds.cntClear : Laws.Bounds.Statement .cntClear := fun _ => Laws.below_nil
theorem Laws.Bounds.replayRun : Laws.Bounds.Statement .replayRun := fun _ => Laws.below_nil
theorem Laws.Bounds.replayEnd : Laws.Bounds.Statement .replayEnd := fun _ => Laws.below_nil
theorem Laws.Bounds.otpSeal : Laws.Bounds.Statement .otpSeal := fun _ => Laws.below_nil
theorem Laws.Bounds.otpVoid : Laws.Bounds.Statement .otpVoid := fun _ => Laws.below_nil
theorem Laws.Bounds.otpWo1Write (path0 : Machine.Path) (ok1 : Bool) : Laws.Bounds.Statement (.otpWo1Write path0 ok1) := fun _ => Laws.below_nil
theorem Laws.Bounds.read (path0 : Machine.Path) (w1 : W64) : Laws.Bounds.Statement (.read path0 w1) := fun _ => Laws.below_nil
theorem Laws.Bounds.write (path0 : Machine.Path) (w1 : W64) : Laws.Bounds.Statement (.write path0 w1) := fun _ => Laws.below_nil
theorem Laws.Bounds.writeB (path0 : Machine.Path) (w1 : W64) : Laws.Bounds.Statement (.writeB path0 w1) := fun _ => Laws.below_nil
theorem Laws.Bounds.odstsRead (path0 : Machine.Path) : Laws.Bounds.Statement (.odstsRead path0) := fun _ => Laws.below_nil
theorem Laws.Bounds.registerWrite (path0 : Machine.Path) (offset1 : Nat) (w2 : W64) (be3 : Nat) : Laws.Bounds.Statement (.registerWrite path0 offset1 w2 be3) := fun _ => Laws.below_nil
theorem Laws.Bounds.rqDb (p0 : Nat) (w1 : W64) (be2 : Nat) : Laws.Bounds.Statement (.rqDb p0 w1 be2) := fun h => Laws.below_cons (Laws.left h) Laws.below_nil
theorem Laws.Bounds.cqDb (p0 : Nat) (w1 : W64) (be2 : Nat) : Laws.Bounds.Statement (.cqDb p0 w1 be2) := fun h => Laws.below_cons (Laws.left h) Laws.below_nil
theorem Laws.Bounds.expDb (p0 : Nat) (w1 : W64) (be2 : Nat) : Laws.Bounds.Statement (.expDb p0 w1 be2) := fun h => Laws.below_cons (Laws.left h) Laws.below_nil
theorem Laws.Bounds.evDb (w0 : W64) (be1 : Nat) : Laws.Bounds.Statement (.evDb w0 be1) := fun _ => Laws.below_nil
theorem Laws.Bounds.watchdogWrite (w0 : W64) : Laws.Bounds.Statement (.watchdogWrite w0) := fun _ => Laws.below_nil
theorem Laws.Bounds.intStatusClear (w0 : W64) : Laws.Bounds.Statement (.intStatusClear w0) := fun _ => Laws.below_nil
theorem Laws.Bounds.segmentPush (q0 : Nat) (p1 : Nat) (w02 : W64) (w13 : W64) : Laws.Bounds.Statement (.segmentPush q0 p1 w02 w13) := fun h => Laws.below_cons (Laws.left h) (Laws.below_cons (Laws.right h) Laws.below_nil)
theorem Laws.Bounds.fifoPop (q0 : Nat) (which1 : Nat) : Laws.Bounds.Statement (.fifoPop q0 which1) := fun h => Laws.below_cons (Laws.left h) Laws.below_nil
theorem Laws.Bounds.sxCoreWrite (q0 : Nat) (p1 : Nat) (n2 : Nat) (w3 : W64) : Laws.Bounds.Statement (.sxCoreWrite q0 p1 n2 w3) := fun h => Laws.below_cons (Laws.left (Laws.left h)) (Laws.below_cons (Laws.right (Laws.left h)) Laws.below_nil)
theorem Laws.Bounds.apertureAccess (write0 : Bool) (offset1 : Nat) (w2 : W64) : Laws.Bounds.Statement (.apertureAccess write0 offset1 w2) := fun _ => Laws.below_nil
theorem Laws.Bounds.sidebandWriteFrame (bytes0 : List Byte) : Laws.Bounds.Statement (.sidebandWriteFrame bytes0) := fun _ => Laws.below_nil
theorem Laws.Bounds.sidebandReadFrame : Laws.Bounds.Statement .sidebandReadFrame := fun _ => Laws.below_nil
theorem Laws.Bounds.entdaa (addr0 : Nat) : Laws.Bounds.Statement (.entdaa addr0) := fun _ => Laws.below_nil
theorem Laws.Bounds.setdasa (saddr0 : Nat) (addr1 : Nat) : Laws.Bounds.Statement (.setdasa saddr0 addr1) := fun _ => Laws.below_nil
theorem Laws.Bounds.rstdaa : Laws.Bounds.Statement .rstdaa := fun _ => Laws.below_nil
theorem Laws.Bounds.enec (events0 : Nat) : Laws.Bounds.Statement (.enec events0) := fun _ => Laws.below_nil
theorem Laws.Bounds.disec (events0 : Nat) : Laws.Bounds.Statement (.disec events0) := fun _ => Laws.below_nil
theorem Laws.Bounds.getpid : Laws.Bounds.Statement .getpid := fun _ => Laws.below_nil
theorem Laws.Bounds.getbcr : Laws.Bounds.Statement .getbcr := fun _ => Laws.below_nil
theorem Laws.Bounds.getdcr : Laws.Bounds.Statement .getdcr := fun _ => Laws.below_nil
theorem Laws.Bounds.getstatus : Laws.Bounds.Statement .getstatus := fun _ => Laws.below_nil
theorem Laws.Bounds.setmwl (n0 : Nat) : Laws.Bounds.Statement (.setmwl n0) := fun _ => Laws.below_nil
theorem Laws.Bounds.getmwl : Laws.Bounds.Statement .getmwl := fun _ => Laws.below_nil
theorem Laws.Bounds.setmrl (n0 : Nat) : Laws.Bounds.Statement (.setmrl n0) := fun _ => Laws.below_nil
theorem Laws.Bounds.getmrl : Laws.Bounds.Statement .getmrl := fun _ => Laws.below_nil
theorem Laws.Bounds.rstact (action0 : Nat) : Laws.Bounds.Statement (.rstact action0) := fun _ => Laws.below_nil
theorem Laws.Bounds.cccNack (code0 : Nat) : Laws.Bounds.Statement (.cccNack code0) := fun _ => Laws.below_nil
theorem Laws.Bounds.idcode : Laws.Bounds.Statement .idcode := fun _ => Laws.below_nil
theorem Laws.Bounds.ijtag (sibs0 : Nat) (mbist1 : Option (Nat × Bool)) (sel2 : Option W64) : Laws.Bounds.Statement (.ijtag sibs0 mbist1 sel2) := fun _ => Laws.below_nil
theorem Laws.Bounds.scan : Laws.Bounds.Statement .scan := fun _ => Laws.below_nil
theorem Laws.Bounds.bypass : Laws.Bounds.Statement .bypass := fun _ => Laws.below_nil
theorem Laws.Bounds.testModeRise : Laws.Bounds.Statement .testModeRise := fun _ => Laws.below_nil
theorem Laws.Bounds.testModeFall : Laws.Bounds.Statement .testModeFall := fun _ => Laws.below_nil
theorem Laws.Bounds.hardReset : Laws.Bounds.Statement .hardReset := fun _ => Laws.below_nil
theorem Laws.Bounds.resetRelease : Laws.Bounds.Statement .resetRelease := fun _ => Laws.below_nil
theorem Laws.Bounds.pllLock (pll0 : Nat) : Laws.Bounds.Statement (.pllLock pll0) := fun _ => Laws.below_nil
theorem Laws.Bounds.bringupStageEnd (fails0 : List Nat) (flash1 : List (Nat × Nat × List Nat)) : Laws.Bounds.Statement (.bringupStageEnd fails0 flash1) := fun _ => Laws.below_nil
theorem Laws.Bounds.mapRebuildEnd : Laws.Bounds.Statement .mapRebuildEnd := fun _ => Laws.below_nil
theorem Laws.Bounds.mpInitAck (m0 : Nat) : Laws.Bounds.Statement (.mpInitAck m0) := fun h => Laws.below_cons h Laws.below_nil
theorem Laws.Bounds.panelRecord (w00 : W64) (w11 : W64) (payload2 : List (BitVec 2048)) : Laws.Bounds.Statement (.panelRecord w00 w11 payload2) := fun _ => Laws.below_nil
theorem Laws.Bounds.posRecord (w00 : W64) (w11 : W64) : Laws.Bounds.Statement (.posRecord w00 w11) := fun _ => Laws.below_nil
theorem Laws.Bounds.outcomeRecord (w00 : W64) (w11 : W64) (payload2 : List (BitVec 2048)) : Laws.Bounds.Statement (.outcomeRecord w00 w11 payload2) := fun _ => Laws.below_nil
theorem Laws.Bounds.epilogueRequest (ereq0 : Nat) : Laws.Bounds.Statement (.epilogueRequest ereq0) := fun _ => Laws.below_nil
theorem Laws.Bounds.xpReadData (data0 : List (BitVec 32)) : Laws.Bounds.Statement (.xpReadData data0) := fun _ => Laws.below_nil
theorem Laws.Bounds.xpWriteAccept : Laws.Bounds.Statement .xpWriteAccept := fun _ => Laws.below_nil
theorem Laws.Bounds.emberAfter (d0 : Nat) (c1 : Nat) : Laws.Bounds.Statement (.emberAfter d0 c1) := fun h => Laws.below_cons (Laws.left h) (Laws.below_cons (Laws.right h) Laws.below_nil)
theorem Laws.Bounds.emberExpiry (d0 : Nat) (c1 : Nat) : Laws.Bounds.Statement (.emberExpiry d0 c1) := fun h => Laws.below_cons (Laws.left h) (Laws.below_cons (Laws.right h) Laws.below_nil)
theorem Laws.Bounds.emberPageCopyEnd (c0 : Nat) (page1 : Nat) : Laws.Bounds.Statement (.emberPageCopyEnd c0 page1) := fun h => Laws.below_cons (Laws.left h) Laws.below_nil
theorem Laws.Bounds.adoptionCopyEnd (c0 : Nat) (pos1 : Nat) : Laws.Bounds.Statement (.adoptionCopyEnd c0 pos1) := fun h => Laws.below_cons (Laws.left h) Laws.below_nil
theorem Laws.Bounds.newReq (p0 : Nat) : Laws.Bounds.Statement (.newReq p0) := fun h => Laws.below_cons h Laws.below_nil
theorem Laws.Bounds.append (p0 : Nat) : Laws.Bounds.Statement (.append p0) := fun h => Laws.below_cons h Laws.below_nil
theorem Laws.Bounds.pause (p0 : Nat) : Laws.Bounds.Statement (.pause p0) := fun h => Laws.below_cons h Laws.below_nil
theorem Laws.Bounds.cancel (p0 : Nat) : Laws.Bounds.Statement (.cancel p0) := fun h => Laws.below_cons h Laws.below_nil
theorem Laws.Bounds.mpReadResponse (m0 : Nat) (tag1 : Nat) (beat2 : Nat) (st3 : Nat) : Laws.Bounds.Statement (.mpReadResponse m0 tag1 beat2 st3) := fun h => Laws.below_cons (Laws.left (Laws.left (Laws.left h))) (Laws.below_cons (Laws.right (Laws.left (Laws.left h))) Laws.below_nil)
theorem Laws.Bounds.mpWriteAck (m0 : Nat) (tag1 : Nat) (st2 : Nat) : Laws.Bounds.Statement (.mpWriteAck m0 tag1 st2) := fun h => Laws.below_cons (Laws.left (Laws.left h)) (Laws.below_cons (Laws.right (Laws.left h)) Laws.below_nil)
theorem Laws.Bounds.replyLifetimeExpiry (m0 : Nat) (tag1 : Nat) : Laws.Bounds.Statement (.replyLifetimeExpiry m0 tag1) := fun h => Laws.below_cons (Laws.left h) Laws.below_nil
theorem Laws.Bounds.quarantineExpiry (m0 : Nat) (tag1 : Nat) : Laws.Bounds.Statement (.quarantineExpiry m0 tag1) := fun h => Laws.below_cons (Laws.left h) (Laws.below_cons (Laws.right h) Laws.below_nil)
theorem Laws.Bounds.lrbExpiry (d0 : Nat) (entry1 : Nat) : Laws.Bounds.Statement (.lrbExpiry d0 entry1) := fun h => Laws.below_cons (Laws.left h) Laws.below_nil
theorem Laws.Bounds.slotLookup (w0 : W64) : Laws.Bounds.Statement (.slotLookup w0) := fun _ => Laws.below_nil
theorem Laws.Bounds.nodeLookup (w0 : W64) : Laws.Bounds.Statement (.nodeLookup w0) := fun _ => Laws.below_nil
theorem Laws.Bounds.pageLookup (w0 : W64) : Laws.Bounds.Statement (.pageLookup w0) := fun _ => Laws.below_nil
theorem Laws.Bounds.maskLookup (w0 : W64) : Laws.Bounds.Statement (.maskLookup w0) := fun _ => Laws.below_nil
theorem Laws.Bounds.todSample (sec0 : Nat) (ns1 : Nat) (lock2 : Bool) : Laws.Bounds.Statement (.todSample sec0 ns1 lock2) := fun _ => Laws.below_nil
theorem Laws.Bounds.flashReadDone (ch0 : Nat) (ok1 : Bool) (errs2 : Nat) (crc3 : Nat) (lunLost4 : Bool) : Laws.Bounds.Statement (.flashReadDone ch0 ok1 errs2 crc3 lunLost4) := fun h => Laws.below_cons h Laws.below_nil
theorem Laws.Bounds.flashProgramDone (ch0 : Nat) (ce1 : Nat) (lun2 : Nat) (block3 : Nat) (ok4 : Bool) : Laws.Bounds.Statement (.flashProgramDone ch0 ce1 lun2 block3 ok4) := fun h => Laws.below_cons (Laws.left (Laws.left (Laws.left h))) (Laws.below_cons (Laws.right (Laws.left (Laws.left h))) (Laws.below_cons (Laws.right (Laws.left h)) Laws.below_nil))
theorem Laws.Bounds.flashEraseDone (ch0 : Nat) (ce1 : Nat) (lun2 : Nat) (block3 : Nat) (ok4 : Bool) : Laws.Bounds.Statement (.flashEraseDone ch0 ce1 lun2 block3 ok4) := fun h => Laws.below_cons (Laws.left (Laws.left (Laws.left h))) (Laws.below_cons (Laws.right (Laws.left (Laws.left h))) (Laws.below_cons (Laws.right (Laws.left h)) Laws.below_nil))
theorem Laws.Bounds.checkpoint : Laws.Bounds.Statement .checkpoint := fun _ => Laws.below_nil
theorem Laws.Bounds.gcReclaim (ch0 : Nat) (ce1 : Nat) (lun2 : Nat) : Laws.Bounds.Statement (.gcReclaim ch0 ce1 lun2) := fun h => Laws.below_cons (Laws.left (Laws.left h)) (Laws.below_cons (Laws.right (Laws.left h)) (Laws.below_cons (Laws.right h) Laws.below_nil))
theorem Laws.Bounds.wearLevel : Laws.Bounds.Statement .wearLevel := fun _ => Laws.below_nil
theorem Laws.Bounds.readDisturbRelocate (ch0 : Nat) (ce1 : Nat) (lun2 : Nat) (block3 : Nat) : Laws.Bounds.Statement (.readDisturbRelocate ch0 ce1 lun2 block3) := fun h => Laws.below_cons (Laws.left (Laws.left (Laws.left h))) (Laws.below_cons (Laws.right (Laws.left (Laws.left h))) (Laws.below_cons (Laws.right (Laws.left h)) Laws.below_nil))
theorem Laws.Bounds.fenceBreak (ch0 : Nat) (ce1 : Nat) (lun2 : Nat) : Laws.Bounds.Statement (.fenceBreak ch0 ce1 lun2) := fun h => Laws.below_cons (Laws.left (Laws.left h)) (Laws.below_cons (Laws.right (Laws.left h)) (Laws.below_cons (Laws.right h) Laws.below_nil))
theorem Laws.Bounds.zqShort : Laws.Bounds.Statement .zqShort := fun _ => Laws.below_nil
theorem Laws.Bounds.lunLost (ch0 : Nat) (ce1 : Nat) (lun2 : Nat) : Laws.Bounds.Statement (.lunLost ch0 ce1 lun2) := fun h => Laws.below_cons (Laws.left (Laws.left h)) (Laws.below_cons (Laws.right (Laws.left h)) (Laws.below_cons (Laws.right h) Laws.below_nil))
theorem Laws.Bounds.kindlingStart (p0 : Nat) : Laws.Bounds.Statement (.kindlingStart p0) := fun h => Laws.below_cons h Laws.below_nil
theorem Laws.Bounds.dirtyWriteBack (p0 : Nat) (place1 : Nat) : Laws.Bounds.Statement (.dirtyWriteBack p0 place1) := fun h => Laws.below_cons h Laws.below_nil
theorem Laws.Bounds.weightBlockEnd (p0 : Nat) (win1 : Nat) (unit2 : Nat) (fault3 : Bool) : Laws.Bounds.Statement (.weightBlockEnd p0 win1 unit2 fault3) := fun h => Laws.below_cons (Laws.left h) Laws.below_nil
theorem Laws.Bounds.spareSubstitution (l0 : Nat) : Laws.Bounds.Statement (.spareSubstitution l0) := fun _ => Laws.below_nil
theorem Laws.Bounds.holdCeiling (p0 : Nat) : Laws.Bounds.Statement (.holdCeiling p0) := fun h => Laws.below_cons h Laws.below_nil
theorem Laws.Bounds.urgentTimer (d0 : Nat) : Laws.Bounds.Statement (.urgentTimer d0) := fun h => Laws.below_cons h Laws.below_nil
theorem Laws.Bounds.clampSaveEnd (d0 : Nat) : Laws.Bounds.Statement (.clampSaveEnd d0) := fun h => Laws.below_cons h Laws.below_nil
theorem Laws.Bounds.restoreStart : Laws.Bounds.Statement .restoreStart := fun _ => Laws.below_nil
theorem Laws.Bounds.restoreEnd (d0 : Nat) : Laws.Bounds.Statement (.restoreEnd d0) := fun h => Laws.below_cons h Laws.below_nil
theorem Laws.Bounds.partitionBlocked (d0 : Nat) : Laws.Bounds.Statement (.partitionBlocked d0) := fun h => Laws.below_cons h Laws.below_nil
theorem Laws.Bounds.weightGradientPhase (p0 : Nat) (tslot1 : Nat) : Laws.Bounds.Statement (.weightGradientPhase p0 tslot1) := fun h => Laws.below_cons (Laws.left h) Laws.below_nil
theorem Laws.Bounds.updatePass1 (p0 : Nat) (group1 : Nat) : Laws.Bounds.Statement (.updatePass1 p0 group1) := fun h => Laws.below_cons (Laws.left h) Laws.below_nil
theorem Laws.Bounds.updateItem (p0 : Nat) : Laws.Bounds.Statement (.updateItem p0) := fun h => Laws.below_cons h Laws.below_nil
theorem Laws.Bounds.segmentStart (q0 : Nat) (p1 : Nat) : Laws.Bounds.Statement (.segmentStart q0 p1) := fun h => Laws.below_cons (Laws.left h) (Laws.below_cons (Laws.right h) Laws.below_nil)
theorem Laws.Bounds.endSeg (q0 : Nat) (w1 : W64) : Laws.Bounds.Statement (.endSeg q0 w1) := fun h => Laws.below_cons h Laws.below_nil
theorem Laws.Bounds.setlen (q0 : Nat) (w1 : W64) : Laws.Bounds.Statement (.setlen q0 w1) := fun h => Laws.below_cons h Laws.below_nil
theorem Laws.Bounds.sig (q0 : Nat) (w1 : W64) : Laws.Bounds.Statement (.sig q0 w1) := fun h => Laws.below_cons h Laws.below_nil
theorem Laws.Bounds.fence (q0 : Nat) (w1 : W64) : Laws.Bounds.Statement (.fence q0 w1) := fun h => Laws.below_cons h Laws.below_nil
theorem Laws.Bounds.sxset (q0 : Nat) (w1 : W64) : Laws.Bounds.Statement (.sxset q0 w1) := fun h => Laws.below_cons h Laws.below_nil
theorem Laws.Bounds.sxget (q0 : Nat) (w1 : W64) : Laws.Bounds.Statement (.sxget q0 w1) := fun h => Laws.below_cons h Laws.below_nil
theorem Laws.Bounds.add (q0 : Nat) (w1 : W64) : Laws.Bounds.Statement (.add q0 w1) := fun h => Laws.below_cons h Laws.below_nil
theorem Laws.Bounds.sub (q0 : Nat) (w1 : W64) : Laws.Bounds.Statement (.sub q0 w1) := fun h => Laws.below_cons h Laws.below_nil
theorem Laws.Bounds.mul (q0 : Nat) (w1 : W64) : Laws.Bounds.Statement (.mul q0 w1) := fun h => Laws.below_cons h Laws.below_nil
theorem Laws.Bounds.div (q0 : Nat) (w1 : W64) : Laws.Bounds.Statement (.div q0 w1) := fun h => Laws.below_cons h Laws.below_nil
theorem Laws.Bounds.sqrt (q0 : Nat) (w1 : W64) : Laws.Bounds.Statement (.sqrt q0 w1) := fun h => Laws.below_cons h Laws.below_nil
theorem Laws.Bounds.min (q0 : Nat) (w1 : W64) : Laws.Bounds.Statement (.min q0 w1) := fun h => Laws.below_cons h Laws.below_nil
theorem Laws.Bounds.max (q0 : Nat) (w1 : W64) : Laws.Bounds.Statement (.max q0 w1) := fun h => Laws.below_cons h Laws.below_nil
theorem Laws.Bounds.abs (q0 : Nat) (w1 : W64) : Laws.Bounds.Statement (.abs q0 w1) := fun h => Laws.below_cons h Laws.below_nil
theorem Laws.Bounds.neg (q0 : Nat) (w1 : W64) : Laws.Bounds.Statement (.neg q0 w1) := fun h => Laws.below_cons h Laws.below_nil
theorem Laws.Bounds.cmplt (q0 : Nat) (w1 : W64) : Laws.Bounds.Statement (.cmplt q0 w1) := fun h => Laws.below_cons h Laws.below_nil
theorem Laws.Bounds.cmple (q0 : Nat) (w1 : W64) : Laws.Bounds.Statement (.cmple q0 w1) := fun h => Laws.below_cons h Laws.below_nil
theorem Laws.Bounds.cmpeq (q0 : Nat) (w1 : W64) : Laws.Bounds.Statement (.cmpeq q0 w1) := fun h => Laws.below_cons h Laws.below_nil
theorem Laws.Bounds.sel (q0 : Nat) (w1 : W64) : Laws.Bounds.Statement (.sel q0 w1) := fun h => Laws.below_cons h Laws.below_nil
theorem Laws.Bounds.iadd (q0 : Nat) (w1 : W64) : Laws.Bounds.Statement (.iadd q0 w1) := fun h => Laws.below_cons h Laws.below_nil
theorem Laws.Bounds.isub (q0 : Nat) (w1 : W64) : Laws.Bounds.Statement (.isub q0 w1) := fun h => Laws.below_cons h Laws.below_nil
theorem Laws.Bounds.imul (q0 : Nat) (w1 : W64) : Laws.Bounds.Statement (.imul q0 w1) := fun h => Laws.below_cons h Laws.below_nil
theorem Laws.Bounds.and (q0 : Nat) (w1 : W64) : Laws.Bounds.Statement (.and q0 w1) := fun h => Laws.below_cons h Laws.below_nil
theorem Laws.Bounds.or (q0 : Nat) (w1 : W64) : Laws.Bounds.Statement (.or q0 w1) := fun h => Laws.below_cons h Laws.below_nil
theorem Laws.Bounds.xor (q0 : Nat) (w1 : W64) : Laws.Bounds.Statement (.xor q0 w1) := fun h => Laws.below_cons h Laws.below_nil
theorem Laws.Bounds.shl (q0 : Nat) (w1 : W64) : Laws.Bounds.Statement (.shl q0 w1) := fun h => Laws.below_cons h Laws.below_nil
theorem Laws.Bounds.shr (q0 : Nat) (w1 : W64) : Laws.Bounds.Statement (.shr q0 w1) := fun h => Laws.below_cons h Laws.below_nil
theorem Laws.Bounds.sar (q0 : Nat) (w1 : W64) : Laws.Bounds.Statement (.sar q0 w1) := fun h => Laws.below_cons h Laws.below_nil
theorem Laws.Bounds.imin (q0 : Nat) (w1 : W64) : Laws.Bounds.Statement (.imin q0 w1) := fun h => Laws.below_cons h Laws.below_nil
theorem Laws.Bounds.imax (q0 : Nat) (w1 : W64) : Laws.Bounds.Statement (.imax q0 w1) := fun h => Laws.below_cons h Laws.below_nil
theorem Laws.Bounds.mov (q0 : Nat) (w1 : W64) : Laws.Bounds.Statement (.mov q0 w1) := fun h => Laws.below_cons h Laws.below_nil
theorem Laws.Bounds.cvt (q0 : Nat) (w1 : W64) : Laws.Bounds.Statement (.cvt q0 w1) := fun h => Laws.below_cons h Laws.below_nil
theorem Laws.Bounds.red (q0 : Nat) (w1 : W64) : Laws.Bounds.Statement (.red q0 w1) := fun h => Laws.below_cons h Laws.below_nil
theorem Laws.Bounds.lda (q0 : Nat) (w1 : W64) : Laws.Bounds.Statement (.lda q0 w1) := fun h => Laws.below_cons h Laws.below_nil
theorem Laws.Bounds.ldl (q0 : Nat) (w1 : W64) : Laws.Bounds.Statement (.ldl q0 w1) := fun h => Laws.below_cons h Laws.below_nil
theorem Laws.Bounds.stl (q0 : Nat) (w1 : W64) : Laws.Bounds.Statement (.stl q0 w1) := fun h => Laws.below_cons h Laws.below_nil
theorem Laws.Bounds.lds (q0 : Nat) (w1 : W64) : Laws.Bounds.Statement (.lds q0 w1) := fun h => Laws.below_cons h Laws.below_nil
theorem Laws.Bounds.sts (q0 : Nat) (w1 : W64) : Laws.Bounds.Statement (.sts q0 w1) := fun h => Laws.below_cons h Laws.below_nil
theorem Laws.Bounds.xld (q0 : Nat) (w1 : W64) : Laws.Bounds.Statement (.xld q0 w1) := fun h => Laws.below_cons h Laws.below_nil
theorem Laws.Bounds.xst (q0 : Nat) (w1 : W64) : Laws.Bounds.Statement (.xst q0 w1) := fun h => Laws.below_cons h Laws.below_nil
theorem Laws.Bounds.scl (q0 : Nat) (w1 : W64) : Laws.Bounds.Statement (.scl q0 w1) := fun h => Laws.below_cons h Laws.below_nil
theorem Laws.Bounds.transferEnd (q0 : Nat) (xtag1 : Nat) (ok2 : Bool) : Laws.Bounds.Statement (.transferEnd q0 xtag1 ok2) := fun h => Laws.below_cons (Laws.left h) (Laws.below_cons (Laws.right h) Laws.below_nil)
theorem Laws.Bounds.watchdogExpiry (within1s0 : Bool) : Laws.Bounds.Statement (.watchdogExpiry within1s0) := fun _ => Laws.below_nil
theorem Laws.Bounds.watchdogHalf : Laws.Bounds.Statement .watchdogHalf := fun _ => Laws.below_nil
theorem Laws.Bounds.eventIrqTimer : Laws.Bounds.Statement .eventIrqTimer := fun _ => Laws.below_nil
theorem Laws.Bounds.scrubPeriod (finds0 : List (Nat × Nat × Bool)) : Laws.Bounds.Statement (.scrubPeriod finds0) := fun _ => Laws.below_nil
theorem Laws.Bounds.errorScoreHalving : Laws.Bounds.Statement .errorScoreHalving := fun _ => Laws.below_nil
theorem Laws.Bounds.knownAnswerTest (tile0 : Nat) (pass1 : Bool) : Laws.Bounds.Statement (.knownAnswerTest tile0 pass1) := fun _ => Laws.below_nil
theorem Laws.Bounds.sketchAgeing : Laws.Bounds.Statement .sketchAgeing := fun _ => Laws.below_nil
theorem Laws.Bounds.flashMountEnd (readable0 : Bool) (flash1 : List (Nat × Nat × List Nat)) (samples2 : List (Nat × Nat)) : Laws.Bounds.Statement (.flashMountEnd readable0 flash1 samples2) := fun _ => Laws.below_nil
theorem Laws.Bounds.fwRestartEnd : Laws.Bounds.Statement .fwRestartEnd := fun _ => Laws.below_nil
theorem Laws.Bounds.bucketRefill : Laws.Bounds.Statement .bucketRefill := fun _ => Laws.below_nil
theorem Laws.Bounds.mpRequestAccept (m0 : Nat) : Laws.Bounds.Statement (.mpRequestAccept m0) := fun h => Laws.below_cons h Laws.below_nil
theorem Laws.Bounds.fifoStallTimeout (q0 : Nat) : Laws.Bounds.Statement (.fifoStallTimeout q0) := fun h => Laws.below_cons h Laws.below_nil

end Sys2Proof
end

