-- ==== Sys2Proof/Laws/State.lean ====
section
/-! SUPPORT. One lemma for each field and each update of State, true by definition: no proof unfolds a record update. -/

namespace Sys2Proof.Machine

/-! ## updPart: nothing but `parts` changes -/

@[simp] theorem updPart_pending (s : State) (d : Nat) (f : Part → Part) : (updPart s d f).pending = s.pending := rfl
@[simp] theorem updPart_built (s : State) (d : Nat) (f : Part → Part) : (updPart s d f).built = s.built := rfl
@[simp] theorem updPart_silicon (s : State) (d : Nat) (f : Part → Part) : (updPart s d f).silicon = s.silicon := rfl
@[simp] theorem updPart_boot (s : State) (d : Nat) (f : Part → Part) : (updPart s d f).boot = s.boot := rfl
@[simp] theorem updPart_otp (s : State) (d : Nat) (f : Part → Part) : (updPart s d f).otp = s.otp := rfl
@[simp] theorem updPart_od (s : State) (d : Nat) (f : Part → Part) : (updPart s d f).od = s.od := rfl
@[simp] theorem updPart_cnt (s : State) (d : Nat) (f : Part → Part) : (updPart s d f).cnt = s.cnt := rfl
@[simp] theorem updPart_core (s : State) (d : Nat) (f : Part → Part) : (updPart s d f).core = s.core := rfl
@[simp] theorem updPart_mp (s : State) (d : Nat) (f : Part → Part) : (updPart s d f).mp = s.mp := rfl
@[simp] theorem updPart_tm (s : State) (d : Nat) (f : Part → Part) : (updPart s d f).tm = s.tm := rfl
@[simp] theorem updPart_mem (s : State) (d : Nat) (f : Part → Part) : (updPart s d f).mem = s.mem := rfl
@[simp] theorem updPart_ctxs (s : State) (d : Nat) (f : Part → Part) : (updPart s d f).ctxs = s.ctxs := rfl
@[simp] theorem updPart_pgdir (s : State) (d : Nat) (f : Part → Part) : (updPart s d f).pgdir = s.pgdir := rfl
@[simp] theorem updPart_xp (s : State) (d : Nat) (f : Part → Part) : (updPart s d f).xp = s.xp := rfl
@[simp] theorem updPart_slices (s : State) (d : Nat) (f : Part → Part) : (updPart s d f).slices = s.slices := rfl
@[simp] theorem updPart_fl (s : State) (d : Nat) (f : Part → Part) : (updPart s d f).fl = s.fl := rfl
@[simp] theorem updPart_ee (s : State) (d : Nat) (f : Part → Part) : (updPart s d f).ee = s.ee := rfl
@[simp] theorem updPart_rel (s : State) (d : Nat) (f : Part → Part) : (updPart s d f).rel = s.rel := rfl
@[simp] theorem updPart_dbg (s : State) (d : Nat) (f : Part → Part) : (updPart s d f).dbg = s.dbg := rfl
@[simp] theorem updPart_i3c (s : State) (d : Nat) (f : Part → Part) : (updPart s d f).i3c = s.i3c := rfl
@[simp] theorem updPart_tod (s : State) (d : Nat) (f : Part → Part) : (updPart s d f).tod = s.tod := rfl
@[simp] theorem updPart_out (s : State) (d : Nat) (f : Part → Part) : (updPart s d f).out = s.out := rfl
@[simp] theorem updPart_order (s : State) (d : Nat) (f : Part → Part) : (updPart s d f).order = s.order := rfl
@[simp] theorem updPart_free (s : State) (d : Nat) (f : Part → Part) : (updPart s d f).free = s.free := rfl

/-! ## updTrain: nothing but `parts` changes -/

@[simp] theorem updTrain_pending (s : State) (d : Nat) (f : Train → Train) : (updTrain s d f).pending = s.pending := rfl
@[simp] theorem updTrain_built (s : State) (d : Nat) (f : Train → Train) : (updTrain s d f).built = s.built := rfl
@[simp] theorem updTrain_silicon (s : State) (d : Nat) (f : Train → Train) : (updTrain s d f).silicon = s.silicon := rfl
@[simp] theorem updTrain_boot (s : State) (d : Nat) (f : Train → Train) : (updTrain s d f).boot = s.boot := rfl
@[simp] theorem updTrain_otp (s : State) (d : Nat) (f : Train → Train) : (updTrain s d f).otp = s.otp := rfl
@[simp] theorem updTrain_od (s : State) (d : Nat) (f : Train → Train) : (updTrain s d f).od = s.od := rfl
@[simp] theorem updTrain_cnt (s : State) (d : Nat) (f : Train → Train) : (updTrain s d f).cnt = s.cnt := rfl
@[simp] theorem updTrain_core (s : State) (d : Nat) (f : Train → Train) : (updTrain s d f).core = s.core := rfl
@[simp] theorem updTrain_mp (s : State) (d : Nat) (f : Train → Train) : (updTrain s d f).mp = s.mp := rfl
@[simp] theorem updTrain_tm (s : State) (d : Nat) (f : Train → Train) : (updTrain s d f).tm = s.tm := rfl
@[simp] theorem updTrain_mem (s : State) (d : Nat) (f : Train → Train) : (updTrain s d f).mem = s.mem := rfl
@[simp] theorem updTrain_ctxs (s : State) (d : Nat) (f : Train → Train) : (updTrain s d f).ctxs = s.ctxs := rfl
@[simp] theorem updTrain_pgdir (s : State) (d : Nat) (f : Train → Train) : (updTrain s d f).pgdir = s.pgdir := rfl
@[simp] theorem updTrain_xp (s : State) (d : Nat) (f : Train → Train) : (updTrain s d f).xp = s.xp := rfl
@[simp] theorem updTrain_slices (s : State) (d : Nat) (f : Train → Train) : (updTrain s d f).slices = s.slices := rfl
@[simp] theorem updTrain_fl (s : State) (d : Nat) (f : Train → Train) : (updTrain s d f).fl = s.fl := rfl
@[simp] theorem updTrain_ee (s : State) (d : Nat) (f : Train → Train) : (updTrain s d f).ee = s.ee := rfl
@[simp] theorem updTrain_rel (s : State) (d : Nat) (f : Train → Train) : (updTrain s d f).rel = s.rel := rfl
@[simp] theorem updTrain_dbg (s : State) (d : Nat) (f : Train → Train) : (updTrain s d f).dbg = s.dbg := rfl
@[simp] theorem updTrain_i3c (s : State) (d : Nat) (f : Train → Train) : (updTrain s d f).i3c = s.i3c := rfl
@[simp] theorem updTrain_tod (s : State) (d : Nat) (f : Train → Train) : (updTrain s d f).tod = s.tod := rfl
@[simp] theorem updTrain_out (s : State) (d : Nat) (f : Train → Train) : (updTrain s d f).out = s.out := rfl
@[simp] theorem updTrain_order (s : State) (d : Nat) (f : Train → Train) : (updTrain s d f).order = s.order := rfl
@[simp] theorem updTrain_free (s : State) (d : Nat) (f : Train → Train) : (updTrain s d f).free = s.free := rfl

/-! ## updTraits: nothing but `parts` changes -/

@[simp] theorem updTraits_pending (s : State) (d : Nat) (f : Traits → Traits) : (updTraits s d f).pending = s.pending := rfl
@[simp] theorem updTraits_built (s : State) (d : Nat) (f : Traits → Traits) : (updTraits s d f).built = s.built := rfl
@[simp] theorem updTraits_silicon (s : State) (d : Nat) (f : Traits → Traits) : (updTraits s d f).silicon = s.silicon := rfl
@[simp] theorem updTraits_boot (s : State) (d : Nat) (f : Traits → Traits) : (updTraits s d f).boot = s.boot := rfl
@[simp] theorem updTraits_otp (s : State) (d : Nat) (f : Traits → Traits) : (updTraits s d f).otp = s.otp := rfl
@[simp] theorem updTraits_od (s : State) (d : Nat) (f : Traits → Traits) : (updTraits s d f).od = s.od := rfl
@[simp] theorem updTraits_cnt (s : State) (d : Nat) (f : Traits → Traits) : (updTraits s d f).cnt = s.cnt := rfl
@[simp] theorem updTraits_core (s : State) (d : Nat) (f : Traits → Traits) : (updTraits s d f).core = s.core := rfl
@[simp] theorem updTraits_mp (s : State) (d : Nat) (f : Traits → Traits) : (updTraits s d f).mp = s.mp := rfl
@[simp] theorem updTraits_tm (s : State) (d : Nat) (f : Traits → Traits) : (updTraits s d f).tm = s.tm := rfl
@[simp] theorem updTraits_mem (s : State) (d : Nat) (f : Traits → Traits) : (updTraits s d f).mem = s.mem := rfl
@[simp] theorem updTraits_ctxs (s : State) (d : Nat) (f : Traits → Traits) : (updTraits s d f).ctxs = s.ctxs := rfl
@[simp] theorem updTraits_pgdir (s : State) (d : Nat) (f : Traits → Traits) : (updTraits s d f).pgdir = s.pgdir := rfl
@[simp] theorem updTraits_xp (s : State) (d : Nat) (f : Traits → Traits) : (updTraits s d f).xp = s.xp := rfl
@[simp] theorem updTraits_slices (s : State) (d : Nat) (f : Traits → Traits) : (updTraits s d f).slices = s.slices := rfl
@[simp] theorem updTraits_fl (s : State) (d : Nat) (f : Traits → Traits) : (updTraits s d f).fl = s.fl := rfl
@[simp] theorem updTraits_ee (s : State) (d : Nat) (f : Traits → Traits) : (updTraits s d f).ee = s.ee := rfl
@[simp] theorem updTraits_rel (s : State) (d : Nat) (f : Traits → Traits) : (updTraits s d f).rel = s.rel := rfl
@[simp] theorem updTraits_dbg (s : State) (d : Nat) (f : Traits → Traits) : (updTraits s d f).dbg = s.dbg := rfl
@[simp] theorem updTraits_i3c (s : State) (d : Nat) (f : Traits → Traits) : (updTraits s d f).i3c = s.i3c := rfl
@[simp] theorem updTraits_tod (s : State) (d : Nat) (f : Traits → Traits) : (updTraits s d f).tod = s.tod := rfl
@[simp] theorem updTraits_out (s : State) (d : Nat) (f : Traits → Traits) : (updTraits s d f).out = s.out := rfl
@[simp] theorem updTraits_order (s : State) (d : Nat) (f : Traits → Traits) : (updTraits s d f).order = s.order := rfl
@[simp] theorem updTraits_free (s : State) (d : Nat) (f : Traits → Traits) : (updTraits s d f).free = s.free := rfl

/-! ## updCtx: nothing but `ctxs` changes -/

@[simp] theorem updCtx_pending (s : State) (c : Nat) (f : Ctx → Ctx) : (updCtx s c f).pending = s.pending := rfl
@[simp] theorem updCtx_built (s : State) (c : Nat) (f : Ctx → Ctx) : (updCtx s c f).built = s.built := rfl
@[simp] theorem updCtx_silicon (s : State) (c : Nat) (f : Ctx → Ctx) : (updCtx s c f).silicon = s.silicon := rfl
@[simp] theorem updCtx_boot (s : State) (c : Nat) (f : Ctx → Ctx) : (updCtx s c f).boot = s.boot := rfl
@[simp] theorem updCtx_otp (s : State) (c : Nat) (f : Ctx → Ctx) : (updCtx s c f).otp = s.otp := rfl
@[simp] theorem updCtx_od (s : State) (c : Nat) (f : Ctx → Ctx) : (updCtx s c f).od = s.od := rfl
@[simp] theorem updCtx_cnt (s : State) (c : Nat) (f : Ctx → Ctx) : (updCtx s c f).cnt = s.cnt := rfl
@[simp] theorem updCtx_core (s : State) (c : Nat) (f : Ctx → Ctx) : (updCtx s c f).core = s.core := rfl
@[simp] theorem updCtx_mp (s : State) (c : Nat) (f : Ctx → Ctx) : (updCtx s c f).mp = s.mp := rfl
@[simp] theorem updCtx_tm (s : State) (c : Nat) (f : Ctx → Ctx) : (updCtx s c f).tm = s.tm := rfl
@[simp] theorem updCtx_mem (s : State) (c : Nat) (f : Ctx → Ctx) : (updCtx s c f).mem = s.mem := rfl
@[simp] theorem updCtx_parts (s : State) (c : Nat) (f : Ctx → Ctx) : (updCtx s c f).parts = s.parts := rfl
@[simp] theorem updCtx_pgdir (s : State) (c : Nat) (f : Ctx → Ctx) : (updCtx s c f).pgdir = s.pgdir := rfl
@[simp] theorem updCtx_xp (s : State) (c : Nat) (f : Ctx → Ctx) : (updCtx s c f).xp = s.xp := rfl
@[simp] theorem updCtx_slices (s : State) (c : Nat) (f : Ctx → Ctx) : (updCtx s c f).slices = s.slices := rfl
@[simp] theorem updCtx_fl (s : State) (c : Nat) (f : Ctx → Ctx) : (updCtx s c f).fl = s.fl := rfl
@[simp] theorem updCtx_ee (s : State) (c : Nat) (f : Ctx → Ctx) : (updCtx s c f).ee = s.ee := rfl
@[simp] theorem updCtx_rel (s : State) (c : Nat) (f : Ctx → Ctx) : (updCtx s c f).rel = s.rel := rfl
@[simp] theorem updCtx_dbg (s : State) (c : Nat) (f : Ctx → Ctx) : (updCtx s c f).dbg = s.dbg := rfl
@[simp] theorem updCtx_i3c (s : State) (c : Nat) (f : Ctx → Ctx) : (updCtx s c f).i3c = s.i3c := rfl
@[simp] theorem updCtx_tod (s : State) (c : Nat) (f : Ctx → Ctx) : (updCtx s c f).tod = s.tod := rfl
@[simp] theorem updCtx_out (s : State) (c : Nat) (f : Ctx → Ctx) : (updCtx s c f).out = s.out := rfl
@[simp] theorem updCtx_order (s : State) (c : Nat) (f : Ctx → Ctx) : (updCtx s c f).order = s.order := rfl
@[simp] theorem updCtx_free (s : State) (c : Nat) (f : Ctx → Ctx) : (updCtx s c f).free = s.free := rfl

/-! ## setCtx: nothing but `ctxs` changes -/

@[simp] theorem setCtx_pending (s : State) (c : Nat) (x : Ctx) : (setCtx s c x).pending = s.pending := rfl
@[simp] theorem setCtx_built (s : State) (c : Nat) (x : Ctx) : (setCtx s c x).built = s.built := rfl
@[simp] theorem setCtx_silicon (s : State) (c : Nat) (x : Ctx) : (setCtx s c x).silicon = s.silicon := rfl
@[simp] theorem setCtx_boot (s : State) (c : Nat) (x : Ctx) : (setCtx s c x).boot = s.boot := rfl
@[simp] theorem setCtx_otp (s : State) (c : Nat) (x : Ctx) : (setCtx s c x).otp = s.otp := rfl
@[simp] theorem setCtx_od (s : State) (c : Nat) (x : Ctx) : (setCtx s c x).od = s.od := rfl
@[simp] theorem setCtx_cnt (s : State) (c : Nat) (x : Ctx) : (setCtx s c x).cnt = s.cnt := rfl
@[simp] theorem setCtx_core (s : State) (c : Nat) (x : Ctx) : (setCtx s c x).core = s.core := rfl
@[simp] theorem setCtx_mp (s : State) (c : Nat) (x : Ctx) : (setCtx s c x).mp = s.mp := rfl
@[simp] theorem setCtx_tm (s : State) (c : Nat) (x : Ctx) : (setCtx s c x).tm = s.tm := rfl
@[simp] theorem setCtx_mem (s : State) (c : Nat) (x : Ctx) : (setCtx s c x).mem = s.mem := rfl
@[simp] theorem setCtx_parts (s : State) (c : Nat) (x : Ctx) : (setCtx s c x).parts = s.parts := rfl
@[simp] theorem setCtx_pgdir (s : State) (c : Nat) (x : Ctx) : (setCtx s c x).pgdir = s.pgdir := rfl
@[simp] theorem setCtx_xp (s : State) (c : Nat) (x : Ctx) : (setCtx s c x).xp = s.xp := rfl
@[simp] theorem setCtx_slices (s : State) (c : Nat) (x : Ctx) : (setCtx s c x).slices = s.slices := rfl
@[simp] theorem setCtx_fl (s : State) (c : Nat) (x : Ctx) : (setCtx s c x).fl = s.fl := rfl
@[simp] theorem setCtx_ee (s : State) (c : Nat) (x : Ctx) : (setCtx s c x).ee = s.ee := rfl
@[simp] theorem setCtx_rel (s : State) (c : Nat) (x : Ctx) : (setCtx s c x).rel = s.rel := rfl
@[simp] theorem setCtx_dbg (s : State) (c : Nat) (x : Ctx) : (setCtx s c x).dbg = s.dbg := rfl
@[simp] theorem setCtx_i3c (s : State) (c : Nat) (x : Ctx) : (setCtx s c x).i3c = s.i3c := rfl
@[simp] theorem setCtx_tod (s : State) (c : Nat) (x : Ctx) : (setCtx s c x).tod = s.tod := rfl
@[simp] theorem setCtx_out (s : State) (c : Nat) (x : Ctx) : (setCtx s c x).out = s.out := rfl
@[simp] theorem setCtx_order (s : State) (c : Nat) (x : Ctx) : (setCtx s c x).order = s.order := rfl
@[simp] theorem setCtx_free (s : State) (c : Nat) (x : Ctx) : (setCtx s c x).free = s.free := rfl

/-! ## updFl: nothing but `fl` changes -/

@[simp] theorem updFl_pending (s : State) (f : Fl → Fl) : (updFl s f).pending = s.pending := rfl
@[simp] theorem updFl_built (s : State) (f : Fl → Fl) : (updFl s f).built = s.built := rfl
@[simp] theorem updFl_silicon (s : State) (f : Fl → Fl) : (updFl s f).silicon = s.silicon := rfl
@[simp] theorem updFl_boot (s : State) (f : Fl → Fl) : (updFl s f).boot = s.boot := rfl
@[simp] theorem updFl_otp (s : State) (f : Fl → Fl) : (updFl s f).otp = s.otp := rfl
@[simp] theorem updFl_od (s : State) (f : Fl → Fl) : (updFl s f).od = s.od := rfl
@[simp] theorem updFl_cnt (s : State) (f : Fl → Fl) : (updFl s f).cnt = s.cnt := rfl
@[simp] theorem updFl_core (s : State) (f : Fl → Fl) : (updFl s f).core = s.core := rfl
@[simp] theorem updFl_mp (s : State) (f : Fl → Fl) : (updFl s f).mp = s.mp := rfl
@[simp] theorem updFl_tm (s : State) (f : Fl → Fl) : (updFl s f).tm = s.tm := rfl
@[simp] theorem updFl_mem (s : State) (f : Fl → Fl) : (updFl s f).mem = s.mem := rfl
@[simp] theorem updFl_parts (s : State) (f : Fl → Fl) : (updFl s f).parts = s.parts := rfl
@[simp] theorem updFl_ctxs (s : State) (f : Fl → Fl) : (updFl s f).ctxs = s.ctxs := rfl
@[simp] theorem updFl_pgdir (s : State) (f : Fl → Fl) : (updFl s f).pgdir = s.pgdir := rfl
@[simp] theorem updFl_xp (s : State) (f : Fl → Fl) : (updFl s f).xp = s.xp := rfl
@[simp] theorem updFl_slices (s : State) (f : Fl → Fl) : (updFl s f).slices = s.slices := rfl
@[simp] theorem updFl_ee (s : State) (f : Fl → Fl) : (updFl s f).ee = s.ee := rfl
@[simp] theorem updFl_rel (s : State) (f : Fl → Fl) : (updFl s f).rel = s.rel := rfl
@[simp] theorem updFl_dbg (s : State) (f : Fl → Fl) : (updFl s f).dbg = s.dbg := rfl
@[simp] theorem updFl_i3c (s : State) (f : Fl → Fl) : (updFl s f).i3c = s.i3c := rfl
@[simp] theorem updFl_tod (s : State) (f : Fl → Fl) : (updFl s f).tod = s.tod := rfl
@[simp] theorem updFl_out (s : State) (f : Fl → Fl) : (updFl s f).out = s.out := rfl
@[simp] theorem updFl_order (s : State) (f : Fl → Fl) : (updFl s f).order = s.order := rfl
@[simp] theorem updFl_free (s : State) (f : Fl → Fl) : (updFl s f).free = s.free := rfl

/-! ## updXp: nothing but `xp` changes -/

@[simp] theorem updXp_pending (s : State) (f : Xp → Xp) : (updXp s f).pending = s.pending := rfl
@[simp] theorem updXp_built (s : State) (f : Xp → Xp) : (updXp s f).built = s.built := rfl
@[simp] theorem updXp_silicon (s : State) (f : Xp → Xp) : (updXp s f).silicon = s.silicon := rfl
@[simp] theorem updXp_boot (s : State) (f : Xp → Xp) : (updXp s f).boot = s.boot := rfl
@[simp] theorem updXp_otp (s : State) (f : Xp → Xp) : (updXp s f).otp = s.otp := rfl
@[simp] theorem updXp_od (s : State) (f : Xp → Xp) : (updXp s f).od = s.od := rfl
@[simp] theorem updXp_cnt (s : State) (f : Xp → Xp) : (updXp s f).cnt = s.cnt := rfl
@[simp] theorem updXp_core (s : State) (f : Xp → Xp) : (updXp s f).core = s.core := rfl
@[simp] theorem updXp_mp (s : State) (f : Xp → Xp) : (updXp s f).mp = s.mp := rfl
@[simp] theorem updXp_tm (s : State) (f : Xp → Xp) : (updXp s f).tm = s.tm := rfl
@[simp] theorem updXp_mem (s : State) (f : Xp → Xp) : (updXp s f).mem = s.mem := rfl
@[simp] theorem updXp_parts (s : State) (f : Xp → Xp) : (updXp s f).parts = s.parts := rfl
@[simp] theorem updXp_ctxs (s : State) (f : Xp → Xp) : (updXp s f).ctxs = s.ctxs := rfl
@[simp] theorem updXp_pgdir (s : State) (f : Xp → Xp) : (updXp s f).pgdir = s.pgdir := rfl
@[simp] theorem updXp_slices (s : State) (f : Xp → Xp) : (updXp s f).slices = s.slices := rfl
@[simp] theorem updXp_fl (s : State) (f : Xp → Xp) : (updXp s f).fl = s.fl := rfl
@[simp] theorem updXp_ee (s : State) (f : Xp → Xp) : (updXp s f).ee = s.ee := rfl
@[simp] theorem updXp_rel (s : State) (f : Xp → Xp) : (updXp s f).rel = s.rel := rfl
@[simp] theorem updXp_dbg (s : State) (f : Xp → Xp) : (updXp s f).dbg = s.dbg := rfl
@[simp] theorem updXp_i3c (s : State) (f : Xp → Xp) : (updXp s f).i3c = s.i3c := rfl
@[simp] theorem updXp_tod (s : State) (f : Xp → Xp) : (updXp s f).tod = s.tod := rfl
@[simp] theorem updXp_out (s : State) (f : Xp → Xp) : (updXp s f).out = s.out := rfl
@[simp] theorem updXp_order (s : State) (f : Xp → Xp) : (updXp s f).order = s.order := rfl
@[simp] theorem updXp_free (s : State) (f : Xp → Xp) : (updXp s f).free = s.free := rfl

/-! ## updI3c: nothing but `i3c` changes -/

@[simp] theorem updI3c_pending (s : State) (f : I3c → I3c) : (updI3c s f).pending = s.pending := rfl
@[simp] theorem updI3c_built (s : State) (f : I3c → I3c) : (updI3c s f).built = s.built := rfl
@[simp] theorem updI3c_silicon (s : State) (f : I3c → I3c) : (updI3c s f).silicon = s.silicon := rfl
@[simp] theorem updI3c_boot (s : State) (f : I3c → I3c) : (updI3c s f).boot = s.boot := rfl
@[simp] theorem updI3c_otp (s : State) (f : I3c → I3c) : (updI3c s f).otp = s.otp := rfl
@[simp] theorem updI3c_od (s : State) (f : I3c → I3c) : (updI3c s f).od = s.od := rfl
@[simp] theorem updI3c_cnt (s : State) (f : I3c → I3c) : (updI3c s f).cnt = s.cnt := rfl
@[simp] theorem updI3c_core (s : State) (f : I3c → I3c) : (updI3c s f).core = s.core := rfl
@[simp] theorem updI3c_mp (s : State) (f : I3c → I3c) : (updI3c s f).mp = s.mp := rfl
@[simp] theorem updI3c_tm (s : State) (f : I3c → I3c) : (updI3c s f).tm = s.tm := rfl
@[simp] theorem updI3c_mem (s : State) (f : I3c → I3c) : (updI3c s f).mem = s.mem := rfl
@[simp] theorem updI3c_parts (s : State) (f : I3c → I3c) : (updI3c s f).parts = s.parts := rfl
@[simp] theorem updI3c_ctxs (s : State) (f : I3c → I3c) : (updI3c s f).ctxs = s.ctxs := rfl
@[simp] theorem updI3c_pgdir (s : State) (f : I3c → I3c) : (updI3c s f).pgdir = s.pgdir := rfl
@[simp] theorem updI3c_xp (s : State) (f : I3c → I3c) : (updI3c s f).xp = s.xp := rfl
@[simp] theorem updI3c_slices (s : State) (f : I3c → I3c) : (updI3c s f).slices = s.slices := rfl
@[simp] theorem updI3c_fl (s : State) (f : I3c → I3c) : (updI3c s f).fl = s.fl := rfl
@[simp] theorem updI3c_ee (s : State) (f : I3c → I3c) : (updI3c s f).ee = s.ee := rfl
@[simp] theorem updI3c_rel (s : State) (f : I3c → I3c) : (updI3c s f).rel = s.rel := rfl
@[simp] theorem updI3c_dbg (s : State) (f : I3c → I3c) : (updI3c s f).dbg = s.dbg := rfl
@[simp] theorem updI3c_tod (s : State) (f : I3c → I3c) : (updI3c s f).tod = s.tod := rfl
@[simp] theorem updI3c_out (s : State) (f : I3c → I3c) : (updI3c s f).out = s.out := rfl
@[simp] theorem updI3c_order (s : State) (f : I3c → I3c) : (updI3c s f).order = s.order := rfl
@[simp] theorem updI3c_free (s : State) (f : I3c → I3c) : (updI3c s f).free = s.free := rfl

/-! ## updCore: nothing but `core` changes -/

@[simp] theorem updCore_pending (s : State) (f : Core → Core) : (updCore s f).pending = s.pending := rfl
@[simp] theorem updCore_built (s : State) (f : Core → Core) : (updCore s f).built = s.built := rfl
@[simp] theorem updCore_silicon (s : State) (f : Core → Core) : (updCore s f).silicon = s.silicon := rfl
@[simp] theorem updCore_boot (s : State) (f : Core → Core) : (updCore s f).boot = s.boot := rfl
@[simp] theorem updCore_otp (s : State) (f : Core → Core) : (updCore s f).otp = s.otp := rfl
@[simp] theorem updCore_od (s : State) (f : Core → Core) : (updCore s f).od = s.od := rfl
@[simp] theorem updCore_cnt (s : State) (f : Core → Core) : (updCore s f).cnt = s.cnt := rfl
@[simp] theorem updCore_mp (s : State) (f : Core → Core) : (updCore s f).mp = s.mp := rfl
@[simp] theorem updCore_tm (s : State) (f : Core → Core) : (updCore s f).tm = s.tm := rfl
@[simp] theorem updCore_mem (s : State) (f : Core → Core) : (updCore s f).mem = s.mem := rfl
@[simp] theorem updCore_parts (s : State) (f : Core → Core) : (updCore s f).parts = s.parts := rfl
@[simp] theorem updCore_ctxs (s : State) (f : Core → Core) : (updCore s f).ctxs = s.ctxs := rfl
@[simp] theorem updCore_pgdir (s : State) (f : Core → Core) : (updCore s f).pgdir = s.pgdir := rfl
@[simp] theorem updCore_xp (s : State) (f : Core → Core) : (updCore s f).xp = s.xp := rfl
@[simp] theorem updCore_slices (s : State) (f : Core → Core) : (updCore s f).slices = s.slices := rfl
@[simp] theorem updCore_fl (s : State) (f : Core → Core) : (updCore s f).fl = s.fl := rfl
@[simp] theorem updCore_ee (s : State) (f : Core → Core) : (updCore s f).ee = s.ee := rfl
@[simp] theorem updCore_rel (s : State) (f : Core → Core) : (updCore s f).rel = s.rel := rfl
@[simp] theorem updCore_dbg (s : State) (f : Core → Core) : (updCore s f).dbg = s.dbg := rfl
@[simp] theorem updCore_i3c (s : State) (f : Core → Core) : (updCore s f).i3c = s.i3c := rfl
@[simp] theorem updCore_tod (s : State) (f : Core → Core) : (updCore s f).tod = s.tod := rfl
@[simp] theorem updCore_out (s : State) (f : Core → Core) : (updCore s f).out = s.out := rfl
@[simp] theorem updCore_order (s : State) (f : Core → Core) : (updCore s f).order = s.order := rfl
@[simp] theorem updCore_free (s : State) (f : Core → Core) : (updCore s f).free = s.free := rfl

/-! ## setEng: nothing but `ee` changes -/

@[simp] theorem setEng_pending (s : State) (q : Nat) (e : Eng) : (setEng s q e).pending = s.pending := rfl
@[simp] theorem setEng_built (s : State) (q : Nat) (e : Eng) : (setEng s q e).built = s.built := rfl
@[simp] theorem setEng_silicon (s : State) (q : Nat) (e : Eng) : (setEng s q e).silicon = s.silicon := rfl
@[simp] theorem setEng_boot (s : State) (q : Nat) (e : Eng) : (setEng s q e).boot = s.boot := rfl
@[simp] theorem setEng_otp (s : State) (q : Nat) (e : Eng) : (setEng s q e).otp = s.otp := rfl
@[simp] theorem setEng_od (s : State) (q : Nat) (e : Eng) : (setEng s q e).od = s.od := rfl
@[simp] theorem setEng_cnt (s : State) (q : Nat) (e : Eng) : (setEng s q e).cnt = s.cnt := rfl
@[simp] theorem setEng_core (s : State) (q : Nat) (e : Eng) : (setEng s q e).core = s.core := rfl
@[simp] theorem setEng_mp (s : State) (q : Nat) (e : Eng) : (setEng s q e).mp = s.mp := rfl
@[simp] theorem setEng_tm (s : State) (q : Nat) (e : Eng) : (setEng s q e).tm = s.tm := rfl
@[simp] theorem setEng_mem (s : State) (q : Nat) (e : Eng) : (setEng s q e).mem = s.mem := rfl
@[simp] theorem setEng_parts (s : State) (q : Nat) (e : Eng) : (setEng s q e).parts = s.parts := rfl
@[simp] theorem setEng_ctxs (s : State) (q : Nat) (e : Eng) : (setEng s q e).ctxs = s.ctxs := rfl
@[simp] theorem setEng_pgdir (s : State) (q : Nat) (e : Eng) : (setEng s q e).pgdir = s.pgdir := rfl
@[simp] theorem setEng_xp (s : State) (q : Nat) (e : Eng) : (setEng s q e).xp = s.xp := rfl
@[simp] theorem setEng_slices (s : State) (q : Nat) (e : Eng) : (setEng s q e).slices = s.slices := rfl
@[simp] theorem setEng_fl (s : State) (q : Nat) (e : Eng) : (setEng s q e).fl = s.fl := rfl
@[simp] theorem setEng_rel (s : State) (q : Nat) (e : Eng) : (setEng s q e).rel = s.rel := rfl
@[simp] theorem setEng_dbg (s : State) (q : Nat) (e : Eng) : (setEng s q e).dbg = s.dbg := rfl
@[simp] theorem setEng_i3c (s : State) (q : Nat) (e : Eng) : (setEng s q e).i3c = s.i3c := rfl
@[simp] theorem setEng_tod (s : State) (q : Nat) (e : Eng) : (setEng s q e).tod = s.tod := rfl
@[simp] theorem setEng_out (s : State) (q : Nat) (e : Eng) : (setEng s q e).out = s.out := rfl
@[simp] theorem setEng_order (s : State) (q : Nat) (e : Eng) : (setEng s q e).order = s.order := rfl
@[simp] theorem setEng_free (s : State) (q : Nat) (e : Eng) : (setEng s q e).free = s.free := rfl

/-! ## bumpAt: nothing but `cnt` changes -/

@[simp] theorem bumpAt_pending (s : State) (item index n : Nat) : (bumpAt s item index n).pending = s.pending := rfl
@[simp] theorem bumpAt_built (s : State) (item index n : Nat) : (bumpAt s item index n).built = s.built := rfl
@[simp] theorem bumpAt_silicon (s : State) (item index n : Nat) : (bumpAt s item index n).silicon = s.silicon := rfl
@[simp] theorem bumpAt_boot (s : State) (item index n : Nat) : (bumpAt s item index n).boot = s.boot := rfl
@[simp] theorem bumpAt_otp (s : State) (item index n : Nat) : (bumpAt s item index n).otp = s.otp := rfl
@[simp] theorem bumpAt_od (s : State) (item index n : Nat) : (bumpAt s item index n).od = s.od := rfl
@[simp] theorem bumpAt_core (s : State) (item index n : Nat) : (bumpAt s item index n).core = s.core := rfl
@[simp] theorem bumpAt_mp (s : State) (item index n : Nat) : (bumpAt s item index n).mp = s.mp := rfl
@[simp] theorem bumpAt_tm (s : State) (item index n : Nat) : (bumpAt s item index n).tm = s.tm := rfl
@[simp] theorem bumpAt_mem (s : State) (item index n : Nat) : (bumpAt s item index n).mem = s.mem := rfl
@[simp] theorem bumpAt_parts (s : State) (item index n : Nat) : (bumpAt s item index n).parts = s.parts := rfl
@[simp] theorem bumpAt_ctxs (s : State) (item index n : Nat) : (bumpAt s item index n).ctxs = s.ctxs := rfl
@[simp] theorem bumpAt_pgdir (s : State) (item index n : Nat) : (bumpAt s item index n).pgdir = s.pgdir := rfl
@[simp] theorem bumpAt_xp (s : State) (item index n : Nat) : (bumpAt s item index n).xp = s.xp := rfl
@[simp] theorem bumpAt_slices (s : State) (item index n : Nat) : (bumpAt s item index n).slices = s.slices := rfl
@[simp] theorem bumpAt_fl (s : State) (item index n : Nat) : (bumpAt s item index n).fl = s.fl := rfl
@[simp] theorem bumpAt_ee (s : State) (item index n : Nat) : (bumpAt s item index n).ee = s.ee := rfl
@[simp] theorem bumpAt_rel (s : State) (item index n : Nat) : (bumpAt s item index n).rel = s.rel := rfl
@[simp] theorem bumpAt_dbg (s : State) (item index n : Nat) : (bumpAt s item index n).dbg = s.dbg := rfl
@[simp] theorem bumpAt_i3c (s : State) (item index n : Nat) : (bumpAt s item index n).i3c = s.i3c := rfl
@[simp] theorem bumpAt_tod (s : State) (item index n : Nat) : (bumpAt s item index n).tod = s.tod := rfl
@[simp] theorem bumpAt_out (s : State) (item index n : Nat) : (bumpAt s item index n).out = s.out := rfl
@[simp] theorem bumpAt_order (s : State) (item index n : Nat) : (bumpAt s item index n).order = s.order := rfl
@[simp] theorem bumpAt_free (s : State) (item index n : Nat) : (bumpAt s item index n).free = s.free := rfl

/-! ## putStat: nothing but `od` changes -/

@[simp] theorem putStat_pending (s : State) (i : Inst) (r : StatRec) : (putStat s i r).pending = s.pending := rfl
@[simp] theorem putStat_built (s : State) (i : Inst) (r : StatRec) : (putStat s i r).built = s.built := rfl
@[simp] theorem putStat_silicon (s : State) (i : Inst) (r : StatRec) : (putStat s i r).silicon = s.silicon := rfl
@[simp] theorem putStat_boot (s : State) (i : Inst) (r : StatRec) : (putStat s i r).boot = s.boot := rfl
@[simp] theorem putStat_otp (s : State) (i : Inst) (r : StatRec) : (putStat s i r).otp = s.otp := rfl
@[simp] theorem putStat_cnt (s : State) (i : Inst) (r : StatRec) : (putStat s i r).cnt = s.cnt := rfl
@[simp] theorem putStat_core (s : State) (i : Inst) (r : StatRec) : (putStat s i r).core = s.core := rfl
@[simp] theorem putStat_mp (s : State) (i : Inst) (r : StatRec) : (putStat s i r).mp = s.mp := rfl
@[simp] theorem putStat_tm (s : State) (i : Inst) (r : StatRec) : (putStat s i r).tm = s.tm := rfl
@[simp] theorem putStat_mem (s : State) (i : Inst) (r : StatRec) : (putStat s i r).mem = s.mem := rfl
@[simp] theorem putStat_parts (s : State) (i : Inst) (r : StatRec) : (putStat s i r).parts = s.parts := rfl
@[simp] theorem putStat_ctxs (s : State) (i : Inst) (r : StatRec) : (putStat s i r).ctxs = s.ctxs := rfl
@[simp] theorem putStat_pgdir (s : State) (i : Inst) (r : StatRec) : (putStat s i r).pgdir = s.pgdir := rfl
@[simp] theorem putStat_xp (s : State) (i : Inst) (r : StatRec) : (putStat s i r).xp = s.xp := rfl
@[simp] theorem putStat_slices (s : State) (i : Inst) (r : StatRec) : (putStat s i r).slices = s.slices := rfl
@[simp] theorem putStat_fl (s : State) (i : Inst) (r : StatRec) : (putStat s i r).fl = s.fl := rfl
@[simp] theorem putStat_ee (s : State) (i : Inst) (r : StatRec) : (putStat s i r).ee = s.ee := rfl
@[simp] theorem putStat_rel (s : State) (i : Inst) (r : StatRec) : (putStat s i r).rel = s.rel := rfl
@[simp] theorem putStat_dbg (s : State) (i : Inst) (r : StatRec) : (putStat s i r).dbg = s.dbg := rfl
@[simp] theorem putStat_i3c (s : State) (i : Inst) (r : StatRec) : (putStat s i r).i3c = s.i3c := rfl
@[simp] theorem putStat_tod (s : State) (i : Inst) (r : StatRec) : (putStat s i r).tod = s.tod := rfl
@[simp] theorem putStat_out (s : State) (i : Inst) (r : StatRec) : (putStat s i r).out = s.out := rfl
@[simp] theorem putStat_order (s : State) (i : Inst) (r : StatRec) : (putStat s i r).order = s.order := rfl
@[simp] theorem putStat_free (s : State) (i : Inst) (r : StatRec) : (putStat s i r).free = s.free := rfl

/-! ## setInst: nothing but `od` changes -/

@[simp] theorem setInst_pending (s : State) (i : Inst) : (setInst s i).pending = s.pending := rfl
@[simp] theorem setInst_built (s : State) (i : Inst) : (setInst s i).built = s.built := rfl
@[simp] theorem setInst_silicon (s : State) (i : Inst) : (setInst s i).silicon = s.silicon := rfl
@[simp] theorem setInst_boot (s : State) (i : Inst) : (setInst s i).boot = s.boot := rfl
@[simp] theorem setInst_otp (s : State) (i : Inst) : (setInst s i).otp = s.otp := rfl
@[simp] theorem setInst_cnt (s : State) (i : Inst) : (setInst s i).cnt = s.cnt := rfl
@[simp] theorem setInst_core (s : State) (i : Inst) : (setInst s i).core = s.core := rfl
@[simp] theorem setInst_mp (s : State) (i : Inst) : (setInst s i).mp = s.mp := rfl
@[simp] theorem setInst_tm (s : State) (i : Inst) : (setInst s i).tm = s.tm := rfl
@[simp] theorem setInst_mem (s : State) (i : Inst) : (setInst s i).mem = s.mem := rfl
@[simp] theorem setInst_parts (s : State) (i : Inst) : (setInst s i).parts = s.parts := rfl
@[simp] theorem setInst_ctxs (s : State) (i : Inst) : (setInst s i).ctxs = s.ctxs := rfl
@[simp] theorem setInst_pgdir (s : State) (i : Inst) : (setInst s i).pgdir = s.pgdir := rfl
@[simp] theorem setInst_xp (s : State) (i : Inst) : (setInst s i).xp = s.xp := rfl
@[simp] theorem setInst_slices (s : State) (i : Inst) : (setInst s i).slices = s.slices := rfl
@[simp] theorem setInst_fl (s : State) (i : Inst) : (setInst s i).fl = s.fl := rfl
@[simp] theorem setInst_ee (s : State) (i : Inst) : (setInst s i).ee = s.ee := rfl
@[simp] theorem setInst_rel (s : State) (i : Inst) : (setInst s i).rel = s.rel := rfl
@[simp] theorem setInst_dbg (s : State) (i : Inst) : (setInst s i).dbg = s.dbg := rfl
@[simp] theorem setInst_i3c (s : State) (i : Inst) : (setInst s i).i3c = s.i3c := rfl
@[simp] theorem setInst_tod (s : State) (i : Inst) : (setInst s i).tod = s.tod := rfl
@[simp] theorem setInst_out (s : State) (i : Inst) : (setInst s i).out = s.out := rfl
@[simp] theorem setInst_order (s : State) (i : Inst) : (setInst s i).order = s.order := rfl
@[simp] theorem setInst_free (s : State) (i : Inst) : (setInst s i).free = s.free := rfl

/-! ## dropInst: nothing but `od` changes -/

@[simp] theorem dropInst_pending (s : State) (i : Inst) : (dropInst s i).pending = s.pending := rfl
@[simp] theorem dropInst_built (s : State) (i : Inst) : (dropInst s i).built = s.built := rfl
@[simp] theorem dropInst_silicon (s : State) (i : Inst) : (dropInst s i).silicon = s.silicon := rfl
@[simp] theorem dropInst_boot (s : State) (i : Inst) : (dropInst s i).boot = s.boot := rfl
@[simp] theorem dropInst_otp (s : State) (i : Inst) : (dropInst s i).otp = s.otp := rfl
@[simp] theorem dropInst_cnt (s : State) (i : Inst) : (dropInst s i).cnt = s.cnt := rfl
@[simp] theorem dropInst_core (s : State) (i : Inst) : (dropInst s i).core = s.core := rfl
@[simp] theorem dropInst_mp (s : State) (i : Inst) : (dropInst s i).mp = s.mp := rfl
@[simp] theorem dropInst_tm (s : State) (i : Inst) : (dropInst s i).tm = s.tm := rfl
@[simp] theorem dropInst_mem (s : State) (i : Inst) : (dropInst s i).mem = s.mem := rfl
@[simp] theorem dropInst_parts (s : State) (i : Inst) : (dropInst s i).parts = s.parts := rfl
@[simp] theorem dropInst_ctxs (s : State) (i : Inst) : (dropInst s i).ctxs = s.ctxs := rfl
@[simp] theorem dropInst_pgdir (s : State) (i : Inst) : (dropInst s i).pgdir = s.pgdir := rfl
@[simp] theorem dropInst_xp (s : State) (i : Inst) : (dropInst s i).xp = s.xp := rfl
@[simp] theorem dropInst_slices (s : State) (i : Inst) : (dropInst s i).slices = s.slices := rfl
@[simp] theorem dropInst_fl (s : State) (i : Inst) : (dropInst s i).fl = s.fl := rfl
@[simp] theorem dropInst_ee (s : State) (i : Inst) : (dropInst s i).ee = s.ee := rfl
@[simp] theorem dropInst_rel (s : State) (i : Inst) : (dropInst s i).rel = s.rel := rfl
@[simp] theorem dropInst_dbg (s : State) (i : Inst) : (dropInst s i).dbg = s.dbg := rfl
@[simp] theorem dropInst_i3c (s : State) (i : Inst) : (dropInst s i).i3c = s.i3c := rfl
@[simp] theorem dropInst_tod (s : State) (i : Inst) : (dropInst s i).tod = s.tod := rfl
@[simp] theorem dropInst_out (s : State) (i : Inst) : (dropInst s i).out = s.out := rfl
@[simp] theorem dropInst_order (s : State) (i : Inst) : (dropInst s i).order = s.order := rfl
@[simp] theorem dropInst_free (s : State) (i : Inst) : (dropInst s i).free = s.free := rfl

/-! ## latch: nothing but `core` changes -/

@[simp] theorem latch_pending (s : State) (n : Nat) : (latch s n).pending = s.pending := rfl
@[simp] theorem latch_built (s : State) (n : Nat) : (latch s n).built = s.built := rfl
@[simp] theorem latch_silicon (s : State) (n : Nat) : (latch s n).silicon = s.silicon := rfl
@[simp] theorem latch_boot (s : State) (n : Nat) : (latch s n).boot = s.boot := rfl
@[simp] theorem latch_otp (s : State) (n : Nat) : (latch s n).otp = s.otp := rfl
@[simp] theorem latch_od (s : State) (n : Nat) : (latch s n).od = s.od := rfl
@[simp] theorem latch_cnt (s : State) (n : Nat) : (latch s n).cnt = s.cnt := rfl
@[simp] theorem latch_mp (s : State) (n : Nat) : (latch s n).mp = s.mp := rfl
@[simp] theorem latch_tm (s : State) (n : Nat) : (latch s n).tm = s.tm := rfl
@[simp] theorem latch_mem (s : State) (n : Nat) : (latch s n).mem = s.mem := rfl
@[simp] theorem latch_parts (s : State) (n : Nat) : (latch s n).parts = s.parts := rfl
@[simp] theorem latch_ctxs (s : State) (n : Nat) : (latch s n).ctxs = s.ctxs := rfl
@[simp] theorem latch_pgdir (s : State) (n : Nat) : (latch s n).pgdir = s.pgdir := rfl
@[simp] theorem latch_xp (s : State) (n : Nat) : (latch s n).xp = s.xp := rfl
@[simp] theorem latch_slices (s : State) (n : Nat) : (latch s n).slices = s.slices := rfl
@[simp] theorem latch_fl (s : State) (n : Nat) : (latch s n).fl = s.fl := rfl
@[simp] theorem latch_ee (s : State) (n : Nat) : (latch s n).ee = s.ee := rfl
@[simp] theorem latch_rel (s : State) (n : Nat) : (latch s n).rel = s.rel := rfl
@[simp] theorem latch_dbg (s : State) (n : Nat) : (latch s n).dbg = s.dbg := rfl
@[simp] theorem latch_i3c (s : State) (n : Nat) : (latch s n).i3c = s.i3c := rfl
@[simp] theorem latch_tod (s : State) (n : Nat) : (latch s n).tod = s.tod := rfl
@[simp] theorem latch_out (s : State) (n : Nat) : (latch s n).out = s.out := rfl
@[simp] theorem latch_order (s : State) (n : Nat) : (latch s n).order = s.order := rfl
@[simp] theorem latch_free (s : State) (n : Nat) : (latch s n).free = s.free := rfl

/-! ## setStage: nothing but `boot` changes -/

@[simp] theorem setStage_pending (s : State) (n : Nat) : (setStage s n).pending = s.pending := rfl
@[simp] theorem setStage_built (s : State) (n : Nat) : (setStage s n).built = s.built := rfl
@[simp] theorem setStage_silicon (s : State) (n : Nat) : (setStage s n).silicon = s.silicon := rfl
@[simp] theorem setStage_otp (s : State) (n : Nat) : (setStage s n).otp = s.otp := rfl
@[simp] theorem setStage_od (s : State) (n : Nat) : (setStage s n).od = s.od := rfl
@[simp] theorem setStage_cnt (s : State) (n : Nat) : (setStage s n).cnt = s.cnt := rfl
@[simp] theorem setStage_core (s : State) (n : Nat) : (setStage s n).core = s.core := rfl
@[simp] theorem setStage_mp (s : State) (n : Nat) : (setStage s n).mp = s.mp := rfl
@[simp] theorem setStage_tm (s : State) (n : Nat) : (setStage s n).tm = s.tm := rfl
@[simp] theorem setStage_mem (s : State) (n : Nat) : (setStage s n).mem = s.mem := rfl
@[simp] theorem setStage_parts (s : State) (n : Nat) : (setStage s n).parts = s.parts := rfl
@[simp] theorem setStage_ctxs (s : State) (n : Nat) : (setStage s n).ctxs = s.ctxs := rfl
@[simp] theorem setStage_pgdir (s : State) (n : Nat) : (setStage s n).pgdir = s.pgdir := rfl
@[simp] theorem setStage_xp (s : State) (n : Nat) : (setStage s n).xp = s.xp := rfl
@[simp] theorem setStage_slices (s : State) (n : Nat) : (setStage s n).slices = s.slices := rfl
@[simp] theorem setStage_fl (s : State) (n : Nat) : (setStage s n).fl = s.fl := rfl
@[simp] theorem setStage_ee (s : State) (n : Nat) : (setStage s n).ee = s.ee := rfl
@[simp] theorem setStage_rel (s : State) (n : Nat) : (setStage s n).rel = s.rel := rfl
@[simp] theorem setStage_dbg (s : State) (n : Nat) : (setStage s n).dbg = s.dbg := rfl
@[simp] theorem setStage_i3c (s : State) (n : Nat) : (setStage s n).i3c = s.i3c := rfl
@[simp] theorem setStage_tod (s : State) (n : Nat) : (setStage s n).tod = s.tod := rfl
@[simp] theorem setStage_out (s : State) (n : Nat) : (setStage s n).out = s.out := rfl
@[simp] theorem setStage_order (s : State) (n : Nat) : (setStage s n).order = s.order := rfl
@[simp] theorem setStage_free (s : State) (n : Nat) : (setStage s n).free = s.free := rfl

end Sys2Proof.Machine
end

