-- ==== Sys2Proof/Tests/Slice0.lean ====
section
/-! SUPPORT. Tests of the model on the manual's worked examples, and for each statement a state and operands that meet its
hypotheses. -/

namespace Sys2Proof.Machine

/-! ## Ill-formed commands -/

/-- Operands at the first value past their ranges are refused. -/
theorem test_illFormed_1 : ∀ i ∈ ([
    .bundleExpired 4, .fwLoadEnd ⟨.cp, 16⟩, .moveCopyEnd 32 0 0 true, .moveCopyEnd 0 (2 ^ 20) 0 true,
    .moveCopyEnd 0 0 (2 ^ 32) true, .publishReadBack (2 ^ 30) [], .adptLoadChecksEnd ⟨.cp, 16⟩,
    .trowPutCopyEnd ⟨.cp, 16⟩ true, .foldBackEnd 32 0 0 true, .foldBackEnd 0 64 0 true, .foldBackEnd 0 0 (2 ^ 32) true,
    .registerWrite .cp 0 0 256, .rqDb 8 0 0, .rqDb 0 0 256, .cqDb 8 0 0, .cqDb 0 0 256, .expDb 8 0 0, .expDb 0 0 256,
    .evDb 0 256, .segmentPush 8 0 0 0, .segmentPush 0 8 0 0, .fifoPop 8 0, .fifoPop 0 3, .sxCoreWrite 8 0 0 0,
    .sxCoreWrite 0 8 0 0, .sxCoreWrite 0 0 64 0, .entdaa 128, .setdasa 128 0, .setdasa 0 128, .enec 256] : List Instr), i.wellFormed = false := by decide

/-- Operands at the first value past their ranges are refused. -/
theorem test_illFormed_2 : ∀ i ∈ ([
    .disec 256, .setmwl 65536, .setmrl 65536, .rstact 256, .cccNack 256, .pllLock 25, .mpInitAck 12,
    .epilogueRequest (2 ^ 32), .emberAfter 32 0, .emberAfter 0 16384, .emberExpiry 32 0, .emberExpiry 0 16384,
    .emberPageCopyEnd 16384 0, .emberPageCopyEnd 0 2048, .adoptionCopyEnd 16384 0, .adoptionCopyEnd 0 (2 ^ 24), .newReq 8,
    .append 8, .pause 8, .cancel 8, .mpReadResponse 12 0 0 0, .mpReadResponse 0 2048 0 0, .mpReadResponse 0 0 64 0,
    .mpReadResponse 0 0 0 4, .mpWriteAck 12 0 0, .mpWriteAck 0 2048 0, .mpWriteAck 0 0 4, .replyLifetimeExpiry 12 0,
    .replyLifetimeExpiry 0 2048, .replyLifetimeExpiry 32 0, .quarantineExpiry 12 0] : List Instr), i.wellFormed = false := by decide

/-- Operands at the first value past their ranges are refused. -/
theorem test_illFormed_3 : ∀ i ∈ ([
    .quarantineExpiry 0 2048, .lrbExpiry 32 0, .lrbExpiry 0 1024, .todSample (2 ^ 48) 0 true, .todSample 0 (10 ^ 9) true,
    .flashReadDone 16 true 0 0 true, .flashProgramDone 16 0 0 0 true, .flashProgramDone 0 8 0 0 true,
    .flashProgramDone 0 0 4 0 true, .flashProgramDone 0 0 0 (2 ^ 20) true, .flashEraseDone 16 0 0 0 true,
    .flashEraseDone 0 8 0 0 true, .flashEraseDone 0 0 4 0 true, .flashEraseDone 0 0 0 (2 ^ 20) true, .gcReclaim 16 0 0,
    .gcReclaim 0 8 0, .gcReclaim 0 0 4, .readDisturbRelocate 16 0 0 0, .readDisturbRelocate 0 8 0 0,
    .readDisturbRelocate 0 0 4 0, .readDisturbRelocate 0 0 0 (2 ^ 20), .fenceBreak 16 0 0, .fenceBreak 0 8 0,
    .fenceBreak 0 0 4, .lunLost 16 0 0, .lunLost 0 8 0, .lunLost 0 0 4, .kindlingStart 8, .dirtyWriteBack 8 0,
    .weightBlockEnd 8 0 0 true] : List Instr), i.wellFormed = false := by decide

/-- Operands at the first value past their ranges are refused. -/
theorem test_illFormed_4 : ∀ i ∈ ([
    .weightBlockEnd 0 1024 0 true, .spareSubstitution 32, .holdCeiling 8, .urgentTimer 32, .clampSaveEnd 32, .restoreEnd 32,
    .partitionBlocked 32, .weightGradientPhase 8 0, .weightGradientPhase 0 16, .updatePass1 8 0, .updatePass1 0 64,
    .updateItem 8, .segmentStart 8 0, .segmentStart 0 8, .endSeg 8 0, .setlen 8 0, .sig 8 0, .fence 8 0, .sxset 8 0,
    .sxget 8 0, .add 8 0, .sub 8 0, .mul 8 0, .div 8 0, .sqrt 8 0, .min 8 0, .max 8 0, .abs 8 0, .neg 8 0, .cmplt 8 0] : List Instr), i.wellFormed = false := by decide

/-- Operands at the first value past their ranges are refused. -/
theorem test_illFormed_5 : ∀ i ∈ ([
    .cmple 8 0, .cmpeq 8 0, .sel 8 0, .iadd 8 0, .isub 8 0, .imul 8 0, .and 8 0, .or 8 0, .xor 8 0, .shl 8 0, .shr 8 0,
    .sar 8 0, .imin 8 0, .imax 8 0, .mov 8 0, .cvt 8 0, .red 8 0, .lda 8 0, .ldl 8 0, .stl 8 0, .lds 8 0, .sts 8 0, .xld 8 0,
    .xst 8 0, .scl 8 0, .transferEnd 8 0 true, .transferEnd 0 64 true, .knownAnswerTest 34 true, .mpRequestAccept 12,
    .fifoStallTimeout 8] : List Instr), i.wellFormed = false := by decide

/-- Operands at the last value of their ranges are accepted. -/
theorem test_wellFormed : ∀ i ∈ ([.bundleExpired 3, .rqDb 7 0 255, .mpReadResponse 11 2047 63 3, .lrbExpiry 31 1023,
    .flashEraseDone 15 7 3 (2 ^ 20 - 1) true, .adoptionCopyEnd 16383 (2 ^ 24 - 1), .knownAnswerTest 33 true, .replyLifetimeExpiry 31 4096, .add 7 0] : List Instr),
    i.wellFormed = true := by decide
/-! ## States to look at -/

/-- Out of PRST_N and serving-ready, with nothing running. -/
def upState : State :=
  { State.reset with boot := { prstLow := false, stage := 11 }, otp := { bytes := [] }, core := { st := .running, ver0 := some 1, ver1 := some 2 } }

def someModes : Modes :=
  { servePenra := true, serveHost := false, bwdFrozen := false, trainAdpt := false, trainTrait := false, spec := false, ember := true,
    holdCeil := true }

/-- A QUIESCED partition in resident slot 0, of two layers with one target. -/
def quietPart : Part := { st := .quiesced, slot := some 0, modes := someModes, shape := { layers := 2, tgts := [⟨0, 0, 256, 256⟩] } }

/-- A RUNNING one, in no step. -/
def runPart : Part := { quietPart with st := .running }

/-- The block with partition 3. -/
def withPart (P : Part) : State := { upState with parts := [(3, P)] }

/-! ## Worked examples -/

/-- Section "Example: one block of the Ravensmoor core" of 02_numbers.md: scale byte 0x78 and elements 0x7C, 0x3D and 0xE8 for 3.1,
0.0123 and −0.5. -/
theorem test_block_convert :
    (mxfp8e4.convBlock [((in32 0x40466666).1, .rne), ((in32 0x3C4985F0).1, .rne), ((in32 0xBF000000).1, .rne)]).1 = 0x78 ∧
    (mxfp8e4.convBlock [((in32 0x40466666).1, .rne), ((in32 0x3C4985F0).1, .rne), ((in32 0xBF000000).1, .rne)]).2.1 = [0x7C, 0x3D, 0xE8] := by
  decide

/-- Section "Example: context 5,117 at step 1,310" of 11_contexts.md: the Verify Masks of the seven nodes. -/
theorem test_verify_masks :
    (List.range 7).map (verifyMask [0, 0, 0, 1, 1, 2, 3]) = [0x01, 0x03, 0x05, 0x0B, 0x13, 0x25, 0x4B] := by decide

/-- The same example: of ACCMASK 0x1B the accepted set is 0x0B, with the path 0, 1, 3. -/
theorem test_accept_path :
    keepPath [0, 0, 0, 1, 1, 2, 3] 7 (dropOrphans [0, 0, 0, 1, 1, 2, 3] 7 0x1B) = 0x0B ∧ nodesOf 7 0x0B = [0, 1, 3] := by decide

/-! ## Witnesses: the block as a machine -/

theorem reset_inv : Inv State.reset := ⟨by decide, by decide, by decide, by decide, by decide⟩

theorem test_step_consumes :
    step { upState with pending := [.rstdaa, .getmrl] } = .next { upState with pending := [.getmrl] } ∧ upState.pending = [] := ⟨rfl, rfl⟩

/-- A step from a state with the invariant that changes the state. -/
theorem test_step_changes : Inv { upState with pending := [.entdaa 9] } ∧
    step { upState with pending := [.entdaa 9] } = .next { upState with i3c := { dyn := some 9 } } :=
  ⟨⟨by decide, by decide, by decide, by decide, by decide⟩, rfl⟩

theorem test_held : held State.reset = true ∧ reachesHeld .partStart = false ∧ held upState = false := by decide

/-! ## Witnesses: the object dictionary -/

/-- ODSEL for element `x` of object `a.m`. -/
def selWord (a m x : Nat) : W64 := w64 (a * 2 ^ 60 + m * 2 ^ 44 + x * 2 ^ 20)

/-- `s` with ODSEL and the first word of ODDAT set on the Control Port. -/
def atObj (s : State) (a m x v : Nat) : State :=
  { s with od := { s.od with cp := { s.od.cp with sel := selWord a m x, dat := [(0, w64 v)] } } }

def readWord : W64 := 0x1000000000000000
def writeWord : W64 := 0x2000000000000000
def writeBWord : W64 := 0x3000000000000000

theorem test_operation_words : cmdOp readWord = 1 ∧ cmdOp writeWord = 2 ∧ cmdOp writeBWord = 3 := by decide

/-- A path on which an operation can be carried out at once. -/
theorem test_path_free (a m x v : Nat) (w : W64) : OpFree (atObj upState a m x v) .cp w ∧ OpFree (atObj (withPart quietPart) a m x v) .cp w :=
  ⟨⟨rfl, rfl, rfl, rfl⟩, rfl, rfl, rfl, rfl⟩

/-- A read of a command, of a value, and of an object of a slot without a partition. -/
theorem test_read_clauses : ∃ o p q : Obj,
    Names (atObj upState 1 0x10 0 0) .cp o 0 ∧ o.right = .cmd ∧
    Names (atObj upState 0 0 0 0) .cp p 0 ∧ p.right ≠ .cmd ∧ ownerThere upState (ownerOf p.ix 0) = true ∧
    Names (atObj upState 7 0x22 7 0) .cp q 7 ∧ q.right ≠ .cmd ∧ ownerThere upState (ownerOf q.ix 7) = false :=
  ⟨_, _, _, ⟨rfl, by decide⟩, by decide, ⟨rfl, by decide⟩, by decide, by decide, ⟨rfl, by decide⟩, by decide, by decide⟩

/-- OTP whose four generations are void. -/
def voidOtp : Tab Byte :=
  otpPut (otpPut (otpPut (otpPut [] 0x6A8 (otpBytes 4 0x564F4944)) 0x9A8 (otpBytes 4 0x564F4944)) 0xCA8 (otpBytes 4 0x564F4944))
    0xFA8 (otpBytes 4 0x564F4944)

/-- A write without the right, of a value out of its range, of a write-once field that no generation takes, of one that a generation
takes, of a value that is accepted. -/
theorem test_write_clauses : ∃ o p q r : Obj,
    Names (atObj upState 0 0 0 0) .cp o 0 ∧ mayAccess .cp o .write ≠ Code.ok ∧
    Names (atObj (withPart quietPart) 7 0x22 0 8) .cp p 0 ∧ mayAccess .cp p .write = Code.ok ∧ admitWrite (withPart quietPart) p 0 0 8 ≠ Code.ok ∧
    Names (atObj (withPart quietPart) 7 0x22 0 7) .cp p 0 ∧ p.right ≠ .wo1 ∧ ¬ (p.area = 7 ∧ p.item = 0x50) ∧
    admitWrite (withPart quietPart) p 0 0 7 = Code.ok ∧
    Names (atObj upState 11 0x20 0 1) .cp q 0 ∧ mayAccess .cp q .write = Code.ok ∧ q.right = .wo1 ∧ admitWrite upState q 0 0 1 = Code.ok ∧
    (wo1Check { upState with otp := { bytes := voidOtp } } q.item 0).prog = false ∧ (wo1Check upState q.item 0).prog = true ∧
    Names (atObj (withPart quietPart) 7 0x50 0 16) .cp r 0 ∧ admitWrite (withPart quietPart) r 0 0 16 = Code.ok ∧
    shareFits (withPart quietPart) 0 16 = Code.ok :=
  ⟨_, _, _, _, ⟨rfl, by decide⟩, by decide, ⟨rfl, by decide⟩, by decide, by decide, ⟨rfl, by decide⟩, by decide, by decide, by decide,
    ⟨rfl, by decide⟩, by decide, by decide, by decide, by decide, by decide, ⟨rfl, by decide⟩, by decide, by decide⟩

/-- An object that takes effect at a reset, one at a step boundary that waits for a partition in a step, and one that does not wait. -/
theorem test_accept_clauses : ∃ o p : Obj, objAt 2 0x60 = some o ∧ o.cls = .reset ∧ objAt 6 0x32 = some p ∧ p.cls = .step ∧
    stepKind (withPart { runPart with inStep := true }) (ownerOf p.ix 0) = some (.parts [(3, 1)] false []) ∧
    stepKind (withPart runPart) (ownerOf p.ix 0) = none ∧ upState.od.pend = [] :=
  ⟨_, _, rfl, by decide, rfl, by decide, by decide, by decide, rfl⟩

def oneInst (area item : Nat) (args : List W64) : Inst := { area := area, item := item, path := .cp, cseq := 0, tag := 0, args := args }

/-- An issue without the right, with arguments out of range, with sixteen instances before it, and one that is queued. -/
theorem test_issue_clauses : ∃ o p : Obj,
    Names (atObj upState 1 0x10 0 0) .cp o 0 ∧ o.right = .cmd ∧ mayAccess .cp o .issue = Code.ok ∧ mayAccess .fw o .issue ≠ Code.ok ∧
    o.ty.words = 1 ∧ argsOk o [0] = true ∧ Names (atObj upState 1 1 0 1) .cp p 0 ∧ argsOk p [1] = false ∧
    (liveInsts { upState with od := { upState.od with insts := List.replicate 16 (oneInst 1 0x10 [0]) } } 1 0x10 .cp).length = 16 ∧
    liveInsts upState 1 0x10 .cp = [] :=
  ⟨_, _, ⟨rfl, by decide⟩, by decide, by decide, by decide, by decide, by decide, ⟨rfl, by decide⟩, by decide, by decide, by decide⟩

/-- The block with bundle 0 open on the Control Port for the whole device. -/
def openState : State := { upState with od := { bundles := [(0, { st := .isOpen, path := .cp, scope := 0xFF })] } }

/-- A WRITE_B without a bundle, of an object outside its scope, out of range, to a full bundle, and one that it takes. -/
theorem test_bundle_write_clauses : ∃ (o p : Obj) (b : Bundle), ownBundle upState .cp 0 = none ∧ ownBundle openState .cp 0 = some b ∧
    objAt 9 0x20 = some o ∧ mayAccess .cp o .writeB = Code.ok ∧ bundleAllows b o 0 = true ∧ admitWrite openState o 0 0 96 = Code.ok ∧
    admitWrite openState o 0 0 0 ≠ Code.ok ∧ b.writes.length < 64 ∧ (List.replicate 64 (2, 0x40, 0, (0 : W64))).length = 64 ∧
    objAt 0 0 = some p ∧ mayAccess .cp p .writeB ≠ Code.ok ∧ bundleAllows { b with scope := 0 } o 0 = false :=
  ⟨_, _, _, rfl, rfl, rfl, by decide, by decide, by decide, by decide, by decide, by decide, rfl, by decide, by decide⟩

/-- A path with BUSY set, a register write of each kind, at the ends of the registers' ranges. -/
theorem test_register_clauses :
    (regsOf { upState with od := { upState.od with cp := { busy := some readWord } } } .cp).busy.isSome = true ∧ held upState = false ∧
    odOffset 0x1F8 = true ∧ odOffset 0x200 = false ∧ dbOffset 0x200 = false ∧ odOffset 0x100 = true ∧ 0x100 + 8 * 31 = 0x1F8 ∧
    cmdOp 0 = 0 ∧ 3 < cmdOp 0xF000000000000000 ∧ fwServesOp upState upState.od.cp 0 = false ∧ OpFree upState .cp 0 ∧
    coreRegion 0x08000000 = true ∧ coreRegion 0x08100000 = false :=
  ⟨rfl, rfl, by decide, by decide, by decide, by decide, by decide, by decide, by decide, by decide, ⟨rfl, rfl, rfl, rfl⟩, by decide, by decide⟩

/-! ## Witnesses: commands, bundles, counters and rings -/

/-- `s` with one instance of command `a.m`, which is the oldest: every command's row acts on a state of this kind. -/
def withInst (s : State) (i : Inst) : State := { s with od := { s.od with insts := [i] } }

theorem withInst_due (s : State) (i : Inst) (h : held s = false) (hi : i.st = .issued) : Due (withInst s i) i.area i.item i := by
  refine ⟨h, ?_⟩
  simp [withInst, oldest, hi]

/-- The block with values of objects. -/
def withVals (s : State) (v : Tab W64) : State := { s with od := { s.od with vals := v } }

/-- OTP with the licence of generation 0 written and nothing sealed, and one with an invalid licence. -/
def licOtp : Tab Byte := otpPut (otpPut [] 0x400 (otpBytes 8 0x20AC860000000000)) 0x6A0 (otpBytes 8 1)
def badOtp : Tab Byte := otpPut [] 0x6A0 (otpBytes 8 1)

def withOtp (b : Tab Byte) : State := { upState with otp := { bytes := b } }

theorem test_seal_clauses : programming upState = false ∧ (oneInst 11 0x10 [w64 sealWord]).arg 0 % 2 ^ 32 = sealWord ∧
    (oneInst 11 0x10 [w64 voidWord]).arg 0 % 2 ^ 32 = voidWord ∧ genNext (withOtp voidOtp) = 0xFF ∧ genNext (withOtp licOtp) = 0 ∧
    bitOf (genField (withOtp licOtp) 0 0x2A0 8) 0 = true ∧ licInvalid (genField (withOtp licOtp) 0 0 8) = false ∧
    bitOf (genField upState 0 0x2A0 8) 0 = false ∧ genNext (withOtp badOtp) = 0 ∧ licInvalid (genField (withOtp badOtp) 0 0 8) = true := by
  decide

/-- A path that programs a write-once field, with a generation for it and without. -/
theorem test_programming : ∀ b ∈ [[], voidOtp], ∀ s, s = { withOtp b with od := { cp := { busy := some writeWord, prog := true } } } →
    held s = false ∧ (regsOf s .cp).prog = true ∧ (regsOf s .cp).busy = some writeWord ∧ (genNext s = 0 ∨ genNext s = 0xFF) := by
  intro b hb s hs
  subst hs
  revert b
  decide

/-- BDL_OPEN: the scopes at the ends of their ranges, no free bundle, one open already. -/
theorem test_open_clauses : (oneInst 1 0x10 [7]).arg 0 % 256 = 7 ∧ (oneInst 1 0x10 [8]).arg 0 % 256 = 8 ∧
    (oneInst 1 0x10 [0xFF]).arg 0 % 256 = 0xFF ∧
    (∀ b, b < 4 → (bundleOf { upState with od := { bundles := (List.range 4).map (fun k => (k, { st := .isOpen, scope := k })) } } b).st ≠ .free) ∧
    openState.od.bundles.any (fun e => e.2.st == .isOpen && e.2.path == Path.cp && e.2.scope == 0xFF) = true ∧
    (bundleOf openState 1).st = .free ∧ (∀ c, c < 1 → (bundleOf openState c).st ≠ .free) := by
  decide

/-- BDL_COMMIT: no bundle, one that waits for a partition in a step, one that does not, values that agree and values that do not. -/
theorem test_commit_clauses : (oneInst 1 0x11 [3]).arg 0 % 4 = 3 ∧ ownBundle openState .cp 3 = none ∧ (ownBundle openState .cp 0).isSome = true ∧
    bundleWaits (withPart { runPart with inStep := true }) 0xFF ≠ 0 ∧ bundleWaits openState 0xFF = 0 ∧
    setsHold (fun a m => inForce openState a m 0 none) = true ∧
    setsHold (fun a m => (({ writes := [(9, 0x20, 0, 96)] } : Bundle).value a m 0).getD (inForce openState a m 0 none)) = false ∧
    openState.od.insts.any (fun j => j.area == 1 && j.item == 0x11 && j.st == .pending) = false := by
  decide

/-- BDL_ABORT and the expiry: a bundle of another path, an own one without and with a commit that waits for it. -/
theorem test_abort_clauses : (bundleOf openState 0).st = .isOpen ∧ (bundleOf openState 0).path ≠ .i3c ∧ (bundleOf openState 3).st = .free ∧
    commitInst openState 0 = none ∧
    (commitInst (withInst openState { oneInst 1 0x11 [0] with st := .pending }) 0).isSome = true := by
  decide

theorem test_clear_clauses : (oneInst 9 0x15 [0x602]).arg 0 % 4 = 2 ∧ fld ((oneInst 9 0x15 [0x602]).arg 0) 12 8 = 6 ∧
    fld ((oneInst 9 0x15 [0x702]).arg 0) 12 8 = 7 ∧ (oneInst 9 0x15 [0x301]).arg 0 % 4 = 1 ∧
    cntScope 1 3 (cntKey Cnt.treeAccept 3) = true ∧ cntScope 1 3 (cntKey Cnt.treeAccept 4) = false := by
  decide

/-- Rings of 64 entries in slot 0 and an Event Ring of 64 entries, with values at the ends of the range. -/
def ringState : State := withVals (withPart runPart)
  [(okey 1 0x40 0, 0x10000), (okey 1 0x41 0, 64), (okey 5 0x31 0, 4096), (okey 6 0x21 0, 64), (okey 6 0x25 0, 64)]

theorem test_doorbell_clauses : held ringState = false ∧ slotPart ringState 0 = some (3, runPart) ∧ slotPart ringState 7 = none ∧
    wfld (63 : W64) 31 0 < (lastVal ringState 6 0x21 0).toNat ∧ (lastVal ringState 6 0x21 0).toNat ≤ wfld (64 : W64) 31 0 ∧
    wfld (63 : W64) 31 0 < (lastVal ringState 6 0x25 0).toNat ∧ (lastVal ringState 6 0x25 0).toNat ≤ wfld (64 : W64) 31 0 ∧
    wfld (4095 : W64) 31 0 < (lastVal ringState 5 0x31 0).toNat ∧ (lastVal ringState 5 0x31 0).toNat ≤ wfld (4096 : W64) 31 0 ∧
    wfld (63 : W64) 31 0 < evEntries ringState ∧ evEntries ringState ≤ wfld (64 : W64) 31 0 := by
  decide

theorem test_post_clauses : ringState.core.evDropped = 0 ∧ Ev.sev Ev.cmdResult 0 ≠ 2 ∧ ringState.core.backlog = [] ∧ evRoom ringState = true ∧
    evRoom upState = false ∧ ({ ringState with core := { upState.core with backlog := List.replicate 4 [] } } : State).core.backlog ≠ [] ∧ evEntries ringState ≠ 0 := by
  decide

/-! ## Witnesses: the control core -/

theorem test_core_clauses : fwAlive upState = true ∧ upState.core.wdogHalf = false ∧ (bankVer upState 1).isSome = true ∧
    (engOf { upState with ee := [(0, { stalled := true })] } 0).stalled = true ∧
    evUnread { ringState with core := { upState.core with evHead := 1 } } ≠ 0 ∧
    (bankVer { upState with core := { upState.core with st := .restarting } } 0).isSome = true := by
  decide

theorem test_firmware_clauses : 9 ≤ upState.boot.stage ∧ upState.boot.stopped = false ∧ fwLoading upState = false ∧ upState.core.change = none ∧
    loadBank upState = 1 ∧ (fwCheck upState 0).1 ≠ 0 ∧
    (instAt (withInst upState { oneInst 1 0x20 [0, 1] with st := .checking }) 1 0x20 { path := .cp, cseq := 0 }).isSome = true ∧
    upState.core.st ≠ .boot ∧ residents upState = [] ∧ runningParts upState = [] ∧ upState.dbg.replay = none ∧
    bankVer { upState with core := { upState.core with ver1 := none } } 1 = none ∧
    ({ upState with core := { upState.core with change := some { bank := 1, inst := none } } } : State).core.change.isSome = true := by
  decide

/-! ## Witnesses: the sideband, the TAP, resets and bring-up -/

/-- The sideband with an address, for frames. -/
def sideState : State := { upState with i3c := { dyn := some 9 } }

theorem test_sideband_clauses : sideState.i3c.dyn.isSome = true ∧ frameOk [] = false ∧ sideState.od.i3c.busy = none ∧ cccKnown.contains 0x02 = false ∧
    (1 : Nat) ≠ 0 ∧ sideState.od.i3c.prog = false ∧ sideState.i3c.frameBad = false ∧
    staticAddr { upState with otp := { bytes := [(0x418, 0x50)], gen := some 0 } } = some 0x50 := by
  decide

/-- A READ frame with its CRC. -/
theorem test_frame : frameOk ([1] ++ List.replicate 11 0 ++ leBytes 4 (crc32 ([1] ++ List.replicate 11 0))) = true := by decide +kernel

theorem test_tap_clauses : State.reset.boot.testMode = false ∧ bitOf 0x20 5 = true ∧ bitOf 0x20 0 = false ∧ held upState = false ∧
    programming upState = false := by decide

theorem test_bringup_clauses : held { upState with boot := { prstLow := false, stage := 1 } } = false ∧
    (pllsBuilt upState).contains 0 = true ∧ upState.boot.plls.contains 0 = false ∧
    (pllsBuilt upState).all (fun x => (List.range 25).contains x) = true ∧ upState.otp.gen = none ∧ upState.boot.stopped = false ∧
    ({ upState with mp := { initReq := [2] } } : State).mp.initReq.contains 2 = true ∧ upState.core.ver0.isSome = true := by
  decide

/-- Samples at the last nanosecond, past it, and before the last one taken. -/
theorem test_time_clauses : (999999999 : Nat) < 1000000000 ∧ ¬ (1000000000 : Nat) < 1000000000 ∧ (1000000000 : Nat) < 2 ^ 32 ∧
    ({ upState with tod := { valid := true, sec := 5, ns := 0, any := true } } : State).tod.any = true ∧
    4 * 1000000000 + 999999999 < 5 * 1000000000 + 0 := by
  decide

/-- RESET_SOFT: a reload in progress, a changeover in progress, and nothing in the way; the reload work that is due. -/
theorem test_reload_clauses : residents upState = [] ∧
    reloadCode { upState with boot := { upState.boot with reload := some { path := .cp, cseq := 0, worked := false, slots := [], oldGen := 0 } } } ≠ Code.ok ∧
    reloadCode { upState with core := { upState.core with change := some { bank := 1, inst := none } } } ≠ Code.ok ∧
    reloadCode upState = Code.ok := by
  decide

/-! ## Witnesses: the Element Engine -/

/-- The segment of slot 0 that engine 0 runs: four instructions, of which none has issued. -/
def someSeg : Seg := { slot := 0, segid := 7, n := 4 }

def someEng : Eng := { run := some someSeg }

/-- Engine 0 runs it, and partition 3 has a share of 64 KiB. -/
def engState : State := { withVals (withPart runPart) [(okey 7 0x50 0, 1)] with ee := [(0, someEng)] }

theorem engState_eng : engOf engState 0 = someEng := rfl

/-- The word of an opcode with MD 1, MA 2, MB 3 and every other field 0. -/
def eeWord (op : Nat) : W64 := w64 (op * 2 ^ 56 + 1 * 2 ^ 52 + 2 * 2 ^ 48 + 3 * 2 ^ 44)

/-- The next word of the segment, of each opcode, issues. -/
theorem engState_issues (op : Nat) (w : W64) (regs : List Nat) (h : fOp w.toNat = op) : Issues engState 0 w op regs someSeg :=
  ⟨rfl, rfl, h, Or.inr (by decide), rfl, by simp [engState_eng, loading, someEng], rfl⟩

theorem test_issue_words : ∀ op ∈ opcodes, fOp (eeWord op).toNat = op := by decide

theorem test_lane_words : (∀ x ∈ floatRows ++ integerRows ++ bitRows, badA engState (eeWord x.op).toNat x.useB x.useC someEng someSeg = false) ∧
    badA engState (eeWord 0x10 ||| 1).toNat true false someEng someSeg = true ∧ fOp (0 : W64).toNat ∉ opcodes := by
  decide

/-- Conversion from BF16 to FP32 and to MXFP8, RED, and SCL of four rows: none is bad. -/
theorem test_format_words : badC engState (w64 (0x40 * 2 ^ 56 + 1 * 2 ^ 52 + 2 * 2 ^ 48 + 0xA * 2 ^ 40)).toNat someEng someSeg = false ∧
    badC engState (w64 (0x40 * 2 ^ 56 + 1 * 2 ^ 52 + 2 * 2 ^ 48 + 0x4 * 2 ^ 40)).toNat someEng someSeg = false ∧
    badC engState (w64 (0x40 * 2 ^ 56 + 1 * 2 ^ 52 + 2 * 2 ^ 48)).toNat someEng someSeg = false ∧
    badR engState (w64 (0x48 * 2 ^ 56 + 1 * 2 ^ 52 + 2 * 2 ^ 48)).toNat someEng someSeg = false ∧
    badX (w64 (0x60 * 2 ^ 56 + 4 * 2 ^ 32)).toNat someEng someSeg = false := by
  decide

/-- A line of a tile register, of scratch, of the share, of the accumulator file and of an object. -/
theorem test_memory_words : ∀ s, s = { engState with tm := { engState.tm with objs := [(objKey 3 0, { home := 1, cache := false, rick := false, movable := false, spread := false, port := 0, bytes := 65536, base := 0 })] } } →
    ∀ w, w = (w64 (0x53 * 2 ^ 56 + 1 * 2 ^ 52 + 0xA * 2 ^ 48)).toNat → fld w 55 52 = 1 ∧
    badM s w (lineRows someEng 0 w) 32768 someSeg = false ∧ badM s w (lineRows someEng 0 w) (shareBytes s 0) someSeg = false ∧
    badM s w (accRows someEng 0 w) 1048576 someSeg = false ∧
    badM s w (objRows someEng 0 w) (objSize s 0 (mHandle someEng 0 w)) someSeg = false ∧ slotD s 0 = some 3 ∧
    xldWaits someEng (xferOf someEng someSeg w false) = false := by
  rintro s rfl w rfl
  decide

def sclWin : PosKey := { step := 0, bwd := false, layer := 0, tslot := 0, win := 0, tick := 0 }

/-- FIFOs with room and full, sixteen transfers in flight, a share line that a higher-numbered engine wrote. -/
theorem test_engine_limits : someEng.segFifo.length < 64 ∧ (List.replicate 64 (0 : W64)).length = 64 ∧ someEng.xfers.length < 16 ∧
    someEng.xfers.any (fun x => x.slot == someSeg.slot) = false ∧ regOk engState 0 15 = true ∧
    bitOf (eeWord 2).toNat 32 = false ∧ sclReady runPart 0 [(0, 0)] = true ∧ partOf engState 3 = some runPart := by
  decide

/-- The licence of generation 0 in force, with an engine that has a descriptor to start. -/
def queueState : State := { engState with otp := { bytes := licOtp, gen := some 0 }, ee := [(1, { queue := [(0, [(0, 0)])] })] }

theorem test_engine_queues : 6 ≤ queueState.boot.stage ∧ held queueState = false ∧ 1 < cfgQuads queueState ∧ (engOf queueState 1).run = none ∧ (engOf queueState 1).queue.getD 0 [] = [(0, 0)] ∧
    (engOf engState 0).run = some someSeg ∧ someSeg.slot = 0 ∧ segReady queueState 1 0 = true ∧ sliceFirst queueState 1 0 = true ∧
    firstClass queueState 1 0 = true ∧ fwAlive engState = true ∧ engState.core.st ≠ .restarting := by
  decide

/-- Without a resident partition nothing is behind the aperture. -/
theorem test_aperture (offset : Nat) : apTarget upState offset = none := by
  simp [apTarget, upState, State.reset, partOf, Tab.find?]

/-- R397, structure 0x06: a poisoned word of MA has two FP32 elements, both read and counted by an ADD of one row of two columns,
and a write of one of them ends the poison; a word of MD is not read. -/
theorem test_poisoned_words : ∀ e : Eng, e = { someEng with len := [(0, 0x100)], bad := [64 * rowKey 2 0, 64 * rowKey 1 0] } →
    poisonCensus e.bad (eltReads e 0 (eeWord 0x10).toNat true false) = { nan := 2 } ∧
    (wipe e (regSpans 2 1 32 0 1 false)).bad = [64 * rowKey 1 0] := by
  rintro e rfl
  decide

/-! ## Witnesses: partitions -/

/-- The block with the licence of generation 0 in force. -/
def licState : State := { upState with otp := { bytes := licOtp, gen := some 0 } }

/-- A plan record for partition 3, with Penra's batching, on engine 0, and a share of 64 KiB. -/
def planBytes : List Byte :=
  let body := (wordBytes [w64 (3 * 2 ^ 59 + 1 * 2 ^ 48), w64 (2 ^ 63), w64 (2 ^ 48), 0, 0, 0, 0, 0]).take 60
  body ++ leBytes 4 (crc32 body)

def planState : State := { licState with mem := storeBytes [] (memKey 0 0) planBytes }

theorem test_plan : planCode planState (t1Words planState 0 8) (bytesAt planState.mem (memKey 0 0) 64) = 0 := by decide +kernel

theorem test_plan_clauses : planCode licState (t1Words licState 0 8) (bytesAt licState.mem (memKey 0 0) 64) ≠ 0 ∧ slotFor planState = some 0 ∧
    slotFor (withPart quietPart) = some 1 ∧ planState.boot.reload = none ∧
    slotFor { upState with parts := (List.range 8).map (fun p => (p, { quietPart with slot := some p })) } = none := by
  decide +kernel

theorem test_unload_clauses : partOf upState 3 = none ∧ partOf (withPart quietPart) 3 = some quietPart ∧ quietPart.st = .quiesced ∧
    partChecking (withPart quietPart) 3 = false ∧ runPart.st ≠ .quiesced ∧ runPart.st ≠ .clamped ∧
    partChecking (withInst (withPart quietPart) { oneInst 3 0x10 [] with st := .checking, part := 3 }) 3 = true := by
  decide

/-- An object for a Clamp, which `7.0015` of partition 3 names. -/
def clampState (P : Part) : State :=
  { withVals (withPart P) [(okey 7 0x15 3, 0)] with tm := { upState.tm with objs := [(objKey 3 0, { home := 1, cache := false, rick := false, movable := false, spread := false, port := 0, bytes := 16777216, base := 0 })] } }

theorem test_partition_clauses : handlesMissing (withPart quietPart) 0 3 quietPart = false ∧ regsClash (withPart quietPart) 0 3 = false ∧
    handlesMissing (withPart quietPart) 0 3 { quietPart with modes := { someModes with trainAdpt := true } } = true ∧
    upState.boot.reload = none ∧ upState.boot.stage = 11 ∧ preempting runPart = false ∧ hasClamp (withPart runPart) 3 = false ∧
    hasClamp (clampState runPart) 3 = true ∧ preempting { runPart with preempt := some { kind := 1 } } = true := by
  decide

/-- A partition whose save, or whose restore, has no request left to wait for, and one that is pre-empted urgently. -/
def leavingPart (st : PState) : Part :=
  { runPart with st := st, preempt := some { kind := 2 }, clamp := some { kind := 1, vals := [], unwritten := [], engs := [], kmode := false, unit := 0, ppWord := 0 } }

theorem test_save_clauses : (leavingPart .clamping).slot = some 0 ∧ (leavingPart .clamping).lrbQueue = [] ∧
    (leavingPart .clamping).preempt.map (·.owed) = some 0 ∧ (leavingPart .restoring).preempt.map (·.passed) = some false ∧
    (leavingPart .restoring).clamp.isSome = true ∧ runPart.blocked = false ∧
    (∃ r : Req, ({ withPart runPart with mp := { out := [r] } } : State).mp.out.any (fun r => r.part == 3 && r.tier == 3) = true) := by
  refine ⟨by decide, by decide, by decide, by decide, by decide, by decide, { id := 0, part := 3, write := false, tier := 3, port := 0, qos := 0, addr := 0, bytes := 64, use := .misc }, by decide⟩

/-- A CLAMPED partition that can run. -/
def clampedPart : Part := { leavingPart .clamped with slot := none, preempt := none, wasRunning := true, inStep := true }

theorem test_restore_clauses : ready upState = true ∧ restoreOrder upState = [] ∧ restoreOrder { upState with parts := [(3, clampedPart)] } = [3] ∧
    fitsWithout { upState with parts := [(3, clampedPart)] } clampedPart [] = true ∧
    fitsWithout { upState with parts := [(3, clampedPart), (4, { runPart with slot := some 1 })], od := { vals := [(okey 7 0x50 1, 4096)] } }
      clampedPart [] = false ∧
    allBlocked { upState with parts := [(3, clampedPart), (4, { runPart with slot := some 1, blocked := true })] } = true := by
  decide

/-! ## Witnesses: tiles -/

/-- Tiles 0 and 1 hold logical numbers 0 and 1, tile 2 is a spare, no other is built. -/
def tileRec : Rel := { tiles := [(0, 0), (1, 0), (2, 1)], map := [(0, 0), (1, 1)] }
def tileBlock : State := { licState with rel := tileRec }

theorem test_tile_clauses : tileState tileBlock 0 = 0 ∧ tileState tileBlock 33 = 3 ∧ logicalOf tileBlock 0 = some 0 ∧
    spareFor tileBlock 0 = some 2 ∧ spareFor { tileBlock with rel := { tileRec with katFail := [2] } } 0 = none ∧ logicalOf tileBlock 2 = none ∧
    tileBlock.rel.subst.any (fun y => y.2 == 2) = false ∧ tileInUse tileBlock 0 = false ∧
    ({ tileRec with subst := [(0, 2)] } : Rel).subst.find? (fun x => x.1 == 0) = some (0, 2) ∧ 6 ≤ tileBlock.boot.stage ∧
    34 * 16384 - 1 < 34 * 16384 ∧ tileBlock.rel.score.getD 33 0 + 1 < valU tileBlock 9 0x21 := by
  decide

/-! ## Witnesses: objects, publish and flash -/

/-- An object that can be moved, of 64 KiB at T1 address 0, as handle 0 of partition 3. -/
def someObj : Objt := { home := 1, cache := false, rick := false, movable := true, spread := false, port := 0, bytes := 65536, base := 0 }

def objState (P : Part) : State :=
  { withVals (withPart P) [(okey 8 1 0, 0xFFF)] with otp := { bytes := licOtp, gen := some 0 }, tm := { upState.tm with objs := [(objKey 3 0, someObj)] } }

theorem test_object_clauses : slotPart (objState runPart) ((oneInst 2 0x20 [0x20000000]).arg 0 % 8) = some (3, runPart) ∧ boundaries runPart = 0 ∧
    allocCode (objState runPart) 3 (oneInst 2 0x20 [0, 0x20000000, 4096, 0x10000]) = 0 ∧
    allocCode (objState runPart) 3 (oneInst 2 0x20 [0, 0x20000000, 0, 0x10000]) ≠ 0 ∧
    (objOf (objState runPart) 3 0).isSome = true ∧ objBusy (objState runPart) 3 0 = false ∧ (objOf (objState runPart) 3 1).isNone = true ∧
    moveCode (objState runPart) 3 (oneInst 2 0x22 [0, 0, 0, 1, 1]) = 0 ∧ moveCode (objState runPart) 3 (oneInst 2 0x22 [0, 0, 0, 2, 1]) ≠ 0 ∧
    moveCode (objState runPart) 3 (oneInst 2 0x22 [0x100, 0, 0, 1, 1]) = 0 ∧ boundaries { runPart with inStep := true } = 1 ∧
    boundaries { runPart with inStep := true, frozen := true } = 2 := by
  decide

def someMove : Move := { x := xKey 3 0 0, d := 3, tier := 1, port := 0, addr := 0x20000, size := 65536, opened := true }

theorem test_move_clauses : moveOf upState (xKey 3 0 0) = none ∧
    moveOf { upState with tm := { moves := [someMove] } } (xKey 3 0 0) = some someMove ∧ someMove.opened = true ∧ someMove.copied = false := by
  decide

/-- Flash of two channels with one LUN each, of 16 blocks, formatted, with one object at home there. -/
def flashGeo : Geo := { page := 4096, spare := 256, pages := 64, blocks := 16, luns := 1, planes := 1, tr := 50, tbers := 5, retry := 3, rate := 1 }
def flashState : State :=
  { objState runPart with
    fl := { geo := some flashGeo, ces := [(0, [0]), (1, [0])], present := true, formatted := true, userMu := 8 }
    tm := { objs := [(objKey 3 0, { someObj with home := 3 })] } }

theorem test_flash_clauses : flChannels flashState = [0, 1] ∧ cfgFlash flashState ≠ 0 ∧ flashState.fl.geo.isSome = true ∧ t3Objs flashState ≠ [] ∧
    t3Objs (objState runPart) = [] ∧ flashState.fl.journal < 2 ^ 20 ∧ flChannels upState = [] ∧
    pubCode flashState 3 runPart (oneInst 2 0x24 [0x100, 0, 0, 1, 0]) = 0 ∧ pubCode flashState 3 runPart (oneInst 2 0x24 [0x100, 0, 0, 2, 0]) ≠ 0 ∧
    pubThawed (oneInst 2 0x24 [0x100]) = true ∧ pubThawed (oneInst 2 0x24 [0]) = false ∧
    (allLuns flashState).contains (lunKey 0 0 0) = true ∧ valU flashState 2 0x6D ≤ freeBlks flashState (lunKey 0 0 0) ∧
    freeBlks { flashState with fl := { flashState.fl with geo := some { flashGeo with blocks := 4 } } } (lunKey 0 0 0) < valU flashState 2 0x6D ∧
    fenced flashState (lunKey 0 0 0) = false ∧ fenced { flashState with fl := { flashState.fl with fences := [(0, 0, 1)] } } (lunKey 0 0 0) = true ∧
    (chLuns flashState 1).contains (lunKey 1 0 0) = true ∧ (chLuns flashState 0).contains (lunKey 1 0 0) = false := by
  decide

def someReq : Req := { id := 0, part := 3, write := false, tier := 2, port := 0, qos := 0, addr := 0, bytes := 64, use := .misc }

theorem test_flash_end_clauses :
    ({ flashState.fl with progs := [{ mu := 0, lun := 0, block := 1, page := 0, use := 1, bseq := 0, started := true }] } : Fl).progs.find?
      (fun g => g.lun == 0 && g.block == 1 && g.started) = some { mu := 0, lun := 0, block := 1, page := 0, use := 1, bseq := 0, started := true } ∧
    ({ flashState.fl with erases := [(0, 1, true)] } : Fl).erases.find? (fun e => e.1 == 0 && e.2.1 == 1 && e.2.2) = some (0, 1, true) ∧
    blkReading flashState 0 1 = false ∧
    (settleT3 { flashState with fl := { flashState.fl with reads := [{ req := someReq, mu := 0, lun := 0, block := 1 }] } }).fl.reads.find?
      (fun x => lunCh x.lun == 0) = some { req := someReq, mu := 0, lun := 0, block := 1 } ∧ (0 : Nat) < flashGeo.retry ∧ flashGeo.retry ≤ 3 := by
  decide

/-- A publish with one unit that waits for its read-back. -/
def somePub : Publish :=
  { path := .cp, cseq := 0, d := 3, handle := 0, thawed := true, first := 0, img := false, src := 0, bseq := 0, units := [{ mu := 0, bytes := [], st := 2 }] }

theorem test_publish_clauses : pubOf flashState 0 = none ∧
    pubOf { flashState with fl := { flashState.fl with pubs := [somePub] } } 0 = some (somePub, { mu := 0, bytes := [], st := 2 }) ∧
    (valU flashState 2 0x6A ≤ (blkOf { flashState with fl := { flashState.fl with blocks := [(blkKey 0 1, { reads := 2 ^ 32 })] } } 0 1).reads) ∧
    (blkOf flashState 0 1).reads < valU flashState 2 0x6A ∧ (wearRange flashState).2 - (wearRange flashState).1 ≤ valU flashState 2 0x6B ∧
    valU flashState 2 0x6B < (wearRange { flashState with fl := { flashState.fl with blocks := [(blkKey 0 1, { erases := 2 ^ 32 })] } }).2 -
      (wearRange { flashState with fl := { flashState.fl with blocks := [(blkKey 0 1, { erases := 2 ^ 32 })] } }).1 := by
  decide

/-! ## Witnesses: adapters, traits and training -/

/-- An adapter image of one section of class S, 256 columns of zeros in BF16. -/
def imgBody : List Byte :=
  let h := (wordBytes [w64 (0x50454E41 * 2 ^ 32 + 1 * 2 ^ 16 + 64), w64 (5 * 2 ^ 40 + 1 * 2 ^ 24 + 1 * 2 ^ 8), 640, 0, 0, 0, 0, 0]).take 60
  h ++ leBytes 4 (crc32 h) ++ wordBytes [w64 (2 ^ 49 + 2 ^ 47 + 4 * 2 ^ 34 + 4 * 2 ^ 24), 0, 128, w64 (8 * 2 ^ 40 + crc32 (List.replicate 512 0))]

def imgState : State := { withPart runPart with mem := storeBytes [] (memKey 0 0) imgBody }

set_option maxRecDepth 100000 in
theorem test_image : adptChecks imgState 3 runPart 0 0 = 0 ∧ (imgGen imgState 3 0 0).1.id = 5 ∧ (imgGen imgState 3 0 0).1.bank = false := by
  decide +kernel

/-- Class S without its section's columns in the model is refused; the adapter is in no training. -/
theorem test_adapter_clauses : loadSource imgState 3 (oneInst 3 0x10 [0, 0]) = 0 ∧ loadSource imgState 3 (oneInst 3 0x10 [0x100, 0]) ≠ 0 ∧
    slotPart imgState ((oneInst 3 0x10 [0, 0]).arg 0 % 8) = some (3, runPart) ∧ adptChecks upState 3 runPart 0 0 ≠ 0 ∧
    adapterAttached runPart 5 = false ∧ loadBase (oneInst 3 0x10 [0, 0]) = (0, 0) ∧
    (instAt (withInst imgState { oneInst 3 0x10 [0, 0] with st := .checking, part := 3 }) 3 0x10 { path := .cp, cseq := 0 }).isSome = true := by
  decide +kernel

/-- Adapter 5 in one generation. -/
def someGen : AGen := { gen := 1, stream := false, sealed := false, src := 0, base := 0, nonce := 0, keyid := 0, nsect := 1, sects := [] }
def adptPart : Part := { runPart with adpts := [(5, { cur := some someGen })] }

theorem test_unload_adapter_clauses : unloadCode (withPart adptPart) 3 adptPart (oneInst 3 0x11 [0, 5]) = 0 ∧
    unloadCode (withPart adptPart) 3 adptPart (oneInst 3 0x11 [0, 6]) ≠ 0 ∧ unloadPair (oneInst 3 0x11 [0x100, 5]) = true ∧
    unloadPair (oneInst 3 0x11 [0, 5]) = false := by
  decide

/-- A context of partition 3, READY, at position 40, with its first page in T1. -/
def someCtx : Ctx :=
  { st := .ready, cls := 0, policy := false, phase := true, spec := false, part := 3, pos := 40, pend := 0, rtag := 0, deadline := 0, dlstep := 0,
    nbag := 0, arrseq := 0, tmark := 0, bind := [], npage := 2, tnodes := 0, map := [0] }

def ctxState (P : Part) : State :=
  { withVals (withPart P) [(okey 6 0x10 0, 0), (okey 6 0x11 0, 16), (okey 6 0x60 0, 32), (okey 6 0x61 0, 2048)] with ctxs := [(2, someCtx)] }

theorem test_rebind_clauses : ctxOwner (ctxState runPart) 2 = some (0, 3, runPart) ∧ ctxOwner (ctxState runPart) 16 = none ∧
    ctxOf (ctxState runPart) 2 = some someCtx ∧ ctxOf (ctxState runPart) 3 = none ∧
    bindChecks (ctxState runPart) 0 runPart (bindArgs (oneInst 3 0x12 [2, 0, 0, 0, 0, 0])) 0 = 0 ∧
    pinsAttached runPart (bindArgs (oneInst 3 0x12 [2, 0, 0, 0, 0, 0])) = false := by
  decide

/-! ## Witnesses: traits and training -/

/-- The descriptor of trait table 7: FP32 rows of one segment of 64 elements, four logical rows, the physical table of handle 0, with 64
bytes of optimizer state. -/
def tblBytes : List Byte :=
  let body := (wordBytes [w64 (7 * 2 ^ 58 + 1 * 2 ^ 50 + 1 * 2 ^ 40 + 1 * 2 ^ 32), 4, 0, 3, 0, 0, 0, 0]).take 60
  body ++ leBytes 4 (crc32 body)

/-- A pool specification over table 7, every layer of segment 0. -/
def poolBytes : List Byte :=
  let body := (wordBytes ([w64 (9 * 2 ^ 56 + 1 * 2 ^ 45 + 1 * 2 ^ 41), w64 (2 ^ 7)] ++ List.replicate 18 0)).take 156
  body ++ leBytes 4 (crc32 body)

def traitPart : Part := { runPart with traits := { tbls := [(7, { desc := bytesWords tblBytes, gen := 0 })] } }

/-- The slot's shadow area is the object of handle 0, with four slots. -/
def traitState (P : Part) : State :=
  { objState P with od := { vals := [(okey 4 0x31 0, 0), (okey 4 0x32 0, 4)] } }

theorem test_table : tblCode (objState runPart) 3 runPart tblBytes = 0 ∧ tblCode (objState traitPart) 3 traitPart tblBytes ≠ 0 ∧
    poolCode (objState traitPart) 3 traitPart poolBytes = 0 ∧ poolCode (objState runPart) 3 runPart poolBytes ≠ 0 ∧
    argBytes { objState runPart with mem := storeBytes [] (memKey 0 0x1000) tblBytes } (oneInst 4 0x10 [0, 0x1000]) 1 64 = tblBytes := by
  decide +kernel

def somePut (slot : Nat) : Put :=
  { path := .cp, cseq := 0, tid := 7, q := false, row := 1, slot := slot, src := 0, opt := false, flip := false }
def someRedir (st copying : Nat) : Redir := { tid := 7, q := false, row := 1, slot := 0, st := st, opt := false, copying := copying }
def redirPart (st : Nat) : Part := { traitPart with traits := { traitPart.traits with redirs := [someRedir st 1], puts := [somePut 0] } }

theorem test_trait_clauses : traitPart.traits.tbls.find? 63 = none ∧ (traitPart.traits.tbls.find? 7).isSome = true ∧
    (oneInst 4 0x20 [0x700, 1, 0]).tidArg = 7 ∧ (oneInst 4 0x20 [0x700, 1, 0]).pqArg = false ∧ poolNames traitPart 7 = false ∧
    (objOf (traitState traitPart) 3 (shadowArea (traitState traitPart) 3 traitPart).1).any (fun o => decide (shadowStride traitPart ≤ o.bytes)) = true ∧
    (3 : Nat) < tblRows (bytesWords tblBytes) false ∧ tblRows (bytesWords tblBytes) false ≤ 4 ∧ tblComp (bytesWords tblBytes) < 2 ∧
    freeShadow (traitState traitPart) 3 traitPart = some 0 ∧ freeShadow (objState traitPart) 3 traitPart = none ∧
    (redirPart 0).traits.redirs.find? (fun r => r.tid == 7 && r.q == false && r.row == 1 && r.st == 0) = some (someRedir 0 1) ∧
    (redirPart 2).traits.redirs.find? (fun r => r.tid == 7 && r.row == 1 && r.st == 2) = some (someRedir 2 1) ∧
    homeCode (traitState (redirPart 2)) (xKey 3 0 1) = 1 ∧
    (redirPart 0).traits.puts.find? (fun u => u.path == .cp && u.cseq == 0) = some (somePut 0) ∧
    traitPart.traits.flips.any (fun f => f.tid == 7) = false := by
  decide +kernel

/-- The attachment descriptor of trait table 7, which trains nothing but keeps its log in handle 0. -/
def attBytes : List Byte :=
  let body := (wordBytes [w64 (1 * 2 ^ 62 + 7 * 2 ^ 38), 0, 0, 0, 0, 0, 0, 0]).take 60
  body ++ leBytes 4 (crc32 body)

def trainPart : Part := { traitPart with modes := { someModes with trainTrait := true } }
def trainState (P : Part) : State := { traitState P with od := { vals := [(okey 4 0x31 0, 0), (okey 4 0x32 0, 4), (okey 5 0x26 0, 1)] } }

theorem test_attach : attachCode (trainState trainPart) 3 0 trainPart (bytesWords attBytes) attBytes = 0 ∧ attInit (bytesWords attBytes) = false ∧
    attachCode (trainState traitPart) 3 0 traitPart (bytesWords attBytes) attBytes ≠ 0 ∧ cfgTrain (trainState trainPart) = true ∧
    cfgTrain upState = false ∧ Tab.freeFrom trainPart.train.atts 0 = 0 := by
  decide +kernel

/-- A partition with an attachment and a complete list of one item, whose group is decided or not. -/
def someItem : Item := { att := 0, trait := true, group := 0, id := 7, layer := 0, slot := 0, tensor := 0, q := false, row := 1 }
def someRes : GroupRes := { group := 0, nu := 0, norm := 0, act := 0, kappa := 0, t := 1 }
def listPart (groups : List GroupRes) (it : Item) : Part :=
  { trainPart with train := { atts := [(0, { desc := bytesWords attBytes })], lists := [{ step := 5, items := [it], groups := groups, complete := true }] } }

theorem test_training_clauses : (listPart [] someItem).train.atts.find? 0 = some { desc := bytesWords attBytes } ∧
    (listPart [] someItem).train.atts.find? 1 = none ∧ trainPart.train.sweepInst = none ∧ trainPart.train.lists = [] ∧
    readList trainPart [] 3 (memKey 0 0) [] 0 = none ∧
    ((listPart [] someItem).train.lists.find? (fun l => l.complete && !l.sweep && l.items.any (fun it => it.group == 0) &&
      !l.groups.any (fun r => r.group == 0))).isSome = true ∧
    wantsPen (trainState (listPart [] someItem)) (listPart [] someItem) 3 5 someItem = false ∧
    (nextItem (trainState (listPart [someRes] someItem)) 3 (listPart [someRes] someItem)).map (·.2) = some (someItem, someRes) ∧
    nextItem (trainState trainPart) 3 trainPart = none ∧
    (nextItem (trainState (listPart [someRes] { someItem with pen := true })) 3 (listPart [someRes] { someItem with pen := true })).map
      (·.2) = some ({ someItem with pen := true }, someRes) ∧
    (itemExtent (listPart [someRes] someItem) 3 someItem) = some (xKey 3 0 1) ∧ cachedCopy (trainState trainPart) (xKey 3 0 1) = none ∧
    lateView trainPart = none ∧ ({ trainPart with train := { phases := [(16, 0)] } } : Part).train.phases.find? (fun y => y.2 == 0 && y.1 % 16 == 0) = some (16, 0) := by
  decide +kernel

/-! ## Witnesses: contexts -/

/-- A Request Ring of 64 entries at T1 address 0 with a PAUSE of context 2 at its tail. -/
def ringPart (op : Nat) : State :=
  { ctxState runPart with
    otp := { bytes := licOtp, gen := some 0 }
    od := { vals := [(okey 6 0x10 0, 0), (okey 6 0x11 0, 16), (okey 6 0x20 0, 0), (okey 6 0x21 0, 64), (okey 6 0x22 0, 1)] }
    mem := storeBytes [] (memKey 0 0) (wordBytes [w64 (op * 2 ^ 60 + 2 * 2 ^ 46)]) }

theorem test_ring_clauses : (ringNext (ringPart 3) 0).isSome = true ∧ (ringNext (ringPart 3) 1).isSome = false ∧
    (∀ x, ringNext (ringPart 3) 0 = some x → reqOp x.2.2.2 = 3 ∧ reqCtx x.2.2.2 = 2 ∧ x.2.2.1 = 0) ∧
    (∀ x, ringNext (ringPart 6) 0 = some x → reqOp x.2.2.2 = 6) ∧ freeCtxNo (ringPart 3) 3 = some 0 := by
  refine ⟨by decide +kernel, by decide +kernel, ?_, ?_, by decide +kernel⟩
  · intro x hx
    have h : (ringNext (ringPart 3) 0).all (fun x => reqOp x.2.2.2 == 3 && reqCtx x.2.2.2 == 2 && x.2.2.1 == 0) = true := by decide +kernel
    rw [hx] at h
    simpa [and_assoc] using h
  · intro x hx
    have h : (ringNext (ringPart 6) 0).all (fun x => reqOp x.2.2.2 == 6) = true := by decide +kernel
    rw [hx] at h
    simpa using h

/-- A ring entry of operation `op` for context 2, with its checksum. -/
def entryWords (op pend : Nat) : List W64 :=
  let ws := [w64 (op * 2 ^ 60 + 2 * 2 ^ 46), 0, 0, w64 (pend * 2 ^ 40)] ++ List.replicate 11 0
  ws ++ [w64 (crc32 (wordBytes ws ++ leBytes 4 0) * 2 ^ 32)]

theorem test_requests : reqCheck (ringPart 3) 0 3 runPart (entryWords 1 8) = 0 ∧ reqCheck (ringPart 3) 0 3 runPart (entryWords 3 0) = 0 ∧
    reqCheck (ringPart 3) 0 3 runPart (entryWords 2 8) ≠ 0 ∧ reqCheck (ringPart 3) 0 3 runPart (entryWords 4 0) = 0 ∧ reqOp (entryWords 4 0) = 4 := by
  decide +kernel

def hostPart : Part := { runPart with modes := { someModes with servePenra := false, serveHost := true } }

/-- A manifest of step 0 with one pad row. -/
def manBytesOf : List Byte :=
  let hd := wordBytes [w64 (0x4D414E49 * 2 ^ 32 + 2 ^ 16), w64 (3 * 2 ^ 19 + 2 ^ 18), w64 (2 ^ 45), 0, 0, 128, 0]
  let body := wordBytes [w64 (3 * 2 ^ 47), 0] ++ List.replicate 48 0
  hd ++ leBytes 4 (crc32 (hd ++ leBytes 4 0 ++ leBytes 4 0 ++ body)) ++ leBytes 4 0 ++ body

def manState (P : Part) : State :=
  { objState P with od := { vals := [(okey 6 0x50 0, 0)] }, mem := storeBytes [] (memKey 0 0) manBytesOf }

theorem test_manifest : (manRead (manState hostPart) 3 (valP (manState hostPart) 6 0x50 0 3) (manHalf 0) 0).isSome = true ∧
    manRead (manState hostPart) 3 (valP (manState hostPart) 6 0x50 0 3) (manHalf 1) 1 = none ∧ buildStep hostPart = 0 ∧ hostPart.hostNext = none ∧
    ((manRead (manState hostPart) 3 (valP (manState hostPart) 6 0x50 0 3) (manHalf 0) 0).map (fun m => (manCheck (manState hostPart) 0 3 hostPart m).1)) = some 0 ∧
    runPart.modes.serveHost = false := by
  decide +kernel

/-- A PAUSED context whose time for an Ember has come, with a page that is copied and a slot that is adopted. -/
def emberCtx : Ctx :=
  { someCtx with st := .paused, tmark := 0, copies := [{ page := 1, tier := 1, frame := 0, copied := false }], adopts := [{ pos := 40, pslot := 2, copied := false, age := 0 }] }

def emberState (P : Part) : State :=
  { ctxState P with ctxs := [(2, emberCtx)], od := { vals := [(okey 6 0x40 0, 1000000)] }, tod := { valid := true, sec := 1, any := true } }

theorem test_context_clauses : ctxOf (emberState runPart) 2 = some emberCtx ∧ emberCtx.part = 3 ∧ partOf (emberState runPart) 3 = some runPart ∧
    emberCtx.st = .paused ∧ runPart.modes.ember = true ∧ emberTime (emberState runPart) 3 emberCtx (nowNs (emberState runPart)) = true ∧
    emberTime (ctxState runPart) 3 someCtx (nowNs (ctxState runPart)) = false ∧ someCtx.st ≠ .paused ∧ runPart.inStep = false ∧
    emberCtx.copies.find? (fun q => q.page == 1 && !q.copied) = some { page := 1, tier := 1, frame := 0, copied := false } ∧
    emberCtx.copies.find? (fun q => q.page == 0 && !q.copied) = none ∧
    emberCtx.adopts.find? (fun a => a.pos == 40 && !a.copied) = some { pos := 40, pslot := 2, copied := false, age := 0 } := by
  decide

/-- A lookup of position 3 of context 2 in its first page, and one of a context of no partition. -/
def pageState : State := { ctxState runPart with pgdir := [(0, 2 ^ 63 + 1 * 2 ^ 61 + 5)] }

theorem test_lookup_clauses : ready pageState = true ∧ wfld (w64 (2 * 2 ^ 44 + 3)) 63 61 = 0 ∧ wfld (w64 (2 * 2 ^ 44 + 3)) 43 0 = 3 ∧
    (lookupCtx pageState (w64 (2 * 2 ^ 44 + 3))).map (·.2.2) = some someCtx ∧ lookupCtx pageState (w64 (9 * 2 ^ 44)) = none ∧ 0 < pageTokens pageState 3 ∧
    lookupSlot pageState (w64 (2 * 2 ^ 44 + 3)) ≠ 0 ∧ lookupSlot pageState (w64 (9 * 2 ^ 44)) = 0 ∧ slotPart pageState 1 = none ∧
    someCtx.adopts.find? (fun a => a.pos == 3) = none ∧ emberCtx.adopts.any (fun a => a.pos == 40) = true ∧
    ({ someCtx with tree := [(1, 4)] } : Ctx).tree.find? 1 = some 4 := by
  decide

/-! ## Witnesses: the window path -/

/-- Partition 3 in step 0 with one row and one window, which has seen both its panels. -/
def someMan : Man := { step := 0, host := false, rows := [{ ctx := some 2, kind := 1 }], ndec := 1, descs := [], seed := 0, target := false, binds := [], gens := [] }
def firstPos : PosKey := { step := 0, bwd := false, layer := 0, tslot := 0, win := 0, tick := 0 }
def someWin : Win := { key := firstPos, n := 1, seen := 2 }
def stepPart (ws : List Win) : Part := { runPart with inStep := true, man := some someMan, wins := ws }

/-- The words of a record of partition 3 at that position. -/
def recWord (kind : Nat) : W64 := w64 (kind * 2 ^ 60 + 3 * 2 ^ 55)

theorem test_record_clauses : (∀ kind ∈ [1, 2, 3], recKind (recWord kind) = kind ∧ recPart (recWord kind) = 3 ∧ recKey 0 (recWord kind) = firstPos) ∧
    recKind 0 ≠ 1 ∧ partOf upState (recPart (recWord 1)) = none ∧ panelEarly (stepPart []) firstPos = false ∧ posEarly (stepPart []) firstPos = false ∧
    (stepPart []).slot = some 0 ∧ (stepPart []).st = .running ∧ (stepPart []).inStep = true ∧ firstPos.step = (stepPart []).step ∧
    panelEarly { stepPart [] with stream := { lastPanel := some firstPos } } firstPos = true ∧ quietPart.st = .quiesced := by
  decide

theorem test_epilogue_clauses : fld 0 25 23 = 0 ∧ slotPart (withPart (stepPart [])) 0 = some (3, stepPart []) ∧
    passTgt (stepPart []) firstPos = some ⟨0, 0, 256, 256⟩ ∧ passTgt (stepPart []) { firstPos with layer := 9 } = none ∧ manWins someMan = 1 ∧
    winOf (stepPart []) firstPos = none ∧ winOf (stepPart [someWin]) firstPos = some someWin ∧ panelsOf ⟨0, 0, 256, 256⟩ = 2 ∧
    someWin.answered = false ∧ someWin.requested = false ∧ someWin.stage ≠ .merged ∧ ({ someWin with seen := 1 } : Win).dead = none ∧
    firstPos.ord < (winKey { firstPos with win := 1 }).ord ∧ (stepPart []).stream.far = none ∧ (stepPart []).stream.ceilTgt = [] := by
  decide

/-- Holds below and at their ceilings, a read that is answered, and a unit with a dirty line. -/
theorem test_path_clauses : holdFull { kind := .epilogue, key := firstPos, cause := 2, periods := 4, ceil := 10 } = true ∧
    holdFull { kind := .epilogue, key := firstPos, cause := 2, periods := 3, ceil := 10 } = false ∧
    holdFull { kind := .kindle, key := firstPos, cause := 0, periods := 4, ceil := 10 } = true ∧
    (winShape (stepPart [someWin]) someWin).map (·.w) = some someWin ∧ someWin.dead = none ∧ someWin.out.contains 0 = false ∧
    writers upState = [] ∧ blockEnd upState 0 0 0 false = none ∧
    ({ step := 0, idx := 0, place := 2, bwd := false, layer := 0, slot := none, items := [], dirty := [(0, 64)] } : LsUnit).dirty ≠ [] := by
  decide

/-! ## Witnesses: memory ports and replay -/

/-- A read of 64 bytes at port 2 outstanding under tag 2047, and one that waits. -/
def portReq : Req := { someReq with tier := 1, port := 2, tag := 2047 }
def portState (out waiting : List Req) : State :=
  { objState runPart with mp := { up := [2], out := out, waiting := waiting } }

theorem test_port_clauses : (portsUp (portState [] [])).contains 2 = true ∧ (portsUp upState).contains 11 = false ∧
    ((portState [] []).mp.out.filter (fun r => r.port == 2)).length < 2048 ∧ nextIssue (portState [] []) 2 = none ∧
    (nextIssue (portState [] [portReq]) 2).isSome = true ∧
    (portState [portReq] []).mp.out.find? (fun r => r.port == 2 && r.tag == 2047 && r.write == false && r.tier != 2) = some portReq ∧
    lastBeat 64 = 0 ∧ lastBeat 4096 = 7 ∧ portReq.issues < retryMax (portState [] []) portReq ∧ lrbAt (portState [] []) 2 0 = none ∧
    queuedReply (portState [] []) 2 0 = none ∧
    ([{ port := 2, tag := 0, part := 3, last := 1 }] : List Quar).find? (fun q => q.port == 2 && q.tag == 0) = some { port := 2, tag := 0, part := 3, last := 1 } ∧
    upState.tm.sketchIncs < 131072 := by
  decide

theorem test_lrb_clauses : ({ runPart with lrb := [(1023, { st := 1, req := portReq })] } : Part).lrb.find? 1023 = some { st := 1, req := portReq } ∧
    (131072 : Nat) ≤ ({ upState with tm := { sketchIncs := 131072 } } : State).tm.sketchIncs ∧ retryMax upState portReq ≤ 255 := by
  decide

theorem test_free_tag : freeTag (portState [] []) 2 = some 0 := by decide +kernel

def someReplay : Replay := { path := .cp, cseq := 0, slot := 0, recAt := 0, capAt := 4096, granules := 0, quads := 0 }

theorem test_replay_clauses : replayCode upState (oneInst 10 0x43 [3, 0, 0, 0]) ≠ 0 ∧ upState.dbg.replay = none ∧
    ({ upState with dbg := { replay := some someReplay } } : State).dbg.replay = some someReplay ∧
    (withInst upState { oneInst 10 0x43 [] with st := .checking }).od.insts.find?
      (fun i => i.area == 10 && i.item == 0x43 && i.path == .cp && i.cseq == 0) = some { oneInst 10 0x43 [] with st := .checking } := by
  decide

/-- One row bound to adapter 5, whose section of class F, of rank 4, is in the share. -/
def rowBindWords : List W64 := [w64 (5 * 2 ^ 40 + 1 * 2 ^ 24 + 1), 0, 0, 0, 0]
def someSect : Sect :=
  { layer := 0, slot := 0, hasF := true, hasK := false, hasS := false, bias := false, sBf16 := false, isBf16 := false, din := 256, dout := 256,
    r := 4, k := 8, bank := 0, alphaF := 0x3F800000, alphaK := 0, poff := 128, plen := 1024, ffmt := 0, kfmt := 0 }
def bindMan : Man := { someMan with rows := [{ ctx := none, kind := 1 }], descs := [{ bind := rowBindWords, bag := 0, cref := 0, nbag := 0 }] }
def someUnit : LsUnit :=
  { step := 0, idx := 0, place := 0, bwd := false, layer := 0, slot := none, dirty := []
    items := [{ kind := .sect 0 5 0, line := 0, lines := 16, need := 1024, st := 1, owed := 0, data := 0 }] }
def bindPart (w : Win) : Part :=
  { stepPart [w] with man := some bindMan, adpts := [(5, { cur := some { someGen with sects := [someSect] } })], units := [someUnit] }

/-- Shrink of that row's window ends its first unit once the panel is there. -/
theorem test_block_end : (blockEnd (withPart (bindPart { someWin with tiles := [0], panels := [{ num := 0, rows := [0] }] })) 0 0 0 false).isSome = true ∧
    (winCtx (bindPart someWin) someWin).isSome = true := by
  decide +kernel

/-- The window when its only chunk waits for Merge, with the host's data and Scale's factors. -/
def scaleWin : Win :=
  { someWin with stage := .scale, expanded := List.range 8, chunks := [(chunkKey 0 0 0, [])], scaled := [(chunkKey 0 0 0, ([], []))] }

theorem test_merge_write : (writers (withPart (bindPart scaleWin))).map (fun x => (x.1, x.2.1, x.2.2.2)) = [(0, 3, (0, 0, 0))] := by decide +kernel

/-- A whole record of step 1 of partition 3 and a whole capture of it, with room in the block for the replay. -/
def recordBytes : List Byte :=
  let h := wordBytes [w64 (0x52505245 * 2 ^ 32 + 2 ^ 16), w64 (1 * 2 ^ 24 + 3 * 2 ^ 19), 1, 0, 0, 0, w64 (64 * 2 ^ 32)]
  h ++ leBytes 4 (crc32 (h ++ leBytes 4 0 ++ leBytes 4 0)) ++ leBytes 4 0

def captureBytes : List Byte :=
  let h := (wordBytes ([w64 (0x52504341 * 2 ^ 32 + 2 ^ 16), w64 (1 * 2 ^ 24 + 3 * 2 ^ 19), 0, w64 (2 ^ 32)] ++ List.replicate 12 0)).take 124
  h ++ leBytes 4 (crc32 h)

def replayState : State :=
  { licState with mem := storeBytes (storeBytes [] (memKey 0 0) recordBytes) (memKey 0 0x10000) captureBytes, rel := { map := (List.range 32).map (fun l => (l, l)) } }

theorem test_replay_runs : replayCode replayState (oneInst 10 0x43 [3, 1, 0, 0x10000]) = 0 := by decide +kernel

/-- A firmware image of version 9 under key 1, with its tag and its checksum. -/
def fwBody (tag : List Byte) : List Byte :=
  wordBytes [w64 (0x4D4F4148 * 2 ^ 32 + 2 ^ 16), 9, w64 (64 * 2 ^ 32), 0, 1] ++ tag ++ leBytes 4 0

def fwImage (tag : List Byte) : List Byte := fwBody tag ++ leBytes 4 (crc32 (fwBody tag))

set_option maxRecDepth 100000 in
theorem test_fixed_ok : fixedOk State.reset = true := by decide +kernel

/-- The tag authenticates the image and its checksum, and the checksum covers the tag: both equations of R303 hold of this one. -/
def fwState : State :=
  { upState with mem := storeBytes [] (memKey 0 0) (fwImage (leBytes 16 0x352795f4ebc94630e26806387269f750)) }

set_option maxRecDepth 100000 in
theorem test_firmware_image : fwCheck fwState 0 = (Code.ok, 9) := by decide +kernel

/-! ## Witnesses: what is left -/

/-- The spec leaves open where APCTL holds its fields (Config.apctlField); where they name T1 and partition 3, an object is behind the
aperture. -/
theorem test_aperture_object (h0 : Config.apctlField 0 0 = 1) (h1 : Config.apctlField 1 0 = 3) (h2 : Config.apctlField 2 0 = 0) :
    apTarget (objState runPart) 0 = some (3, 0, 0) := by
  have e : (objState runPart).core.apctl = 0 := rfl
  unfold apTarget
  simp only [e, h0, h1, h2]
  decide

/-- A share that a row's adapter does not fit. -/
theorem test_share_too_small : shareFits (withPart { bindPart someWin with st := .quiesced }) 0 0 ≠ Code.ok := by decide +kernel

/-- A load of handle 0 that ends. -/
def someXfer : Xfer :=
  { slot := 0, tag := 63, segid := 7, store := false, reg := 1, mxp := false, fmt := 0xA, rows := 1, cols := 32, handle := 0, off := 0, stride := 128, scale := 0, pin := 0 }

theorem test_transfer_clauses : ([someXfer] : List Xfer).find? (fun y => y.tag == 63) = some someXfer ∧ slotD engState someXfer.slot = some 3 ∧
    someXfer.rowsOf.n ≤ 32 ∧ (0 : Nat) < someXfer.rowsOf.n := by decide

theorem test_reload_work : ({ upState with boot := { upState.boot with reload := some { path := .cp, cseq := 0, worked := false, slots := [], oldGen := 0 } } } : State).boot.reload.any
    (fun r => !r.worked) = true ∧ State.reset.boot.testMode = false ∧ programming State.reset = false := by decide

/-- A unit of the share with a dirty line, and the same once it is at home. -/
theorem test_dirty_clauses : ({ bindPart someWin with units := [{ someUnit with dirty := [(0, 64)] }] } : Part).units.find? (fun u => u.place == 0) =
    some { someUnit with dirty := [(0, 64)] } ∧ someUnit.wb = false ∧ someUnit.dirty = [] := by decide

/-- A read of the Accumulator Port for the row of that window. -/
theorem test_read_data : ((winOf (bindPart someWin) firstPos).bind (winShape (bindPart someWin))).map (fun c => (c.w, c.tgt.dout)) = some (someWin, 256) := by
  decide +kernel

/-! ## Witnesses: the clauses of transfers, moves, flash, updates and windows -/

/-- An attachment whose RUN is used up, and one whose RUN is not. -/
theorem test_run_left : ({ clampedPart with train := { atts := [(0, { desc := bytesWords attBytes, run := 0xFFFF })] } } : Part).train.atts.any
      (fun e => decide (0xFFFF ≤ e.2.run)) = true ∧
    ({ clampedPart with train := { atts := [(0, { desc := bytesWords attBytes })] } } : Part).train.atts.any (fun e => decide (0xFFFF ≤ e.2.run)) = false := by
  decide

/-- A poisoned extent, one whose copy has a read outstanding, and one with neither. -/
def poisonState : State := { objState runPart with tm := { (objState runPart).tm with poisoned := [xKey 3 0 0] } }
theorem test_poison_clauses : poisonedX poisonState (xKey 3 0 0) = true ∧ poisonedX (objState runPart) (xKey 3 0 0) = false ∧
    useBusy { objState runPart with mp := { out := [{ portReq with use := .move (xKey 3 0 0) }] } } (.move (xKey 3 0 0)) = true ∧
    useBusy (objState runPart) (.move (xKey 3 0 0)) = false ∧ xferPoisoned poisonState 3 someXfer = true ∧ xferPoisoned (objState runPart) 3 someXfer = false ∧
    xldWaits someEng someXfer = false ∧ xldWaits { xfers := List.replicate 16 someXfer } someXfer = true := by
  decide

/-- A partition that waits for a read of TR alone, and one that waits for nothing of TR. -/
theorem test_blocked_clauses :
    trAlone { withPart runPart with mp := { out := [{ portReq with tier := 3, use := .pool 3 0 }] } } 3 runPart = true ∧
    trAlone { engState with mp := { out := [{ portReq with use := .pool 3 0 }] } } 3 runPart = false := by
  decide +kernel

/-- The turn of slot 0 at the training unit. -/
theorem test_turn_clauses : passTurn (trainState (listPart [someRes] someItem)) 0 = true ∧
    passTurn { trainState (listPart [someRes] someItem) with parts := [(3, listPart [someRes] someItem), (4, { listPart [someRes] someItem with slot := some 1 })] } 1 = false ∧
    thawLost (trainState (listPart [someRes] someItem)) (listPart [someRes] someItem) 3 someItem = false := by
  decide +kernel

/-- A window that was dropped for its overrun, and one behind a ceiling of its target. -/
theorem test_ceiling_clauses : ({ someWin with dead := some 4 } : Win).dead = some 4 ∧
    (({ (stepPart []) with stream := { ceilTgt := [(false, 0, 0)] } } : Part).stream.ceilTgt.contains (false, 0, 0) && decide ((1 : Nat) ≠ 0) &&
      !({ someWin with miss := [0] } : Win).miss.isEmpty) = true := by decide

/-- A block to collect, a fence with a program and with an erase behind it, and a journal that is due for a checkpoint. -/
theorem test_upkeep_clauses : ({ flashState.fl with blocks := [(blkKey 0 1, { st := 2 })] } : Fl).blocks.filter
      (fun e => e.1 / 2 ^ 20 == 0 && e.2.st == 2 && !e.2.jr) = [(blkKey 0 1, { st := 2 })] ∧
    (2 : Nat) ^ 20 ≤ ({ flashState.fl with journal := 2 ^ 20 } : Fl).journal ∧ lunBusy flashState 0 = false ∧
    (∃ g : FlProg, g ∈ [({ mu := 0, lun := 0, block := 1, page := 0, use := 1, bseq := 0 } : FlProg)] ∧ g.lun = 0) ∧
    blkReading flashState 0 1 = false := by
  refine ⟨by decide, by decide, by decide, ⟨_, List.mem_singleton.mpr rfl, rfl⟩, by decide⟩

/-- A unit that is done with a dirty line, and one that is not done. -/
theorem test_done_clauses : ({ someUnit with dirty := [(0, 64)], done := true } : LsUnit).done = true ∧ someUnit.done = false := by decide

/-- A tile that a window gives work. -/
theorem test_tile_busy : tileReady { tileBlock with rel := { tileRec with runs := [(0, { run := some (3, firstPos, .shrink, 0) })] } } 0 = true ∧
    tileReady tileBlock 0 = false := by decide +kernel

/-- A capture whose output region has room for a header. -/
theorem test_replay_room : 16 ≤ t1Word { upState with mem := storeBytes [] (memKey 0 4168) (leBytes 8 64) } 4096 9 := by decide +kernel

end Sys2Proof.Machine
end

section
/-! PROOF. PRST_N low and high again: what a hard reset ends, what survives it, and where bring-up begins (R387, R380, R418). -/

namespace Sys2Proof.Machine

/-! ## What cutting a programming in progress leaves unchanged (R393) -/

@[simp] theorem otpCut_pending (s : State) : (otpCut s).pending = s.pending := by rw [otpCut_frame]

@[simp] theorem otpCut_mem (s : State) : (otpCut s).mem = s.mem := by rw [otpCut_frame]

@[simp] theorem otpCut_fl (s : State) : (otpCut s).fl = s.fl := by rw [otpCut_frame]

@[simp] theorem otpCut_boot (s : State) : (otpCut s).boot = s.boot := by rw [otpCut_frame]

/-! ## The state while PRST_N is low -/

/-- The state that HARD_RESET leads to (`exec_hardReset`). -/
def hardResetState (s : State) : State :=
  { afterReset s with boot := { (afterReset s).boot with prstLow := true, testHeld := false } }

theorem exec_hardReset (s : State) : exec .hardReset s = .next (hardResetState s) := rfl

@[simp] theorem hardResetState_pending (s : State) : (hardResetState s).pending = s.pending := otpCut_pending s

@[simp] theorem hardResetState_mem (s : State) : (hardResetState s).mem = s.mem := otpCut_mem s

theorem hardResetState_boot (s : State) :
    (hardResetState s).boot = { prstLow := true, testMode := s.boot.testMode } := by
  simp [hardResetState, afterReset]

/-- Where no field of OTP is being programmed, its bytes survive. -/
theorem hardResetState_otp_bytes {s : State} (h : programming s = false) : (hardResetState s).otp.bytes = s.otp.bytes := by
  have hcut : otpCut s = s := otpCut_none h
  change (otpCut s).otp.bytes = s.otp.bytes
  rw [hcut]

/-- What is durable on flash survives. -/
theorem hardResetState_flash (s : State) :
    (hardResetState s).fl.dur = s.fl.dur ∧ (hardResetState s).fl.formatted = s.fl.formatted ∧
      (hardResetState s).fl.userMu = s.fl.userMu ∧ (hardResetState s).fl.journal = s.fl.journal := by
  simp [hardResetState, afterReset]

theorem held_hardResetState (s : State) : held (hardResetState s) = true := by
  simp [held, hardResetState_boot]

/-! ## PRST_N rises -/

theorem exec_resetRelease_of_prstLow {s : State} (h : s.boot.prstLow = true) :
    exec .resetRelease s =
      .next { s with boot := { s.boot with prstLow := false, stage := if s.boot.testMode then 0 else 1 } } := by
  change execResetRelease s = _
  rw [execResetRelease, if_pos h]

/-- Settles O27: the reset state but for OTP, flash, host memory and the queue; the release then begins bring-up at stage 1. -/
theorem hardResetLeaves : Obligations.HardResetLeaves := by
  unfold Obligations.HardResetLeaves
  intro s
  obtain ⟨hdur, hformatted, huserMu, hjournal⟩ := hardResetState_flash s
  have hlow : (hardResetState s).boot.prstLow = true := by rw [hardResetState_boot]
  refine ⟨hardResetState s, exec_hardReset s, rfl, rfl, rfl, rfl, rfl, rfl, rfl, rfl, rfl, rfl, rfl, rfl, rfl, rfl, rfl,
    hardResetState_mem s, hardResetState_pending s, hardResetState_otp_bytes, hdur, hformatted, huserMu, hjournal,
    held_hardResetState s, _, exec_resetRelease_of_prstLow hlow, rfl, ?_⟩
  intro htest
  simp [held, hardResetState_boot, htest]

end Sys2Proof.Machine
end

section
/-! PROOF. TILE_MAPOUT: the three ways in which a map-out goes, what each of them leaves, and how the command ends
(R408, R409, R411). -/

namespace Sys2Proof.Machine

/-! ## The decision (R408, step 1) -/

/-- The state after the decision: TILE_STATE of `t` is 2, a substitution by `t` itself is off, and CNT_TILE_MAPOUT has counted. -/
def mapOutMark (s : State) (t : Nat) : State :=
  bump (updRel s (fun r => { r with tiles := r.tiles.put t 2, subst := r.subst.filter (fun x => x.2 != t) })) Cnt.tileMapout 1

/-- The logical number that a map-out of `t` leaves without a tile: the one it holds, or the one it was about to take. -/
def numberLost (s : State) (t : Nat) : Option Nat :=
  (logicalOf s t).or ((s.rel.subst.find? (fun x => x.2 == t)).map (·.1))

theorem numberLost_of_logicalOf {s : State} {t l : Nat} (h : logicalOf s t = some l) : numberLost s t = some l := by
  simp [numberLost, h]

theorem numberLost_of_spare {s : State} {t : Nat} (h : logicalOf s t = none) (hp : s.rel.subst.any (fun y => y.2 == t) = false) :
    numberLost s t = none := by
  simpa [numberLost, h] using hp

theorem tileState_mapOutMark (s : State) (t y : Nat) : tileState (mapOutMark s t) y = if y = t then 2 else tileState s y :=
  tileState_put s.rel.tiles t 2 y

/-- The spare that a map-out looks for after the decision is `spareFor` of the state before it. -/
theorem find_sparesLeft_mapOutMark (s : State) (t : Nat) :
    (sparesLeft (mapOutMark s t)).find? (fun x => !(mapOutMark s t).rel.katFail.contains x) = spareFor s t := by
  unfold sparesLeft spareFor
  rw [List.find?_filter]
  congr 1
  funext x
  rw [tileState_mapOutMark]
  by_cases hx : x = t
  · simp [hx]
  · have hany : (mapOutMark s t).rel.subst.any (fun y => y.2 == x) = s.rel.subst.any (fun y => y.2 == x) := by
      change (s.rel.subst.filter (fun y => y.2 != t)).any (fun y => y.2 == x) = _
      rw [List.any_filter]
      congr 1
      funext y
      by_cases hy : y.2 = x <;> simp [hy, hx]
    rw [hany]
    rw [if_neg hx, Bool.eq_iff_iff, decide_eq_true_eq]
    simp [hx, mapOutMark, bump, updRel, and_assoc]

theorem spareFor_ne {s : State} {t sp : Nat} (h : spareFor s t = some sp) : sp ≠ t := by
  have hsp := List.find?_some h
  simp only [Bool.and_eq_true, bne_iff_ne] at hsp
  exact hsp.2

/-! ## The three ways of a map-out (R408, steps 2 and 3, and R411) -/

/-- The substitution of `l` by `sp` waits for the windows that are current for `l` (R81). -/
def askSubst (s : State) (l sp : Nat) : State :=
  updRel s (fun r => { r with
    subst := r.subst ++ [(l, sp)]
    substAt := r.substAt.filter (fun x => x.1 != l) ++ (currentWins s l).map (fun x => (l, x)) })

/-- A spare takes the number `l`, at once where no window of the tile is current. -/
def mapOutToSpare (s : State) (t l sp : Nat) : State :=
  let s2 := post (askSubst (mapOutMark s t) l sp) Ev.tileMapout none 0 t sp
  if tileInUse s2 l then s2 else substitute s2 l sp

/-- The logical tile `l` goes missing, before it is reported. -/
def tileMissing (s : State) (t l : Nat) : State :=
  updRel (post (mapOutMark s t) Ev.tileMapout none 0 t 0xFF) (fun r => { r with map := r.map.put l 0xFF })

/-- A map-out of an active tile or a spare: nothing but the decision where no number is lost; else the spare found takes the
number, or, with none, its tile is missing. -/
theorem mapOut_eq {s : State} {t : Nat} (h : tileState s t < 2) : mapOut s t =
    (numberLost s t).elim (post (mapOutMark s t) Ev.tileMapout none 0 t 0xFF, 0xFF, false) (fun l =>
      (spareFor s t).elim
        (replaceRise (post (tileMissing s t l) Ev.noSpare none 0 (workingTiles (tileMissing s t l)) 0), 0xFF, true)
        (fun sp => (mapOutToSpare s t l sp, sp, false))) := by
  have hact : ¬ (tileState s t = 2 || tileState s t = 3) = true := by
    simp only [Bool.or_eq_true, decide_eq_true_eq]; omega
  rw [← find_sparesLeft_mapOutMark]
  unfold mapOut numberLost mapOutMark
  rw [if_neg hact]
  dsimp only
  cases logicalOf s t with
  | some l =>
    cases List.find? _ (sparesLeft _) <;> rfl
  | none =>
    cases List.find? _ s.rel.subst with
    | none => rfl
    | some x => cases List.find? _ (sparesLeft _) <;> rfl

/-! ## What every map-out leaves -/

/-- From `s` to `u` the tile `t` is mapped out: its state is 2, that of no other tile but the spare found has changed, and
CNT_TILE_MAPOUT has counted. -/
structure MappedOut (s : State) (t : Nat) (u : State) : Prop where
  state : tileState u t = 2
  others : ∀ y, y ≠ t → spareFor s t ≠ some y → tileState u y = tileState s y
  counted : u.cnt.getD (cntKey Cnt.tileMapout 0) 0 = s.cnt.getD (cntKey Cnt.tileMapout 0) 0 + 1

theorem mappedOut_mapOutMark (s : State) (t : Nat) : MappedOut s t (mapOutMark s t) where
  state := by rw [tileState_mapOutMark, if_pos rfl]
  others y hy _ := by rw [tileState_mapOutMark, if_neg hy]
  counted := by
    change (s.cnt.set 0 _ _).getD _ 0 = _
    rw [Tab.getD_set, if_pos rfl]
    rw [w64, BitVec.ofNat_add, BitVec.ofNat_toNat, BitVec.setWidth_eq]
    rfl

section
variable {s u : State} {t : Nat} (h : MappedOut s t u)
include h

/-- Only TILE_STATE and CNT_TILE_MAPOUT matter. -/
theorem MappedOut.congr {v : State} (htiles : v.rel.tiles = u.rel.tiles)
    (hcnt : v.cnt.getD (cntKey Cnt.tileMapout 0) 0 = u.cnt.getD (cntKey Cnt.tileMapout 0) 0) : MappedOut s t v := by
  have htile : ∀ y, tileState v y = tileState u y := fun y => congrArg (Tab.getD · y 3) htiles
  exact ⟨(htile t).trans h.state, fun y hy hsp => (htile y).trans (h.others y hy hsp), hcnt.trans h.counted⟩

theorem MappedOut.after_updRel {f : Rel → Rel} (hf : (f u.rel).tiles = u.rel.tiles) : MappedOut s t (updRel u f) :=
  h.congr hf rfl

theorem MappedOut.after_post (num : Nat) (d : Option Nat) (code arg0 arg1 : Nat) : MappedOut s t (post u num d code arg0 arg1) :=
  h.congr (by rw [post_rel]) (post_cntk _ _ _ _ _ _ _ (by decide))

theorem MappedOut.after_replaceRise : MappedOut s t (replaceRise u) :=
  h.congr (by rw [replaceRise_rel]) (replaceRise_cntk _ _ (by decide))

/-- The spare found may take a number: it is not the tile itself. -/
theorem MappedOut.after_substitute {l sp : Nat} (hsp : spareFor s t = some sp) : MappedOut s t (substitute u l sp) := by
  obtain ⟨hrel, -, hcnt⟩ := substitute_frame u l sp
  have htile : ∀ y, y ≠ sp → tileState (substitute u l sp) y = tileState u y := fun y hy => by
    unfold tileState; rw [hrel, tileState_put, if_neg hy]
  have hkey : ∀ d, cntKey Cnt.tileMapout 0 ≠ cntKey Cnt.tileSubst d := fun d => by
    simp only [cntKey, Cnt.tileMapout, Cnt.tileSubst]; omega
  refine ⟨(htile t (spareFor_ne hsp).symm).trans h.state, fun y hy hne => ?_, (hcnt _ hkey).trans h.counted⟩
  exact (htile y (fun e => hne (e ▸ hsp))).trans (h.others y hy hne)

end

theorem mappedOut_mapOutToSpare {s : State} {t sp : Nat} (l : Nat) (hsp : spareFor s t = some sp) :
    MappedOut s t (mapOutToSpare s t l sp) := by
  have hask : MappedOut s t (post (askSubst (mapOutMark s t) l sp) Ev.tileMapout none 0 t sp) :=
    ((mappedOut_mapOutMark s t).after_updRel rfl).after_post _ _ _ _ _
  unfold mapOutToSpare
  dsimp only
  split
  · exact hask
  · exact hask.after_substitute hsp

theorem mappedOut_mapOut {s : State} {t : Nat} (h : tileState s t < 2) : MappedOut s t (mapOut s t).1 := by
  have hmark := (mappedOut_mapOutMark s t).after_post Ev.tileMapout none 0 t 0xFF
  rw [mapOut_eq h]
  cases numberLost s t with
  | none => exact hmark
  | some l =>
    cases hsp : spareFor s t with
    | none => exact ((hmark.after_updRel rfl).after_post _ _ _ _ _).after_replaceRise
    | some sp => exact mappedOut_mapOutToSpare l hsp

/-! ## What a map-out answers -/

/-- A map-out that finds no spare raises REPLACE_REQ, and its logical tile is missing (R411, R412). -/
theorem mapOut_of_noSpare {s : State} {t l : Nat} (h : tileState s t < 2) (hl : logicalOf s t = some l) (hsp : spareFor s t = none) :
    (mapOut s t).2 = (0xFF, true) ∧ (mapOut s t).1.rel.replace = true ∧ physTile (mapOut s t).1 l = 0xFF := by
  rw [mapOut_eq h, numberLost_of_logicalOf hl, hsp]
  refine ⟨rfl, ?_, ?_⟩
  · simp only [Option.elim, replaceRise_rel]
  · simp only [Option.elim, physTile, replaceRise_rel, post_rel]
    exact tab_getD_put_self _ _ _ _

theorem mapOut_of_spareFor {s : State} {t l sp : Nat} (h : tileState s t < 2) (hl : logicalOf s t = some l) (hsp : spareFor s t = some sp) :
    (mapOut s t).2 = (sp, false) := by
  rw [mapOut_eq h, numberLost_of_logicalOf hl, hsp]
  rfl

/-- A tile without a number that no substitution waits for leaves TILE_MAP as it is. -/
theorem mapOut_of_unnumbered {s : State} {t : Nat} (h : tileState s t < 2) (hl : logicalOf s t = none)
    (hp : s.rel.subst.any (fun y => y.2 == t) = false) : (mapOut s t).2 = (0xFF, false) ∧ (mapOut s t).1.rel.map = s.rel.map := by
  rw [mapOut_eq h, numberLost_of_spare hl hp]
  refine ⟨rfl, ?_⟩
  simp only [Option.elim, post_rel]
  rfl

/-! ## The command (R409) -/

theorem exec_tileMapout {s : State} {i : Inst} (h : Due s 9 0x14 i) : exec .tileMapout s = .next (tileMapoutAct s i) := by
  change execTileMapout s = _
  rw [execTileMapout, cmdRow_due h]

theorem tileMapoutAct_refused {s : State} {i : Inst} (h : 2 ≤ tileState s (fld (i.arg 0) 5 0)) :
    Ends s i none Code.limitRange 0 0 (tileMapoutAct s i) := by
  unfold tileMapoutAct
  rw [if_pos h]
  exact refuse_ends _ _ _ _

/-- The command ends with what the map-out answers. -/
theorem tileMapoutAct_ends {s : State} {i : Inst} {sp : Nat} {missing : Bool} (h : tileState s (fld (i.arg 0) 5 0) < 2)
    (hout : (mapOut s (fld (i.arg 0) 5 0)).2 = (sp, missing)) :
    Ends (mapOut s (fld (i.arg 0) 5 0)).1 i none (if missing then Code.noSpare else Code.ok) (w64 sp) 0 (tileMapoutAct s i) := by
  unfold tileMapoutAct
  dsimp only
  have hall : mapOut s (fld (i.arg 0) 5 0) = ((mapOut s (fld (i.arg 0) 5 0)).1, sp, missing) := Prod.ext rfl hout
  rw [if_neg (Nat.not_le.mpr h), hall]
  exact finish_ends _ _ _ _ _ _

/-- Settles O45: the map-out goes by the number that its tile loses and the spare found, and the command ends with its answer. -/
theorem tileMapOut : Obligations.TileMapOut := by
  unfold Obligations.TileMapOut
  rintro s i _ hdue rfl
  refine ⟨_, exec_tileMapout hdue, tileMapoutAct_refused, fun h => ?_⟩
  obtain ⟨hstate, hothers, hcounted⟩ := mappedOut_mapOut h
  refine ⟨_, hstate, hothers, hcounted, fun hl hsp => ?_, fun sp hl hsp => ?_, fun hl hp => ?_⟩
  · obtain ⟨l, hl⟩ := Option.isSome_iff_exists.mp hl
    obtain ⟨hout, hreplace, hphys⟩ := mapOut_of_noSpare h hl hsp
    refine ⟨tileMapoutAct_ends h hout, hreplace, fun k hk => ?_⟩
    obtain rfl : l = k := Option.some.inj (hl.symm.trans hk)
    exact hphys
  · obtain ⟨l, hl⟩ := Option.isSome_iff_exists.mp hl
    exact tileMapoutAct_ends h (mapOut_of_spareFor h hl hsp)
  · obtain ⟨hout, hmap⟩ := mapOut_of_unnumbered h hl hp
    exact ⟨tileMapoutAct_ends h hout, hmap⟩

end Sys2Proof.Machine
end

section
/-! PROOF. TEST_MODE: what its rise leaves, that a held block then answers PRST_N, TEST_MODE and the TAP alone, and that the
next hard reset ends it (R418, R387). -/

namespace Sys2Proof.Machine

/-! ## A held block -/

section
variable {s : State} (h : held s = true)
include h

theorem ite_held_or (b : Bool) (t : State) : (if held s || b then s else t) = s := if_pos (by simp [h])

theorem ite_held_or_or (a b : Bool) (t : State) : (if held s || a || b then s else t) = s := if_pos (by simp [h])

theorem otpRow_held (c : Nat) (f) : otpRow s c f = s := by simp [otpRow, cmdRowIf_held h]

theorem slotDoorbell_held (p be n : Nat) (w : W64) (go) : (if 8 ≤ p then s else doorbell s be n w go) = s := by
  rw [doorbell_held h, ite_self]

theorem cccRow_held (f : I3c → I3c) : cccRow s f = .next s := congrArg _ (if_pos h)

theorem eltwise_held (q w op : Nat) (useB useC : Bool) (k : ResKind) (slow : Bool) (f) :
    eltwise s q w op useB useC k slow f = s := by
  rw [eltwise, issueWord_held h]

theorem execSetdasa_held (saddr addr : Nat) : execSetdasa saddr addr s = .next s := by
  rw [execSetdasa, cccRow_held h, ite_self]

theorem execFwLoad_held : execFwLoad s = .next s := by
  rw [execFwLoad, cmdRow_held h, ite_self]

theorem execSoftReloadWork_held : execSoftReloadWork s = .next s := by
  unfold execSoftReloadWork
  cases s.boot.reload with
  | none => rfl
  | some r => exact congrArg _ (ite_held_or_or h _ _ _)

/-- Each row that is neither PRST_N, TEST_MODE nor the TAP asks first, by the operation that it shares with its like, whether
the block is held. -/
theorem exec_of_held {c : Instr} (hc : reachesHeld c = false) : exec c s = .next s := by
  cases c with
  | hardReset | resetRelease | testModeRise | testModeFall | idcode | bypass | ijtag | scan => cases hc
  -- the commands of the dictionary, and the ends of their checks
  | adptLoad | adptUnload | tblDefine | tblDrop | poolDef | trowPut | trowFlip | objAlloc | objFree | flFormat | trainAttach
  | trainDetach | trainSweep | trainDiscard | exportSnap | planLoad | planUnload | partStart | partQuiesce | partClamp
  | resetPart | ctxRebind | manSubmit | bdlOpen | bdlCommit | bdlAbort | cntClear | fwSwitch | fwRevert | tileMapout
  | resetSoft | replayRun => exact congrArg _ (cmdRow_held h _ _ _)
  | objMove | objMoveCancel | publishImage | publishThawed => exact congrArg _ (cmdRowIf_held h _ _ _ _)
  | adptLoadChecksEnd | trowPutCopyEnd | fwLoadEnd => exact congrArg _ (endRow_held h _ _ _ _ _)
  | otpSeal | otpVoid => exact congrArg _ (otpRow_held h _ _)
  | fwLoad => exact execFwLoad_held h
  | softReloadWork => exact execSoftReloadWork_held h
  -- the Control Port
  | read | write | writeB => exact congrArg _ (opRow_held h _ _ _)
  | rqDb | cqDb | expDb => exact congrArg _ (slotDoorbell_held h _ _ _ _ _)
  | evDb => exact congrArg _ (doorbell_held h _ _ _ _)
  | slotLookup | nodeLookup | pageLookup | maskLookup => exact congrArg _ (lookup_held h _ _ _)
  -- the Element Engine
  | add | sub | mul | div | sqrt | min | max | abs | neg | cmplt | cmple | cmpeq | sel | iadd | isub | imul | and | or | xor
  | shl | shr | sar | imin | imax | mov => exact congrArg _ (eltwise_held h _ _ _ _ _ _ _ _)
  | endSeg | setlen | sig | fence | sxset | sxget | cvt | red | lda | ldl | stl | lds | sts | xld | xst | scl =>
    exact congrArg _ (issueWord_held h _ _ _ _ _ _)
  | segmentStart => exact congrArg _ (startSegment_held h _ _)
  | segmentPush | sxCoreWrite => exact if_pos (by simp [h])
  -- I3C
  | entdaa | rstdaa | enec | disec | setmwl | setmrl => exact congrArg _ (if_pos h)
  | getpid | getbcr | getdcr | getmwl | getmrl => exact congrArg _ (ite_held_or h _ _)
  | setdasa => exact execSetdasa_held h _ _
  | getstatus => exact if_pos (by simp [h])
  -- what firmware that runs answers
  | watchdogExpiry | watchdogHalf | watchdogWrite | fifoStallTimeout | apertureAccess =>
    exact congrArg _ (if_neg (by simp [fwAlive_held h]))
  | knownAnswerTest => exact congrArg _ (katEnd_held h _ _)
  -- the rows that begin with the question itself
  | foldBackEnd | moveCopyEnd | publishReadBack | flashProgramDone | flashEraseDone | gcReclaim | wearLevel | fenceBreak
  | weightGradientPhase | updatePass1 | updateItem | clampSaveEnd | restoreEnd | urgentTimer | epilogueRequest | xpReadData
  | xpWriteAccept | weightBlockEnd | kindlingStart | dirtyWriteBack | holdCeiling | newReq | append | pause | cancel
  | emberAfter | emberExpiry | emberPageCopyEnd | adoptionCopyEnd | odstsRead | registerWrite | otpWo1Write
  | intStatusClear | errorScoreHalving | todSample | replayEnd | fifoPop | rstact | partitionBlocked | bucketRefill
  | transferEnd | mpRequestAccept | mpReadResponse | mpWriteAck | replyLifetimeExpiry | quarantineExpiry | lrbExpiry
  | flashReadDone | lunLost => exact congrArg _ (if_pos h)
  | checkpoint | zqShort | restoreStart | panelRecord | posRecord | outcomeRecord | bundleExpired | eventIrqTimer
  | spareSubstitution | scrubPeriod | mapRebuildEnd | flashMountEnd | bringupStageEnd | cccNack | sidebandWriteFrame
  | sidebandReadFrame | sketchAgeing => exact congrArg _ (ite_held_or h _ _)
  | readDisturbRelocate | fwRestartEnd | pllLock | mpInitAck => exact congrArg _ (ite_held_or_or h _ _ _)

end

/-! ## TEST_MODE rises and falls -/

/-- The state that a rise of TEST_MODE leads to (`exec_testModeRise`): that of a hard reset, but for the inputs that hold the block. -/
def testModeState (s : State) : State :=
  { hardResetState s with boot := { prstLow := s.boot.prstLow, testMode := true, testHeld := s.boot.testHeld } }

/-- The state that a fall of TEST_MODE leads to (`exec_testModeFall`). -/
def testFallState (s : State) : State :=
  { s with boot := { s.boot with testMode := false, testHeld := !s.boot.prstLow } }

theorem exec_testModeRise {s : State} (h : s.boot.testMode = false) : exec .testModeRise s = .next (testModeState s) := by
  have hboot : (afterReset s).boot =
      { prstLow := s.boot.prstLow, testMode := s.boot.testMode, testHeld := s.boot.testHeld } := by
    simp [afterReset]
  change Host.Outcome.next (testRise s) = _
  rw [testRise, if_neg (by simp [h])]
  dsimp only
  rw [hboot]
  rfl

theorem exec_testModeFall {s : State} (h : s.boot.testMode = true) : exec .testModeFall s = .next (testFallState s) :=
  congrArg _ (if_pos h)

theorem held_testModeState (s : State) : held (testModeState s) = true := by simp [held, testModeState]

/-- Where PRST_N is not low by then, the fall itself is remembered. -/
theorem held_testFallState (s : State) : held (testFallState s) = true := by simp [held, testFallState]

theorem exec_scan_of_testMode_low {s : State} (h : s.boot.testMode = false) :
    exec .scan s = .next { s with dbg := { s.dbg with ir := 0x20 } } :=
  congrArg _ (if_neg (by simp [h]))

/-- A hard reset ends the hold where TEST_MODE is low. -/
theorem hardReset_release {s : State} (h : s.boot.testMode = false) :
    ∃ v x, exec .hardReset s = .next v ∧ exec .resetRelease v = .next x ∧ held x = false := by
  have hlow : (hardResetState s).boot.prstLow = true := by rw [hardResetState_boot]
  refine ⟨_, _, exec_hardReset s, exec_resetRelease_of_prstLow hlow, ?_⟩
  simp [held, hardResetState_boot, h]

/-- Settles O28: the rise leaves the state of a hard reset and a held block, the fall keeps it held, and a hard reset ends it. -/
theorem testModeHolds : Obligations.TestModeHolds := by
  unfold Obligations.TestModeHolds
  intro s htest hprog
  have ht := held_testModeState s
  have hu := held_testFallState (testModeState s)
  exact ⟨testModeState s, testFallState (testModeState s), exec_testModeRise htest, exec_testModeFall rfl,
    rfl, rfl, rfl, rfl, hardResetState_mem s, hardResetState_otp_bytes hprog, ht, fun _ => exec_of_held ht,
    exec_scan_of_testMode_low htest, rfl, hu, fun _ => exec_of_held hu, hardReset_release rfl⟩

end Sys2Proof.Machine
end

section
/-! PROOF. What every step does: it takes the front command, answers a state, and keeps the invariant and every programmed bit
of OTP (R3, R393). -/

namespace Sys2Proof.Machine

/-! ## What every command keeps -/

/-- Every meaning keeps what `Keeps` says: the table of the lemmas for the rows, arm by arm of the dispatch. -/
theorem keeps_exec {c : Instr} {s t : State} (h : exec c s = .next t) : Keeps s t := by
  have hs := Keeps.refl s
  cases c with
  | resetSoft => exact keeps_execResetSoft hs h
  | softReloadWork => exact keeps_execSoftReloadWork hs h
  | resetPart => exact keeps_execResetPart hs h
  | bdlOpen => exact keeps_execBdlOpen hs h
  | bdlCommit => exact keeps_execBdlCommit hs h
  | bdlAbort => exact keeps_execBdlAbort hs h
  | bundleExpired => exact keeps_execBundleExpired hs _ h
  | fwLoad => exact keeps_execFwLoad hs h
  | fwLoadEnd => exact keeps_execFwLoadEnd hs _ h
  | fwSwitch => exact keeps_execFwSwitch hs h
  | fwRevert => exact keeps_execFwRevert hs h
  | objAlloc => exact keeps_execObjAlloc hs h
  | objFree => exact keeps_execObjFree hs h
  | objMove => exact keeps_execObjMove hs h
  | objMoveCancel => exact keeps_execObjMoveCancel hs h
  | moveCopyEnd => exact keeps_execMoveCopyEnd hs _ _ _ _ h
  | publishImage => exact keeps_execPublishImage hs h
  | publishThawed => exact keeps_execPublishThawed hs h
  | publishReadBack => exact keeps_execPublishReadBack hs _ _ h
  | flFormat => exact keeps_execFlFormat hs h
  | adptLoad => exact keeps_execAdptLoad hs h
  | adptLoadChecksEnd => exact keeps_execAdptLoadChecksEnd hs _ h
  | adptUnload => exact keeps_execAdptUnload hs h
  | ctxRebind => exact keeps_execCtxRebind hs h
  | tblDefine => exact keeps_execTblDefine hs h
  | tblDrop => exact keeps_execTblDrop hs h
  | poolDef => exact keeps_execPoolDef hs h
  | trowPut => exact keeps_execTrowPut hs h
  | trowPutCopyEnd => exact keeps_execTrowPutCopyEnd hs _ _ h
  | trowFlip => exact keeps_execTrowFlip hs h
  | foldBackEnd => exact keeps_execFoldBackEnd hs _ _ _ _ h
  | trainAttach => exact keeps_execTrainAttach hs h
  | trainDetach => exact keeps_execTrainDetach hs h
  | trainSweep => exact keeps_execTrainSweep hs h
  | trainDiscard => exact keeps_execTrainDiscard hs h
  | exportSnap => exact keeps_execExportSnap hs h
  | manSubmit => exact keeps_execManSubmit hs h
  | planLoad => exact keeps_execPlanLoad hs _ h
  | planUnload => exact keeps_execPlanUnload hs h
  | partStart => exact keeps_execPartStart hs h
  | partQuiesce => exact keeps_execPartQuiesce hs h
  | partClamp => exact keeps_execPartClamp hs h
  | tileMapout => exact keeps_execTileMapout hs h
  | cntClear => exact keeps_execCntClear hs h
  | replayRun => exact keeps_execReplayRun hs h
  | replayEnd => exact keeps_execReplayEnd hs h
  | otpSeal => exact keeps_execOtpSeal hs h
  | otpVoid => exact keeps_execOtpVoid hs h
  | otpWo1Write => exact keeps_execOtpWo1Write hs _ _ h
  | read => exact keeps_execRead hs _ _ h
  | write => exact keeps_execWrite hs _ _ h
  | writeB => exact keeps_execWriteB hs _ _ h
  | odstsRead => exact keeps_execOdstsRead hs _ h
  | registerWrite => exact keeps_execRegisterWrite hs _ _ _ _ h
  | rqDb => exact keeps_execRqDb hs _ _ _ h
  | cqDb => exact keeps_execCqDb hs _ _ _ h
  | expDb => exact keeps_execExpDb hs _ _ _ h
  | evDb => exact keeps_execEvDb hs _ _ h
  | watchdogWrite w => exact keeps_execWatchdogWrite hs w h
  | intStatusClear => exact keeps_execIntStatusClear hs _ h
  | segmentPush => exact keeps_execSegmentPush hs _ _ _ _ h
  | fifoPop => exact keeps_execFifoPop hs _ _ h
  | sxCoreWrite => exact keeps_execSxCoreWrite hs _ _ _ _ h
  | apertureAccess => exact keeps_execApertureAccess hs _ _ _ h
  | sidebandWriteFrame => exact keeps_execSidebandWriteFrame hs _ h
  | sidebandReadFrame => exact keeps_execSidebandReadFrame hs h
  | entdaa => exact keeps_execEntdaa hs _ h
  | setdasa => exact keeps_execSetdasa hs _ _ h
  | rstdaa => exact keeps_execRstdaa hs h
  | enec => exact keeps_execEnec hs _ h
  | disec => exact keeps_execDisec hs _ h
  | getpid => exact keeps_execGetpid hs h
  | getbcr => exact keeps_execGetbcr hs h
  | getdcr => exact keeps_execGetdcr hs h
  | getstatus => exact keeps_execGetstatus hs h
  | setmwl => exact keeps_execSetmwl hs _ h
  | getmwl => exact keeps_execGetmwl hs h
  | setmrl => exact keeps_execSetmrl hs _ h
  | getmrl => exact keeps_execGetmrl hs h
  | rstact => exact keeps_execRstact hs _ h
  | cccNack => exact keeps_execCccNack hs _ h
  | idcode => exact keeps_execIdcode hs h
  | ijtag => exact keeps_execIjtag hs _ _ _ h
  | scan => exact keeps_execScan hs h
  | bypass => exact keeps_execBypass hs h
  | testModeRise => exact keeps_execTestModeRise hs h
  | testModeFall => exact keeps_execTestModeFall hs h
  | hardReset => exact keeps_execHardReset hs h
  | resetRelease => exact keeps_execResetRelease hs h
  | pllLock => exact keeps_execPllLock hs _ h
  | bringupStageEnd => exact keeps_execBringupStageEnd hs _ _ h
  | mapRebuildEnd => exact keeps_execMapRebuildEnd hs h
  | mpInitAck => exact keeps_execMpInitAck hs _ h
  | panelRecord => exact keeps_execPanelRecord hs _ _ _ h
  | posRecord => exact keeps_execPosRecord hs _ _ h
  | outcomeRecord => exact keeps_execOutcomeRecord hs _ _ _ h
  | epilogueRequest => exact keeps_execEpilogueRequest hs _ h
  | xpReadData => exact keeps_execXpReadData hs _ h
  | xpWriteAccept => exact keeps_execXpWriteAccept hs h
  | emberAfter => exact keeps_execEmberAfter hs _ _ h
  | emberExpiry => exact keeps_execEmberExpiry hs _ _ h
  | emberPageCopyEnd => exact keeps_execEmberPageCopyEnd hs _ _ h
  | adoptionCopyEnd => exact keeps_execAdoptionCopyEnd hs _ _ h
  | newReq => exact keeps_execNewReq hs _ h
  | append => exact keeps_execAppend hs _ h
  | pause => exact keeps_execPause hs _ h
  | cancel => exact keeps_execCancel hs _ h
  | mpReadResponse => exact keeps_execMpReadResponse hs _ _ _ _ h
  | mpWriteAck => exact keeps_execMpWriteAck hs _ _ _ h
  | replyLifetimeExpiry => exact keeps_execReplyLifetimeExpiry hs _ _ h
  | quarantineExpiry => exact keeps_execQuarantineExpiry hs _ _ h
  | lrbExpiry => exact keeps_execLrbExpiry hs _ _ h
  | slotLookup => exact keeps_execSlotLookup hs _ h
  | nodeLookup => exact keeps_execNodeLookup hs _ h
  | pageLookup => exact keeps_execPageLookup hs _ h
  | maskLookup => exact keeps_execMaskLookup hs _ h
  | todSample => exact keeps_execTodSample hs _ _ _ h
  | flashReadDone => exact keeps_execFlashReadDone hs _ _ _ _ _ h
  | flashProgramDone => exact keeps_execFlashProgramDone hs _ _ _ _ _ h
  | flashEraseDone => exact keeps_execFlashEraseDone hs _ _ _ _ _ h
  | checkpoint => exact keeps_execCheckpoint hs h
  | gcReclaim => exact keeps_execGcReclaim hs _ _ _ h
  | wearLevel => exact keeps_execWearLevel hs h
  | readDisturbRelocate => exact keeps_execReadDisturbRelocate hs _ _ _ _ h
  | fenceBreak => exact keeps_execFenceBreak hs _ _ _ h
  | zqShort => exact keeps_execZqShort hs h
  | lunLost => exact keeps_execLunLost hs _ _ _ h
  | kindlingStart => exact keeps_execKindlingStart hs _ h
  | dirtyWriteBack => exact keeps_execDirtyWriteBack hs _ _ h
  | weightBlockEnd => exact keeps_execWeightBlockEnd hs _ _ _ _ h
  | spareSubstitution => exact keeps_execSpareSubstitution hs _ h
  | holdCeiling => exact keeps_execHoldCeiling hs _ h
  | urgentTimer => exact keeps_execUrgentTimer hs _ h
  | clampSaveEnd => exact keeps_execClampSaveEnd hs _ h
  | restoreStart => exact keeps_execRestoreStart hs h
  | restoreEnd => exact keeps_execRestoreEnd hs _ h
  | partitionBlocked => exact keeps_execPartitionBlocked hs _ h
  | weightGradientPhase => exact keeps_execWeightGradientPhase hs _ _ h
  | updatePass1 => exact keeps_execUpdatePass1 hs _ _ h
  | updateItem => exact keeps_execUpdateItem hs _ h
  | segmentStart => exact keeps_execSegmentStart hs _ _ h
  | endSeg => exact keeps_execEndSeg hs _ _ h
  | setlen => exact keeps_execSetlen hs _ _ h
  | sig => exact keeps_execSig hs _ _ h
  | fence => exact keeps_execFence hs _ _ h
  | sxset => exact keeps_execSxset hs _ _ h
  | sxget => exact keeps_execSxget hs _ _ h
  | add => exact keeps_execAdd hs _ _ h
  | sub => exact keeps_execSub hs _ _ h
  | mul => exact keeps_execMul hs _ _ h
  | div => exact keeps_execDiv hs _ _ h
  | sqrt => exact keeps_execSqrt hs _ _ h
  | min => exact keeps_execMin hs _ _ h
  | max => exact keeps_execMax hs _ _ h
  | abs => exact keeps_execAbs hs _ _ h
  | neg => exact keeps_execNeg hs _ _ h
  | cmplt => exact keeps_execCmplt hs _ _ h
  | cmple => exact keeps_execCmple hs _ _ h
  | cmpeq => exact keeps_execCmpeq hs _ _ h
  | sel => exact keeps_execSel hs _ _ h
  | iadd => exact keeps_execIadd hs _ _ h
  | isub => exact keeps_execIsub hs _ _ h
  | imul => exact keeps_execImul hs _ _ h
  | and => exact keeps_execAnd hs _ _ h
  | or => exact keeps_execOr hs _ _ h
  | xor => exact keeps_execXor hs _ _ h
  | shl => exact keeps_execShl hs _ _ h
  | shr => exact keeps_execShr hs _ _ h
  | sar => exact keeps_execSar hs _ _ h
  | imin => exact keeps_execImin hs _ _ h
  | imax => exact keeps_execImax hs _ _ h
  | mov => exact keeps_execMov hs _ _ h
  | cvt => exact keeps_execCvt hs _ _ h
  | red => exact keeps_execRed hs _ _ h
  | lda => exact keeps_execLda hs _ _ h
  | ldl => exact keeps_execLdl hs _ _ h
  | stl => exact keeps_execStl hs _ _ h
  | lds => exact keeps_execLds hs _ _ h
  | sts => exact keeps_execSts hs _ _ h
  | xld => exact keeps_execXld hs _ _ h
  | xst => exact keeps_execXst hs _ _ h
  | scl => exact keeps_execScl hs _ _ h
  | transferEnd => exact keeps_execTransferEnd hs _ _ _ h
  | watchdogExpiry => exact keeps_execWatchdogExpiry hs _ h
  | watchdogHalf => exact keeps_execWatchdogHalf hs h
  | eventIrqTimer => exact keeps_execEventIrqTimer hs h
  | scrubPeriod => exact keeps_execScrubPeriod hs _ h
  | errorScoreHalving => exact keeps_execErrorScoreHalving hs h
  | knownAnswerTest => exact keeps_execKnownAnswerTest hs _ _ h
  | sketchAgeing => exact keeps_execSketchAgeing hs h
  | flashMountEnd => exact keeps_execFlashMountEnd hs _ _ _ h
  | fwRestartEnd => exact keeps_execFwRestartEnd hs h
  | bucketRefill => exact keeps_execBucketRefill hs h
  | mpRequestAccept => exact keeps_execMpRequestAccept hs _ h
  | fifoStallTimeout => exact keeps_execFifoStallTimeout hs _ h

/-! ## No command stops -/

/-- Every meaning answers a state: most are `.next` of one as they stand, the rest choose between two such answers. -/
theorem exec_answers (c : Instr) (s : State) : ∃ t, exec c s = .next t := by
  cases c with
  | segmentPush q p w0 w1 =>
    change ∃ t, execSegmentPush q p w0 w1 s = .next t
    unfold execSegmentPush
    dsimp only
    repeat' split
    all_goals exact ⟨_, rfl⟩
  | sxCoreWrite q p n w =>
    change ∃ t, execSxCoreWrite q p n w s = .next t
    unfold execSxCoreWrite
    dsimp only
    repeat' split
    all_goals exact ⟨_, rfl⟩
  | setdasa saddr addr =>
    change ∃ t, execSetdasa saddr addr s = .next t
    unfold execSetdasa
    split <;> exact ⟨_, rfl⟩
  | getstatus =>
    change ∃ t, execGetstatus s = .next t
    unfold execGetstatus
    split <;> exact ⟨_, rfl⟩
  | _ => exact ⟨_, rfl⟩

/-! ## Steps -/

theorem step_idle {s : State} (h : s.pending = []) : step s = .next s := by
  unfold step; rw [h]

theorem step_front {s : State} {c : Instr} {rest : List Instr} (h : s.pending = c :: rest) :
    step s = exec c { s with pending := rest } := by
  unfold step; rw [h]

theorem step_answers (s : State) : ∃ t, step s = .next t := by
  cases h : s.pending with
  | nil => exact ⟨s, step_idle h⟩
  | cons c rest =>
    rw [step_front h]
    exact exec_answers _ _

theorem run_succ_of_step {M : Host.Core} {s u : M.State} (k : Nat) (h : M.step s = .next u) : M.run (k + 1) s = M.run k u := by
  rw [Host.Core.run, h]

/-- A step idles, or its front command takes the state with the queue's rest to a state that keeps all that `Keeps` says. -/
theorem step_cases {s t : State} (h : step s = .next t) :
    t = s ∨ ∃ c rest, s.pending = c :: rest ∧ Keeps { s with pending := rest } t := by
  cases hp : s.pending with
  | nil =>
    rw [step_idle hp] at h
    exact .inl (Host.Outcome.next.inj h).symm
  | cons c rest =>
    rw [step_front hp] at h
    exact .inr ⟨c, rest, rfl, keeps_exec h⟩

theorem inv_of_keeps {s t : State} (h : Inv s) (k : Keeps s t) : Inv t where
  mem := k.mem h.mem
  cnt := k.cnt h.cnt
  otp := k.otp h.otp
  parts := k.parts h.parts
  ctxs := k.ctxs h.ctxs

/-- The invariant does not speak of the queue. -/
theorem inv_pending {s : State} (h : Inv s) (l : List Instr) : Inv { s with pending := l } :=
  ⟨h.mem, h.cnt, h.otp, h.parts, h.ctxs⟩

/-! ## The statements -/

/-- Settles O5: the front command keeps every part of the invariant. -/
theorem stepKeepsInv : Obligations.StepKeepsInv := by
  unfold Obligations.StepKeepsInv
  intro s t hs h
  obtain rfl | ⟨_, rest, -, hk⟩ := step_cases h
  · exact hs
  · exact inv_of_keeps (inv_pending hs rest) hk

/-- Settles O6: the front command only raises bits of OTP. -/
theorem otpBitsOnlyRise : Obligations.OtpBitsOnlyRise := by
  unfold Obligations.OtpBitsOnlyRise
  intro s t h k
  obtain rfl | ⟨_, _, -, hk⟩ := step_cases h
  · exact Rises.refl _
  · exact hk.rises k

/-- Settles O2, by induction on the number of steps. -/
theorem noRunStops : Obligations.NoRunStops := by
  unfold Obligations.NoRunStops
  intro k
  induction k with
  | zero => exact fun s => ⟨s, rfl⟩
  | succ k ih =>
    intro s
    obtain ⟨u, hu⟩ := step_answers s
    obtain ⟨t, ht⟩ := ih u
    exact ⟨t, (run_succ_of_step k hu).trans ht⟩

/-- Settles O3: the front command leaves the queue's rest and what is built as they are. -/
theorem stepConsumesFront : Obligations.StepConsumesFront := by
  unfold Obligations.StepConsumesFront
  refine ⟨fun c rest s t hp h => ?_, fun s hp => step_idle hp⟩
  rw [step_front hp] at h
  have hk := keeps_exec h
  exact ⟨hk.pending, hk.built, hk.silicon⟩

/-- Settles O1. -/
theorem stepRunsFront : Obligations.StepRunsFront := by
  unfold Obligations.StepRunsFront
  exact fun _ _ _ => step_front rfl

/-- Settles O4. -/
theorem resetHasInv : Obligations.ResetHasInv := reset_inv

/-- Settles O7: `exec_of_held` for every held state. -/
theorem heldBlockIgnores : Obligations.HeldBlockIgnores := by
  unfold Obligations.HeldBlockIgnores
  exact fun _ _ h hc => exec_of_held h hc

end Sys2Proof.Machine
end

section
/-! PROOF. Operations of the object dictionary: what READ, WRITE and WRITE_B answer, what an accepted value changes, and the
issue of a command (R316 to R331, R341). -/

namespace Sys2Proof.Machine

/-! ## READ -/

theorem mayAccess_read_cmd {o : Obj} (path : Path) (h : o.right = .cmd) : mayAccess path o .read = Code.noRight := by
  unfold mayAccess; rw [h]

theorem mayAccess_read {o : Obj} (path : Path) (h : o.right ≠ .cmd) : mayAccess path o .read = Code.ok := by
  unfold mayAccess
  cases hr : o.right with
  | cmd => exact absurd hr h
  | ro | rw | rws | rwq | rwb | wo1 => rfl

theorem opRead_cmd {o : Obj} (s : State) (path : Path) (x : Nat) (h : o.right = .cmd) :
    opRead s path o x = { code := Code.noRight } := by
  unfold opRead
  rw [mayAccess_read_cmd path h]
  rfl

theorem opRead_value {o : Obj} (s : State) (path : Path) (x : Nat) (h : o.right ≠ .cmd) {ws : List W64}
    (hws : ws = if outside s o.ix x || !ownerThere s (ownerOf o.ix x) then absentRead s o x else readObj s o x) :
    opRead s path o x = { code := Code.ok, pend := pendFlag s o x, rlen := ws.length - 1, dat := some ws } := by
  unfold opRead
  rw [mayAccess_read path h, hws]
  rfl

theorem opRead_prog (s : State) (path : Path) (o : Obj) (x : Nat) : (opRead s path o x).prog = false := by
  unfold opRead
  dsimp only
  split <;> rfl

theorem read_answered {s : State} {path : Path} {w : W64} {o : Obj} {x : Nat} (hf : OpFree s path w) (hn : Names s path o x)
    (ho : cmdOp w = 1) : Answered (served s path w) path w (opRead (served s path w) path o x) (opRow 1 path w s) :=
  opRow_ends hf ho (by rw [opDo_names hn ho (by decide) (by decide), if_pos rfl]) (opRead_prog _ _ _ _)

/-- Settles O8, by the right of the object. -/
theorem readAnswers : Obligations.ReadAnswers := by
  unfold Obligations.ReadAnswers
  intro path w s o x hf ho hn
  have hr := read_answered hf hn ho
  refine ⟨_, rfl, fun hc => ?_, fun hc => ⟨_, rfl, ?_⟩⟩
  · rwa [opRead_cmd _ _ _ hc] at hr
  · rwa [opRead_value _ _ _ hc rfl, outside_served, there_served, pendFlag_served] at hr

/-! ## WRITE of an object that is no command -/

section
variable {u : State} {path : Path} {o : Obj} {x len : Nat} {w v : W64}

theorem opWrite_noAccess (h : mayAccess path o .write ≠ Code.ok) :
    opWrite u path o x len w = ({ code := mayAccess path o .write }, u) := by
  unfold opWrite
  exact if_pos h

variable (ha : mayAccess path o .write = Code.ok) (hv : v = liveBits o w)
include ha hv

theorem opWrite_notAdmitted (h : admitWrite u o x len v ≠ Code.ok) :
    opWrite u path o x len w = ({ code := admitWrite u o x len v }, u) := by
  subst hv
  unfold opWrite
  dsimp only
  rw [ha]
  exact if_pos h

variable (hw : admitWrite u o x len v = Code.ok)
include hw

theorem opWrite_admitted : opWrite u path o x len w =
    if o.right = .wo1 then (wo1Check u o.item x, u)
    else if (if o.area = 7 && o.item = 0x50 then shareFits u x v.toNat else Code.ok) ≠ 0 then
      ({ code := if o.area = 7 && o.item = 0x50 then shareFits u x v.toNat else Code.ok }, u)
    else ({ code := Code.ok, pend := pendFlag (written (acceptVal u o x v) o x) o x }, written (acceptVal u o x v) o x) := by
  subst hv
  unfold opWrite
  dsimp only
  rw [ha, hw]
  rfl

theorem opWrite_wo1 (h : o.right = .wo1) : opWrite u path o x len w = (wo1Check u o.item x, u) := by
  rw [opWrite_admitted ha hv hw, if_pos h]

theorem opWrite_shareShort (h : o.right ≠ .wo1) (hs : o.area = 7 ∧ o.item = 0x50) (hc : shareFits u x v.toNat ≠ Code.ok) :
    opWrite u path o x len w = ({ code := shareFits u x v.toNat }, u) := by
  rw [opWrite_admitted ha hv hw, if_neg h]
  simp only [hs.1, hs.2, decide_true, Bool.and_self, if_true]
  exact if_pos hc

theorem opWrite_accepted (h : o.right ≠ .wo1) (hs : o.area = 7 ∧ o.item = 0x50 → shareFits u x v.toNat = Code.ok) :
    opWrite u path o x len w =
      ({ code := Code.ok, pend := pendFlag (written (acceptVal u o x v) o x) o x }, written (acceptVal u o x v) o x) := by
  have hc : (if o.area = 7 && o.item = 0x50 then shareFits u x v.toNat else Code.ok) = Code.ok := by
    split
    · next h7 => exact hs (by simpa using h7)
    · rfl
  rw [opWrite_admitted ha hv hw, if_neg h, hc]
  rfl

end

theorem opDo_write {s : State} {path : Path} {w : W64} {o : Obj} {x : Nat} (hn : Names s path o x) (ho : cmdOp w = 2) (hc : o.right ≠ .cmd) :
    opDo (served s path w) path w = opWrite (served s path w) path o x (cmdLen w) ((regsOf s path).dat.getD 0 0) := by
  rw [opDo_names hn ho (by decide) (by decide), if_neg (by decide), if_neg (by decide), if_neg hc]

theorem wo1Check_refused {s : State} {item x : Nat} (h : (wo1Check s item x).prog = false) :
    wo1Check s item x = { code := (wo1Check s item x).code } := by
  unfold wo1Check at h ⊢
  dsimp only at h ⊢
  split
  · rfl
  · next h1 =>
    rw [if_neg h1] at h
    split
    · rfl
    · next h2 => rw [if_neg h2] at h; cases h

/-- A write-once write past its checks begins to program. -/
theorem opRow_programs {s u : State} {path : Path} {w : W64} {op : Nat} {y : OpRes} (h : OpFree s path w) (ho : cmdOp w = op)
    (hd : opDo (served s path w) path w = (y, u)) (hp : y.prog = true) :
    opRow op path w s = setRegs u path { regsOf u path with busy := some w, prog := true } := by
  rw [opRow_free h ho, hd]
  exact if_pos hp

/-- Settles O9: `opWrite` by the first check that it fails. -/
theorem writeAnswers : Obligations.WriteAnswers := by
  unfold Obligations.WriteAnswers
  intro path w s o x hf ho hn hc
  have hd := opDo_write hn ho hc
  refine ⟨_, _, _, rfl, rfl, rfl, fun h => ?_, fun ha h => ?_, fun ha hw h hp => ?_, fun ha hw h hp => ?_, fun ha hw h hs hc => ?_,
    fun ha hw h hs => ?_⟩
  · exact opRow_ends hf ho (hd.trans (opWrite_noAccess h)) rfl
  · exact opRow_ends hf ho (hd.trans (opWrite_notAdmitted ha rfl h)) rfl
  · have he := opRow_ends hf ho (hd.trans (opWrite_wo1 ha rfl hw h)) hp
    rwa [wo1Check_refused hp] at he
  · exact opRow_programs hf ho (hd.trans (opWrite_wo1 ha rfl hw h)) hp
  · exact opRow_ends hf ho (hd.trans (opWrite_shareShort ha rfl hw h hs hc)) rfl
  · exact opRow_ends hf ho (hd.trans (opWrite_accepted ha rfl hw h hs)) rfl

/-! ## Accepted values (R319, R321) -/

/-- The pending value that an acceptance leaves behind: the value before it, which waits as `kind` says. -/
def pendingOld (s : State) (o : Obj) (x : Nat) (kind : PendKind) : PendVal :=
  { area := o.area, item := o.item, index := x, old := lastVal s o.area o.item x, kind := kind }

section
variable (s : State) (o : Obj) (x : Nat) (v : W64)

theorem acceptVal_frame : acceptVal s o x v =
    { s with od := { s.od with vals := (acceptVal s o x v).od.vals, pend := (acceptVal s o x v).od.pend } } := by
  obtain ⟨pe, h, -⟩ := acceptVal_eq s o x v
  rw [h]

theorem acceptVal_vals : (acceptVal s o x v).od.vals = s.od.vals.put (okey o.area o.item x) v := by
  obtain ⟨pe, h, -⟩ := acceptVal_eq s o x v
  rw [h]

theorem lastVal_acceptVal : lastVal (acceptVal s o x v) o.area o.item x = v := by
  unfold lastVal
  rw [acceptVal_vals]
  exact tab_getD_put_self _ _ _ _

variable {s o x}

theorem acceptVal_pend_reset (h : o.cls = .reset) : (acceptVal s o x v).od.pend = s.od.pend ++ [pendingOld s o x .reset] := by
  obtain ⟨pe, he, hp⟩ := acceptVal_eq s o x v
  rw [h] at hp
  rw [he, hp]
  rfl

theorem acceptVal_pend_step (h : o.cls = .step) : (acceptVal s o x v).od.pend =
    s.od.pend ++ ((stepKind s (ownerOf o.ix x)).map (pendingOld s o x)).toList := by
  obtain ⟨pe, he, hp⟩ := acceptVal_eq s o x v
  rw [h] at hp
  rw [he, hp]
  rfl

end

/-- A value accepted behind one that waits for `d` leaves what is in force for `d` as it was. -/
theorem inForce_of_waits {s t : State} {o : Obj} {x : Nat} {kind : PendKind} {d : Option Nat}
    (hp : t.od.pend = s.od.pend ++ [pendingOld s o x kind]) (hw : (pendingOld s o x kind).waits d = true) :
    inForce t o.area o.item x d = inForce s o.area o.item x d := by
  unfold inForce
  rw [hp, List.find?_append]
  cases s.od.pend.find? _ with
  | some y => rfl
  | none =>
    rw [Option.none_or, List.find?_cons_of_pos (by simpa [pendingOld] using hw)]
    rfl

/-- Where no value of the element waits, the last one accepted is in force. -/
theorem inForce_of_none {s : State} {a i x : Nat} (h : s.od.pend.any (fun y => y.area == a && y.item == i && y.index == x) = false)
    (d : Option Nat) : inForce s a i x d = lastVal s a i x := by
  unfold inForce
  have hn : s.od.pend.find? (fun v => v.area == a && v.item == i && v.index == x && v.waits d) = none := by
    rw [List.find?_eq_none]
    intro y hy hc
    rw [List.any_eq_false] at h
    exact h y hy (Bool.and_eq_true_iff.mp hc).1
  rw [hn]

/-- Settles O10, by the class of the object. -/
theorem acceptedValueWaits : Obligations.AcceptedValueWaits := by
  unfold Obligations.AcceptedValueWaits
  intro s o x v
  refine ⟨lastVal_acceptVal s o x v, fun k hk => ?_, acceptVal_frame s o x v, fun h d => ?_, fun l u fr d h hkind hd => ?_,
    fun h hkind hnone d => ?_⟩
  · rw [acceptVal_vals]
    exact Tab.find?_put_ne _ _ hk
  · exact inForce_of_waits (acceptVal_pend_reset v h) rfl
  · have hp := acceptVal_pend_step (x := x) (s := s) v h
    rw [hkind] at hp
    exact inForce_of_waits hp hd
  · have hp := acceptVal_pend_step (x := x) (s := s) v h
    rw [hkind, Option.map_none, Option.toList_none, List.append_nil] at hp
    rw [inForce_of_none (by rw [hp]; exact hnone), lastVal_acceptVal]

/-! ## The issue of a command (R323, R341) -/

/-- What an accepted issue puts into the queue of the path. -/
def newInst (s : State) (path : Path) (o : Obj) (args : List W64) (tag : Nat) : Inst :=
  { area := o.area, item := o.item, path := path, cseq := nextCseq s o.area o.item path, tag := tag, args := args }

section
variable {s : State} {path : Path} {o : Obj} {args : List W64} (tag : Nat)

theorem issueCmd_noRight (h : mayAccess path o .issue ≠ Code.ok) : issueCmd s path o args tag = (mayAccess path o .issue, 0, s) :=
  if_pos h

variable (ha : mayAccess path o .issue = Code.ok)
include ha

theorem issueCmd_size (h : args.length ≠ o.ty.words) : issueCmd s path o args tag = (Code.accessSize, 0, s) := by
  unfold issueCmd
  rw [ha]
  exact if_pos h

variable (hl : args.length = o.ty.words)
include hl

theorem issueCmd_args (h : argsOk o args = false) : issueCmd s path o args tag = (Code.limitRange, 0, s) := by
  unfold issueCmd
  rw [ha]
  simp [hl, h, Code.ok]

variable (hk : argsOk o args = true)
include hk

theorem issueCmd_busy (h : 16 ≤ (liveInsts s o.area o.item path).length) : issueCmd s path o args tag = (Code.cmdBusy, 0, s) := by
  unfold issueCmd
  rw [ha]
  simp [hl, hk, h, Code.ok]

theorem issueCmd_issues (h : (liveInsts s o.area o.item path).length < 16) :
    issueCmd s path o args tag = (Code.ok, nextCseq s o.area o.item path, { s with od := { s.od with
      insts := s.od.insts ++ [newInst s path o args tag]
      lastCseq := s.od.lastCseq.put (okey o.area o.item path.num) (nextCseq s o.area o.item path)
      stats := s.od.stats.put (statKey (newInst s path o args tag)) { state := 1, tag := tag } } }) := by
  unfold issueCmd
  rw [ha]
  simp [hl, hk, Nat.not_le.mpr h, Code.ok, putStat, newInst]

end

theorem opDo_issue {s : State} {path : Path} {w : W64} {o : Obj} {x : Nat} (hn : Names s path o x) (ho : cmdOp w = 2) (hc : o.right = .cmd)
    {c q : Nat} {u : State} (h : issueCmd (served s path w) path o (datWords (regsOf s path) (cmdLen w)) (cmdTag w) = (c, q, u)) :
    opDo (served s path w) path w = ({ code := c, cseq := q }, u) := by
  rw [opDo_names hn ho (by decide) (by decide), if_neg (by decide), if_neg (by decide), if_pos hc, h]

/-- Settles O11: `issueCmd` by the first check that it fails. -/
theorem commandIssues : Obligations.CommandIssues := by
  unfold Obligations.CommandIssues
  intro path w s o x hf ho hn hc
  refine ⟨_, _, _, rfl, rfl, rfl, fun h => ?_, fun ha h => ?_, fun ha hl h => ?_, fun ha hl hk h => ?_, fun ha hl hk h => ?_⟩
  · exact opRow_ends hf ho (opDo_issue hn ho hc (issueCmd_noRight _ h)) rfl
  · exact opRow_ends hf ho (opDo_issue hn ho hc (issueCmd_size _ ha h)) rfl
  · exact opRow_ends hf ho (opDo_issue hn ho hc (issueCmd_args _ ha hl h)) rfl
  · rw [← live_served s path w] at h
    exact opRow_ends hf ho (opDo_issue hn ho hc (issueCmd_busy _ ha hl hk h)) rfl
  · rw [← live_served s path w] at h
    obtain ⟨hlt, hfree⟩ := nextCseq_free _ _ _ _ h
    rw [live_served] at hfree
    exact ⟨newInst (served s path w) path o _ (cmdTag w), rfl, hlt, hfree,
      opRow_ends hf ho (opDo_issue hn ho hc (issueCmd_issues _ ha hl hk h)) rfl⟩

/-! ## WRITE_B (R329 to R331) -/

/-- The writes of a bundle but those of element `x` of `o`. -/
def otherWrites (b : Bundle) (o : Obj) (x : Nat) : List (Nat × Nat × Nat × W64) :=
  b.writes.filter (fun e => !(e.1 == o.area && e.2.1 == o.item && e.2.2.1 == x))

section
variable {u : State} {path : Path} {bid : Nat} {o : Obj} {x len : Nat} {v : W64}

theorem bundleWrite_none (h : ownBundle u path bid = none) : bundleWrite u path bid o x len v = (Code.bundleNone, u) := by
  unfold bundleWrite; rw [h]

variable {b : Bundle} (hb : ownBundle u path bid = some b)
include hb

theorem bundleWrite_noRight (h : mayAccess path o .writeB ≠ Code.ok) :
    bundleWrite u path bid o x len v = (mayAccess path o .writeB, u) := by
  unfold bundleWrite
  rw [hb]
  exact if_pos h

variable (ha : mayAccess path o .writeB = Code.ok)
include ha

theorem bundleWrite_scope (h : bundleAllows b o x = false) : bundleWrite u path bid o x len v = (Code.bundleScope, u) := by
  unfold bundleWrite
  rw [hb]
  simp [ha, h, Code.ok]

variable (hs : bundleAllows b o x = true)
include hs

theorem bundleWrite_notAdmitted (h : admitWrite u o x len v ≠ Code.ok) :
    bundleWrite u path bid o x len v = (admitWrite u o x len v, u) := by
  have h : admitWrite u o x len v ≠ 0 := h
  unfold bundleWrite
  rw [hb]
  simp [ha, hs, h, Code.ok]

variable (hw : admitWrite u o x len v = Code.ok)
include hw

theorem bundleWrite_full (h : 64 ≤ (otherWrites b o x).length) : bundleWrite u path bid o x len v = (Code.bundleFull, u) := by
  unfold bundleWrite
  rw [hb]
  dsimp only
  rw [ha, hs, hw]
  exact if_pos h

theorem bundleWrite_held (h : (otherWrites b o x).length < 64) : bundleWrite u path bid o x len v =
    (Code.ok, { u with od := { u.od with
      bundles := u.od.bundles.set {} bid { b with writes := otherWrites b o x ++ [(o.area, o.item, x, v)] } } }) := by
  unfold bundleWrite
  rw [hb]
  dsimp only
  rw [ha, hs, hw]
  exact if_neg (Nat.not_le.mpr h)

end

theorem opDo_writeB {s : State} {path : Path} {w : W64} {o : Obj} {x : Nat} (hn : Names s path o x) (ho : cmdOp w = 3)
    {c : Nat} {u : State}
    (h : bundleWrite (served s path w) path (cmdBid w) o x (cmdLen w) (liveBits o ((regsOf s path).dat.getD 0 0)) = (c, u)) :
    opDo (served s path w) path w = ({ code := c }, u) := by
  rw [opDo_names hn ho (by decide) (by decide), if_neg (by decide), if_pos rfl, h]

theorem ownBundle_served (s : State) (p : Path) (w : W64) (q : Path) (b : Nat) : ownBundle (served s p w) q b = ownBundle s q b :=
  ownBundle_congr (by rw [served_od]) q b

/-- Settles O12: `bundleWrite` by the first rule that it breaks. -/
theorem writeBAnswers : Obligations.WriteBAnswers := by
  unfold Obligations.WriteBAnswers
  intro path w s o x hf ho hn
  refine ⟨_, _, _, rfl, rfl, rfl, fun h => ?_, fun b hb => ?_⟩
  · rw [← ownBundle_served s path w] at h
    exact opRow_ends hf ho (opDo_writeB hn ho (bundleWrite_none h)) rfl
  rw [← ownBundle_served s path w] at hb
  refine ⟨fun h => ?_, fun ha h => ?_, fun ha hs h => ?_, fun ha hs hw => ⟨_, rfl, fun h => ?_, fun h => ?_⟩⟩
  · exact opRow_ends hf ho (opDo_writeB hn ho (bundleWrite_noRight hb h)) rfl
  · exact opRow_ends hf ho (opDo_writeB hn ho (bundleWrite_scope hb ha h)) rfl
  · exact opRow_ends hf ho (opDo_writeB hn ho (bundleWrite_notAdmitted hb ha hs h)) rfl
  · exact opRow_ends hf ho (opDo_writeB hn ho (bundleWrite_full hb ha hs hw h)) rfl
  · exact opRow_ends hf ho (opDo_writeB hn ho (bundleWrite_held hb ha hs hw h)) rfl

end Sys2Proof.Machine
end

section
/-! PROOF. The registers of the paths and of the core (R300, R324, R325, R369), and what programming OTP leaves (R318, R346, R393). -/

namespace Sys2Proof.Machine

/-! ## ODSTS, and an operation on a busy path (R325, Table OD-8) -/

theorem exec_odstsRead {s : State} (h : held s = false) (path : Path) : exec (.odstsRead path) s = .next (odstsRead s path) := by
  change Host.Outcome.next (if held s then s else odstsRead s path) = _
  rw [if_neg (by simp [h])]

theorem opStart_busy {s : State} {path : Path} (h : (regsOf s path).busy.isSome) (w : W64) :
    opStart s path w = setRegs s path { regsOf s path with ovr := true } :=
  if_pos h

theorem opRow_busy {s : State} {path : Path} {w : W64} {op : Nat} (hh : held s = false) (h : (regsOf s path).busy.isSome)
    (ho : cmdOp w = op) : opRow op path w s = setRegs s path { regsOf s path with ovr := true } := by
  unfold opRow
  rw [if_neg (by simp [hh, ho]), opStart_busy h]

/-- Settles O13: the read of ODSTS path by path, and `opStart` on a busy path. -/
theorem pathRegisters : Obligations.PathRegisters := by
  unfold Obligations.PathRegisters
  refine ⟨fun path s hh hp => ⟨_, exec_odstsRead hh path, ?_⟩, fun path w s hh hb => ⟨fun ho => ?_, fun ho => ?_, fun ho => ?_⟩⟩
  · cases path with
    | cp =>
      refine ⟨rfl, fun q hq => ?_, fun _ => ⟨rfl, rfl⟩, (fun h => nomatch h), rfl⟩
      cases q with
      | cp => exact absurd rfl hq
      | i3c => rfl
      | fw => rfl
    | fw =>
      refine ⟨rfl, fun q hq => ?_, (fun h => nomatch h), fun _ => ⟨rfl, rfl⟩, rfl⟩
      cases q with
      | fw => exact absurd rfl hq
      | cp => rfl
      | i3c => rfl
    | i3c => exact absurd rfl hp
  · exact congrArg _ (opRow_busy hh hb ho)
  · exact congrArg _ (opRow_busy hh hb ho)
  · exact congrArg _ (opRow_busy hh hb ho)

/-! ## Register writes (R300, R324, R325, R369) -/

theorem exec_registerWrite {s : State} (h : held s = false) (path : Path) (offset : Nat) (w : W64) (be : Nat) :
    exec (.registerWrite path offset w be) s = .next (regWrite s path offset w be) := by
  change Host.Outcome.next (if held s then s else regWrite s path offset w be) = _
  rw [if_neg (by simp [h])]

section
variable {s : State} {path : Path} (w : W64)

theorem odRegWrite_sel (h : (regsOf s path).busy = none) :
    odRegWrite s path 0 w = setRegs s path { regsOf s path with sel := w &&& 0xFFFFFFFFFFF00000 } := by
  unfold odRegWrite
  simp [h]

theorem odRegWrite_dat {n : Nat} (hn : n < 32) (h : (regsOf s path).busy = none) :
    odRegWrite s path (0x100 + 8 * n) w = setRegs s path { regsOf s path with dat := (regsOf s path).dat.set 0 n w } := by
  have hr : 0x100 ≤ 0x100 + 8 * n ∧ 0x100 + 8 * n < 0x200 ∧ (0x100 + 8 * n) % 8 = 0 := by omega
  have hi : (0x100 + 8 * n - 0x100) / 8 = n := by omega
  unfold odRegWrite
  dsimp only
  rw [if_neg (by omega), if_neg (by omega), if_pos (by simpa using hr), hi]
  simp [h]

/-- While BUSY is 1, ODSEL and ODDAT stay. -/
theorem odRegWrite_discarded {offset : Nat} (ho : offset = 0 ∨ ∃ n, n < 32 ∧ offset = 0x100 + 8 * n) (h : (regsOf s path).busy.isSome) :
    odRegWrite s path offset w = s := by
  unfold odRegWrite
  dsimp only
  obtain rfl | ⟨n, -, rfl⟩ := ho
  · rw [if_pos rfl, if_pos h]
  · rw [if_neg (by omega), if_neg (by omega), if_pos h, ite_self]

theorem odRegWrite_cmd (ho : cmdOp w = 0 ∨ 3 < cmdOp w) : odRegWrite s path 8 w = opStart s path w := by
  unfold odRegWrite
  dsimp only
  rw [if_neg (by decide), if_pos rfl, if_pos (by simpa using ho)]

end

/-- The state in which a write of the Control Port that has its register acts. -/
def cpAccepted (s : State) : State := { s with out := { s.out with cpErr := false } }

theorem cpWrite_error {s : State} {offset be : Nat} (h : be ≠ 0xFF ∨ (odOffset offset = false ∧ dbOffset offset = false)) (w : W64) :
    cpWrite s offset w be = { s with out := { s.out with cpErr := true } } :=
  if_pos (by rcases h with h | ⟨h1, h2⟩ <;> simp [*])

theorem cpWrite_od {s : State} {offset : Nat} (h : odOffset offset = true) (hd : dbOffset offset = false) (w : W64) :
    cpWrite s offset w 0xFF = odRegWrite (cpAccepted s) .cp offset w := by
  unfold cpWrite
  rw [if_neg (by simp [h]), if_neg (by simp [hd])]
  rfl

theorem odOffset_dat {n : Nat} (hn : n < 32) : odOffset (0x100 + 8 * n) = true ∧ dbOffset (0x100 + 8 * n) = false := by
  constructor
  · simp [odOffset]; omega
  · simp [dbOffset]; omega

/-- A reserved OP, written on an idle path that nothing makes wait, ends with OP_BAD. -/
theorem opStart_reserved {s : State} {path : Path} {w : W64} (ho : cmdOp w = 0 ∨ 3 < cmdOp w) (hf : OpFree s path w)
    (hs : fwServesOp s (regsOf s path) w = false) : Answered s path w { code := Code.opBad } (opStart s path w) := by
  obtain ⟨-, hbusy, hprog, hwaits⟩ := hf
  have hd : opDo s path w = ({ code := Code.opBad }, s) := if_pos (by simpa using ho)
  have he : opStart s path w = opEnd s path w { code := Code.opBad } := by
    unfold opStart
    simp only [hbusy, hs, Option.isSome_none, Bool.false_eq_true, if_false]
    unfold opRun
    simp only [hprog, hwaits, hd, Bool.false_eq_true, if_false]
  rw [he]
  exact opEnd_answered _ _ _ _

theorem fwWrite_od {s : State} {a : Nat} (h1 : 0x08000000 ≤ a) (h2 : a < 0x08001000) (w : W64) :
    fwWrite s a w = odRegWrite s .fw (a - 0x08000000) w := by
  have hr : coreRegion a = true := by simp [coreRegion]; omega
  unfold fwWrite
  rw [if_neg (by simp [hr]), if_neg (by omega), if_pos (by simp [h1, h2])]

/-- Settles O14: each write by the register at its offset or address. -/
theorem registerWrites : Obligations.RegisterWrites := by
  unfold Obligations.RegisterWrites
  refine ⟨fun offset w be s hh => ⟨_, exec_registerWrite hh _ _ _ _, fun h => cpWrite_error h w, ?_, ?_, ?_, ?_, ?_⟩,
    fun a w be s hh => ⟨_, exec_registerWrite hh _ _ _ _, fun h => ?_, ?_, ?_, ?_⟩⟩
  · rintro rfl rfl hb
    exact (cpWrite_od rfl rfl w).trans (odRegWrite_sel (s := cpAccepted s) (path := .cp) w hb)
  · rintro rfl n hn rfl hb
    obtain ⟨ho, hd⟩ := odOffset_dat hn
    exact (cpWrite_od ho hd w).trans (odRegWrite_dat (s := cpAccepted s) (path := .cp) w hn hb)
  · rintro rfl ho hb
    have h : odOffset offset = true ∧ dbOffset offset = false := by
      obtain rfl | ⟨n, hn, rfl⟩ := ho
      · exact ⟨rfl, rfl⟩
      · exact odOffset_dat hn
    exact (cpWrite_od h.1 h.2 w).trans (odRegWrite_discarded (s := cpAccepted s) (path := .cp) w ho hb)
  · rintro rfl rfl ho hb
    exact (cpWrite_od rfl rfl w).trans ((odRegWrite_cmd w ho).trans (opStart_busy (s := cpAccepted s) (path := .cp) hb w))
  · rintro rfl rfl ho hf hs
    have he : regWrite s .cp 8 w 0xFF = opStart (cpAccepted s) .cp w := (cpWrite_od rfl rfl w).trans (odRegWrite_cmd w ho)
    rw [he]
    exact opStart_reserved (s := cpAccepted s) ho hf hs
  · exact if_pos (by simp [h])
  · rintro rfl
    change fwWrite s 0x09000000 w = _
    unfold fwWrite
    rw [if_neg (by decide), if_pos rfl]
  · rintro rfl hb
    exact (fwWrite_od (by decide) (by decide) w).trans (odRegWrite_sel (path := .fw) w hb)
  · rintro n hn rfl hb
    have ha : 0x08000100 + 8 * n - 0x08000000 = 0x100 + 8 * n := by omega
    refine (fwWrite_od (by omega) (by omega) w).trans ?_
    rw [ha]
    exact odRegWrite_dat (path := .fw) w hn hb

/-! ## OTP_SEAL and OTP_VOID (R393) -/

theorem otpRow_due {s : State} {i : Inst} {c : Nat} (h : Due s 11 0x10 i) (hp : programming s = false) (hc : i.arg 0 % 2 ^ 32 = c)
    (go : State → Inst → State) : otpRow s c go = go s i := by
  unfold otpRow
  rw [if_neg (by simp [hp]), cmdRowIf_due h, if_pos (beq_iff_eq.mpr hc)]

theorem exec_otpSeal {s : State} {i : Inst} (h : Due s 11 0x10 i) (hp : programming s = false) (hc : i.arg 0 % 2 ^ 32 = sealWord) :
    exec .otpSeal s = .next (otpSealAct s i) := by
  rw [← otpRow_due h hp hc otpSealAct]
  rfl

theorem exec_otpVoid {s : State} {i : Inst} (h : Due s 11 0x10 i) (hp : programming s = false) (hc : i.arg 0 % 2 ^ 32 = voidWord) :
    exec .otpVoid s = .next (otpVoidAct s i) := by
  rw [← otpRow_due h hp hc otpVoidAct]
  rfl

theorem otpSealAct_exhausted {s : State} {i : Inst} (h : genNext s = 0xFF) : Ends s i none Code.otpExhausted 0 0 (otpSealAct s i) := by
  unfold otpSealAct
  rw [if_pos h]
  exact refuse_ends _ _ _ _

section
variable {s : State} {i : Inst} {g : Nat} (hg : genNext s = g) (h : g ≠ 0xFF)
include hg h

theorem otpSealAct_refused (hl : bitOf (genField s g 0x2A0 8) 0 = false ∨ licInvalid (genField s g 0 8) = true) :
    Ends s i none Code.limitRange 0 0 (otpSealAct s i) := by
  subst hg
  unfold otpSealAct
  rw [if_neg h, if_pos (by rcases hl with hl | hl <;> simp [hl])]
  exact refuse_ends _ _ _ _

theorem otpSealAct_seals (hb : bitOf (genField s g 0x2A0 8) 0 = true) (hl : licInvalid (genField s g 0 8) = false) :
    Ends (otpProgram (otpProgram s (genBase g + 0x2AC)
      (leBytes 4 (crc32 ((List.range 0x2A8).map (fun k => s.otp.bytes.getD (genBase g + k) 0)))))
      (genBase g + 0x2A8) (leBytes 4 sealWord)) i none Code.ok (w64 g) 0 (otpSealAct s i) := by
  subst hg
  unfold otpSealAct
  rw [if_neg h, if_neg (by simp [hb, hl])]
  exact finish_ends _ _ _ _ _ _

theorem otpVoidAct_voids :
    Ends (otpProgram s (genBase g + 0x2A8) (leBytes 4 voidWord)) i none Code.ok (w64 g) 0 (otpVoidAct s i) := by
  subst hg
  unfold otpVoidAct
  rw [if_neg h]
  exact finish_ends _ _ _ _ _ _

end

theorem otpVoidAct_exhausted {s : State} {i : Inst} (h : genNext s = 0xFF) : Ends s i none Code.otpExhausted 0 0 (otpVoidAct s i) := by
  unfold otpVoidAct
  rw [if_pos h]
  exact refuse_ends _ _ _ _

/-- Settles O15, by the constant that the command carries. -/
theorem otpSealAndVoid : Obligations.OtpSealAndVoid := by
  unfold Obligations.OtpSealAndVoid
  intro s i hd hp
  refine ⟨fun hc => ⟨_, exec_otpSeal hd hp hc, otpSealAct_exhausted, fun g hg h => otpSealAct_refused hg h,
      fun g hg h => otpSealAct_seals hg h⟩,
    fun hc => ⟨_, exec_otpVoid hd hp hc, otpVoidAct_exhausted, fun g hg h => otpVoidAct_voids hg h⟩⟩

/-! ## Programming, and the end of a write-once write (R318, R346, R393) -/

theorem byteAt_otpProgram (s : State) (off : Nat) (bs : List Byte) (k : Nat) : byteAt (otpProgram s off bs).otp.bytes k =
    if off ≤ k ∧ k < off + bs.length then byteAt s.otp.bytes k ||| bs.getD (k - off) 0 else byteAt s.otp.bytes k := by
  unfold otpProgram
  dsimp only
  rw [otpPut_eq, byteAt_storeBytes]
  simp only [List.length_zipWith, List.length_map, List.length_range, Nat.min_self]
  split
  · next hk =>
    have hlt : k - off < bs.length := by omega
    have hoff : off + (k - off) = k := by omega
    simp [List.getD_eq_getElem?_getD, hlt, byteAt, hoff]
  · rfl

/-- The bytes that the end of a write-once write programs: all of the field, or, where it did not verify, some of their bits. -/
def wo1Bytes (s : State) (item x : Nat) (ws : List W64) (ok : Bool) : List Byte :=
  if ok then (wordBytes ws).take (wo1Place item x).2 else (otpTorn s ((wordBytes ws).take (wo1Place item x).2)).1

theorem wo1Program_exhausted {s : State} (h : genNext s = 0xFF) (item x : Nat) (ws : List W64) (ok : Bool) : wo1Program s item x ws ok = s :=
  if_pos h

theorem wo1Program_bytes {s : State} {g : Nat} (hg : genNext s = g) (h : g ≠ 0xFF) (item x : Nat) (ws : List W64) (ok : Bool) :
    (wo1Program s item x ws ok).otp.bytes =
      (otpProgram (otpProgram s (genBase g + (wo1Place item x).1) (wo1Bytes s item x ws ok)) (genBase g + 0x2A0)
        (leBytes 8 (genField s g 0x2A0 8 ||| 2 ^ wo1Bit item x))).otp.bytes := by
  subst hg
  unfold wo1Program
  rw [if_neg h]
  cases ok <;> rfl

theorem wo1End_programmed {s : State} {path : Path} {w : W64} (hp : (regsOf s path).prog = true) (hb : (regsOf s path).busy = some w) (ok : Bool) :
    wo1End s path ok = resumeOps (opEnd
      (wo1Program s (selItem (regsOf s path)) (selIndex (regsOf s path)) (wo1Words (regsOf s path) w) ok) path w
      { code := if ok then Code.ok else Code.otpProgFail }) := by
  unfold wo1End
  dsimp only
  rw [hp, hb]

/-- Settles O16: what `otpProgram` does to each byte, and the field and the written map by `wo1Program`. -/
theorem otpWrites : Obligations.OtpWrites := by
  unfold Obligations.OtpWrites
  refine ⟨fun s off bs k => ⟨byteAt_otpProgram s off bs k, rfl⟩, fun path ok s w hh hp hb => ?_⟩
  have hexec : exec (.otpWo1Write path ok) s = .next (wo1End s path ok) := by
    change Host.Outcome.next (if held s then s else wo1End s path ok) = _
    rw [if_neg (by simp [hh])]
  refine ⟨_, _, _, wo1Bytes s (selItem (regsOf s path)) (selIndex (regsOf s path)) (wo1Words (regsOf s path) w) ok, hexec,
    wo1End_programmed hp hb ok, opEnd_answered _ _ _ _, wo1Program_frame _ _ _ _ _, fun h => wo1Program_exhausted h _ _ _ _,
    fun g hg h pl hpl => ?_⟩
  subst hpl
  exact ⟨wo1Program_bytes hg h _ _ _ _, fun h => by simp [wo1Bytes, h], fun h => by simp [wo1Bytes, h]⟩

end Sys2Proof.Machine
end

section
/-! PROOF. Bundles: how one is opened, committed, applied whole or not at all, and discarded (R330 to R334). -/

namespace Sys2Proof.Machine

/-! ## BDL_OPEN (R330) -/

theorem exec_bdlOpen {s : State} {i : Inst} (h : Due s 1 0x10 i) : exec .bdlOpen s = .next (bdlOpenAct s i) :=
  congrArg Host.Outcome.next (cmdRow_due h bdlOpenAct)

/-- A bundle of this path and scope is open. -/
def scopeOpen (s : State) (path : Path) (scope : Nat) : Bool :=
  s.od.bundles.any (fun e => e.2.st == .isOpen && e.2.path == path && e.2.scope == scope)

section
variable {s : State} {i : Inst} {scope : Nat} (hs : scope = i.arg 0 % 256)
include hs

theorem bdlOpenAct_badScope (h1 : 8 ≤ scope) (h2 : scope ≠ 0xFF) : Ends s i none Code.limitRange 0 0 (bdlOpenAct s i) := by
  subst hs
  unfold bdlOpenAct
  dsimp only
  rw [if_pos (by simp [h1, h2])]
  exact refuse_ends _ _ _ _

variable (h : scope < 8 ∨ scope = 0xFF)
include h

theorem bdlOpenAct_scope : bdlOpenAct s i = match (List.range 4).find? (fun b => (bundleOf s b).st == .free) with
    | none => refuse s i none Code.bundleFull
    | some b => if scopeOpen s i.path scope then refuse s i none Code.cmdBusy
      else finish (setBundle s b { st := .isOpen, path := i.path, scope := scope }) i none Code.ok (w64 b) 0 := by
  subst hs
  unfold bdlOpenAct
  dsimp only
  rw [if_neg (by simp; omega)]
  rfl

theorem bdlOpenAct_full (hb : ∀ b, b < 4 → (bundleOf s b).st ≠ .free) : Ends s i none Code.bundleFull 0 0 (bdlOpenAct s i) := by
  have hn : (List.range 4).find? (fun b => (bundleOf s b).st == .free) = none :=
    (find_range4 _).1.mpr (fun b hlt => by simpa using hb b hlt)
  rw [bdlOpenAct_scope hs h, hn]
  exact refuse_ends _ _ _ _

variable {b : Nat} (hb : b < 4) (hf : (bundleOf s b).st = .free) (hl : ∀ c, c < b → (bundleOf s c).st ≠ .free)
include hb hf hl

theorem bdlOpenAct_lowest : bdlOpenAct s i = if scopeOpen s i.path scope then refuse s i none Code.cmdBusy
    else finish (setBundle s b { st := .isOpen, path := i.path, scope := scope }) i none Code.ok (w64 b) 0 := by
  have hn : (List.range 4).find? (fun b => (bundleOf s b).st == .free) = some b :=
    ((find_range4 _).2 b).mpr ⟨hb, by simpa using hf, fun c hlt => by simpa using hl c hlt⟩
  rw [bdlOpenAct_scope hs h, hn]

theorem bdlOpenAct_twice (ho : scopeOpen s i.path scope = true) : Ends s i none Code.cmdBusy 0 0 (bdlOpenAct s i) := by
  rw [bdlOpenAct_lowest hs h hb hf hl, if_pos ho]
  exact refuse_ends _ _ _ _

theorem bdlOpenAct_opens (ho : scopeOpen s i.path scope = false) :
    Ends (setBundle s b { st := .isOpen, path := i.path, scope := scope }) i none Code.ok (w64 b) 0 (bdlOpenAct s i) := by
  rw [bdlOpenAct_lowest hs h hb hf hl, if_neg (by simp [ho])]
  exact finish_ends _ _ _ _ _ _

end

/-! ## BDL_COMMIT (R330, R332) -/

theorem exec_bdlCommit {s : State} {i : Inst} (h : Due s 1 0x11 i) : exec .bdlCommit s = .next (bdlCommitAct s i) :=
  congrArg Host.Outcome.next (cmdRow_due h bdlCommitAct)

/-- The bundle `x` once it is committed. -/
def committedBundle (s : State) (x : Bundle) : Bundle :=
  { x with st := .committed, order := s.od.commits, wait := bundleWaits s x.scope, frozen := if x.scope = 0xFF then frozenParts s else [] }

/-- The commit that waits for bundle `b` of scope `scope`. -/
def waitingCommit (s : State) (i : Inst) (b scope : Nat) : Inst :=
  { i with st := .pending, part := if scope < 8 then ((slotPart s scope).map (·.1)).getD 32 else 32, aux := b }

/-- The state in which bundle `b`, which was `x`, is committed. -/
def committedState (s : State) (i : Inst) (b : Nat) (x : Bundle) : State :=
  setInst { s with od := { s.od with bundles := s.od.bundles.set {} b (committedBundle s x), commits := s.od.commits + 1 } }
    (waitingCommit s i b x.scope)

theorem bdlCommitAct_none {s : State} {i : Inst} (h : ownBundle s i.path (i.arg 0 % 4) = none) :
    Ends s i none Code.bundleNone 0 0 (bdlCommitAct s i) := by
  unfold bdlCommitAct
  dsimp only
  rw [h]
  exact refuse_ends _ _ _ _

theorem bdlCommitAct_eq {s : State} {i : Inst} {b : Nat} {x : Bundle} (hb : b = i.arg 0 % 4) (h : ownBundle s i.path b = some x) :
    bdlCommitAct s i = if bundleWaits s x.scope = 0 then bundleApply (committedState s i b x) b else committedState s i b x := by
  subst hb
  unfold bdlCommitAct
  dsimp only
  rw [h]
  rfl

theorem bundleOf_committedState (s : State) (i : Inst) (b : Nat) (x : Bundle) (c : Nat) :
    bundleOf (committedState s i b x) c = if c = b then committedBundle s x else bundleOf s c :=
  bundleOf_set s s.od.bundles b c (committedBundle s x)

/-- Settles O17: BDL_OPEN by the first rule that it breaks, BDL_COMMIT by the bundle that its path holds open. -/
theorem bundleCommits : Obligations.BundleCommits := by
  unfold Obligations.BundleCommits
  refine ⟨fun s i hd scope hs => ⟨_, exec_bdlOpen hd, bdlOpenAct_badScope hs, fun h => bdlOpenAct_full hs h,
      fun h b hb hf hl => ⟨bdlOpenAct_twice hs h hb hf hl, bdlOpenAct_opens hs h hb hf hl⟩⟩,
    fun s i hd b hb => ⟨_, exec_bdlCommit hd, fun h => bdlCommitAct_none (hb ▸ h), fun x hx hw => ?_⟩⟩
  have hx := bdlCommitAct_eq hb hx
  rw [if_neg hw] at hx
  rw [hx]
  have hat := bundleOf_committedState s i b x
  have hself : bundleOf (committedState s i b x) b = committedBundle s x := (hat b).trans (if_pos rfl)
  exact ⟨by rw [hself]; rfl, by rw [hself]; rfl, by rw [hself]; rfl, fun c hc => (hat c).trans (if_neg hc),
    status_setInst _ (waitingCommit s i b x.scope), rfl⟩

/-! ## A committed bundle is applied (R332) -/

/-- The only commit that waits for a bundle is the one that has just been accepted. -/
theorem commitInst_committedState {s : State} {i : Inst} {b : Nat} {x : Bundle} (hd : Due s 1 0x11 i)
    (hn : s.od.insts.any (fun j => j.area == 1 && j.item == 0x11 && j.st == .pending) = false) :
    commitInst (committedState s i b x) b = some (waitingCommit s i b x.scope) := by
  have hi := List.find?_some hd.2
  simp only [Bool.and_eq_true, beq_iff_eq] at hi
  obtain ⟨⟨harea, hitem⟩, -⟩ := hi
  unfold commitInst
  cases hf : (committedState s i b x).od.insts.find? (fun i => i.area == 1 && i.item == 0x11 && i.st == .pending && i.aux == b) with
  | some j =>
    obtain ⟨k, hk, rfl⟩ := List.mem_map.mp (List.mem_of_find?_eq_some hf)
    have hj := List.find?_some hf
    split at hj
    · next hsame => simp [hsame]
    · rw [List.any_eq_false] at hn
      exact absurd (Bool.and_eq_true_iff.mp hj).1 (hn k hk)
  | none =>
    have hmem : waitingCommit s i b x.scope ∈ (committedState s i b x).od.insts :=
      List.mem_map.mpr ⟨i, List.mem_of_find?_eq_some hd.2, if_pos (same_refl i)⟩
    exact absurd (by simp [waitingCommit, harea, hitem]) (List.find?_eq_none.mp hf _ hmem)

/-- The state in which the values of a bundle are in force, if the rules hold, and the bundle is free. -/
def appliedState (s : State) (i : Inst) (b : Nat) (x : Bundle) (ok : Bool) : State :=
  setBundle (if ok then bundleWrites (committedState s i b x) (committedBundle s x) else committedState s i b x) b {}

theorem appliedState_frame (s : State) (i : Inst) (b : Nat) (x : Bundle) (ok : Bool) :
    appliedState s i b x ok = { s with od := (appliedState s i b x ok).od } := by
  cases ok with
  | true =>
    unfold appliedState
    rw [if_pos rfl, bundleWrites_frame]
    rfl
  | false => rfl

theorem appliedState_vals (s : State) (i : Inst) (b : Nat) (x : Bundle) (ok : Bool) (k : Nat) :
    (appliedState s i b x ok).od.vals.find? k = if ok then (lastWrite x.writes k).or (s.od.vals.find? k) else s.od.vals.find? k := by
  cases ok with
  | true => exact bundleWrites_vals x.writes (committedState s i b x) k
  | false => rfl

theorem appliedState_insts (s : State) (i : Inst) (b : Nat) (x : Bundle) (ok : Bool) :
    (appliedState s i b x ok).od.insts = (committedState s i b x).od.insts := by
  cases ok with
  | true =>
    unfold appliedState
    rw [if_pos rfl, bundleWrites_frame]
    rfl
  | false => rfl

theorem ownBundle_setBundle_free (s : State) (b : Nat) (path : Path) : ownBundle (setBundle s b {}) path b = none :=
  ownBundle_freed s b path

/-- A commit with nothing to wait for ends with OK where the rules hold over the values with its writes applied, and with
BUNDLE_CONFLICT where they do not. -/
theorem bundleApply_ends {s : State} {i : Inst} {b : Nat} {x : Bundle} (hd : Due s 1 0x11 i)
    (hn : s.od.insts.any (fun j => j.area == 1 && j.item == 0x11 && j.st == .pending) = false) {ok : Bool}
    (hok : ok = setsHold (fun a m => (x.value a m 0).getD (inForce s a m 0 none))) :
    ∃ d, Ends (appliedState s i b x ok) (waitingCommit s i b x.scope) d (if ok then Code.ok else Code.bundleConflict) 0 0
      (bundleApply (committedState s i b x) b) := by
  have hself : bundleOf (committedState s i b x) b = committedBundle s x := (bundleOf_committedState s i b x b).trans (if_pos rfl)
  have hrules : bundleOk (committedState s i b x) (committedBundle s x) = ok := hok.symm
  have hinst : commitInst (appliedState s i b x ok) b = some (waitingCommit s i b x.scope) := by
    unfold commitInst
    rw [appliedState_insts]
    exact commitInst_committedState hd hn
  unfold bundleApply
  dsimp only
  rw [hself, hrules]
  unfold appliedState at hinst ⊢
  rw [hinst]
  exact ⟨_, finish_ends _ _ _ _ _ _⟩

theorem lastWrite_none {l : List (Nat × Nat × Nat × W64)} {k : Nat} (h : ∀ e ∈ l, okey e.1 e.2.1 e.2.2.1 ≠ k) : lastWrite l k = none := by
  unfold lastWrite
  rw [Option.map_eq_none_iff, List.find?_eq_none]
  intro e he
  simpa using h e (List.mem_reverse.mp he)

/-- The bytes that a post may write depend on the place, the size and the head of the Event Ring alone. -/
theorem eventByte_congr {s t : State} (hb : evBase t = evBase s) (he : evEntries t = evEntries s) (hh : t.core.evHead = s.core.evHead)
    (k : Nat) : EventByte t k ↔ EventByte s k := by
  unfold EventByte evNext
  rw [hb, he, hh]

/-- The place and the size of the Event Ring are the last values written, or defaults that no other value changes. -/
theorem lastVal_ring_congr {s t : State} {item : Nat} (hi : item = 0x40 ∨ item = 0x41) (ho : t.od.ovrs = s.od.ovrs)
    (hv : t.od.vals.find? (okey 1 item 0) = s.od.vals.find? (okey 1 item 0)) : lastVal t 1 item 0 = lastVal s 1 item 0 := by
  unfold lastVal dfltOf ovrOf
  rw [hv, ho]
  obtain rfl | rfl := hi <;> rfl

theorem eventByte_appliedState {s : State} {i : Inst} {b : Nat} {x : Bundle} {ok : Bool}
    (h : ∀ e ∈ x.writes, okey e.1 e.2.1 e.2.2.1 ≠ okey 1 0x40 0 ∧ okey e.1 e.2.1 e.2.2.1 ≠ okey 1 0x41 0) (k : Nat) :
    EventByte (appliedState s i b x ok) k ↔ EventByte s k := by
  have hovrs : (appliedState s i b x ok).od.ovrs = s.od.ovrs := by
    cases ok with
    | true =>
      unfold appliedState
      rw [if_pos rfl, bundleWrites_frame]
      rfl
    | false => rfl
  have hval : ∀ key, (∀ e ∈ x.writes, okey e.1 e.2.1 e.2.2.1 ≠ key) → (appliedState s i b x ok).od.vals.find? key = s.od.vals.find? key := by
    intro key hk
    rw [appliedState_vals, lastWrite_none hk]
    exact ite_self _
  refine eventByte_congr ?_ ?_ (by rw [appliedState_frame]) k
  · exact congrArg BitVec.toNat (lastVal_ring_congr (.inl rfl) hovrs (hval _ fun e he => (h e he).1))
  · exact congrArg BitVec.toNat (lastVal_ring_congr (.inr rfl) hovrs (hval _ fun e he => (h e he).2))

/-- Settles O18: the commit applies the bundle and ends, and a post changes nothing else of the values. -/
theorem bundleAllOrNone : Obligations.BundleAllOrNone := by
  unfold Obligations.BundleAllOrNone
  intro s i x hd b hb hown hwaits hn ok hok
  have hact := bdlCommitAct_eq hb hown
  rw [if_pos hwaits] at hact
  obtain ⟨d, hE⟩ := bundleApply_ends (b := b) hd hn hok
  refine ⟨_, (exec_bdlCommit hd).trans (congrArg _ hact), fun k hk => ?_, fun path => ?_, hE.gone, ?_, ?_, fun hring k hk => ?_⟩
  · exact (hE.posted.vals k hk).trans (appliedState_vals s i b x ok k)
  · rw [ownBundle_congr (ends_od_bundles hE)]
    exact ownBundle_setBundle_free _ _ _
  · have hst := hE.status
    rw [show statusOf (bundleApply (committedState s i b x) b) i = _ from hst]
    cases ok <;> rfl
  · rw [hE.rest, appliedState_frame]
  · rw [hE.mem k (mt (eventByte_appliedState hring k).mp hk), appliedState_frame]

/-! ## BDL_ABORT and expiry (R334) -/

theorem exec_bdlAbort {s : State} {i : Inst} (h : Due s 1 0x12 i) : exec .bdlAbort s = .next (bdlAbortAct s i) :=
  congrArg Host.Outcome.next (cmdRow_due h bdlAbortAct)

theorem bdlAbortAct_none {s : State} {i : Inst} {b : Nat} (hb : b = i.arg 0 % 4)
    (h : (bundleOf s b).st = .free ∨ (bundleOf s b).path ≠ i.path) : Ends s i none Code.bundleNone 0 0 (bdlAbortAct s i) := by
  subst hb
  unfold bdlAbortAct
  dsimp only
  rw [if_pos (by simpa using h)]
  exact refuse_ends _ _ _ _

theorem bdlAbortAct_discards {s : State} {i : Inst} {b : Nat} (hb : b = i.arg 0 % 4) (h1 : (bundleOf s b).st ≠ .free)
    (h2 : (bundleOf s b).path = i.path) : Ends (bundleDiscard s b) i none Code.ok 0 0 (bdlAbortAct s i) := by
  subst hb
  unfold bdlAbortAct
  dsimp only
  rw [if_neg (by simp [h1, h2])]
  exact finish_ends _ _ _ _ _ _

theorem exec_bundleExpired {s : State} {b : Nat} (hh : held s = false) (ho : (bundleOf s b).st = .isOpen) :
    exec (.bundleExpired b) s = .next (post (bundleDiscard s b) Ev.bundleExpired none 0 b 0) := by
  change Host.Outcome.next (if held s || (bundleOf s b).st != .isOpen then s else _) = _
  rw [if_neg (by simp [hh, ho])]

/-- Settles O19: the bundle is discarded, with the commit that waits for it. -/
theorem bundleAborts : Obligations.BundleAborts := by
  unfold Obligations.BundleAborts
  refine ⟨fun s i hd b hb => ⟨_, exec_bdlAbort hd, bdlAbortAct_none hb, fun h1 h2 => ?_⟩, fun s b hh ho => ?_⟩
  · have hE := bdlAbortAct_discards hb h1 h2
    obtain ⟨hfree, hcommit⟩ := bundleDiscard_cases s b
    refine ⟨fun path => ?_, fun hn => hfree hn ▸ hE, fun j hj => ⟨_, hcommit j hj, hE⟩⟩
    rw [ownBundle_congr (ends_od_bundles hE)]
    exact bundleDiscard_own _ _ _
  · have hP := post_posted (bundleDiscard s b) Ev.bundleExpired none 0 b 0
    obtain ⟨hfree, hcommit⟩ := bundleDiscard_cases s b
    refine ⟨_, _, exec_bundleExpired hh ho, rfl, hP, fun path => ?_, hfree, hcommit⟩
    rw [ownBundle_congr (posted_bundles hP)]
    exact bundleDiscard_own _ _ _

end Sys2Proof.Machine
end

section
/-! PROOF. Counters, doorbells, the Event Ring, the watchdog and the interrupt sources (R299, R307 to R311, R350, R351). -/

namespace Sys2Proof

theorem Tab.find?_keepKeys {α : Type} (t : Tab α) {f : Nat → Bool} {k : Nat} (h : f k = true) : (t.keepKeys f).find? k = t.find? k := by
  unfold Tab.keepKeys
  induction t with
  | nil => rfl
  | cons e t ih =>
    obtain ⟨a, v⟩ := e
    rw [List.filter_cons]
    by_cases hk : k = a
    · subst hk
      simp [h, Tab.find?]
    · split <;> simp [Tab.find?, hk, ih]

namespace Machine

/-! ## Counters (R350, R351) -/

theorem getD_keepKeys (t : Tab W64) (f : Nat → Bool) (k : Nat) : (t.keepKeys f).getD k 0 = if f k then t.getD k 0 else 0 := by
  by_cases h : f k = true
  · rw [if_pos h, Tab.getD, Tab.find?_keepKeys t h, Tab.getD]
  · rw [if_neg h, keepKeys_getD t f k (by simpa using h)]

theorem exec_cntClear {s : State} {i : Inst} (h : Due s 9 0x15 i) : exec .cntClear s = .next (cntClearAct s i) :=
  congrArg Host.Outcome.next (cmdRow_due h cntClearAct)

theorem cntClearAct_refused {s : State} {i : Inst} (h1 : i.arg 0 % 4 = 2) (h2 : 7 ≤ fld (i.arg 0) 12 8) :
    Ends s i none Code.limitRange 0 0 (cntClearAct s i) := by
  unfold cntClearAct
  dsimp only
  rw [if_pos (by simp [h1, h2])]
  exact refuse_ends _ _ _ _

/-- The state in which the counters of a scope are 0. -/
def countersCleared (s : State) (scope n : Nat) : State := { s with cnt := s.cnt.keepKeys (fun k => !cntScope scope n k) }

theorem countersCleared_cnt (s : State) (scope n k : Nat) :
    (countersCleared s scope n).cnt.getD k 0 = if cntScope scope n k then 0 else s.cnt.getD k 0 := by
  refine (getD_keepKeys s.cnt (fun k => !cntScope scope n k) k).trans ?_
  cases cntScope scope n k <;> rfl

theorem cntClearAct_clears {s : State} {i : Inst} {scope n : Nat} (hs : scope = i.arg 0 % 4) (hn : n = fld (i.arg 0) 12 8)
    (h : ¬ (scope = 2 ∧ 7 ≤ n)) : Ends (countersCleared s scope n) i (if scope = 1 && (partOf s n).isSome then some n else none) Code.ok 0 0
      (cntClearAct s i) := by
  subst hs hn
  have hc : ¬ (decide (i.arg 0 % 4 = 2) && decide (7 ≤ fld (i.arg 0) 12 8)) = true := by simpa using h
  unfold cntClearAct
  dsimp only
  rw [if_neg hc]
  exact finish_ends _ _ _ _ _ _

/-- Settles O20: CNT_CLEAR by its scope, and one increment. -/
theorem counters : Obligations.Counters := by
  unfold Obligations.Counters
  refine ⟨fun s i hd scope n hs hn => ⟨_, exec_cntClear hd, fun h1 h2 => ?_, fun h => ?_⟩, fun s item index n => ⟨?_, fun k hk => ?_, rfl⟩⟩
  · exact cntClearAct_refused (hs ▸ h1) (hn ▸ h2)
  · exact ⟨_, cntClearAct_clears hs hn h, rfl, countersCleared_cnt s scope n⟩
  · unfold bumpAt
    dsimp only
    rw [Tab.getD_set, if_pos rfl, w64, BitVec.ofNat_add, BitVec.ofNat_toNat, BitVec.setWidth_eq]
  · exact Tab.getD_set_ne _ _ _ hk

/-! ## Doorbells (R310, R311, R369) -/

section
variable {s : State} (hh : held s = false) {n : Nat} {w : W64} (go : State → Nat → State)
include hh

theorem doorbell_short {be : Nat} (h : be ≠ 0xFF) : doorbell s be n w go = { s with out := { s.out with cpErr := true } } := by
  unfold doorbell
  rw [if_neg (by simp [hh]), if_pos h]

theorem doorbell_bad (h : n ≤ wfld w 31 0) : doorbell s 0xFF n w go = bump (cpAccepted s) Cnt.dbBad 1 := by
  unfold doorbell
  rw [if_neg (by simp [hh]), if_neg (by decide)]
  exact if_neg (Nat.not_lt.mpr h)

theorem doorbell_taken (h : wfld w 31 0 < n) : doorbell s 0xFF n w go = go (cpAccepted s) (wfld w 31 0) := by
  unfold doorbell
  rw [if_neg (by simp [hh]), if_neg (by decide)]
  exact if_pos h

end

theorem slotRing_le {s : State} {area item p n : Nat} (h : (slotPart s p).isNone ∨ (lastVal s area item p).toNat ≤ n) :
    slotRing s area item p ≤ n := by
  unfold slotRing
  split
  · next hs =>
    rcases h with h | h
    · rw [Option.isNone_iff_eq_none] at h
      rw [h] at hs
      cases hs
    · exact h
  · exact Nat.zero_le n

theorem slotRing_resident {s : State} {area item p : Nat} {x : Nat × Part} (h : slotPart s p = some x) :
    slotRing s area item p = (lastVal s area item p).toNat := by
  unfold slotRing
  rw [h]
  rfl

theorem slotPointer_eq {s : State} {area item p v : Nat} (h : (objRow area item).isSome) :
    ∃ o : Obj, o.area = area ∧ o.item = item ∧ slotPointer s area item p v = written (setVal s area item p (w64 v)) o p := by
  obtain ⟨o, ho⟩ := Option.isSome_iff_exists.mp h
  have hn := List.find?_some ho
  simp only [Bool.and_eq_true, beq_iff_eq] at hn
  refine ⟨o, hn.1, hn.2, ?_⟩
  unfold slotPointer
  rw [ho]

/-- Nothing follows a move of RQ_HEAD. -/
theorem slotPointer_rq (s : State) (p v : Nat) : slotPointer s 6 0x22 p v = setVal s 6 0x22 p (w64 v) := by
  obtain ⟨o, ha, hi, h⟩ := slotPointer_eq (s := s) (p := p) (v := v) (area := 6) (item := 0x22) (by decide)
  rw [h]
  unfold written
  rw [ha, hi]
  rfl

theorem slotPointer_cq {s : State} {p d : Nat} {P : Part} (hs : slotPart s p = some (d, P)) (v : Nat) :
    slotPointer s 6 0x27 p v = ctxIdle (cqDrain (setVal s 6 0x27 p (w64 v)) d) d := by
  obtain ⟨o, ha, hi, h⟩ := slotPointer_eq (s := s) (p := p) (v := v) (area := 6) (item := 0x27) (by decide)
  have hs : slotPart (setVal s 6 0x27 p (w64 v)) p = some (d, P) := hs
  rw [h]
  unfold written
  rw [ha, hi]
  show (match slotPart (setVal s 6 0x27 p (w64 v)) p with | some (d, _) => ctxIdle (cqDrain (setVal s 6 0x27 p (w64 v)) d) d | none => _) = _
  rw [hs]

theorem slotPointer_exp {s : State} {p d : Nat} {P : Part} (hs : slotPart s p = some (d, P)) (v : Nat) :
    slotPointer s 5 0x33 p v = expResync (setVal s 5 0x33 p (w64 v)) d := by
  obtain ⟨o, ha, hi, h⟩ := slotPointer_eq (s := s) (p := p) (v := v) (area := 5) (item := 0x33) (by decide)
  have hs : slotPart (setVal s 5 0x33 p (w64 v)) p = some (d, P) := hs
  rw [h]
  unfold written
  rw [ha, hi]
  show (match slotPart (setVal s 5 0x33 p (w64 v)) p with | some (d, _) => expResync (setVal s 5 0x33 p (w64 v)) d | none => _) = _
  rw [hs]

/-- What follows a move of EV_TAIL: the backlog drains, and the event timer starts anew. -/
theorem slotPointer_ev (s : State) (v : Nat) : slotPointer s 1 0x43 0 v =
    evDrain { setVal s 1 0x43 0 (w64 v) with core := { s.core with evTimer := false } } := by
  obtain ⟨o, ha, hi, h⟩ := slotPointer_eq (s := s) (p := 0) (v := v) (area := 1) (item := 0x43) (by decide)
  rw [h]
  unfold written
  rw [ha, hi]
  rfl

section
variable (p : Nat) (w : W64) (be : Nat) (s : State)

theorem exec_rqDb (hp : p < 8) : exec (.rqDb p w be) s =
    .next (doorbell s be (slotRing s 6 0x21 p) w (fun s v => latch (slotPointer s 6 0x22 p v) 41)) :=
  congrArg Host.Outcome.next (if_neg (Nat.not_le.mpr hp))

theorem exec_cqDb (hp : p < 8) : exec (.cqDb p w be) s =
    .next (doorbell s be (slotRing s 6 0x25 p) w (fun s v => slotPointer s 6 0x27 p v)) :=
  congrArg Host.Outcome.next (if_neg (Nat.not_le.mpr hp))

theorem exec_expDb (hp : p < 8) : exec (.expDb p w be) s =
    .next (doorbell s be (slotRing s 5 0x31 p) w (fun s v => slotPointer s 5 0x33 p v)) :=
  congrArg Host.Outcome.next (if_neg (Nat.not_le.mpr hp))

theorem exec_evDb : exec (.evDb w be) s = .next (doorbell s be (evEntries s) w (fun s v => slotPointer s 1 0x43 0 v)) := rfl

end

/-- Settles O21, doorbell by doorbell: too short, refused, taken. -/
theorem doorbells : Obligations.Doorbells := by
  unfold Obligations.Doorbells
  refine ⟨fun p w be s hh hp => ⟨fun hb c hc => ?_, fun hb => ⟨_, rfl, fun h => ?_, fun h => ?_, fun h => ?_, fun h => ?_⟩⟩,
    fun p w s s0 v hh hp hv hs0 => ?_⟩
  · simp only [List.mem_cons, List.not_mem_nil, or_false] at hc
    rcases hc with rfl | rfl | rfl | rfl
    · rw [exec_rqDb p w be s hp, doorbell_short hh _ hb]
    · rw [exec_cqDb p w be s hp, doorbell_short hh _ hb]
    · rw [exec_expDb p w be s hp, doorbell_short hh _ hb]
    · rw [exec_evDb w be s, doorbell_short hh _ hb]
  · rw [exec_rqDb p w be s hp, hb, doorbell_bad hh _ (slotRing_le h)]; rfl
  · rw [exec_cqDb p w be s hp, hb, doorbell_bad hh _ (slotRing_le h)]; rfl
  · rw [exec_expDb p w be s hp, hb, doorbell_bad hh _ (slotRing_le h)]; rfl
  · rw [exec_evDb w be s, hb, doorbell_bad hh _ h]; rfl
  · subst hv hs0
    refine ⟨fun d P hs h => ?_, fun d P hs h => ?_, fun d P hs h => ?_, fun h => ?_⟩
    · rw [exec_rqDb p w _ s hp, doorbell_taken hh _ (by rwa [slotRing_resident hs]), slotPointer_rq]; rfl
    · rw [exec_cqDb p w _ s hp, doorbell_taken hh _ (by rwa [slotRing_resident hs]), slotPointer_cq (s := cpAccepted s) hs]; rfl
    · rw [exec_expDb p w _ s hp, doorbell_taken hh _ (by rwa [slotRing_resident hs]), slotPointer_exp (s := cpAccepted s) hs]; rfl
    · rw [exec_evDb w _ s, doorbell_taken hh _ h, slotPointer_ev]; rfl

/-! ## The Event Ring (R311) -/

section
variable {s : State} {e : EvEntry}

theorem evPut_room (hb : s.core.backlog = []) (hr : evRoom s = true) : evPut s e = evWrite s e :=
  if_pos (by simp [hb, hr])

variable (h : s.core.backlog ≠ [] ∨ evRoom s = false)
include h

theorem evPut_backlog (hl : s.core.backlog.length < 1024) :
    evPut s e = { s with core := { s.core with backlog := s.core.backlog ++ [e] } } := by
  unfold evPut
  rw [if_neg (by rcases h with h | h <;> simp [h]), if_pos hl]

theorem evPut_dropped (hl : 1024 ≤ s.core.backlog.length) :
    evPut s e = bump { s with core := { s.core with evDropped := s.core.evDropped + 1 } } Cnt.evDrop 1 := by
  unfold evPut
  rw [if_neg (by rcases h with h | h <;> simp [h]), if_neg (Nat.not_lt.mpr hl)]

end

/-- With no drop before it, an event that is not of severity 2 is put as it is. -/
theorem post_plain {s : State} {num code : Nat} (hd : s.core.evDropped = 0) (hs : Ev.sev num code ≠ 2) (d : Option Nat) (arg0 arg1 : Nat) :
    post s num d code arg0 arg1 = evPut s (evEntry s num d code arg0 arg1) := by
  have hf : evFlushDrop s = s := if_neg (by simp [hd])
  unfold post
  dsimp only
  rw [hf, if_neg hs]

/-- An entry that is written reads back. -/
theorem t1Words_evWrite (s : State) {e : EvEntry} {n : Nat} (hn : e.length = n) :
    t1Words (evWrite s e) (evBase s + 32 * s.core.evHead) n = e := by
  rw [t1Words, evWrite_is, ← hn]
  exact words_back e s.mem _

/-- Draining latches source 44 at most, beside `evDrainAux`. -/
theorem evDrain_ring (s : State) : ∃ u, u = evDrainAux s.core.backlog { s with core := { s.core with backlog := [] } } ∧
    (evDrain s).core.backlog = u.core.backlog ∧ (evDrain s).core.evHead = u.core.evHead ∧ evRoom (evDrain s) = evRoom u := by
  refine ⟨_, rfl, ?_⟩
  unfold evDrain
  dsimp only
  split <;> exact ⟨rfl, rfl, rfl⟩

/-- Settles O22: where an event goes, and what draining leaves. -/
theorem eventsPosted : Obligations.EventsPosted := by
  unfold Obligations.EventsPosted
  refine ⟨fun s num d code arg0 arg1 hd hs => ⟨_, rfl, post_posted _ _ _ _ _ _, fun hb hr => ?_, fun h hl => ?_, fun h hl => ?_⟩,
    fun s h0 => ?_⟩
  · rw [post_plain hd hs, evPut_room hb hr]
    refine ⟨t1Words_evWrite s rfl, ?_, ?_⟩
    · rw [evWrite_is]; rfl
    · rw [evWrite_is]; exact hb
  · rw [post_plain hd hs, evPut_backlog h hl]
  · rw [post_plain hd hs, evPut_dropped h hl, hd]
  · obtain ⟨u, rfl, hbacklog, hhead, hroom⟩ := evDrain_ring s
    obtain ⟨gone, h1, h2, -, h4⟩ := evDrainAux_spec s.core.backlog { s with core := { s.core with backlog := [] } } h0
    rw [hbacklog, hhead, hroom]
    exact ⟨gone, h1, h2, h4⟩

/-! ## The watchdog (R307, R309) -/

section
variable {s : State} (h : fwAlive s = true)
include h

theorem exec_watchdogWrite (w : W64) : exec (.watchdogWrite w) s = .next { s with core := { s.core with wdogHalf := false } } :=
  congrArg Host.Outcome.next (if_pos h)

theorem exec_watchdogHalf_first (hw : s.core.wdogHalf = false) :
    exec .watchdogHalf s = .next { s with core := { s.core with wdogHalf := true, intr := s.core.intr ||| 2 ^ 48 } } :=
  congrArg Host.Outcome.next (if_pos (by simp [h, hw]))

omit h in
theorem exec_watchdogHalf_again (hw : s.core.wdogHalf = true) : exec .watchdogHalf s = .next s :=
  congrArg Host.Outcome.next (if_neg (by simp [hw]))

theorem exec_watchdogExpiry (again : Bool) : exec (.watchdogExpiry again) s = .next (wdogExpire s again) :=
  congrArg Host.Outcome.next (if_pos h)

theorem exec_fifoStallTimeout {q : Nat} (hq : (engOf s q).stalled = true) : exec (.fifoStallTimeout q) s = .next (stallExpire s) :=
  congrArg Host.Outcome.next (if_pos (by simp [h, hq]))

end

theorem stallExpire_first {s : State} (h : s.core.expired = false) : stallExpire s = wdogExpire s false :=
  if_neg (by simp [h])

theorem stallExpire_again {s : State} (h : s.core.expired = true) :
    stallExpire s = wdogExpire { s with free := s.free + 1 } (bitOf (Config.freeValue s.free).toNat 0) :=
  if_pos h

/-- Settles O23, row by row. -/
theorem watchdogRows : Obligations.WatchdogRows := by
  unfold Obligations.WatchdogRows
  intro s hh hb
  have h : fwAlive s = true := by simp [fwAlive, hh, hb]
  refine ⟨exec_watchdogWrite h, exec_watchdogHalf_first h, exec_watchdogHalf_again,
    fun again => ⟨_, exec_watchdogExpiry h again, expired_wdog s again⟩, fun q hq => ?_⟩
  cases he : s.core.expired with
  | false =>
    refine ⟨_, s, false, exec_fifoStallTimeout h hq, ?_, fun _ => ⟨rfl, rfl⟩, fun hc => nomatch hc⟩
    rw [stallExpire_first he]
    exact expired_wdog _ _
  | true =>
    refine ⟨_, { s with free := s.free + 1 }, bitOf (Config.freeValue s.free).toNat 0, exec_fifoStallTimeout h hq, ?_, (fun hc => nomatch hc), fun _ => rfl⟩
    rw [stallExpire_again he]
    exact expired_wdog _ _

/-! ## Interrupt sources (R299, R311) -/

theorem exec_intStatusClear {s : State} (h : held s = false) (w : W64) : exec (.intStatusClear w) s =
    .next { s with core := { s.core with
      intr := (List.range 50).foldl (fun a i => if bitOf s.core.intr i && !bitOf w.toNat i then a + 2 ^ i else a) 0 } } :=
  congrArg Host.Outcome.next (if_neg (by simp [h]))

/-- Settles O24: the sources left are a sum of the bits that stay. -/
theorem interruptRows : Obligations.InterruptRows := by
  unfold Obligations.InterruptRows
  refine ⟨fun w s hh => ⟨_, exec_intStatusClear hh w, fun n hn => ?_, rfl⟩, fun s hh hu => ?_⟩
  · exact (bitOf_bitsum (fun i => bitOf s.core.intr i && !bitOf w.toNat i) 50).2 n hn
  · exact congrArg Host.Outcome.next (if_neg (by simp [hh, hu]))

end Machine
end Sys2Proof
end

section
/-! PROOF. Firmware images, changeover and restart (R303 to R307), the sideband (R326, R327) and the TAP (R416 to R418). -/

namespace Sys2Proof.Machine

/-! ## Loading an image (R303, R304) -/

/-- A standby bank that is overwritten is not ready. -/
def notReady (st : FwSt) : FwSt := if st = .standbyReady then .running else st

/-- The state after FW_LOAD has begun. -/
def fwLoadBegun (s : State) (i : Inst) : State :=
  setInst (updCore (setBankVer s (loadBank s) none) (fun c => { c with st := notReady c.st, back := notReady c.back })) { i with st := .checking }

theorem bankVer_setBankVer (s : State) (b c : Nat) (v : Option Nat) (hb : b < 2) (hc : c < 2) :
    bankVer (setBankVer s b v) c = if c = b then v else bankVer s c := by
  obtain rfl | rfl : b = 0 ∨ b = 1 := by omega
  all_goals obtain rfl | rfl : c = 0 ∨ c = 1 := by omega
  all_goals rfl

theorem setBankVer_core (s : State) (b : Nat) (v : Option Nat) :
    (setBankVer s b v).core = { s.core with ver0 := (setBankVer s b v).core.ver0, ver1 := (setBankVer s b v).core.ver1 } := by
  unfold setBankVer updCore
  dsimp only
  split <;> rfl

theorem bankVer_setBankVer_self (s : State) (b : Nat) (v : Option Nat) : bankVer (setBankVer s b v) b = v := by
  unfold bankVer setBankVer updCore
  dsimp only
  split <;> rfl

theorem bankVer_fwLoadBegun (s : State) (i : Inst) (b : Nat) : bankVer (fwLoadBegun s i) b = bankVer (setBankVer s (loadBank s) none) b := rfl

theorem status_fwLoadBegun (s : State) (i : Inst) : statusOf (fwLoadBegun s i) i = some { state := 1, tag := i.tag } :=
  status_setInst (updCore (setBankVer s (loadBank s) none) (fun c => { c with st := notReady c.st, back := notReady c.back })) { i with st := .checking }

theorem fwLoadBegun_frame (s : State) (i : Inst) : fwLoadBegun s i = { s with
    core := { s.core with
      ver0 := (fwLoadBegun s i).core.ver0
      ver1 := (fwLoadBegun s i).core.ver1
      st := (fwLoadBegun s i).core.st
      back := (fwLoadBegun s i).core.back }
    od := { s.od with insts := (fwLoadBegun s i).od.insts, stats := (fwLoadBegun s i).od.stats } } := by
  unfold fwLoadBegun setBankVer updCore
  dsimp only
  split <;> rfl

theorem exec_fwLoad {s : State} {i : Inst} (h : Due s 1 0x20 i) (h9 : 9 ≤ s.boot.stage) (hst : s.boot.stopped = false)
    (hl : fwLoading s = false) : exec .fwLoad s = .next (fwLoadAct s i) :=
  congrArg Host.Outcome.next ((if_neg (by simp [Nat.not_lt.mpr h9, hst, hl])).trans (cmdRow_due h fwLoadAct))

theorem fwLoadAct_busy {s : State} {i : Inst} (h : s.core.change.isSome) : Ends s i none Code.fwBusy 0 0 (fwLoadAct s i) := by
  unfold fwLoadAct
  rw [if_pos h]
  exact refuse_ends _ _ _ _

theorem fwLoadAct_begins {s : State} {i : Inst} (h : s.core.change = none) : fwLoadAct s i = fwLoadBegun s i :=
  if_neg (by simp [h])

theorem exec_fwLoadEnd {s : State} {i : Inst} {r : CmdRef} (hh : held s = false) (h : instAt s 1 0x20 r = some i) (hs : i.st = .checking) :
    exec (.fwLoadEnd r) s = .next (fwLoadEndAct s i) :=
  congrArg Host.Outcome.next ((endRow_is hh h .checking fwLoadEndAct).trans (if_pos hs))

theorem fwLoadEndAct_bad {s : State} {i : Inst} {code ver : Nat} (hc : fwCheck s (i.arg 0 % 2 ^ 52) = (code, ver)) (h : code ≠ 0) :
    ∃ u, Ends s i none code 0 0 u ∧ fwLoadEndAct s i = latch u 49 := by
  refine ⟨_, refuse_ends s i none code, ?_⟩
  unfold fwLoadEndAct
  rw [hc]
  exact if_pos h

theorem fwLoadEndAct_good {s : State} {i : Inst} {code ver : Nat} (hc : fwCheck s (i.arg 0 % 2 ^ 52) = (code, ver)) (h : code = 0) :
    ∃ u v, Ends (setBankVer s (loadBank s) (some ver)) i none Code.ok 0 0 u ∧
      v = { u with core := { u.core with
        intr := u.core.intr ||| 2 ^ 49
        st := if u.core.st = .running then .standbyReady else u.core.st
        back := if u.core.back = .running then .standbyReady else u.core.back } } ∧
      fwLoadEndAct s i = (if s.core.st ≠ .boot && bitOf (i.arg 1) 0 then fwAuto v (loadBank s) else v) := by
  refine ⟨_, _, finish_ends _ i none Code.ok 0 0, rfl, ?_⟩
  unfold fwLoadEndAct
  rw [hc]
  exact if_neg (not_not.mpr h)

/-! ## Switching banks (R305, R306) -/

section
variable {s : State} {i : Inst}

theorem exec_fwSwitch (h : Due s 1 0x21 i) : exec .fwSwitch s = .next (fwSwitchAct s i) :=
  congrArg Host.Outcome.next (cmdRow_due h fwSwitchAct)

theorem exec_fwRevert (h : Due s 1 0x22 i) : exec .fwRevert s = .next (fwRevertAct s i) :=
  congrArg Host.Outcome.next (cmdRow_due h fwRevertAct)

theorem fwSwitchAct_busy (h : s.core.change.isSome ∨ s.core.st = .boot ∨ bankVer s (1 - s.core.bank) = none) :
    Ends s i none Code.fwBusy 0 0 (fwSwitchAct s i) := by
  unfold fwSwitchAct
  rw [if_pos (by rcases h with h | h | h <;> simp [h])]
  exact refuse_ends _ _ _ _

theorem fwSwitchAct_goes (h : s.core.change = none) (hb : s.core.st ≠ .boot) (hv : (bankVer s (1 - s.core.bank)).isSome) :
    fwSwitchAct s i = changeFor s i (1 - s.core.bank) :=
  if_neg (by simp [h, hb, Option.isSome_iff_ne_none.mp hv])

theorem fwRevertAct_turns {c : Change} (h : s.core.change = some c) : fwRevertAct s i = changeFor s i (1 - c.bank) := by
  unfold fwRevertAct
  rw [h]

theorem fwRevertAct_busy (h : s.core.change = none) (hb : s.core.st = .boot ∨ bankVer s (1 - s.core.bank) = none) :
    Ends s i none Code.fwBusy 0 0 (fwRevertAct s i) := by
  unfold fwRevertAct
  rw [h]
  dsimp only
  rw [if_pos (by rcases hb with h | h <;> simp [h])]
  exact refuse_ends _ _ _ _

theorem fwRevertAct_goes (h : s.core.change = none) (hb : s.core.st ≠ .boot) (hv : (bankVer s (1 - s.core.bank)).isSome) :
    fwRevertAct s i = changeFor s i (1 - s.core.bank) := by
  unfold fwRevertAct
  rw [h]
  exact if_neg (by simp [hb, Option.isSome_iff_ne_none.mp hv])

end

/-- A due row's oldest command is a live one of its object. -/
theorem Due.mem {s : State} {a it : Nat} {i : Inst} (h : Due s a it i) : i ∈ s.od.insts := List.mem_of_find?_eq_some h.2

theorem Due.area {s : State} {a it : Nat} {i : Inst} (h : Due s a it i) : i.area = a := by
  have hp := List.find?_some h.2
  simp only [Bool.and_eq_true, beq_iff_eq] at hp
  exact hp.1.1

theorem exec_fwRestartEnd {s : State} (hh : held s = false) (hr : s.core.st = .restarting) (hv : (bankVer s s.core.bank).isSome) :
    exec .fwRestartEnd s = .next (fwRestarted s) :=
  congrArg Host.Outcome.next (if_neg (by simp [hh, hr, Option.isSome_iff_ne_none.mp hv]))

/-- Settles O25, command by command. -/
theorem firmwareCommands : Obligations.FirmwareCommands := by
  unfold Obligations.FirmwareCommands
  refine ⟨⟨fun s i hd h9 hst hl => ⟨_, exec_fwLoad hd h9 hst hl, fwLoadAct_busy, fun hc => ?_⟩, fun s i r hh hi hst code ver hc =>
      ⟨_, exec_fwLoadEnd hh hi hst, fwLoadEndAct_bad hc, fwLoadEndAct_good hc⟩⟩,
    fun s i hd => ⟨_, exec_fwSwitch hd, fwSwitchAct_busy, fun hc hb hv => ⟨fwSwitchAct_goes hc hb hv, fun hr hrun hrep => ?_⟩⟩,
    fun s i hd => ⟨_, exec_fwRevert hd, fun c => fwRevertAct_turns, fwRevertAct_busy, fwRevertAct_goes⟩,
    fun s hh hr hv => exec_fwRestartEnd hh hr hv⟩
  · rw [fwLoadAct_begins hc]
    refine ⟨bankVer_setBankVer_self s _ none, status_fwLoadBegun s i, fun b hb2 hl2 hne => ?_, fwLoadBegun_frame s i⟩
    rw [bankVer_fwLoadBegun, bankVer_setBankVer s _ b none hl2 hb2, if_neg hne]
  · rw [fwSwitchAct_goes hc hb hv]
    exact changeFor_none hc hr hrun hrep hd.mem hd.area (by omega)

/-! ## Common command codes (R326) -/

section
variable {s : State} (h : held s = false)
include h

theorem cccRow_up (f : I3c → I3c) : cccRow s f = .next { s with i3c := f { s.i3c with nack := false } } :=
  congrArg Host.Outcome.next (if_neg (by simp [h]))

theorem cccGet_up (hd : s.i3c.dyn.isSome) (answer : I3c → List Nat) : cccGet s answer =
    .next { s with i3c := { s.i3c with nack := false, answer := (answer s.i3c).map (fun n => BitVec.ofNat 8 n) } } :=
  congrArg Host.Outcome.next (if_neg (by simp [h, Option.isSome_iff_ne_none.mp hd]))

theorem exec_setdasa {sa : Nat} (hs : staticAddr s = some sa) (a : Nat) :
    exec (.setdasa sa a) s = .next { s with i3c := { s.i3c with nack := false, dyn := some (s.i3c.dyn.getD a) } } :=
  (if_pos hs).trans (cccRow_up h (fun c => { c with dyn := some (c.dyn.getD a) }))

theorem exec_getmwl (hd : s.i3c.dyn.isSome) : exec .getmwl s = .next { s with i3c := { s.i3c with
    nack := false, answer := [BitVec.ofNat 8 (s.i3c.mwl / 256), BitVec.ofNat 8 s.i3c.mwl] } } := by
  refine (cccGet_up h hd _).trans ?_
  simp [beBytes, byte_mod]

theorem exec_getmrl (hd : s.i3c.dyn.isSome) : exec .getmrl s = .next { s with i3c := { s.i3c with
    nack := false, answer := [BitVec.ofNat 8 (s.i3c.mrl / 256), BitVec.ofNat 8 s.i3c.mrl, 1] } } := by
  refine (cccGet_up h hd _).trans ?_
  simp [beBytes, byte_mod]

theorem exec_getpid (hd : s.i3c.dyn.isSome) :
    ∃ l, l.length = 6 ∧ exec .getpid s = .next { s with i3c := { s.i3c with nack := false, answer := l } } :=
  ⟨_, rfl, cccGet_up h hd _⟩

theorem exec_getstatus (hd : s.i3c.dyn.isSome) : ∃ l, l.length = 2 ∧
    exec .getstatus s = .next { s with i3c := { s.i3c with nack := false, answer := l }, free := s.free + 1 } :=
  ⟨_, rfl, (if_neg (by simp [h, Option.isSome_iff_ne_none.mp hd])).trans (cccGet_up (s := { s with free := s.free + 1 }) h hd _)⟩

theorem exec_rstact {a : Nat} (ha : a ≠ 0) (hp : s.od.i3c.prog = false) : exec (.rstact a) s =
    .next { s with i3c := {}, od := { s.od with i3c := {}, waitq := s.od.waitq.filter (· != .i3c) } } :=
  congrArg Host.Outcome.next ((if_neg (by simp [h])).trans ((if_neg ha).trans (if_neg (by simp [hp]))))

theorem exec_cccNack {c : Nat} (hc : cccKnown.contains c = false) :
    exec (.cccNack c) s = .next { s with i3c := { s.i3c with nack := true } } :=
  congrArg Host.Outcome.next (if_neg (by rw [h, hc]; decide))

end

/-! ## Frames (R327) -/

section
variable {s : State} (h : held s = false) (hd : s.i3c.dyn.isSome)
include h hd

theorem exec_sidebandWriteFrame (bs : List Byte) : exec (.sidebandWriteFrame bs) s = .next (writeFrame s bs) :=
  congrArg Host.Outcome.next (if_neg (by simp [h, Option.isSome_iff_ne_none.mp hd]))

theorem exec_sidebandReadFrame : exec .sidebandReadFrame s = .next { s with
    i3c := { s.i3c with answer := (readFrame s).take s.i3c.mrl, frameBad := false }
    od := { s.od with i3c := { s.od.i3c with ovr := false } } } :=
  congrArg Host.Outcome.next (if_neg (by simp [h, Option.isSome_iff_ne_none.mp hd]))

end

theorem writeFrame_bad {s : State} {bs : List Byte} (h : frameOk bs = false) :
    writeFrame s bs = bump { s with i3c := { s.i3c with frameBad := true } } Cnt.i3cFrameBad 1 := by
  unfold writeFrame
  rw [if_pos (by simp [h])]
  rfl

theorem writeFrame_good {s : State} {bs : List Byte} (h : frameOk bs = true) (hb : s.od.i3c.busy = none) :
    writeFrame s bs = opStart { s with
      i3c := { s.i3c with frameBad := false, wasRead := cmdOp (frameCmd bs) == 1 }
      od := { s.od with i3c := { s.od.i3c with
        sel := w64 (leNat ((bs.drop 1).take 8)) &&& 0xFFFFFFFFFFF00000
        dat := if cmdOp (frameCmd bs) = 1 then s.od.i3c.dat else putDat s.od.i3c.dat (frameData bs) } } } .i3c (frameCmd bs) := by
  unfold writeFrame
  rw [if_neg (by simp [h])]
  dsimp only
  rw [if_neg (by simp [hb])]
  rfl

/-- The data of a read frame: those of a READ that succeeded. -/
def frameReadData (s : State) : List Byte :=
  if s.od.i3c.busy.isNone && s.i3c.wasRead && !s.i3c.frameBad && s.od.i3c.code == Code.ok then wordBytes (datWords s.od.i3c s.od.i3c.rlen) else []

/-- A read frame before its CRC. -/
def frameBody (s : State) : List Byte :=
  leBytes 8 (odstsWord (if s.i3c.frameBad then { s.od.i3c with code := Code.opBad, rlen := 0 } else s.od.i3c)).toNat ++ frameReadData s

theorem readFrame_eq (s : State) : readFrame s = frameBody s ++ leBytes 4 (crc32 (frameBody s)) := rfl

theorem frameBody_busy {s : State} (h : s.od.i3c.busy.isSome) : (frameBody s).length = 8 := by
  have hd : frameReadData s = [] := if_neg (by simp [Option.isSome_iff_ne_none.mp h])
  rw [frameBody, hd, List.append_nil, leBytes_len]

theorem frameBody_read {s : State} (hb : s.i3c.frameBad = false) (hn : s.od.i3c.busy = none) (hr : s.i3c.wasRead = true)
    (hc : s.od.i3c.code = Code.ok) :
    frameBody s = leBytes 8 (odstsWord s.od.i3c).toNat ++ wordBytes (datWords s.od.i3c s.od.i3c.rlen) := by
  have hd : frameReadData s = wordBytes (datWords s.od.i3c s.od.i3c.rlen) := if_pos (by simp [hb, hn, hr, hc])
  rw [frameBody, hd, hb]
  rfl

theorem frameBody_bad {s : State} (hb : s.i3c.frameBad = true) :
    frameBody s = leBytes 8 (odstsWord { s.od.i3c with code := Code.opBad, rlen := 0 }).toNat := by
  have hd : frameReadData s = [] := if_neg (by simp [hb])
  rw [frameBody, hd, List.append_nil, hb]
  rfl

/-! ## The TAP (R416 to R418) -/

/-- The IDCODE is 32 bits: its fields do not overlap. -/
theorem idcodeWord_toNat (s : State) :
    (idcodeWord s).toNat = s.silicon % 16 * 2 ^ 28 + 0x9E17 * 2 ^ 12 + Config.tapMfr.toNat * 2 + 1 := by
  have hm := Config.tapMfr.isLt
  unfold idcodeWord w64
  rw [BitVec.toNat_ofNat]
  exact Nat.mod_eq_of_lt (by omega)

theorem idcodeWord_fields (s : State) :
    wfld (idcodeWord s) 0 0 = 1 ∧ wfld (idcodeWord s) 27 12 = 0x9E17 ∧ wfld (idcodeWord s) 31 28 = s.silicon % 16 := by
  have hm := Config.tapMfr.isLt
  simp only [wfld, fld, idcodeWord_toNat, Nat.shiftRight_eq_div_pow]
  omega

theorem exec_scan_low {s : State} (h : s.boot.testMode = false) : exec .scan s = .next { s with dbg := { s.dbg with ir := 0x20 } } :=
  congrArg Host.Outcome.next (if_neg (by simp [h]))

theorem exec_scan_high {s : State} (h : s.boot.testMode = true) :
    exec .scan s = .next { s with dbg := { s.dbg with ir := 0x20, dr := Config.freeValue s.free }, free := s.free + 1 } :=
  congrArg Host.Outcome.next (if_pos h)

section
variable (s : State) (sibs : Nat) (mbist : Option (Nat × Bool))

/-- The results of the memory tests after a shift of the network. -/
def mbistAfter : List (Nat × Bool) :=
  match mbist with
  | some r => if bitOf sibs 0 && s.boot.testMode then s.dbg.mbist.filter (fun x => x.1 != r.1) ++ [r] else s.dbg.mbist
  | none => s.dbg.mbist

/-- The state after a shift of the network that selects nothing. -/
def networkShifted : State := { s with
  dbg := { s.dbg with ir := 0x10, dr := Config.freeValue s.free, mbist := mbistAfter s sibs mbist }, free := s.free + 1 }

theorem ijtag_eq (sel : Option W64) : ijtag s sibs mbist sel = match sel with
    | some w => if bitOf sibs 5 && !held s then setVal (networkShifted s sibs mbist) 10 0x30 0 (w &&& 0xFF3F) else networkShifted s sibs mbist
    | none => networkShifted s sibs mbist := by
  unfold ijtag networkShifted mbistAfter
  cases mbist with
  | none => rfl
  | some r =>
    dsimp only
    cases bitOf sibs 0 && s.boot.testMode <;> rfl

theorem mbistAfter_kept (h : bitOf sibs 0 = false ∨ s.boot.testMode = false) : mbistAfter s sibs mbist = s.dbg.mbist := by
  unfold mbistAfter
  split
  · exact if_neg (by rcases h with h | h <;> simp [h])
  · rfl

theorem ijtag_frame (sel : Option W64) : ijtag s sibs mbist sel = { networkShifted s sibs mbist with od := (ijtag s sibs mbist sel).od } := by
  rw [ijtag_eq]
  split
  · split <;> rfl
  · rfl

theorem ijtag_od_kept {sel : Option W64} (h : sel = none ∨ bitOf sibs 5 = false ∨ held s = true) : (ijtag s sibs mbist sel).od = s.od := by
  rw [ijtag_eq]
  split
  · next w =>
    rw [if_neg (by rcases h with h | h | h <;> simp_all)]
    rfl
  · rfl

theorem ijtag_od_selected {w : W64} (h : bitOf sibs 5 = true) (hh : held s = false) :
    (ijtag s sibs mbist (some w)).od = { s.od with vals := s.od.vals.put (okey 10 0x30 0) (w &&& 0xFF3F) } := by
  rw [ijtag_eq]
  dsimp only
  rw [if_pos (by simp [h, hh])]
  rfl

end

/-- Settles O26: the codes, the frames, the instructions of the TAP. -/
theorem sidebandAndTap : Obligations.SidebandAndTap := by
  unfold Obligations.SidebandAndTap
  refine ⟨fun s h => ⟨fun a => cccRow_up h (fun c => { c with dyn := some (c.dyn.getD a) }), fun sa a hs => exec_setdasa h hs a,
      cccRow_up h (fun c => { c with dyn := none }), fun e => cccRow_up h (fun c => { c with ibiOn := c.ibiOn || bitOf e 0 }),
      fun e => cccRow_up h (fun c => { c with ibiOn := c.ibiOn && !bitOf e 0 }), fun n => cccRow_up h (fun c => { c with mwl := n }),
      fun n => cccRow_up h (fun c => { c with mrl := n }),
      fun hd => ⟨cccGet_up h hd (fun _ => [0x06]), cccGet_up h hd (fun _ => [0x00]), exec_getpid h hd, exec_getmwl h hd, exec_getmrl h hd, exec_getstatus h hd⟩,
      fun a ha hp => exec_rstact h ha hp, fun c hc => exec_cccNack h hc⟩,
    fun s h hd => ⟨fun bs hb => ?_, fun bs hb hn => ?_, _, exec_sidebandReadFrame h hd, rfl, frameBody s, rfl, frameBody_busy, frameBody_read⟩,
    fun s => ⟨⟨rfl, idcodeWord_fields s⟩, rfl, exec_scan_low, fun ht => ⟨_, exec_scan_high ht⟩, fun sibs mbist sel =>
      ⟨_, Config.freeValue s.free, rfl, ?_, fun hb => ?_, ijtag_od_kept s sibs mbist, fun w hw hb hh => ?_⟩⟩⟩
  · refine ⟨_, _, (exec_sidebandWriteFrame h hd bs).trans (congrArg Host.Outcome.next (writeFrame_bad hb)), rfl, exec_sidebandReadFrame h hd, ?_⟩
    exact congrArg (fun b : List Byte => (b ++ leBytes 4 (crc32 b)).take s.i3c.mrl) (frameBody_bad rfl)
  · rw [exec_sidebandWriteFrame h hd, writeFrame_good hb hn]
  · rw [ijtag_frame]; rfl
  · rw [ijtag_frame]; exact mbistAfter_kept s sibs mbist hb
  · rw [hw, ijtag_od_selected s sibs mbist hb hh]

end Sys2Proof.Machine
end

section
/-! PROOF. Bring-up stage by stage (R380 to R386, R395), samples of time (R370), and the soft reload (R388 to R390). -/

namespace Sys2Proof.Machine

/-! ## The stages (R380 to R386) -/

section
variable {s : State} (fails : List Nat) (flash : List (Nat × Nat × List Nat))

/-- The tile of every list of stage 1 whose PLLs lock goes on. -/
theorem stageEnd_locked (h : s.boot.stage = 1) (hl : (pllsBuilt s).all (fun x => s.boot.plls.contains x) = true) :
    stageEnd s fails flash = enterSelect s := by
  unfold stageEnd
  rw [h]
  exact if_pos hl

theorem stageEnd_unlocked (h : s.boot.stage = 1) (hl : (pllsBuilt s).all (fun x => s.boot.plls.contains x) = false) :
    stageEnd s fails flash = s := by
  unfold stageEnd
  rw [h]
  exact if_neg (by rw [hl]; decide)

theorem stageEnd_noGeneration (h : s.boot.stage = 2) (hg : s.otp.gen = none) : stageEnd s fails flash = resumeOps (stopStage s) := by
  unfold stageEnd
  rw [h]
  exact if_pos (by simp [hg])

theorem stageEnd_selected (h : s.boot.stage = 2) (hg : s.otp.gen.isSome) (hp : s.boot.plls.contains 0 = true) :
    stageEnd s fails flash = resumeOps (setStage s 3) := by
  unfold stageEnd
  rw [h]
  exact (if_neg (by simp [Option.isSome_iff_ne_none.mp hg])).trans (if_neg (by rw [hp]; decide))

theorem stageEnd_whole (h : s.boot.stage = 3) (hf : fixedOk s = true) : stageEnd s fails flash = setStage s 4 := by
  simp only [stageEnd, h, hf, if_true]

theorem stageEnd_notWhole (h : s.boot.stage = 3) (hf : fixedOk s = false) : stageEnd s fails flash = stopStage s := by
  simp only [stageEnd, h, hf, Bool.false_eq_true, if_false]

theorem stageEnd_bist (h : s.boot.stage = 4) :
    stageEnd s fails flash = setStage { s with boot := { s.boot with tileFails := if valU s 1 6 = 1 then fails else [] } } 5 := by
  unfold stageEnd
  rw [h]
  rfl

theorem stageEnd_tiles (h : s.boot.stage = 5) : stageEnd s fails flash =
    { setStage (enumTiles s fails) 6 with mp := { s.mp with initReq := portsEnabled s } } := by
  unfold stageEnd
  rw [h]
  rfl

theorem enumTiles_map (s : State) : (enumTiles s fails).rel.map.length = cfgTiles s :=
  (List.length_map _).trans List.length_range

theorem stageEnd_ports (h : s.boot.stage = 6) (hu : s.mp.initReq.all (fun m => s.mp.up.contains m) = true) :
    stageEnd s fails flash = evDrain (setStage s (if anyFlash s then 7 else 9)) := by
  unfold stageEnd
  rw [h]
  refine (if_pos hu).trans ?_
  cases anyFlash s <;> rfl

theorem stageEnd_flash (h : s.boot.stage = 7) : stageEnd s fails flash = setStage (flashEnum s flash) 8 := by
  unfold stageEnd
  rw [h]
  rfl

theorem stageEnd_mount (h : s.boot.stage = 8) :
    stageEnd s fails flash = setStage (flashMount s fails.isEmpty (flash.map (fun x => (x.1, x.2.1)))) 9 := by
  unfold stageEnd
  rw [h]
  rfl

theorem stageEnd_firmware (h : s.boot.stage = 9) (hv : s.core.ver0.isSome) (hl : fwLoading s = false) :
    stageEnd s fails flash = setStage (updCore s (fun c => { c with st := runState s })) 10 := by
  unfold stageEnd
  rw [h]
  exact if_pos (by simp [hv, hl])

theorem exec_bringupStageEnd (hh : held s = false) (hs : s.boot.stopped = false) :
    exec (.bringupStageEnd fails flash) s = .next (stageEnd s fails flash) :=
  congrArg Host.Outcome.next (if_neg (by simp [hh, hs]))

end

/-! ## The other events of bring-up -/

section
variable {s : State} (hh : held s = false)
include hh

theorem exec_pllLock {n : Nat} (hb : (pllsBuilt s).contains n = true) (hn : s.boot.plls.contains n = false) :
    exec (.pllLock n) s = .next { s with boot := { s.boot with plls := s.boot.plls ++ [n] } } :=
  congrArg Host.Outcome.next (if_neg (by rw [hh, hb, hn]; decide))

theorem exec_mpInitAck {m : Nat} (hr : s.mp.initReq.contains m = true) (hn : s.mp.up.contains m = false) :
    exec (.mpInitAck m) s = .next { s with mp := { s.mp with up := s.mp.up ++ [m] } } :=
  congrArg Host.Outcome.next (if_neg (by rw [hh, hr, hn]; decide))

theorem exec_mapRebuildEnd (hr : s.fl.rebuild = true) : exec .mapRebuildEnd s = .next (mountInstall (mapRebuild s) []) :=
  congrArg Host.Outcome.next (if_neg (by simp [hh, hr]))

theorem exec_flashMountEnd (hm : s.boot.mountDue = true) (readable : Bool) (flash : List (Nat × Nat × List Nat)) (samples : List (Nat × Nat)) :
    exec (.flashMountEnd readable flash samples) s =
      .next (flashMount (flashEnum (channelsOff { s with boot := { s.boot with mountDue := false } }) flash) readable samples) :=
  congrArg Host.Outcome.next (if_neg (by simp [hh, hm]))

theorem exec_todSample (sec ns : Nat) (lock : Bool) : exec (.todSample sec ns lock) s = .next (todSample s sec ns lock) :=
  congrArg Host.Outcome.next (if_neg (by simp [hh]))

end

/-! ## Samples of time (R370) -/

/-- A sample in the range of its fields, taken where `ok`. -/
theorem todSample_eq {s : State} {sec ns : Nat} {lock ok : Bool} (hs : sec < 2 ^ 48) (hn : ns < 2 ^ 32)
    (hok : ok = true ↔ lock = true ∧ ns < 1000000000 ∧
      ¬ (s.tod.any = true ∧ sec * 1000000000 + ns < s.tod.sec * 1000000000 + s.tod.ns)) :
    todSample s sec ns lock = { s with
      tod := (if ok then { valid := true, sec := sec, ns := ns, any := true } else { s.tod with valid := false })
      core := (if ok = s.tod.valid then s.core else { s.core with intr := s.core.intr ||| 2 ^ 47 }) } := by
  have hval : (lock && decide (ns < 1000000000) && !(s.tod.any && decide (sec * 1000000000 + ns < s.tod.sec * 1000000000 + s.tod.ns))) = ok := by
    rw [Bool.eq_iff_iff, hok]
    simp only [Bool.and_eq_true, decide_eq_true_eq, Bool.not_eq_true', Bool.and_eq_false_iff, decide_eq_false_iff_not, not_and_or,
      Bool.not_eq_true, and_assoc]
  unfold todSample
  rw [Nat.mod_eq_of_lt hs, Nat.mod_eq_of_lt hn]
  dsimp only
  rw [hval]
  split <;> rfl

/-- Settles O29, stage by stage. -/
theorem bringUpStages : Obligations.BringUpStages := by
  unfold Obligations.BringUpStages
  refine ⟨fun s hh => ⟨fun n => exec_pllLock hh, fun m => exec_mpInitAck hh, exec_mapRebuildEnd hh, exec_flashMountEnd hh,
      fun hs fails flash => ⟨_, exec_bringupStageEnd fails flash hh hs, fun h => ⟨stageEnd_locked fails flash h, stageEnd_unlocked fails flash h⟩,
        stageEnd_noGeneration fails flash, stageEnd_selected fails flash,
        stageEnd_whole fails flash, stageEnd_notWhole fails flash, fun h => ?_, fun h => ?_,
        stageEnd_ports fails flash, stageEnd_flash fails flash, fun h u hu => ?_, stageEnd_firmware fails flash⟩⟩,
    fun sec ns lock s hh hsec hns ok hok => ?_⟩
  · rw [stageEnd_bist fails flash h]; exact ⟨rfl, rfl⟩
  · rw [stageEnd_tiles fails flash h]; exact ⟨rfl, enumTiles_map fails s, rfl⟩
  · rw [stageEnd_mount fails flash h, hu]; rfl
  · rw [exec_todSample hh, todSample_eq hsec hns hok]

/-! ## The soft reload (R388 to R390) -/

section
variable {s : State} {i : Inst}

/-- The record of a soft reload that begins in `u`, asked for in `s`. -/
def reloadOf (s : State) (i : Inst) (u : State) : Reload :=
  { path := i.path, cseq := i.cseq, worked := false
    slots := (residents u).filterMap (fun e => e.2.slot.map (fun p => (e.1, p)))
    oldGen := s.otp.gen.getD 0xFF }

theorem exec_resetSoft (h : Due s 1 1 i) : exec .resetSoft s = .next (resetSoftAct s i) :=
  congrArg Host.Outcome.next (cmdRow_due h resetSoftAct)

theorem resetSoftAct_refused (h : reloadCode s ≠ Code.ok) : Ends s i none (reloadCode s) 0 0 (resetSoftAct s i) := by
  have hr : resetSoftAct s i = refuse s i none (reloadCode s) := if_pos h
  rw [hr]
  exact refuse_ends _ _ _ _

theorem resetSoftAct_begins (h : reloadCode s = Code.ok) {u : State} (hu : u = replayAbort (setInst s { i with st := .pending, part := 32 })) :
    resetSoftAct s i = forEach (residents u) { u with boot := { u.boot with reload := some (reloadOf s i s) } } (fun s e => reloadLeave s e.1) := by
  subst hu
  exact if_neg (not_not.mpr h)

theorem replayAbort_none (h : s.dbg.replay = none) : replayAbort s = s := by
  unfold replayAbort
  rw [h]

theorem exec_softReloadWork {r : Reload} (hh : held s = false) (hr : s.boot.reload = some r) (hw : r.worked = false) (hn : residents s = []) :
    exec .softReloadWork s = .next (reloadWork s r) := by
  refine congrArg Host.Outcome.next ?_
  rw [hr]
  exact if_neg (by simp [hh, hw, hn])

end

/-- Settles O30: refused, or every resident partition leaves; then the work. -/
theorem softReload : Obligations.SoftReload := by
  unfold Obligations.SoftReload
  refine ⟨fun s i hd => ⟨_, exec_resetSoft hd, resetSoftAct_refused, fun hc hr hn => ?_, fun hc =>
      ⟨_, fun hr => replayAbort_none hr, reloadOf s i s, rfl, rfl, rfl, resetSoftAct_begins hc rfl⟩⟩,
    fun s r hh hr hw hn => exec_softReloadWork hh hr hw hn⟩
  have hs : residents (setInst s { i with st := .pending, part := 32 }) = [] := hn
  rw [resetSoftAct_begins hc (replayAbort_none (s := setInst s { i with st := .pending, part := 32 }) hr).symm, hs, reloadOf, hn]
  rfl

end Sys2Proof.Machine
end

section
/-! PROOF. The words of an Element Engine: elementwise FP32, INT32 and raw bits (R287, R288, R291), bad words (R284), and the
control instructions (R283, R309). -/

namespace Sys2Proof.Machine

/-! ## The value of an FP32 row (Table EE-6) -/

/-- A zero rounds to the zero of its sign. -/
theorem near_zero {v : Dy} (h : v.m = 0) : near v = fp32.pack v.neg 0 0 := by
  unfold near rnd32 FloatFmt.round
  rw [if_pos h]

theorem f32Div_val (a b : Nat) :
    (f32Div a b).1 = if (num b).m = 0 then fp32.maxCode ((num a).neg != (num b).neg) else near ((num a).div (num b)) := by
  unfold f32Div num
  dsimp only
  split <;> rfl

theorem f32Sqrt_val (a : Nat) :
    (f32Sqrt a).1 = if (num a).m ≠ 0 ∧ (num a).neg = false then near (num a).sqrt else if (num a).m = 0 then near (num a) else 0 := by
  have h : f32Sqrt a = if (num a).m = 0 then (fp32.pack (num a).neg 0 0, (in32 a).2)
      else if (num a).neg then (0, (in32 a).2.add { nan := 1 }) else (near (num a).sqrt, (in32 a).2.add (rnd32 (num a).sqrt).2) := rfl
  rw [h]
  by_cases hm : (num a).m = 0
  · rw [if_pos hm, if_neg (by simp [hm]), if_pos hm, near_zero hm]
  · rw [if_neg hm, if_neg hm]
    cases hn : (num a).neg <;> simp [hm]

theorem f32Cmp_lt (a b : Nat) : (f32Cmp Dy.lt a b).1 = if (num a).lt (num b) then 0x3F800000 else 0 := rfl

theorem f32Cmp_le (a b : Nat) : (f32Cmp dyLe a b).1 = if (num b).lt (num a) then 0 else 0x3F800000 := by
  change (if (!(num b).lt (num a)) = true then one32 else 0) = _
  cases (num b).lt (num a) <;> rfl

theorem f32Cmp_eq (a b : Nat) : (f32Cmp dyEq a b).1 = if (num a).lt (num b) || (num b).lt (num a) then 0 else 0x3F800000 := by
  change (if (!(num a).lt (num b) && !(num b).lt (num a)) = true then one32 else 0) = _
  cases (num a).lt (num b) <;> cases (num b).lt (num a) <;> rfl

theorem selOp_val (a b c : Nat) : (selOp a b c).1 = near (if (num c).m = 0 then num b else num a) := by
  unfold selOp near num
  dsimp only
  rw [ite_not]

/-- An FP32 row whose operation gives its value. -/
theorem fp_acts (x : LaneRow) (slow : Nat → Bool) (f : Nat → Nat → Nat → Nat × Census)
    (hcmd : ∀ q (w : W64) s, exec (x.cmd q w) s = .next (eltwise s q w.toNat x.op x.useB x.useC .fp (slow w.toNat) f))
    (hop : opcodes.contains x.op = true) (hv : ∀ a b c, (f a b c).1 = x.val a b c) : x.Acts (some id) :=
  eltwise_acts x _ .fp slow f hcmd hop (fun a b c _ _ _ => by rw [hv]) (.inl ⟨rfl, rfl, fun a b c _ _ _ => hv a b c⟩)

/-- Settles O31, row by row. -/
theorem floatLanes : Obligations.FloatLanes := by
  unfold Obligations.FloatLanes floatRows
  simp only [List.forall_mem_cons, List.not_mem_nil, false_implies, implies_true, and_true]
  exact ⟨fp_acts _ (fun _ => false) (fun a b _ => f32Add a b) (fun _ _ _ => rfl) (by decide) (fun _ _ _ => rfl),
    fp_acts _ (fun _ => false) (fun a b _ => f32Sub a b) (fun _ _ _ => rfl) (by decide) (fun _ _ _ => rfl),
    fp_acts _ (fun _ => false) (fun a b _ => f32Mul a b) (fun _ _ _ => rfl) (by decide) (fun _ _ _ => rfl),
    fp_acts _ (fun w => fBsel w == 0) (fun a b _ => f32Div a b) (fun _ _ _ => rfl) (by decide) (fun a b _ => f32Div_val a b),
    fp_acts _ (fun _ => true) (fun a _ _ => f32Sqrt a) (fun _ _ _ => rfl) (by decide) (fun a _ _ => f32Sqrt_val a),
    fp_acts _ (fun _ => false) (fun a b _ => f32Min a b) (fun _ _ _ => rfl) (by decide) (fun _ _ _ => rfl),
    fp_acts _ (fun _ => false) (fun a b _ => f32Max a b) (fun _ _ _ => rfl) (by decide) (fun _ _ _ => rfl),
    fp_acts _ (fun _ => false) (fun a _ _ => f32Abs a) (fun _ _ _ => rfl) (by decide) (fun _ _ _ => rfl),
    fp_acts _ (fun _ => false) (fun a _ _ => f32Neg a) (fun _ _ _ => rfl) (by decide) (fun _ _ _ => rfl),
    fp_acts _ (fun _ => false) (fun a b _ => f32Cmp Dy.lt a b) (fun _ _ _ => rfl) (by decide) (fun a b _ => f32Cmp_lt a b),
    fp_acts _ (fun _ => false) (fun a b _ => f32Cmp dyLe a b) (fun _ _ _ => rfl) (by decide) (fun a b _ => f32Cmp_le a b),
    fp_acts _ (fun _ => false) (fun a b _ => f32Cmp dyEq a b) (fun _ _ _ => rfl) (by decide) (fun a b _ => f32Cmp_eq a b),
    fp_acts _ (fun _ => false) selOp (fun _ _ _ => rfl) (by decide) selOp_val⟩

/-! ## INT32 and raw bits -/

theorem i32Op_val (g : Int → Int → Int) (a b : Nat) : (i32Op g a b).1 = sat32 (g (signed 32 a) (signed 32 b)) := satInt32_eq _

/-- An INT32 row whose operation gives its value. -/
theorem int_acts (x : LaneRow) (g : Int → Int → Int)
    (hcmd : ∀ q (w : W64) s, exec (x.cmd q w) s = .next (eltwise s q w.toNat x.op x.useB x.useC .int false (fun a b _ => i32Op g a b)))
    (hop : opcodes.contains x.op = true) (hv : ∀ a b c, x.val a b c = sat32 (g (signed 32 a) (signed 32 b))) :
    x.Acts (some (fun v => near (Dy.ofInt (signed 32 v)))) :=
  eltwise_acts x _ .int (fun _ => false) _ hcmd hop (fun a b c _ _ _ => by rw [i32Op_val, hv])
    (.inr (.inl ⟨rfl, rfl, fun a b c _ _ _ => by rw [i32Op_val, hv]⟩))

/-- A row of raw bits whose operation gives its value. -/
theorem bits_acts (x : LaneRow) (g : Nat → Nat → Nat)
    (hcmd : ∀ q (w : W64) s, exec (x.cmd q w) s = .next (eltwise s q w.toNat x.op x.useB x.useC .raw false (fun a b _ => bits32 g a b)))
    (hop : opcodes.contains x.op = true) (hv : ∀ a b c, x.val a b c = g a b) : x.Acts none :=
  eltwise_acts x _ .raw (fun _ => false) _ hcmd hop (fun a b c _ _ _ => by rw [hv]; exact Nat.mod_mod _ _) (.inr (.inr ⟨rfl, rfl⟩))

theorem min_if (x y : Int) : min x y = if y < x then y else x := by
  rw [min_comm, min_def]
  split <;> split <;> omega

theorem max_if (x y : Int) : max x y = if x < y then y else x := by
  rw [max_def]
  split <;> split <;> omega

/-- Settles O32, row by row. -/
theorem integerLanes : Obligations.IntegerLanes := by
  unfold Obligations.IntegerLanes integerRows bitRows
  simp only [List.forall_mem_cons, List.not_mem_nil, false_implies, implies_true, and_true]
  refine ⟨⟨int_acts _ (· + ·) (fun _ _ _ => rfl) (by decide) (fun _ _ _ => rfl),
      int_acts _ (· - ·) (fun _ _ _ => rfl) (by decide) (fun _ _ _ => rfl),
      int_acts _ (· * ·) (fun _ _ _ => rfl) (by decide) (fun _ _ _ => rfl),
      int_acts _ (fun x y => if y < x then y else x) (fun _ _ _ => rfl) (by decide) (fun a b _ => ?_),
      int_acts _ (fun x y => if x < y then y else x) (fun _ _ _ => rfl) (by decide) (fun a b _ => ?_)⟩,
    bits_acts _ (fun x y => x &&& y) (fun _ _ _ => rfl) (by decide) (fun _ _ _ => rfl),
    bits_acts _ (fun x y => x ||| y) (fun _ _ _ => rfl) (by decide) (fun _ _ _ => rfl),
    bits_acts _ (fun x y => x ^^^ y) (fun _ _ _ => rfl) (by decide) (fun _ _ _ => rfl),
    bits_acts _ (fun x y => x <<< (y % 32)) (fun _ _ _ => rfl) (by decide) (fun a b _ => (Nat.shiftLeft_eq a (b % 32)).symm),
    bits_acts _ (fun x y => x >>> (y % 32)) (fun _ _ _ => rfl) (by decide) (fun a b _ => (Nat.shiftRight_eq_div_pow a (b % 32)).symm),
    bits_acts _ (fun x y => sar32 x (y % 32)) (fun _ _ _ => rfl) (by decide) (fun _ _ _ => rfl),
    eltwise_acts _ _ .raw (fun _ => false) (fun a _ _ => (a, {})) (fun _ _ _ => rfl) (by decide) (fun _ _ _ _ _ _ => rfl) (.inr (.inr ⟨rfl, rfl⟩))⟩
  · exact congrArg sat32 (min_if _ _)
  · exact congrArg sat32 (max_if _ _)

/-! ## Bad words (R284) -/

section
variable {q : Nat} {w : W64} {s : State} {sg : Seg} (hh : held s = false) (hr : (engOf s q).run = some sg) (ho : fOp w.toNat ∉ opcodes)
include hh hr ho

theorem word_badOp {c : Instr} {op : Nat} {bad : Eng → Seg → Bool} {regs : List Nat} {go : Eng → Seg → State}
    (h : exec c s = .next (issueWord s q w.toNat op bad regs go)) : exec c s = .next (endSegment s q sg 1 sg.idx) := by
  rw [h, issueWord_badOp hh hr ho]

theorem lane_badOp {c : Instr} {op : Nat} {useB useC slow : Bool} {k : ResKind} {f : Nat → Nat → Nat → Nat × Census}
    (h : exec c s = .next (eltwise s q w.toNat op useB useC k slow f)) : exec c s = .next (endSegment s q sg 1 sg.idx) := by
  rw [h, eltwise_badOp hh hr ho]

/-- Whatever command brings it, a word of no opcode of Table EE-6 ends its segment. -/
theorem eeRows_badOp : ∀ c ∈ eeRows q w, exec c s = .next (endSegment s q sg 1 sg.idx) := by
  have word := @word_badOp q w s sg hh hr ho
  have lane := @lane_badOp q w s sg hh hr ho
  unfold eeRows
  simp only [List.forall_mem_cons, List.not_mem_nil, false_implies, implies_true, and_true]
  exact ⟨word rfl, word rfl, word rfl, word rfl, word rfl, word rfl,
    lane rfl, lane rfl, lane rfl, lane rfl, lane rfl, lane rfl, lane rfl, lane rfl, lane rfl, lane rfl, lane rfl, lane rfl, lane rfl,
    lane rfl, lane rfl, lane rfl, lane rfl, lane rfl, lane rfl, lane rfl, lane rfl, lane rfl, lane rfl, lane rfl, lane rfl,
    word rfl, word rfl,
    word rfl, word rfl, word rfl, word rfl, word rfl, word rfl, word rfl, word rfl⟩

end

theorem laneRows_opcodes : ∀ x ∈ floatRows ++ integerRows ++ bitRows, opcodes.contains x.op = true := by decide

/-- Every row of Format A is elementwise. -/
theorem laneRows_eltwise : ∀ x ∈ floatRows ++ integerRows ++ bitRows, ∀ q (w : W64) s, ∃ k slow f,
    exec (x.cmd q w) s = .next (eltwise s q w.toNat x.op x.useB x.useC k slow f) := by
  unfold floatRows integerRows bitRows
  simp only [List.cons_append, List.nil_append, List.forall_mem_cons, List.not_mem_nil, false_implies, implies_true, and_true]
  and_intros
  all_goals exact fun _ _ _ => ⟨_, _, _, rfl⟩

/-- Settles O33: either kind of word goes the one way of `issueWord`. -/
theorem badWordsEndSegments : Obligations.BadWordsEndSegments := by
  unfold Obligations.BadWordsEndSegments
  intro q w s sg hh hr hl
  refine ⟨fun ho c hc => ?_, fun x hx ho hb => ?_⟩
  · exact ⟨_, eeRows_badOp hh hr ho c hc, endSegment_ended s q sg 1 sg.idx hl⟩
  · obtain ⟨k, slow, f, he⟩ := laneRows_eltwise x hx q w s
    exact ⟨_, he, by rw [eltwise_bad hh hr ho (laneRows_opcodes x hx) _ _ hb]; exact endSegment_ended s q sg 1 sg.idx hl⟩

/-! ## Control instructions (R283, R309) -/

section
variable {q : Nat} {w : W64} {s : State} {sg : Seg} (hb : bitOf w.toNat 32 = false)
include hb

theorem exec_endSeg (h : Issues s q w 0x01 [] sg) : exec (.endSeg q w) s = .next (endSegment s q sg.control 0 sg.idx) :=
  congrArg Host.Outcome.next (issueWord_go h hb (by decide) _)

theorem exec_setlen (h : Issues s q w 0x02 [] sg) : exec (.setlen q w) s =
    .next (setEng s q { setLen (engOf s q) sg.slot
      (if bitOf w.toNat 33 then (sxOf (engOf s q) sg.slot (fld w.toNat 55 50)).toNat else fld w.toNat 31 0) with run := some sg.control.next }) :=
  congrArg Host.Outcome.next (issueWord_go h hb (by decide) _)

theorem exec_sig (h : Issues s q w 0x03 [] sg) : exec (.sig q w) s =
    .next (if 64 ≤ (engOf s q).sigFifo.length then setEng s q { engOf s q with stalled := true }
      else setEng s q { engOf s q with
        sigFifo := (engOf s q).sigFifo ++ [w64 (sg.slot * 2 ^ 16 + fld w.toNat 15 0)], stalled := false, run := some sg.control.next }) :=
  congrArg Host.Outcome.next (issueWord_go h hb (by decide) _)

theorem exec_fence (h : Issues s q w 0x04 [] sg) : exec (.fence q w) s =
    .next (if (engOf s q).xfers.any (fun x => x.slot == sg.slot) then s else setEng s q { engOf s q with run := some sg.control.next }) :=
  congrArg Host.Outcome.next (issueWord_go h hb (by decide) _)

theorem exec_sxset (h : Issues s q w 0x08 [] sg) : exec (.sxset q w) s =
    .next (setEng s q { setSx (engOf s q) sg.slot (fld w.toNat 55 50) (w64 (fld w.toNat 31 0)) with run := some sg.control.next }) :=
  congrArg Host.Outcome.next (issueWord_go h hb (by decide) _)

theorem exec_sxget (h : Issues s q w 0x09 [fld w.toNat 49 46] sg) (hr : regOk s sg.slot (fld w.toNat 49 46) = true) :
    exec (.sxget q w) s = .next (setEng s q { setSx (engOf s q) sg.slot (fld w.toNat 55 50)
      (w64 (lane s q (fld w.toNat 49 46) (fld w.toNat 45 41) (fld w.toNat 40 34))) with run := some sg.control.next }) := by
  refine congrArg Host.Outcome.next ((issueWord_go h (by simp [hb, hr]) (by decide) _).trans ?_)
  dsimp only
  rw [plainRead_sound h.sound]
  rfl

end

/-- One cycle of a control word is no part of what a segment's end is told by. -/
theorem SegEnded.control {s t : State} {q : Nat} {sg : Seg} {status index : Nat} (h : SegEnded s q sg.control status index t) :
    SegEnded s q sg status index t := ⟨h.rest, h.others, h.eng⟩

theorem endSegment_full {s : State} {q : Nat} {sg : Seg} {status index : Nat} (h : 64 ≤ (engOf s q).segFifo.length) :
    endSegment s q sg status index = setEng s q { engOf s q with stalled := true } := if_pos h

/-- Settles O34, word by word. -/
theorem controlWords : Obligations.ControlWords := by
  unfold Obligations.ControlWords
  intro q w s sg hb
  refine ⟨fun h => ⟨fun hl => ⟨_, exec_endSeg hb h, (endSegment_ended _ _ _ _ _ hl).control⟩, fun hl => ?_⟩,
    fun h v hv => ?_, fun h => ⟨fun hl => ?_, fun hl => ?_⟩, fun h => ⟨fun hx => ?_, fun hx => ?_⟩, exec_sxset hb, exec_sxget hb⟩
  · rw [exec_endSeg hb h, endSegment_full hl]
  · rw [exec_setlen hb h, ← hv]; rfl
  · rw [exec_sig hb h, if_neg (Nat.not_le.mpr hl)]; rfl
  · rw [exec_sig hb h, if_pos hl]
  · rw [exec_fence hb h, if_neg (by rw [hx]; decide)]; rfl
  · rw [exec_fence hb h, if_pos hx]

end Sys2Proof.Machine
end

section
/-! PROOF. CVT (R288, R289, Table EE-7): the elements and block scales of a converted row, and what the instruction leaves. -/

namespace Sys2Proof.Machine

/-! ## The row that a conversion writes, element by element -/

section
variable (s : State) (e : Eng) (p w i m : Nat)

/-- Block `b` of a conversion to an MX format. -/
def cvtBlock (g : MxFmt) (b : Nat) : Nat × List Nat × Census :=
  g.convBlock ((List.range 32).map (fun k =>
    (if 32 * b + k < m then (readCol (rowOf e (fMa w) i) (cFsrc w) (cSoff w + (32 * b + k))).1 else Dy.zero,
      cvtRnd s e p w i (cDoff w + (32 * b + k)))))

/-- Element `j` of a conversion. -/
def cvtElem (f : Fmt) (j : Nat) : Nat :=
  if cFsrc w = cFdst w then (if j < m then elemAt (rowOf e (fMa w) i) f.bits (cSoff w + j) else 0)
  else match f with
    | .flt g => (g.round (cvtRnd s e p w i (cDoff w + j)) (readCol (rowOf e (fMa w) i) (cFsrc w) (cSoff w + j)).1).1
    | .int n => (satInt n ((readCol (rowOf e (fMa w) i) (cFsrc w) (cSoff w + j)).1.toInt .rne)).1
    | .mx g => (cvtBlock s e p w i m g (j / 32)).2.1.getD (j % 32) 0

/-- Block scale `b` of a conversion to an MX format. -/
def cvtScale (g : MxFmt) (b : Nat) : Nat :=
  if cFsrc w = cFdst w then elemAt (rowOf e (fMa w) i) 8 (480 + cSoff w / 32 + b) else (cvtBlock s e p w i m g b).1

theorem cvtElem_copy (h : cFsrc w = cFdst w) (f : Fmt) (j : Nat) :
    cvtElem s e p w i m f j = if j < m then elemAt (rowOf e (fMa w) i) f.bits (cSoff w + j) else 0 := if_pos h

theorem cvtElem_flt (h : cFsrc w ≠ cFdst w) (g : FloatFmt) (j : Nat) : cvtElem s e p w i m (.flt g) j =
    (g.round (cvtRnd s e p w i (cDoff w + j)) (readCol (rowOf e (fMa w) i) (cFsrc w) (cSoff w + j)).1).1 := if_neg h

theorem cvtElem_int (h : cFsrc w ≠ cFdst w) (n j : Nat) : cvtElem s e p w i m (.int n) j =
    (satInt n ((readCol (rowOf e (fMa w) i) (cFsrc w) (cSoff w + j)).1.toInt .rne)).1 := if_neg h

theorem cvtElem_mx (h : cFsrc w ≠ cFdst w) (g : MxFmt) (j : Nat) :
    cvtElem s e p w i m (.mx g) j = (cvtBlock s e p w i m g (j / 32)).2.1.getD (j % 32) 0 := if_neg h

/-- The old row with the elements converted. -/
def cvtElems (f : Fmt) : Nat :=
  rowPut (rowOf e (fMd w) i) f.bits (cDoff w) ((List.range (cvtCols (cFdst w) m)).map (cvtElem s e p w i m f))

end

section
variable {s : State} {e : Eng} {p w i m : Nat}

theorem cvtBlock_len (g : MxFmt) (b : Nat) : (cvtBlock s e p w i m g b).2.1.length = 32 := by
  unfold cvtBlock
  rw [convBlock_len, List.length_map, List.length_range]

theorem cvtCols_isMx {f : Fmt} (hf : fmtOf (cFdst w) = some f) : cvtCols (cFdst w) m = if f.isMx then p32 m else m := by
  obtain ⟨-, -, -, hx⟩ := rowCapacity_bits _ f hf
  rw [cvtCols, hx]

/-- The elements of the blocks in a row are the elements of the row. -/
theorem flatMap_blocks (g : MxFmt) (h : cFsrc w ≠ cFdst w) : (List.range (p32 m / 32)).flatMap (fun b => (cvtBlock s e p w i m g b).2.1) =
    (List.range (p32 m)).map (cvtElem s e p w i m (.mx g)) := by
  obtain ⟨hl, hg⟩ := flatMap32 (fun b => (cvtBlock s e p w i m g b).2.1) (cvtBlock_len g) (p32 m / 32)
  obtain ⟨hp, -⟩ := p32_div m
  refine List.ext_getElem (by rw [hl, hp, List.length_map, List.length_range]) (fun j h1 h2 => ?_)
  have hj : j < p32 m := by simpa using h2
  have hb := hg (j / 32) (j % 32) (by omega) (Nat.mod_lt _ (by decide))
  rw [Nat.div_add_mod, List.getD_eq_getElem _ _ h1] at hb
  rw [hb, List.getElem_map, List.getElem_range, cvtElem_mx s e p w i m h]

theorem cvtRow_plain (hb : e.bad = []) {f : Fmt} (hf : fmtOf (cFdst w) = some f) (hx : f.isMx = false) :
    (cvtRow s e p w i m).1 = cvtElems s e p w i m f := by
  have hc : cvtCols (cFdst w) m = m := by rw [cvtCols_isMx hf, hx]; rfl
  rw [cvtElems, hc]
  by_cases h : cFsrc w = cFdst w
  · rw [cvtRow_copy_flt hb h f hf hx]
    refine congrArg _ (List.map_congr_left (fun j hj => ?_))
    rw [cvtElem_copy s e p w i m h, if_pos (List.mem_range.mp hj)]
  · cases f with
    | flt g => rw [cvtRow_flt hb h g hf]; exact congrArg _ (List.map_congr_left (fun j _ => (cvtElem_flt s e p w i m h g j).symm))
    | int n => rw [cvtRow_int hb h n hf]; exact congrArg _ (List.map_congr_left (fun j _ => (cvtElem_int s e p w i m h n j).symm))
    | mx g => cases hx

theorem cvtRow_scaled (hb : e.bad = []) {g : MxFmt} (hf : fmtOf (cFdst w) = some (.mx g)) :
    (cvtRow s e p w i m).1 = rowPut (cvtElems s e p w i m (.mx g)) 8 (480 + cDoff w / 32)
      ((List.range (p32 m / 32)).map (cvtScale s e p w i m g)) := by
  have hc : cvtCols (cFdst w) m = p32 m := cvtCols_isMx hf
  rw [cvtElems, hc]
  by_cases h : cFsrc w = cFdst w
  · have h1 : cvtElem s e p w i m (.mx g) = fun j => if j < m then elemAt (rowOf e (fMa w) i) g.bits (cSoff w + j) else 0 :=
      funext fun j => if_pos h
    have h2 : cvtScale s e p w i m g = fun b => elemAt (rowOf e (fMa w) i) 8 (480 + cSoff w / 32 + b) := funext fun b => if_pos h
    rw [cvtRow_copy_mx hb h g hf, h1, h2]
    rfl
  · obtain ⟨y, hy, hrow⟩ := cvtRow_mx (s := s) (p := p) (i := i) (m := m) hb h g hf
    have h1 : y = cvtBlock s e p w i m g := hy
    have h2 : cvtScale s e p w i m g = fun b => (cvtBlock s e p w i m g b).1 := funext fun b => if_neg h
    rw [hrow, h1, flatMap_blocks g h, h2]
    rfl

/-! ### Reading the converted row -/

variable {f : Fmt} (hf : fmtOf (cFdst w) = some f)
  (hcap : cDoff w + cvtCols (cFdst w) m ≤ rowCapacity (cFdst w))
include hf hcap

/-- The bits that the row of a format offers its elements. -/
theorem cvtCols_fit : f.bits * (cDoff w + cvtCols (cFdst w) m) ≤ if f.isMx then 3840 else 4096 := by
  obtain ⟨-, -, hle, -⟩ := rowCapacity_bits _ f hf
  exact (Nat.mul_le_mul_left _ hcap).trans hle

omit hf hcap in
theorem elemAt_cvtElems {j : Nat} (hj : j < cvtCols (cFdst w) m) :
    elemAt (cvtElems s e p w i m f) f.bits (cDoff w + j) = cvtElem s e p w i m f j % 2 ^ f.bits := by
  rw [cvtElems, elemAt_rowPut_in _ _ _ _ (by simpa using hj), getD_map_range _ _ _ hj]

omit hf hcap in
theorem elemAt_cvtElems_out {j : Nat} (hj : j < cDoff w ∨ cDoff w + cvtCols (cFdst w) m ≤ j) :
    elemAt (cvtElems s e p w i m f) f.bits j = elemAt (rowOf e (fMd w) i) f.bits j := by
  refine elemAt_rowPut_out _ _ _ _ ?_
  rw [List.length_map, List.length_range]
  exact hj.imp (Nat.mul_le_mul_left _) (Nat.mul_le_mul_left _)

omit hcap in
/-- Below its block scales a converted row holds the elements converted. -/
theorem elemAt_cvtRow (hb : e.bad = []) {j : Nat} (hj : f.bits * (j + 1) ≤ if f.isMx then 3840 else 4096) :
    elemAt (cvtRow s e p w i m).1 f.bits j = elemAt (cvtElems s e p w i m f) f.bits j := by
  cases hx : f.isMx with
  | false => rw [cvtRow_plain hb hf hx]
  | true =>
    cases f with
    | flt g => cases hx
    | int n => cases hx
    | mx g =>
      have h3840 : (Fmt.mx g).bits * (j + 1) ≤ 3840 := hj
      rw [cvtRow_scaled hb hf]
      exact elemAt_rowPut_out _ _ _ _ (.inl (by omega))

theorem elemAt_cvtRow_in (hb : e.bad = []) {j : Nat} (hj : j < cvtCols (cFdst w) m) :
    elemAt (cvtRow s e p w i m).1 f.bits (cDoff w + j) = cvtElem s e p w i m f j % 2 ^ f.bits := by
  have hfit := cvtCols_fit hf hcap
  have hle : f.bits * (cDoff w + j + 1) ≤ f.bits * (cDoff w + cvtCols (cFdst w) m) := Nat.mul_le_mul_left _ (by omega)
  rw [elemAt_cvtRow hf hb (hle.trans hfit), elemAt_cvtElems hj]

omit hcap in
theorem elemAt_cvtRow_scale (hb : e.bad = []) {g : MxFmt} (hg : f = .mx g) {b : Nat} (hbl : b < p32 m / 32) :
    elemAt (cvtRow s e p w i m).1 8 (480 + cDoff w / 32 + b) = cvtScale s e p w i m g b % 256 := by
  subst hg
  rw [cvtRow_scaled hb hf]
  refine (elemAt_rowPut_in _ _ _ _ (by simpa using hbl)).trans ?_
  exact congrArg (· % 256) (getD_map_range _ _ _ hbl)

end

/-- A row of an MX format holds at most 960 elements, so that its scales lie in it. -/
theorem mx_fit {c : Nat} {g : MxFmt} (hf : fmtOf c = some (.mx g)) : rowCapacity c ≤ 960 := by
  unfold fmtOf at hf
  split at hf <;> cases hf <;> decide

/-! ## CVT -/

section
variable {q : Nat} {w : W64} {s : State} {sg : Seg}

/-- The rows that CVT writes. -/
def cvtRows (s : State) (e : Eng) (p w : Nat) : List (Nat × Census) :=
  (List.range (lenRows e p)).map (fun i => cvtRow s e p w i (lenCols e p))

theorem cvtRows_length (s : State) (e : Eng) (p w : Nat) : ((cvtRows s e p w).map Prod.fst).length = lenRows e p := by
  unfold cvtRows
  rw [List.length_map, List.length_map, List.length_range]

theorem cvtRows_getD {s : State} {e : Eng} {p w i : Nat} (h : i < lenRows e p) :
    ((cvtRows s e p w).map Prod.fst).getD i 0 = (cvtRow s e p w i (lenCols e p)).1 := by
  unfold cvtRows
  rw [List.map_map]
  exact getD_map_range _ _ _ h

theorem exec_cvt (h : Issues s q w 0x40 [fMd w.toNat, fMa w.toNat] sg) (hb : badC s w.toNat (engOf s q) sg = false) :
    exec (.cvt q w) s = .next (retire s q (setRows (engOf s q) (fMd w.toNat) ((cvtRows s (engOf s q) sg.slot w.toNat).map Prod.fst))
      (sg.issue (groupsOf (cvtRows s (engOf s q) sg.slot w.toNat).length) 1 8 (readyAt sg (fMa w.toNat)) (some (fMd w.toNat)) id)
      (cSum w.toNat) (cSxd w.toNat)
      (summary 0 0 ((cvtRows s (engOf s q) sg.slot w.toNat).map (fun r =>
        readBack r.1 (cFdst w.toNat) (cDoff w.toNat) (lenCols (engOf s q) sg.slot))) (censusOf (cvtRows s (engOf s q) sg.slot w.toNat)))
      (censusOf (cvtRows s (engOf s q) sg.slot w.toNat))) := by
  refine congrArg Host.Outcome.next ((issueWord_go h hb (by decide) _).trans ?_)
  dsimp only
  rw [h.sound]
  simp only [poisonCensus_nil, poisonRead_nil, census_zero_add, wipe_setRows h.sound]
  rfl

/-- A conversion that is not bad stays within the row of its destination. -/
theorem badC_fits (hb : badC s w.toNat (engOf s q) sg = false) :
    cDoff w.toNat + cvtCols (cFdst w.toNat) (lenCols (engOf s q) sg.slot) ≤ rowCapacity (cFdst w.toNat) := by
  unfold badC at hb
  simp only [Bool.or_eq_false_iff, decide_eq_false_iff_not, Nat.not_lt] at hb
  exact hb.1.1.2

end

/-- Settles O35: the elements and scales of `cvtElem` and `cvtScale`, read in the row that `retire` leaves. -/
theorem conversion : Obligations.Conversion := by
  unfold Obligations.Conversion
  intro q w s sg h hb n m so dn hn hm hso hdn
  subst hn hm hso hdn
  have hcap := badC_fits hb
  have hlen := cvtRows_length s (engOf s q) sg.slot w.toNat
  have h32 := lenRows_le (engOf s q) sg.slot
  obtain ⟨hexec, hm, -⟩ := retire_executed (s := s) (s' := s) (q := q) (sg := sg) (md := fMd w.toNat) (n := lenRows (engOf s q) sg.slot)
    (sg1 := sg.issue (groupsOf (cvtRows s (engOf s q) sg.slot w.toNat).length) 1 8 (readyAt sg (fMa w.toNat)) (some (fMd w.toNat)) id)
    (sxd := cSxd w.toNat) (sum := cSum w.toNat) (c := censusOf (cvtRows s (engOf s q) sg.slot w.toNat))
    (x := summary 0 0 ((cvtRows s (engOf s q) sg.slot w.toNat).map (fun r =>
        readBack r.1 (cFdst w.toNat) (cDoff w.toNat) (lenCols (engOf s q) sg.slot))) (censusOf (cvtRows s (engOf s q) sg.slot w.toNat)))
    (e1 := setRows (engOf s q) (fMd w.toNat) ((cvtRows s (engOf s q) sg.slot w.toNat).map Prod.fst)) rfl (setRows_frame _ _ _)
    (fun r i hi hno => by rw [rowOf_setRows _ _ _ (hlen ▸ h32) _ _ hi, if_neg (by rw [hlen]; exact hno)]) rfl
  refine ⟨_, _, exec_cvt h hb, hexec, fun i hi a old new ha hold hnew f hf => ?_⟩
  have hrow : ∀ v j, v * (j + 1) ≤ 4096 →
      elemAt new v j = elemAt (cvtRow s (engOf s q) sg.slot w.toNat i (lenCols (engOf s q) sg.slot)).1 v j := by
    intro v j hj
    rw [hnew, elemAt_setRows hm (hlen ▸ h32) (by omega) hj, if_pos (hlen ▸ hi), cvtRows_getD hi]
  have hfit := cvtCols_fit hf hcap
  have hin : ∀ j, j < cvtCols (cFdst w.toNat) (lenCols (engOf s q) sg.slot) → elemAt new f.bits (cDoff w.toNat + j) =
      cvtElem s (engOf s q) sg.slot w.toNat i (lenCols (engOf s q) sg.slot) f j % 2 ^ f.bits := by
    intro j hj
    have hle : f.bits * (cDoff w.toNat + j + 1) ≤ f.bits * (cDoff w.toNat + cvtCols (cFdst w.toNat) (lenCols (engOf s q) sg.slot)) :=
      Nat.mul_le_mul_left _ (by omega)
    have h4096 : f.bits * (cDoff w.toNat + j + 1) ≤ 4096 := by split at hfit <;> omega
    rw [hrow _ _ h4096, elemAt_cvtRow_in hf hcap h.sound hj]
  have hcols : ∀ j, j < lenCols (engOf s q) sg.slot → j < cvtCols (cFdst w.toNat) (lenCols (engOf s q) sg.slot) := by
    intro j hj
    obtain ⟨-, hp⟩ := p32_div (lenCols (engOf s q) sg.slot)
    unfold cvtCols
    split <;> omega
  refine ⟨fun j hj hbits => ?_, fun hsame j hj => ?_, fun hdiff j hj => ⟨fun g hg => ?_, fun b hg => ?_⟩, fun g hg b hbl => ?_⟩
  · have h4096 : f.bits * (j + 1) ≤ 4096 := by split at hbits <;> omega
    rw [hrow _ _ h4096, elemAt_cvtRow hf h.sound hbits, elemAt_cvtElems_out hj, hold]
  · rw [hin j (hcols j hj), cvtElem_copy _ _ _ _ _ _ hsame, if_pos hj, ha]
    exact Nat.mod_mod _ _
  · rw [hin j (hcols j hj), hg, cvtElem_flt _ _ _ _ _ _ hdiff, ha]
  · rw [hin j (hcols j hj), hg, cvtElem_int _ _ _ _ _ _ hdiff, ha]
  · subst hg
    have h960 := mx_fit hf
    have hmx : cvtCols (cFdst w.toNat) (lenCols (engOf s q) sg.slot) = p32 (lenCols (engOf s q) sg.slot) := cvtCols_isMx hf
    have hscale : elemAt new 8 (480 + cDoff w.toNat / 32 + b) =
        cvtScale s (engOf s q) sg.slot w.toNat i (lenCols (engOf s q) sg.slot) g b % 256 := by
      rw [hrow _ _ (by omega), elemAt_cvtRow_scale hf h.sound rfl hbl]
    refine ⟨fun hsame => ?_, fun hdiff y hy => ⟨?_, fun k hk => ?_⟩⟩
    · rw [hscale, cvtScale, if_pos hsame, ha]
      exact Nat.mod_mod _ _
    · rw [hscale, cvtScale, if_neg hdiff, hy, ha]
      rfl
    · have hy2 : y = cvtBlock s (engOf s q) sg.slot w.toNat i (lenCols (engOf s q) sg.slot) g b := by rw [hy, ha]; rfl
      rw [hin (32 * b + k) (by omega), cvtElem_mx _ _ _ _ _ _ hdiff, hy2,
        show (32 * b + k) / 32 = b by omega, show (32 * b + k) % 32 = k by omega]

end Sys2Proof.Machine
end

section
/-! PROOF. RED (R290): one result per row or per column, and what the instruction leaves. -/

namespace Sys2Proof.Machine

section
variable {q : Nat} {w : W64} {s : State} {sg : Seg}

/-! ## One result per row -/

/-- The result of each row. -/
def redByRow (s : State) (q w n m : Nat) : List (Nat × Census) :=
  (List.range n).map (fun i => reduce1 w (lane s q (fMd w) i (rDidx w)) ((List.range m).map (fun k => lane s q (fMa w) i k)))

/-- The rows with their results. -/
def redRows (s : State) (q w n m : Nat) : List Nat :=
  (List.range n).map (fun i => rowPut (rowOf (engOf s q) (fMd w) i) 32 (rDidx w)
    [(reduce1 w (lane s q (fMd w) i (rDidx w)) ((List.range m).map (fun k => lane s q (fMa w) i k))).1])

theorem redByRow_eq (s : State) (q w n m : Nat) :
    ((List.range n).zip ((List.range n).map (fun i => operandReg (engOf s q) (fMa w) i m))).map
      (fun x => reduce1 w (elemAt (rowOf (engOf s q) (fMd w) x.1) 32 (rDidx w)) x.2) = redByRow s q w n m := by
  refine List.ext_getElem (by simp [redByRow]) (fun i h1 h2 => ?_)
  simp only [redByRow, List.getElem_map, List.getElem_zip, List.getElem_range, operandReg_list]
  rfl

theorem redRows_eq (s : State) (q w n m : Nat) :
    ((List.range n).zip (redByRow s q w n m)).map (fun x => rowPut (rowOf (engOf s q) (fMd w) x.1) 32 (rDidx w) [x.2.1]) = redRows s q w n m :=
  List.ext_getElem (by simp [redByRow, redRows]) (fun i h1 h2 => by simp [redByRow, redRows])

theorem exec_red_rows (h : Issues s q w 0x48 [fMd w.toNat, fMa w.toNat] sg) (hb : badR s w.toNat (engOf s q) sg = false)
    (ha : rAxis w.toNat = false) {n m : Nat} (hn : n = lenRows (engOf s q) sg.slot) (hm : m = lenCols (engOf s q) sg.slot) :
    exec (.red q w) s = .next (retire s q (setRows (engOf s q) (fMd w.toNat) (redRows s q w.toNat n m))
      (sg.issue (groupsOf n) 1 12 (fun g => Nat.max (readyAt sg (fMa w.toNat) g) (if rAcc w.toNat then readyAt sg (fMd w.toNat) g else 0))
        (some (fMd w.toNat)) id)
      (fSum w.toNat) (fSxd w.toNat)
      (summary 0 (rDidx w.toNat) ((redByRow s q w.toNat n m).map (fun r => [r.1])) (censusOf (redByRow s q w.toNat n m)))
      (censusOf (redByRow s q w.toNat n m))) := by
  subst hn hm
  refine congrArg Host.Outcome.next ((issueWord_go h hb (by decide) _).trans ?_)
  dsimp only
  rw [if_neg (by rw [ha]; decide), h.sound]
  simp only [poisonCensus_nil, poisonRead_nil, census_zero_add, wipe_setRows h.sound, redByRow_eq, redRows_eq]

/-! ## One result per column -/

/-- The result of each column. -/
def redByCol (s : State) (q w n m : Nat) : List (Nat × Census) :=
  (List.range m).map (fun j => reduce1 w (lane s q (fMd w) (rDidx w) j) ((List.range n).map (fun k => lane s q (fMa w) k j)))

/-- The results of the columns, as row `DIDX` gets them. -/
def redCols (s : State) (q w n m : Nat) : List Nat := (redByCol s q w n m).map Prod.fst

theorem redByCol_eq (s : State) (q w n m : Nat) :
    ((List.range m).zip (operandReg (engOf s q) (fMd w) (rDidx w) m)).map
      (fun x => reduce1 w x.2 (((List.range n).map (fun i => operandReg (engOf s q) (fMa w) i m)).map (fun r => r.getD x.1 0))) =
      redByCol s q w n m := by
  refine List.ext_getElem (by simp [redByCol, operandReg_list]) (fun j h1 h2 => ?_)
  have hj : j < m := by simpa [redByCol] using h2
  simp only [redByCol, List.getElem_map, List.getElem_zip, List.getElem_range, operandReg_list, List.map_map, Function.comp_def,
    getD_map_range _ _ _ hj]

theorem redCols_length (s : State) (q w n m : Nat) : (redCols s q w n m).length = m := by
  unfold redCols redByCol
  rw [List.length_map, List.length_map, List.length_range]

theorem redCols_getD (s : State) (q w n m : Nat) {j : Nat} (hj : j < m) : (redCols s q w n m).getD j 0 =
    (reduce1 w (lane s q (fMd w) (rDidx w) j) ((List.range n).map (fun k => lane s q (fMa w) k j))).1 := by
  unfold redCols redByCol
  rw [List.map_map]
  exact getD_map_range _ _ _ hj

theorem exec_red_cols (h : Issues s q w 0x48 [fMd w.toNat, fMa w.toNat] sg) (hb : badR s w.toNat (engOf s q) sg = false)
    (ha : rAxis w.toNat = true) {n m : Nat} (hn : n = lenRows (engOf s q) sg.slot) (hm : m = lenCols (engOf s q) sg.slot) :
    exec (.red q w) s = .next (retire s q
      (setRow (engOf s q) (fMd w.toNat) (rDidx w.toNat) (rowPut (rowOf (engOf s q) (fMd w.toNat) (rDidx w.toNat)) 32 0 (redCols s q w.toNat n m)))
      (sg.issue (groupsOf n) 1 12 (readyAt sg (fMa w.toNat)) (some (fMd w.toNat)) (fun _ => rDidx w.toNat / 4))
      (fSum w.toNat) (fSxd w.toNat) (summary (rDidx w.toNat) 0 [redCols s q w.toNat n m] (censusOf (redByCol s q w.toNat n m)))
      (censusOf (redByCol s q w.toNat n m))) := by
  subst hn hm
  refine congrArg Host.Outcome.next ((issueWord_go h hb (by decide) _).trans ?_)
  dsimp only
  rw [if_pos ha, h.sound, redByCol_eq, wipe_sound (by exact h.sound)]
  simp only [poisonCensus_nil, poisonRead_nil, census_zero_add]
  rfl

end

/-- Row DIDX of a reduction by column is a row of the register. -/
theorem rDidx_axis {w : Nat} (h : rAxis w = true) : rDidx w < 32 := by
  unfold rDidx
  rw [if_pos h]
  exact Nat.mod_lt _ (by decide)

section
variable {s : State} {q w n m : Nat} {e : Eng} {i j : Nat} (hi : i < 32) (hj : j < 128)
include hi hj

/-- A register whose rows have their results, lane by lane. -/
theorem lane_redRows (hn : n ≤ 32) (he : e.m = (setRows (engOf s q) (fMd w) (redRows s q w n m)).m) :
    elemAt (rowOf e (fMd w) i) 32 j = if i < n ∧ j = rDidx w then
      (reduce1 w (lane s q (fMd w) i (rDidx w)) ((List.range m).map (fun k => lane s q (fMa w) i k))).1 % 2 ^ 32
    else lane s q (fMd w) i j := by
  have hlen : (redRows s q w n m).length = n := by simp [redRows]
  rw [elemAt_setRows he (by rw [hlen]; exact hn) hi (by omega), hlen]
  by_cases hin : i < n
  · rw [if_pos hin, redRows, getD_map_range _ _ _ hin, elemAt_rowPut_one]
    simp only [hin, true_and]
    rfl
  · rw [if_neg hin, if_neg (fun hc => hin hc.1)]
    rfl

/-- A register one of whose rows has the results of the columns, lane by lane. -/
theorem lane_redCols (hd : rDidx w < 32) (he : e.m = (setRow (engOf s q) (fMd w) (rDidx w)
      (rowPut (rowOf (engOf s q) (fMd w) (rDidx w)) 32 0 (redCols s q w n m))).m) :
    elemAt (rowOf e (fMd w) i) 32 j = if i = rDidx w ∧ j < m then
      (reduce1 w (lane s q (fMd w) (rDidx w) j) ((List.range n).map (fun k => lane s q (fMa w) k j))).1 % 2 ^ 32
    else lane s q (fMd w) i j := by
  have hrow := rowOf_setRow (engOf s q) (fMd w) (rDidx w) (rowPut (rowOf (engOf s q) (fMd w) (rDidx w)) 32 0 (redCols s q w n m))
    (fMd w) i hd hi
  have hsame : rowOf e (fMd w) i = rowOf (setRow (engOf s q) (fMd w) (rDidx w)
      (rowPut (rowOf (engOf s q) (fMd w) (rDidx w)) 32 0 (redCols s q w n m))) (fMd w) i :=
    congrArg (fun m : Tab Nat => m.getD (rowKey (fMd w) i) 0) he
  rw [hsame, hrow]
  by_cases hi2 : i = rDidx w
  · rw [if_pos ⟨rfl, hi2⟩, elemAt_row _ (by omega)]
    by_cases hjm : j < m
    · rw [if_pos ⟨hi2, hjm⟩, ← redCols_getD s q w n m hjm]
      simpa using elemAt_rowPut_in (rowOf (engOf s q) (fMd w) (rDidx w)) 32 0 (redCols s q w n m) (i := j)
        (by rw [redCols_length]; exact hjm)
    · rw [if_neg (fun hc => hjm hc.2), elemAt_rowPut_out _ _ _ _ (.inr (by rw [redCols_length]; omega)), hi2]
      rfl
  · rw [if_neg (fun hc => hi2 hc.2), if_neg (fun hc => hi2 hc.1)]
    rfl

end

/-- Settles O36: by row, and by column. -/
theorem reduction_holds : Obligations.Reduction := by
  unfold Obligations.Reduction
  intro q w s sg h hb n m di hn hm hdi
  have h32 : n ≤ 32 := hn ▸ lenRows_le _ _
  subst hdi
  cases ha : rAxis w.toNat with
  | false =>
    have hlen : (redRows s q w.toNat n m).length = n := by simp [redRows]
    obtain ⟨hexec, hreg, -⟩ := retire_executed (s := s) (s' := s) (q := q) (sg := sg) (md := fMd w.toNat) (n := 32)
      (sg1 := sg.issue (groupsOf n) 1 12 (fun g => Nat.max (readyAt sg (fMa w.toNat) g) (if rAcc w.toNat then readyAt sg (fMd w.toNat) g else 0))
        (some (fMd w.toNat)) id)
      (sxd := fSxd w.toNat) (sum := fSum w.toNat) (c := censusOf (redByRow s q w.toNat n m))
      (x := summary 0 (rDidx w.toNat) ((redByRow s q w.toNat n m).map (fun r => [r.1])) (censusOf (redByRow s q w.toNat n m)))
      (e1 := setRows (engOf s q) (fMd w.toNat) (redRows s q w.toNat n m)) rfl (setRows_frame _ _ _)
      (fun r i hi hno => by rw [rowOf_setRows _ _ _ (by rw [hlen]; exact h32) _ _ hi, if_neg (fun hc => hno ⟨hc.1, hi⟩)]) rfl
    exact ⟨_, _, exec_red_rows h hb ha hn hm, hexec, fun _ i j hi hj => lane_redRows hi hj h32 hreg, fun hc => nomatch hc⟩
  | true =>
    have hdi := rDidx_axis ha
    obtain ⟨hexec, hreg, -⟩ := retire_executed (s := s) (s' := s) (q := q) (sg := sg) (md := fMd w.toNat) (n := 32)
      (sg1 := sg.issue (groupsOf n) 1 12 (readyAt sg (fMa w.toNat)) (some (fMd w.toNat)) (fun _ => rDidx w.toNat / 4))
      (sxd := fSxd w.toNat) (sum := fSum w.toNat) (c := censusOf (redByCol s q w.toNat n m))
      (x := summary (rDidx w.toNat) 0 [redCols s q w.toNat n m] (censusOf (redByCol s q w.toNat n m)))
      (e1 := setRow (engOf s q) (fMd w.toNat) (rDidx w.toNat)
        (rowPut (rowOf (engOf s q) (fMd w.toNat) (rDidx w.toNat)) 32 0 (redCols s q w.toNat n m))) rfl (setRow_frame _ _ _ _)
      (fun r i hi hno => by rw [rowOf_setRow _ _ _ _ _ _ hdi hi, if_neg (fun hc => hno ⟨hc.1, hi⟩)]) rfl
    exact ⟨_, _, exec_red_cols h hb ha hn hm, hexec, (fun hc => nomatch hc), fun _ i j hi hj => lane_redCols hi hj hdi hreg⟩

end Sys2Proof.Machine
end

section
/-! PROOF. LDS, STS, LDL, STL and LDA (R277, R278, R293), and the line that an engine writes into the share (R294). -/

namespace Sys2Proof.Machine

/-! ## Scratch (R277, R293) -/

section
variable {q : Nat} {w : W64} {s : State} {sg : Seg} {r : Rows}

theorem lineRows_le (e : Eng) (p w : Nat) : (lineRows e p w).n ≤ 32 := lenRows_le e p

theorem accRows_le (e : Eng) (p w : Nat) : (accRows e p w).n ≤ 32 := lenRows_le e p

theorem exec_lds (hr : r = lineRows (engOf s q) sg.slot w.toNat) (hb : badM s w.toNat r 32768 sg = false) (h : Issues s q w 0x53 [fMd w.toNat] sg) :
    exec (.lds q w) s = .next (setEng s q { loadRows (engOf s q) (fMd w.toNat) r (lineRead (scratchLine sg)) with
      run := some (issueLoad sg r true (fMd w.toNat)) }) := by
  subst hr
  exact congrArg Host.Outcome.next (issueWord_go h hb (by decide) _)

/-- The segment after STS. -/
def stsSeg (s : State) (q : Nat) (w : W64) (sg : Seg) (r : Rows) : Seg :=
  issueLoad (scratchPut sg (storeRows (engOf s q) (fMd w.toNat) r)) r false (fMd w.toNat)

theorem exec_sts (hr : r = lineRows (engOf s q) sg.slot w.toNat) (hb : badM s w.toNat r 32768 sg = false) (h : Issues s q w 0x54 [fMd w.toNat] sg) :
    exec (.sts q w) s = .next (setEng s q { engOf s q with run := some (stsSeg s q w sg r) }) := by
  subst hr
  refine congrArg Host.Outcome.next ((issueWord_go h hb (by decide) _).trans ?_)
  dsimp only
  rw [plainRead_sound h.sound]
  rfl

theorem stsSeg_stored (s : State) (q : Nat) (w : W64) (sg : Seg) (r : Rows) : stored sg (stsSeg s q w sg r) := by
  obtain ⟨hput, -⟩ := scratchPut_bytes (storeRows (engOf s q) (fMd w.toNat) r) sg
  unfold stsSeg
  rw [hput]
  rfl

theorem scratchByte_stsSeg (s : State) (q : Nat) (w : W64) (sg : Seg) (r : Rows) (a : Nat) :
    scratchByte (stsSeg s q w sg r) a = (pieceAt (storeRows (engOf s q) (fMd w.toNat) r) a).getD (scratchByte sg a) :=
  (scratchPut_bytes (storeRows (engOf s q) (fMd w.toNat) r) sg).2 a

end

/-- Settles O37: a load by `loadRows_loaded`, a store by `scratchPut_bytes`. -/
theorem scratchMoves : Obligations.ScratchMoves := by
  unfold Obligations.ScratchMoves
  intro q w s sg r hr hb
  refine ⟨fun h => ⟨_, exec_lds hr hb h, loadRows_loaded h.sound (hr ▸ lineRows_le _ _ _) rfl rfl⟩,
    fun h => ⟨_, stsSeg s q w sg r, exec_sts hr hb h, rfl, stsSeg_stored s q w sg r, scratchByte_stsSeg s q w sg r⟩⟩

/-! ## The share and the accumulator file (R109, R278, R293) -/

section
variable {q : Nat} {w : W64} {s : State} {sg : Seg} {r : Rows} {d : Nat} {P : Part}

theorem exec_ldl (hs : slotPart s sg.slot = some (d, P)) (hr : r = lineRows (engOf s q) sg.slot w.toNat)
    (hb : badM s w.toNat r (shareBytes s sg.slot) sg = false) (h : Issues s q w 0x51 [fMd w.toNat] sg) :
    exec (.ldl q w) s = .next (setEng s q { loadRows (engOf s q) (fMd w.toNat) r (lineRead (shareLine P)) with
      run := some (issueLoad sg r true (fMd w.toNat)) }) := by
  subst hr
  refine congrArg Host.Outcome.next ((issueWord_go h hb (by decide) _).trans ?_)
  dsimp only
  rw [hs]

/-- The segment after STL: it notes the lines written. -/
def stlSeg (s : State) (q : Nat) (w : W64) (sg : Seg) (r : Rows) (P : Part) : Seg :=
  issueLoad { sg with stl := dedup (sg.stl ++ (storeRows (engOf s q) (fMd w.toNat) r).flatMap (fun x =>
    (lineWrites (shareLine P) x.1 x.2).map (fun y => feedBank P * 2 ^ 22 + y.1))) } r false (fMd w.toNat)

theorem exec_stl (hs : slotPart s sg.slot = some (d, P)) (hr : r = lineRows (engOf s q) sg.slot w.toNat)
    (hb : badM s w.toNat r (shareBytes s sg.slot) sg = false) (h : Issues s q w 0x52 [fMd w.toNat] sg) :
    exec (.stl q w) s = .next (sharePut (setEng s q { engOf s q with run := some (stlSeg s q w sg r P) }) d q
      (storeRows (engOf s q) (fMd w.toNat) r)) := by
  subst hr
  refine congrArg Host.Outcome.next ((issueWord_go h hb (by decide) _).trans ?_)
  dsimp only
  rw [hs, plainRead_sound h.sound]
  rfl

theorem mem_stlSeg {k : Nat} : k ∈ (stlSeg s q w sg r P).stl ↔
    k ∈ sg.stl ∨ ∃ x ∈ storeRows (engOf s q) (fMd w.toNat) r, ∃ y ∈ lineWrites (shareLine P) x.1 x.2, feedBank P * 2 ^ 22 + y.1 = k := by
  refine (mem_dedup _ _).trans ?_
  simp only [List.mem_append, List.mem_flatMap, List.mem_map]

theorem exec_lda (hf : mFmt w.toNat = 0xA) (hr : r = accRows (engOf s q) sg.slot w.toNat) (hb : badM s w.toNat r 1048576 sg = false)
    (h : Issues s q w 0x50 [fMd w.toNat] sg) :
    exec (.lda q w) s = .next (setEng { s with free := s.free + 1 } q
      { loadRows (engOf s q) (fMd w.toNat) r (ldaBytes s.free) with run := some (issueLda s sg r (fMd w.toNat)) }) := by
  subst hr
  refine congrArg Host.Outcome.next (issueWord_go h ?_ (by decide) _)
  rw [hf, hb]
  decide

end

/-! ## The line that an engine writes (R294) -/

theorem partOf_bumpD (s : State) (i d n e : Nat) : partOf (bumpD s i d n) e = partOf s e := by
  unfold partOf
  rw [bumpD_parts]

/-- Whether a higher-numbered engine wrote line `l` of the unit. -/
def lineKept (P : Part) (q l : Nat) : Bool :=
  match (feedUnit P).bind (fun u => u.writers.find? l) with
  | some k => decide (q < k % 8)
  | none => false

/-- A write of a line changes the share of one partition, by one line or not at all. -/
theorem shareWrite_part {s : State} {d : Nat} {P : Part} (h : partOf s d = some P) (q l v : Nat) :
    (∃ Q, partOf (shareWrite s d q l v) d = some Q ∧
      Q.share = if lineKept P q l then P.share else P.share.put (feedBank P * 2 ^ 22 + l) v) ∧
    ∀ e, e ≠ d → partOf (shareWrite s d q l v) e = partOf s e := by
  unfold shareWrite lineKept
  rw [h]
  dsimp only
  cases hu : feedUnit P with
  | none =>
    refine ⟨?_, fun e he => ?_⟩
    · rw [partOf_updPart, if_pos rfl, h]; exact ⟨_, rfl, rfl⟩
    · rw [partOf_updPart, if_neg he]
  | some u =>
    dsimp only [Option.bind_some]
    refine ⟨?_, fun e he => ?_⟩
    · rw [apply_ite (fun S => partOf S d), partOf_bumpD, ite_self, setUnits, partOf_updPart, if_pos rfl, partOf_updPart, if_pos rfl, h]
      exact ⟨_, rfl, rfl⟩
    · rw [apply_ite (fun S => partOf S e), partOf_bumpD, ite_self, setUnits, partOf_updPart, if_neg he, partOf_updPart, if_neg he]

/-- Settles O38: loads and stores of the share, LDA, and the line an engine writes. -/
theorem shareMoves : Obligations.ShareMoves := by
  unfold Obligations.ShareMoves
  refine ⟨fun q w s sg d P hs => ⟨fun h r hr hb => ⟨_, exec_ldl hs hr hb h, loadRows_loaded h.sound (hr ▸ lineRows_le _ _ _) rfl rfl⟩,
      fun h r hr hb => ⟨stlSeg s q w sg r P, rfl, rfl, fun x hx y hy => mem_stlSeg.mpr (.inr ⟨x, hx, y, hy, rfl⟩),
        fun k hk => mem_stlSeg.mpr (.inl hk), exec_stl hs hr hb h⟩,
      fun h hf r hr hb => ⟨_, exec_lda hf hr hb h, loadRows_loaded h.sound (hr ▸ accRows_le _ _ _) rfl rfl, rfl⟩⟩,
    fun s d q l v P hP => ?_⟩
  obtain ⟨⟨Q, hQ, hshare⟩, hother⟩ := shareWrite_part hP q l v
  refine ⟨Q, hQ, fun k hk => ?_, ?_, hother⟩
  · rw [hshare]
    split
    · rfl
    · exact Tab.find?_put_ne _ _ hk
  · rw [hshare]
    change _ = if lineKept P q l then _ else _
    split
    · rfl
    · exact Tab.find?_put_self _ _ _

end Sys2Proof.Machine
end

section
/-! PROOF. Transfers (R293, R309), Scale (R295, R296), the core's side of an engine (R282, R283, R308, R309) and the aperture
(R133, R148, R301). -/

namespace Sys2Proof.Machine

/-! ## XLD and XST (R293) -/

section
variable {q : Nat} {w : W64} {s : State} {sg : Seg} {d : Nat} (hd : slotD s sg.slot = some d)
  (hb : badM s w.toNat (objRows (engOf s q) sg.slot w.toNat) (objSize s sg.slot (mHandle (engOf s q) sg.slot w.toNat)) sg = false)
include hd hb

theorem exec_xld (h : Issues s q w 0x58 [fMd w.toNat] sg) {x : Xfer} (hx : x = xferOf (engOf s q) sg w.toNat false) :
    exec (.xld q w) s = .next (if xldWaits (engOf s q) x then s
      else if xferPoisoned s d x then xferBegin s d q (engOf s q) sg x
      else xldReads (xferBegin s d q (engOf s q) sg x) d x (fun _ => true)) := by
  subst hx
  refine congrArg Host.Outcome.next ((issueWord_go h hb (by decide) _).trans ?_)
  dsimp only
  rw [hd]

theorem exec_xst (h : Issues s q w 0x59 [fMd w.toNat] sg) {x : Xfer} (hx : x = xferOf (engOf s q) sg w.toNat true) :
    exec (.xst q w) s = .next (if 16 ≤ (engOf s q).xfers.length then s
      else forEach (storeRows (engOf s q) (fMd w.toNat) x.rowsOf) (xferBegin s d q (engOf s q) sg x)
        (fun s b => objWriteQ s (fetchQos s d) d x.handle b.1 b.2)) := by
  subst hx
  refine congrArg Host.Outcome.next ((issueWord_go h hb (by decide) _).trans ?_)
  dsimp only
  rw [hd, plainRead_sound h.sound]

end

/-! ## The end of a transfer (R309) -/

section
variable {s : State} {q tag d : Nat} {came : Bool} {x : Xfer} (hf : (engOf s q).xfers.find? (fun y => y.tag == tag) = some x)
include hf

theorem transferEnd_full (hl : 64 ≤ (engOf s q).xferFifo.length) :
    transferEnd s q tag came = setEng s q { engOf s q with stalled := true } := by
  unfold transferEnd
  dsimp only
  rw [hf]
  exact if_pos hl

/-- The engine after the end of a transfer. -/
def engTransferred (s : State) (q d : Nat) (x : Xfer) (ok : Bool) : Eng :=
  let e := if x.store then engOf s q else xldFill s d (engOf s q) x ok
  { e with xfers := e.xfers.erase x, xferFifo := e.xferFifo ++ [xferWord x ok], stalled := false }

/-- What follows the end of a transfer changes no engine. -/
theorem transferEnd_ee (hd : slotD s x.slot = some d) (hl : (engOf s q).xferFifo.length < 64) {ok : Bool}
    (hok : ok = (came && (x.store || !xferPoisoned s d x))) :
    (transferEnd s q tag came).ee = (setEng s q (engTransferred s q d x ok)).ee := by
  have hend : transferEnd s q tag came =
      let u := if ok then setEng s q (engTransferred s q d x ok) else xferFailed (setEng s q (engTransferred s q d x ok)) d x
      match objOf u d x.handle with
      | some o => forEach (spanExts o x.rowsOf.spans) u (fun s xi => unpin s (xKey d x.handle xi) x.pin)
      | none => u := by
    unfold transferEnd
    dsimp only
    rw [hf]
    dsimp only
    rw [if_neg (Nat.not_le.mpr hl), hd, hok]
    rfl
  rw [hend]
  have hu : (if ok then setEng s q (engTransferred s q d x ok) else xferFailed (setEng s q (engTransferred s q d x ok)) d x).ee =
      (setEng s q (engTransferred s q d x ok)).ee := by
    cases ok
    · exact xferFailed_ee _ _ _
    · rfl
  dsimp only
  split
  · rw [forEach_ee _ _ (fun s a => unpin_ee s _ _), hu]
  · exact hu

end

theorem engTransferred_store {s : State} {q d : Nat} {x : Xfer} (ok : Bool) (h : x.store = true) :
    (engTransferred s q d x ok).m = (engOf s q).m := by
  unfold engTransferred
  dsimp only
  rw [if_pos h]

theorem engTransferred_load {s : State} {q d : Nat} {x : Xfer} (ok : Bool) (h : x.store = false) :
    (engTransferred s q d x ok).m = (xldFill s d (engOf s q) x ok).m := by
  unfold engTransferred
  dsimp only
  rw [if_neg (by rw [h]; decide)]

/-- A load changes no queue of the engine. -/
theorem xldFill_frame (s : State) (d : Nat) (e : Eng) (x : Xfer) (ok : Bool) :
    xldFill s d e x ok = { e with m := (xldFill s d e x ok).m, bad := (xldFill s d e x ok).bad } := by
  unfold xldFill loadRows
  rw [wipe_frame, setRows_frame]

theorem engTransferred_queues (s : State) (q d : Nat) (x : Xfer) (ok : Bool) :
    (engTransferred s q d x ok).xferFifo = (engOf s q).xferFifo ++ [xferWord x ok] ∧
    (engTransferred s q d x ok).xfers = (engOf s q).xfers.erase x ∧ (engTransferred s q d x ok).stalled = false := by
  unfold engTransferred
  dsimp only
  split
  · exact ⟨rfl, rfl, rfl⟩
  · rw [xldFill_frame]
    exact ⟨rfl, rfl, rfl⟩

/-! ## SCL (R295, R296) -/

/-- The entries of the Scale list handed to Merge in turn, with the chunks so far. -/
def sclHanded (s : State) (d q w : Nat) (l : List (Nat × Nat)) : State × Nat :=
  l.foldl (fun (a : State × Nat) x => ((sclRow a.1 d q w x.1 x.2).1, a.2 + (sclRow a.1 d q w x.1 x.2).2)) (s, 0)

theorem exec_scl {q : Nat} {w : W64} {s : State} {sg : Seg} {d : Nat} {P : Part} (hs : slotPart s sg.slot = some (d, P))
    (h : Issues s q w 0x60 [] sg) (hb : badX w.toNat (engOf s q) sg = false) {l : List (Nat × Nat)}
    (hl : l = (List.range (sclCount (engOf s q) sg.slot w.toNat)).filterMap
      (fun k => sclEntry (engOf s q) sg.slot (sclFirst (engOf s q) sg.slot w.toNat + k))) :
    exec (.scl q w) s = .next (if !sclReady P q l then s
      else winsSettle (setEng (sclHanded s d q w.toNat l).1 q { engOf (sclHanded s d q w.toNat l).1 q with
        run := some { sg with idx := sg.idx + 1, now := sg.now + (sclHanded s d q w.toNat l).2, lat := 12 } }) sg.slot d) := by
  subst hl
  refine congrArg Host.Outcome.next ((issueWord_go h hb (by decide) _).trans ?_)
  dsimp only
  rw [hs]
  rfl

/-- Settles O39: the issue of XLD and XST, the end of a transfer, and SCL. -/
theorem objectTransfers : Obligations.ObjectTransfers := by
  unfold Obligations.ObjectTransfers
  refine ⟨⟨fun q w s sg d hd hb => ⟨fun h x hx => ⟨fun hw => ?_, fun hw hp => ?_, fun hw hp => ?_⟩, fun h x hx => ⟨fun hl => ?_, fun hl => ?_⟩⟩,
      fun q tag came ok s x d hh hf hd hok => ?_⟩,
    fun q w s sg d P hs h hb l hl => ⟨fun hr => ?_, fun hr y hy => ?_⟩⟩
  · rw [exec_xld hd hb h hx, if_pos hw]
  · rw [exec_xld hd hb h hx, if_neg (by rw [hw]; decide), if_neg (by rw [hp]; decide)]
  · rw [exec_xld hd hb h hx, if_neg (by rw [hw]; decide), if_pos hp]
  · rw [exec_xst hd hb h hx, if_pos hl]
  · rw [exec_xst hd hb h hx, if_neg (Nat.not_le.mpr hl)]
  · have hexec : exec (.transferEnd q tag came) s = .next (transferEnd s q tag came) :=
      congrArg Host.Outcome.next (if_neg (by rw [hh]; decide))
    refine ⟨fun hl => hexec.trans (congrArg Host.Outcome.next (transferEnd_full hf hl)), fun hl => ⟨_, hexec, ?_⟩⟩
    have hee := transferEnd_ee hf hd hl hok
    have heng : engOf (transferEnd s q tag came) q = engTransferred s q d x ok := by
      rw [engOf_congr hee, engOf_setEng, if_pos rfl]
    obtain ⟨hfifo, hxfers, hstall⟩ := engTransferred_queues s q d x ok
    rw [heng]
    refine ⟨hfifo, hxfers, hstall, fun r hr => ?_, engTransferred_store ok, fun hst i hi hn => ?_⟩
    · rw [engOf_congr hee, engOf_setEng, if_neg hr]
    · exact (loadRows_m (engOf s q) x.reg x.rowsOf _ hn _ (engTransferred_load ok hst)).1 i hi |>.trans (by cases ok <;> rfl)
  · rw [exec_scl hs h hb hl, if_pos (by rw [hr]; decide)]
  · subst hy
    rw [exec_scl hs h hb hl, if_neg (by rw [hr]; decide)]
    rfl

/-! ## The core's side of an engine (R282, R283, R308, R309) -/

section
variable {s : State} {q p : Nat} {e : Eng} (hh : held s = false) (hq : q < cfgQuads s) (hp : p < 8) (he : e = engOf s q)
include hh he

theorem exec_fifoPop_seg : exec (.fifoPop q 0) s = .next { setEng s q { e with segFifo := e.segFifo.tail, stalled := e.stalled && e.segFifo.isEmpty } with
    out := { s.out with popped := e.segFifo.headD 0 } } := by
  subst he
  exact congrArg Host.Outcome.next (if_neg (by rw [hh]; decide))

theorem exec_fifoPop_xfer : exec (.fifoPop q 1) s = .next { setEng s q { e with xferFifo := e.xferFifo.tail, stalled := e.stalled && e.xferFifo.isEmpty } with
    out := { s.out with popped := e.xferFifo.headD 0 } } := by
  subst he
  exact congrArg Host.Outcome.next (if_neg (by rw [hh]; decide))

theorem exec_fifoPop_sig : exec (.fifoPop q 2) s = .next { setEng s q { e with sigFifo := e.sigFifo.tail, stalled := e.stalled && e.sigFifo.isEmpty } with
    out := { s.out with popped := e.sigFifo.headD 0 } } := by
  subst he
  exact congrArg Host.Outcome.next (if_neg (by rw [hh]; decide))

include hq hp

theorem exec_segmentPush_full (w0 w1 : W64) (hl : 32 ≤ (e.queue.getD p []).length) :
    exec (.segmentPush q p w0 w1) s = .next (bump s Cnt.eeQfull 1) := by
  subst he
  exact (if_neg (by simp [hh, hq, hp])).trans (if_pos hl)

theorem exec_segmentPush (w0 w1 : W64) (hl : (e.queue.getD p []).length < 32) : exec (.segmentPush q p w0 w1) s =
    .next (setEng s q { e with queue := e.queue.set [] p (e.queue.getD p [] ++ [(w0, w1)]) }) := by
  subst he
  exact (if_neg (by simp [hh, hq, hp])).trans (if_neg (Nat.not_le.mpr hl))

/-- A write of SX: held where a segment of the slot runs, else in force at once. -/
theorem exec_sxCoreWrite {i : Nat} (hi : i < 64) (w : W64) : exec (.sxCoreWrite q p i w) s = match e.run with
    | some sg => if sg.slot = p then .next (setEng s q { e with run := some { sg with held := sg.held ++ [(i, w)] } })
      else .next (setEng s q (setSx e p i w))
    | none => .next (setEng s q (setSx e p i w)) := by
  subst he
  exact if_neg (by simp [hh, hq, hp, hi])

theorem exec_sxCoreWrite_now {i : Nat} (hi : i < 64) (w : W64) (hr : e.run.all (fun sg => sg.slot != p) = true) :
    exec (.sxCoreWrite q p i w) s = .next (setEng s q (setSx e p i w)) := by
  rw [exec_sxCoreWrite hh hq hp he hi]
  cases hrun : e.run with
  | none => rfl
  | some sg =>
    rw [hrun] at hr
    exact if_neg (by simpa using hr)

theorem exec_sxCoreWrite_held {i : Nat} (hi : i < 64) (w : W64) {sg : Seg} (hr : e.run = some sg) (hs : sg.slot = p) :
    exec (.sxCoreWrite q p i w) s = .next (setEng s q { e with run := some { sg with held := sg.held ++ [(i, w)] } }) := by
  rw [exec_sxCoreWrite hh hq hp he hi, hr]
  exact if_pos hs

omit hp in
theorem exec_segmentStart {w : W64 × W64} {rest : List (W64 × W64)} (hr : e.run = none) (hw : e.queue.getD p [] = w :: rest)
    (h1 : segReady s q p = true) (h2 : sliceFirst s q p = true) (h3 : firstClass s q p = true) {sg : Seg} {u : State}
    (hsg : sg = ({ slot := p, segid := wfld w.1 63 48, n := wfld w.1 34 24 + 1, start := wfld w.1 47 35,
                   sx0 := e.sx.keepKeys (fun k => k / 64 == p) } : Seg))
    (hu : u = setEng s q { e with queue := e.queue.set [] p rest, run := some sg, last := p }) :
    exec (.segmentStart q p) s = .next (if 8191 < wfld w.1 47 35 + wfld w.1 34 24 then endSegment u q sg 1 0 else u) := by
  subst he hu hsg
  refine congrArg Host.Outcome.next ?_
  unfold startSegment
  dsimp only
  rw [if_pos (by simp [hh, hr, hq, h1, h2, h3]), hw]

end

/-- Settles O40, event by event. -/
theorem engineQueues : Obligations.EngineQueues := by
  unfold Obligations.EngineQueues
  intro q p s e hh hq hp he
  refine ⟨fun w0 w1 => ⟨exec_segmentPush_full hh hq hp he w0 w1, exec_segmentPush hh hq hp he w0 w1⟩, exec_fifoPop_seg hh he,
    exec_fifoPop_xfer hh he, exec_fifoPop_sig hh he,
    fun i w hi => ⟨exec_sxCoreWrite_now hh hq hp he hi w, fun sg hr hs => exec_sxCoreWrite_held hh hq hp he hi w hr hs⟩,
    fun w rest hr hw h1 h2 h3 sg u hsg hu => ⟨fun hle => ?_, fun hgt => ?_⟩⟩
  · rw [exec_segmentStart hh hq he hr hw h1 h2 h3 hsg hu, if_neg (Nat.not_lt.mpr hle)]
  · rw [exec_segmentStart hh hq he hr hw h1 h2 h3 hsg hu, if_pos hgt]

/-! ## The aperture (R301) -/

section
variable {s : State} {offset : Nat} (w : W64)

theorem exec_apertureAccess (hh : held s = false) (hb : s.core.st ≠ .boot) (hr : s.core.st ≠ .restarting) (write : Bool) :
    exec (.apertureAccess write offset w) s = .next (apAccess s write offset w) :=
  congrArg Host.Outcome.next (if_pos (by simp [fwAlive, hh, hb, hr]))

theorem apAccess_fault (h : apTarget s offset = none) (write : Bool) :
    apAccess s write offset w = { s with core := { s.core with apFault := true } } := by
  unfold apAccess
  rw [h]
  rfl

variable {d h off : Nat} (ht : apTarget s offset = some (d, h, off))
include ht

theorem apAccess_write : apAccess s true offset w = objWrite { s with core := { s.core with apFault := false } } d h off (leBytes 8 w.toNat) := by
  unfold apAccess
  rw [ht]
  rfl

theorem apAccess_read {o : Objt} {xi o1 x : Nat} (ho : objOf s d h = some o) (hx : o.at off = (xi, o1)) (hk : x = xKey d h xi) :
    apAccess s false offset w = if poisonedX s x then { s with core := { s.core with apFault := true } }
      else addReq { s with core := { s.core with apFault := false, apOff := (imagePlace s x none o1).2.2 % 64 } } d false
        (imagePlace s x none o1).1 (imagePlace s x none o1).2.1 1 ((imagePlace s x none o1).2.2 / 64 * 64) 64 .aperture false := by
  have hu : objOf { s with core := { s.core with apFault := false } } d h = some o := ho
  subst hk
  unfold apAccess
  rw [ht]
  change apRead { s with core := { s.core with apFault := false } } d h off = _
  unfold apRead
  rw [hu]
  dsimp only
  rw [hx]
  rfl

end

/-- Settles O41: no target, a write, a read. -/
theorem apertureAccesses : Obligations.ApertureAccesses := by
  unfold Obligations.ApertureAccesses
  intro offset w s hh hb hr
  refine ⟨fun ht write => ?_, fun d h off ht => ⟨?_, fun o xi o1 x ho hx hk => ⟨fun hp => ?_, fun hp => ?_⟩⟩⟩
  · rw [exec_apertureAccess w hh hb hr, apAccess_fault w ht]
  · rw [exec_apertureAccess w hh hb hr, apAccess_write w ht]
  · rw [exec_apertureAccess w hh hb hr, apAccess_read w ht ho hx hk, if_pos hp]
  · rw [exec_apertureAccess w hh hb hr, apAccess_read w ht ho hx hk, if_neg (by rw [hp]; decide)]
    exact ⟨_, rfl, rfl, rfl, rfl, rfl, rfl, rfl, rfl⟩

end Sys2Proof.Machine
end

section
/-! PROOF. PLAN_LOAD, PLAN_UNLOAD (R249, R250) and RESET_PART, PART_START, PART_QUIESCE, PART_CLAMP (R214, R250, R261, R381, R391). -/

namespace Sys2Proof.Machine

/-! ## PLAN_LOAD (R249) -/

section
variable {s : State} {shape : Shape} {i : Inst}

theorem exec_planLoad (h : Due s 7 0x10 i) : exec (.planLoad shape) s = .next (planLoadAct shape s i) :=
  congrArg Host.Outcome.next (cmdRow_due h (planLoadAct shape))

variable (hr : s.boot.reload = none)
include hr

/-- What PLAN_LOAD does where no soft reload runs. -/
theorem planLoadAct_eq {w : List W64} {code : Nat} (hw : w = t1Words s (i.arg 0 % 2 ^ 52) 8)
    (hc : code = planCode s w (bytesAt s.mem (memKey 0 (i.arg 0 % 2 ^ 52)) 64)) :
    planLoadAct shape s i = match slotFor s with
      | some p => if code ≠ 0 then refuse s i none code else finish (planInstall s p w shape) i (some (planFld w 0 63 59)) Code.ok (w64 p) 0
      | none => refuse s i none (if code ≠ 0 then code else Code.slotFull) := by
  subst hc hw
  exact if_neg (by simp [reloading, hr])

end

/-- The values that a plan record gives the objects of its slot. -/
def planVals (w : List W64) : List (Nat × Nat × Nat) :=
  [(7, 0x20, planFld w 0 55 48), (7, 0x21, planFld w 0 58 56), (7, 0x22, planFld w 0 47 45), (7, 0x50, planFld w 2 63 48),
    (6, 0x10, planFld w 2 47 34), (6, 0x11, planFld w 2 33 19)]

/-- A value of a slot written. -/
def putSlotVal (p : Nat) (s : State) (v : Nat × Nat × Nat) : State := setVal s v.1 v.2.1 p (w64 v.2.2)

/-- The slot is free of what it held, and the counters of the partition are gone. -/
def planSlotFreed (s : State) (p : Nat) (w : List W64) : State :=
  let s1 := freeSlotNow (replayYield s p (planFld w 0 55 48) (planFld w 2 63 48)) p
  { s1 with cnt := s1.cnt.keepKeys (fun k => !cntOfPart (planFld w 0 63 59) k) }

theorem planSlotFreed_cnt (s : State) (p : Nat) (w : List W64) : (planSlotFreed s p w).cnt =
    (freeSlotNow (replayYield s p (planFld w 0 55 48) (planFld w 2 63 48)) p).cnt.keepKeys (fun k => !cntOfPart (planFld w 0 63 59) k) := rfl

/-- The objects of the slot have their values. -/
def planSlotSet (s : State) (p : Nat) (w : List W64) : State := (planVals w).foldl (putSlotVal p) (planSlotFreed s p w)

/-- The partition of a plan that has been installed. -/
def planPart (s : State) (p : Nat) (w : List W64) (shape : Shape) : Part :=
  { st := .quiesced, slot := some p, modes := planModes w, shape := shape, fwBank := bankNow (planSlotSet s p w) }

/-- A partition is defined. -/
def putPart (s : State) (d : Nat) (P : Part) : State := { s with parts := s.parts.put d P }

theorem partOf_putPart (s : State) (d : Nat) (P : Part) : partOf (putPart s d P) d = some P := partOf_put _ _ _

theorem putPart_od (s : State) (d : Nat) (P : Part) : (putPart s d P).od = s.od := rfl

theorem putPart_cnt (s : State) (d : Nat) (P : Part) : (putPart s d P).cnt = s.cnt := rfl

theorem planInstall_eq (s : State) (p : Nat) (w : List W64) (shape : Shape) : planInstall s p w shape =
    mapShare (putPart (planSlotSet s p w) (planFld w 0 63 59) (planPart s p w shape)) (planFld w 0 63 59) := rfl

theorem planInstall_part (s : State) (p : Nat) (w : List W64) (shape : Shape) :
    ∃ g, partOf (planInstall s p w shape) (planFld w 0 63 59) = some { planPart s p w shape with granules := g } := by
  rw [planInstall_eq]
  exact mapShare_part (partOf_putPart _ _ _)

/-- The last of several values for one slot that names an element prevails. -/
theorem find_putSlotVals (p : Nat) (x : Nat × Nat × Nat) (l : List (Nat × Nat × Nat)) : ∀ s : State, x ∈ l →
    (∀ y ∈ l, okey y.1 y.2.1 p = okey x.1 x.2.1 p → y = x) →
    (l.foldl (putSlotVal p) s).od.vals.find? (okey x.1 x.2.1 p) = some (w64 x.2.2) := by
  induction l using List.reverseRecOn with
  | nil => intro s hx; cases hx
  | append_singleton l y ih =>
    intro s hx hu
    rw [List.foldl_append]
    change ((l.foldl (putSlotVal p) s).od.vals.put (okey y.1 y.2.1 p) (w64 y.2.2)).find? _ = _
    rw [Tab.find?_put]
    split
    · next hk => rw [hu y (by simp) hk.symm]
    · next hk =>
      have hl : x ∈ l := by
        rcases List.mem_append.mp hx with h | h
        · exact h
        · exact absurd (congrArg (fun z : Nat × Nat × Nat => okey z.1 z.2.1 p) (List.mem_singleton.mp h)) hk
      exact ih s hl (fun z hz => hu z (List.mem_append_left _ hz))

/-- No two values of a plan are for one element of the slot. -/
theorem planVals_inj (w : List W64) {p : Nat} {x y : Nat × Nat × Nat} (hx : x ∈ planVals w) (hy : y ∈ planVals w)
    (h : okey x.1 x.2.1 p = okey y.1 y.2.1 p) : x = y := by
  have hnd : ((planVals w).map (fun v => okey v.1 v.2.1 0)).Nodup := by
    simp only [planVals, List.map_cons, List.map_nil]
    decide
  refine List.inj_on_of_nodup_map hnd hx hy ?_
  simpa [okey] using h

theorem planInstall_vals (s : State) (p : Nat) (w : List W64) (shape : Shape) :
    ∀ x ∈ planVals w, (planInstall s p w shape).od.vals.find? (okey x.1 x.2.1 p) = some (w64 x.2.2) := by
  intro x hx
  rw [planInstall_eq, mapShare_od, putPart_od, planSlotSet]
  exact find_putSlotVals p x (planVals w) _ hx (fun y hy hk => planVals_inj w hy hx hk)

theorem putSlotVals_cnt (p : Nat) (l : List (Nat × Nat × Nat)) : ∀ s : State, (l.foldl (putSlotVal p) s).cnt = s.cnt := by
  induction l with
  | nil => exact fun _ => rfl
  | cons y l ih => exact fun s => ih _

theorem planInstall_cnt (s : State) (p : Nat) (w : List W64) (shape : Shape) {k : Nat} (hk : cntOfPart (planFld w 0 63 59) k = true) :
    (planInstall s p w shape).cnt.getD k 0 = 0 := by
  rw [planInstall_eq, mapShare_cnt, putPart_cnt, planSlotSet, putSlotVals_cnt, planSlotFreed_cnt]
  exact keepKeys_getD _ (fun k => !cntOfPart (planFld w 0 63 59) k) k (by rw [hk]; rfl)

/-! ## PLAN_UNLOAD (R250) -/

section
variable {s : State} {i : Inst} {d : Nat} (hd : d = i.arg 0 % 32)

theorem exec_planUnload (h : Due s 7 0x11 i) : exec .planUnload s = .next (planUnloadAct s i) :=
  congrArg Host.Outcome.next (cmdRow_due h planUnloadAct)

theorem partOf_planRemove {P : Part} (h : partOf s d = some P) : partOf (planRemove s d) d = none := by
  unfold planRemove
  rw [h]
  exact parts_del_find _ _

include hd

theorem planUnloadAct_undefined (h : partOf s d = none) : Ends s i none Code.partState 0 0 (planUnloadAct s i) := by
  subst hd
  unfold planUnloadAct Inst.partArg
  dsimp only
  rw [h]
  exact refuse_ends _ _ _ _

theorem planUnloadAct_eq {P : Part} (h : partOf s d = some P) : planUnloadAct s i =
    if !(P.st == .quiesced || P.st == .clamped) || partChecking s d then refuse s i (some d) Code.partState
    else finish (planRemove s d) i none Code.ok 0 0 := by
  subst hd
  unfold planUnloadAct Inst.partArg
  dsimp only
  rw [h]

end

/-- Settles O42: the record's checks, its installation, and the removal. -/
theorem planCommands : Obligations.PlanCommands := by
  unfold Obligations.PlanCommands
  refine ⟨fun s shape i h hr a w ha hw code hc => ?_, fun s i h d hd => ?_⟩
  · subst ha
    have heq := planLoadAct_eq (shape := shape) hr hw hc
    refine ⟨_, exec_planLoad h, fun hs => ?_, fun p hs hne => ?_, fun p hs hz d hdd => ?_, slotFor_free s⟩
    · rw [heq, hs]
      dsimp only
      rw [ite_not]
      exact refuse_ends _ _ _ _
    · rw [heq, hs]
      dsimp only
      rw [if_pos hne]
      exact refuse_ends _ _ _ _
    · subst hdd
      rw [heq, hs]
      dsimp only
      rw [if_neg (not_not.mpr hz)]
      obtain ⟨g, hg⟩ := planInstall_part s p w shape
      exact ⟨_, rfl, finish_ends _ _ _ _ _ _, ⟨_, hg, rfl, rfl, rfl, rfl, rfl, rfl⟩, planInstall_vals s p w shape, fun k => planInstall_cnt s p w shape⟩
  · refine ⟨_, exec_planUnload h, planUnloadAct_undefined hd, fun P hP hc => ?_, fun P hP hst hk => ?_⟩
    · rw [planUnloadAct_eq hd hP, if_pos (by rcases hc with hc | hc <;> simp [hc])]
      exact refuse_ends _ _ _ _
    · rw [planUnloadAct_eq hd hP, if_neg (by rw [hk]; rcases hst with hst | hst <;> rw [hst] <;> decide)]
      exact ⟨finish_ends _ _ _ _ _ _, partOf_planRemove hP⟩

end Sys2Proof.Machine
end

section
/-! PROOF. PART_START, PART_QUIESCE, PART_CLAMP and RESET_PART (R214, R250, R261, R381, R391). -/

namespace Sys2Proof.Machine

section
variable {s : State} {i : Inst}

theorem exec_partStart (h : Due s 7 0x12 i) : exec .partStart s = .next (partStartAct s i) :=
  congrArg Host.Outcome.next (cmdRow_due h partStartAct)

theorem exec_partQuiesce (h : Due s 7 0x13 i) : exec .partQuiesce s = .next (partQuiesceAct s i) :=
  congrArg Host.Outcome.next (cmdRow_due h partQuiesceAct)

theorem exec_partClamp (h : Due s 7 0x14 i) : exec .partClamp s = .next (partClampAct s i) :=
  congrArg Host.Outcome.next (cmdRow_due h partClampAct)

theorem exec_resetPart (h : Due s 1 2 i) : exec .resetPart s = .next (resetPartAct s i) :=
  congrArg Host.Outcome.next (cmdRow_due h resetPartAct)

variable {d : Nat} (hd : d = i.arg 0 % 32)
include hd

/-! ## An undefined partition -/

theorem partStartAct_undefined (h : partOf s d = none) : Ends s i none Code.partState 0 0 (partStartAct s i) := by
  subst hd
  unfold partStartAct Inst.partArg
  dsimp only
  rw [h]
  exact refuse_ends _ _ _ _

theorem partQuiesceAct_undefined (h : partOf s d = none) : Ends s i none Code.partState 0 0 (partQuiesceAct s i) := by
  subst hd
  unfold partQuiesceAct Inst.partArg
  dsimp only
  rw [h]
  exact refuse_ends _ _ _ _

theorem partClampAct_undefined (h : partOf s d = none) : Ends s i none Code.partState 0 0 (partClampAct s i) := by
  subst hd
  unfold partClampAct Inst.partArg
  dsimp only
  rw [h]
  exact refuse_ends _ _ _ _

theorem resetPartAct_undefined (h : partOf s d = none) : Ends s i none Code.partState 0 0 (resetPartAct s i) := by
  subst hd
  unfold resetPartAct Inst.partArg
  dsimp only
  rw [h]
  exact refuse_ends _ _ _ _

variable {P : Part} (hP : partOf s d = some P)
include hP

/-! ## PART_START -/

theorem partStartAct_noSlot (hs : P.slot = none) : partStartAct s i = refuse s i (some d) Code.partState := by
  subst hd
  unfold partStartAct Inst.partArg
  dsimp only
  rw [hP]
  dsimp only
  rw [hs]

/-- The state in which the partition has become RUNNING. -/
def startedState (s : State) (d : Nat) : State :=
  servingReady (updPart s d (fun P => { P with st := .running, fwBank := bankNow s, place := 0 }))

theorem partStartAct_eq {p : Nat} (hs : P.slot = some p) : partStartAct s i =
    if reloading s || P.st != .quiesced then refuse s i (some d) Code.partState
    else if handlesMissing s p d P || regsClash s p d then refuse s i (some d) Code.limitRange
    else partIdle (finish (startLists (startedState s d) d) i (some d) Code.ok 0 0) d := by
  subst hd
  unfold partStartAct Inst.partArg
  dsimp only
  rw [hP]
  dsimp only
  rw [hs]
  rfl

theorem partStartAct_refused (h : P.slot = none ∨ s.boot.reload.isSome ∨ P.st ≠ .quiesced) :
    Ends s i (some d) Code.partState 0 0 (partStartAct s i) := by
  cases hs : P.slot with
  | none =>
    rw [partStartAct_noSlot hd hP hs]
    exact refuse_ends _ _ _ _
  | some p =>
    rw [partStartAct_eq hd hP hs, if_pos (by rcases h with h | h | h <;> simp_all [reloading])]
    exact refuse_ends _ _ _ _

theorem partStartAct_clash {p : Nat} (hs : P.slot = some p) (hr : s.boot.reload = none) (hq : P.st = .quiesced)
    (h : handlesMissing s p d P = true ∨ regsClash s p d = true) : Ends s i (some d) Code.limitRange 0 0 (partStartAct s i) := by
  rw [partStartAct_eq hd hP hs, if_neg (by simp [reloading, hr, hq]), if_pos (by rcases h with h | h <;> simp [h])]
  exact refuse_ends _ _ _ _

theorem partStartAct_starts {p : Nat} (hs : P.slot = some p) (hr : s.boot.reload = none) (hq : P.st = .quiesced)
    (h1 : handlesMissing s p d P = false) (h2 : regsClash s p d = false) :
    partStartAct s i = partIdle (finish (startLists (startedState s d) d) i (some d) Code.ok 0 0) d := by
  rw [partStartAct_eq hd hP hs, if_neg (by simp [reloading, hr, hq]), if_neg (by simp [h1, h2])]

/-! ## PART_QUIESCE -/

theorem partQuiesceAct_eq : partQuiesceAct s i = if P.st != .running then refuse s i (some d) Code.partState
    else quiesceSettle (setInst s { i with st := .pending, part := d, wait := boundaries P }) d := by
  subst hd
  unfold partQuiesceAct Inst.partArg
  dsimp only
  rw [hP]

/-! ## PART_CLAMP -/

theorem partClampAct_eq : partClampAct s i = if reloading s then refuse s i (some d) Code.partState
    else if P.st == .clamping || preempting P then finish s i (some d) Code.ok 0 0
    else if P.st != .running && P.st != .quiesced then refuse s i (some d) Code.partState
    else if !hasClamp s d then refuse s i (some d) Code.limitRange
    else preemptBegin (finish s i (some d) Code.ok 0 0) d (if bitOf (i.arg 0) 8 then 2 else 1) := by
  subst hd
  unfold partClampAct Inst.partArg
  dsimp only
  rw [hP]

theorem partClampAct_reloading (hr : s.boot.reload.isSome) : Ends s i (some d) Code.partState 0 0 (partClampAct s i) := by
  rw [partClampAct_eq hd hP, if_pos (by exact hr)]
  exact refuse_ends _ _ _ _

omit hd hP in
theorem not_reloading (hr : s.boot.reload = none) : ¬ reloading s = true := by simp [reloading, hr]

theorem partClampAct_already (hr : s.boot.reload = none) (h : P.st = .clamping ∨ preempting P = true) :
    Ends s i (some d) Code.ok 0 0 (partClampAct s i) := by
  rw [partClampAct_eq hd hP, if_neg (not_reloading hr), if_pos (by rcases h with h | h <;> simp [h])]
  exact finish_ends _ _ _ _ _ _

section
variable (hr : s.boot.reload = none) (hc : P.st ≠ .clamping) (hp : preempting P = false)
include hr hc hp

/-- PART_CLAMP of a partition that is not on its way out. -/
theorem partClampAct_here : partClampAct s i = if P.st != .running && P.st != .quiesced then refuse s i (some d) Code.partState
    else if !hasClamp s d then refuse s i (some d) Code.limitRange
    else preemptBegin (finish s i (some d) Code.ok 0 0) d (if bitOf (i.arg 0) 8 then 2 else 1) := by
  rw [partClampAct_eq hd hP, if_neg (not_reloading hr), if_neg (by simp [hc, hp])]

theorem partClampAct_state (h1 : P.st ≠ .running) (h2 : P.st ≠ .quiesced) : Ends s i (some d) Code.partState 0 0 (partClampAct s i) := by
  rw [partClampAct_here hd hP hr hc hp, if_pos (by simp [h1, h2])]
  exact refuse_ends _ _ _ _

variable (hst : P.st = .running ∨ P.st = .quiesced)
include hst

theorem partClampAct_noClamp (h : hasClamp s d = false) : Ends s i (some d) Code.limitRange 0 0 (partClampAct s i) := by
  rw [partClampAct_here hd hP hr hc hp, if_neg (by rcases hst with h | h <;> simp [h]), if_pos (by simp [h])]
  exact refuse_ends _ _ _ _

theorem partClampAct_begins (h : hasClamp s d = true) :
    partClampAct s i = preemptBegin (finish s i (some d) Code.ok 0 0) d (if bitOf (i.arg 0) 8 then 2 else 1) := by
  rw [partClampAct_here hd hP hr hc hp, if_neg (by rcases hst with h | h <;> simp [h]), if_neg (by simp [h])]

end

/-! ## RESET_PART -/

/-- What RESET_PART clears first: the tile registers of a resident partition, the step of another. -/
def resetFirst (s : State) (d : Nat) (P : Part) : State :=
  match P.slot with
  | some p => regsClear s p
  | none => abandonStep s d

/-- What RESET_PART drops then: the share and the pen. -/
def resetPen (s : State) (d : Nat) (P : Part) : State :=
  updTrain (bumpD (dropShare (resetFirst s d P) d) Cnt.penDrop d P.train.pen.length) d (fun T => { T with pen := [], penFull := false })

theorem resetPartAct_eq : resetPartAct s i = if reloading s || !(P.st == .quiesced || P.st == .clamped) then refuse s i (some d) Code.partState
    else if P.st == .clamped && P.train.atts.any (fun e => decide (0xFFFF ≤ e.2.run)) then refuse s i (some d) Code.limitRange
    else finish (listsRecover (lrbFree (resetPen s d P) d) d) i (some d) Code.ok 0 0 := by
  subst hd
  unfold resetPartAct Inst.partArg
  dsimp only
  rw [hP]
  rfl

theorem resetPartAct_state (h : s.boot.reload.isSome ∨ (P.st ≠ .quiesced ∧ P.st ≠ .clamped)) :
    Ends s i (some d) Code.partState 0 0 (resetPartAct s i) := by
  rw [resetPartAct_eq hd hP, if_pos (by rcases h with h | h <;> simp [reloading, h])]
  exact refuse_ends _ _ _ _

theorem resetPartAct_spent (hr : s.boot.reload = none) (hc : P.st = .clamped)
    (ha : P.train.atts.any (fun e => decide (0xFFFF ≤ e.2.run)) = true) : Ends s i (some d) Code.limitRange 0 0 (resetPartAct s i) := by
  rw [resetPartAct_eq hd hP, if_neg (by simp [reloading, hr, hc]), if_pos (by rw [hc, ha]; rfl)]
  exact refuse_ends _ _ _ _

theorem resetPartAct_resets (hr : s.boot.reload = none)
    (h : P.st = .quiesced ∨ (P.st = .clamped ∧ P.train.atts.any (fun e => decide (0xFFFF ≤ e.2.run)) = false)) :
    resetPartAct s i = finish (listsRecover (lrbFree (resetPen s d P) d) d) i (some d) Code.ok 0 0 := by
  rw [resetPartAct_eq hd hP, if_neg (by rcases h with h | h <;> simp [reloading, hr, h]), if_neg ?_]
  rcases h with h | ⟨h, ha⟩
  · rw [h]; simp
  · rw [ha]; simp

end

theorem servingReady_stage {s : State} (h : s.boot.stage = 10) : (servingReady s).boot.stage = 11 := by
  unfold servingReady
  rw [if_pos h]
  dsimp only
  split
  · rw [replaceRise_boot]; rfl
  · rfl

/-- Settles O43, command by command. -/
theorem partitionCommands : Obligations.PartitionCommands := by
  unfold Obligations.PartitionCommands
  refine ⟨fun s i d hd => ⟨fun h => ⟨_, exec_partStart h, partStartAct_undefined hd, fun P hP => partStartAct_refused hd hP,
        fun P p hP hs hr hq => ⟨partStartAct_clash hd hP hs hr hq, fun h1 h2 => ⟨startedState s d, _, rfl, finish_ends _ _ _ _ _ _,
          partStartAct_starts hd hP hs hr hq h1 h2, fun h10 => servingReady_stage h10⟩⟩⟩,
      fun h => ⟨_, exec_partQuiesce h, partQuiesceAct_undefined hd, fun P hP hn => ?_, fun P hP hn => ?_⟩,
      fun h => ⟨_, exec_partClamp h, partClampAct_undefined hd, fun P hP => partClampAct_reloading hd hP, fun P hP => partClampAct_already hd hP,
        fun P hP hr hc hp => ⟨partClampAct_state hd hP hr hc hp, partClampAct_noClamp hd hP hr hc hp, fun hst hcl =>
          ⟨_, finish_ends _ _ _ _ _ _, partClampAct_begins hd hP hr hc hp hst hcl⟩⟩⟩⟩,
    fun s i d hd h => ⟨_, exec_resetPart h, resetPartAct_undefined hd, fun P hP => resetPartAct_state hd hP,
      fun P hP => resetPartAct_spent hd hP, fun P hP hr hst => ⟨resetFirst s d P, _, _, fun p hp => ?_, fun hp => ?_, rfl, rfl, ?_⟩⟩⟩
  · rw [partQuiesceAct_eq hd hP, if_pos (by simpa using hn)]
    exact refuse_ends _ _ _ _
  · rw [partQuiesceAct_eq hd hP, if_neg (by simp [hn])]
  · unfold resetFirst; rw [hp]
  · unfold resetFirst; rw [hp]
  · rw [resetPartAct_resets hd hP hr hst]
    exact finish_ends _ _ _ _ _ _

end Sys2Proof.Machine
end

section
/-! PROOF. The ends of saves and restores, blocked partitions, the urgent timer and the choice of a restore (R261 to R273, R389). -/

namespace Sys2Proof.Machine

/-! ## The end of a save (R266) -/

/-- The state in which a partition is CLAMPED, before source 45 is latched. -/
def savedState (s : State) (d p : Nat) (P : Part) : State :=
  let s1 := freeSlotNow { s with order := s.order + 1, ctxs := s.ctxs.filter (fun e => e.2.part != d) } p
  let s2 := updPart s1 d (fun P => { P with
    st := .clamped, slot := none, granules := [], saved := ctxsOf s d, preempt := none, holds := [], runnableOrder := s.order + 1 })
  sqEvent s2 0 p d ((P.clamp.map (·.ppWord)).getD 0)

section
variable {s : State} {d : Nat} {P : Part} {p : Nat} {q : Preempt} (hP : partOf s d = some P) (hs : P.slot = some p) (hq : P.preempt = some q)
include hP hs hq

theorem saveEnd_waits (h : P.st ≠ .clamping ∨ q.owed ≠ 0 ∨ P.lrbQueue ≠ []) : saveEnd s d = s := by
  unfold saveEnd
  rw [hP]
  dsimp only
  rw [hs, hq]
  exact if_pos (by rcases h with h | h | h <;> simp [h])

theorem saveEnd_ends (h1 : P.st = .clamping) (h2 : q.owed = 0) (h3 : P.lrbQueue = []) :
    saveEnd s d = if (partOf (savedState s d p P) d).any runnable then latch (savedState s d p P) 45 else savedState s d p P := by
  unfold saveEnd
  rw [hP]
  dsimp only
  rw [hs, hq]
  exact if_neg (by simp [h1, h2, h3])

end

section
variable (s : State) (d p : Nat) (P : Part)

/-- A partition that has been saved. -/
def savedPart : Part := { P with
  st := .clamped, slot := none, granules := [], saved := ctxsOf s d, preempt := none, holds := [], runnableOrder := s.order + 1 }

/-- What the state after a save keeps, beside the partition itself. -/
theorem savedState_frame : (savedState s d p P).out.sqEv = some (0, p, d, (P.clamp.map (·.ppWord)).getD 0) ∧
    (savedState s d p P).ctxs = s.ctxs.filter (fun e => e.2.part != d) ∧
    (∀ e, e ≠ d → partOf (savedState s d p P) e = partOf s e) ∧ (savedState s d p P).mem = s.mem ∧ (savedState s d p P).cnt = s.cnt := by
  obtain ⟨od, ee, mp, hf⟩ := freeSlot_frame { s with order := s.order + 1, ctxs := s.ctxs.filter (fun e => e.2.part != d) } p
  unfold savedState
  rw [hf]
  exact ⟨rfl, rfl, fun e he => partOf_updPart_other _ he _, rfl, rfl⟩

variable {s d p P} in
theorem savedState_part (hP : partOf s d = some P) : partOf (savedState s d p P) d = some (savedPart s d P) := by
  obtain ⟨od, ee, mp, hf⟩ := freeSlot_frame { s with order := s.order + 1, ctxs := s.ctxs.filter (fun e => e.2.part != d) } p
  unfold savedState
  rw [hf]
  exact partOf_updPart_self hP _

end

/-- Latching source 45 after a save changes only the core. -/
theorem latchIf_frame (S : State) (c : Bool) : (if c then latch S 45 else S).out = S.out ∧ (if c then latch S 45 else S).ctxs = S.ctxs ∧
    (∀ e, partOf (if c then latch S 45 else S) e = partOf S e) ∧ (if c then latch S 45 else S).mem = S.mem ∧
    (if c then latch S 45 else S).cnt = S.cnt := by
  cases c <;> exact ⟨rfl, rfl, fun _ => rfl, rfl, rfl⟩

/-! ## The end of a restore, blocked partitions, the urgent timer -/

section
variable {s : State} {d : Nat} (hh : held s = false)
include hh

theorem exec_clampSaveEnd : exec (.clampSaveEnd d) s = .next (saveEnd s d) := congrArg Host.Outcome.next (if_neg (by simp [hh]))

theorem exec_restoreEnd : exec (.restoreEnd d) s = .next (restoreDone s d) := congrArg Host.Outcome.next (if_neg (by simp [hh]))

theorem exec_partitionBlocked : exec (.partitionBlocked d) s = .next (partBlock s d) := congrArg Host.Outcome.next (if_neg (by simp [hh]))

theorem exec_urgentTimer : exec (.urgentTimer d) s = .next (urgentArm s d) := congrArg Host.Outcome.next (if_neg (by simp [hh]))

theorem exec_restoreStart (hr : ready s = true) : exec .restoreStart s = .next (restorePick s) :=
  congrArg Host.Outcome.next (if_neg (by simp [hh, hr]))

end

section
variable {s : State} {d : Nat} {P : Part} (hP : partOf s d = some P)
include hP

theorem restoreDone_waits {p : Nat} {q : Preempt} {c : Clamp} (hs : P.slot = some p) (hq : P.preempt = some q) (hc : P.clamp = some c)
    (h : P.st ≠ .restoring ∨ q.owed ≠ 0) : restoreDone s d = s := by
  unfold restoreDone
  rw [hP]
  dsimp only
  rw [hs, hq, hc]
  exact if_pos (by rcases h with h | h <;> simp [h])

theorem partBlock_waits (h : P.st ≠ .running ∨ P.blocked = true ∨ s.mp.out.any (fun r => r.part == d && r.tier == 3) = false ∨ trAlone s d P = false) :
    partBlock s d = s := by
  unfold partBlock
  rw [hP]
  refine if_pos ?_
  rcases h with h | h | h | h
  · simp [h]
  · rw [h]; simp
  · rw [h]; simp
  · rw [h]; simp

theorem partBlock_blocks (h1 : P.st = .running) (h2 : P.blocked = false) (h3 : s.mp.out.any (fun r => r.part == d && r.tier == 3) = true)
    (h4 : trAlone s d P = true) : partBlock s d = swapBlocked (latch (updPart { s with order := s.order + 1 } d
      (fun P => { P with blocked := true, blockOrder := s.order + 1 })) 45) := by
  unfold partBlock
  rw [hP]
  exact if_neg (by rw [h1, h2, h3, h4]; decide)

theorem urgentArm_waits {q : Preempt} (hq : P.preempt = some q) (h : q.kind ≠ 2 ∨ q.passed = true) : urgentArm s d = s := by
  unfold urgentArm
  rw [hP]
  dsimp only
  rw [hq]
  exact if_neg (by rcases h with h | h <;> simp [h])

theorem urgentArm_arms {q : Preempt} (hq : P.preempt = some q) (h1 : q.kind = 2) (h2 : q.passed = false) :
    urgentArm s d = effectDue (updPart s d (fun P => { P with
      preempt := some { q with armed := true, stopping := q.stopping || !tileWork P } })) d := by
  unfold urgentArm
  rw [hP]
  dsimp only
  rw [hq]
  exact if_pos (by simp [h1, h2])

end

/-! ## The scheduler's restore (R262, R273, R389) -/

section
variable {s : State}

theorem restorePick_reload {r : Reload} (hr : s.boot.reload = some r) (hw : r.worked = false) : restorePick s = s := by
  unfold restorePick
  rw [hr]
  exact if_pos (by simp [hw])

variable (hr : s.boot.reload = none)
include hr

theorem restorePick_none (h : (restoreOrder s).head? = none) : restorePick s = s := by
  unfold restorePick
  rw [hr]
  dsimp only
  rw [h]

variable {d : Nat} {P : Part} (ho : (restoreOrder s).head? = some d) (hP : partOf s d = some P)
include ho hP

/-- The first CLAMPED partition of the order decides. -/
theorem restorePick_first : restorePick s =
    if fitsWithout s P [] then (match slotFor s with | some p => restoreNow s d p P | none => s)
    else if fitsWithout s P (leaving s) then s
    else if allBlocked s then swapBlocked s
    else makeRoomFor s P := by
  unfold restorePick
  rw [hr]
  dsimp only
  rw [ho]
  dsimp only
  rw [hP] <;> rfl

theorem restorePick_fits {p : Nat} (h : fitsWithout s P [] = true) (hp : slotFor s = some p) : restorePick s = restoreNow s d p P := by
  rw [restorePick_first hr ho hP, if_pos h, hp]

variable (h1 : fitsWithout s P [] = false)
include h1

theorem restorePick_waits (h2 : fitsWithout s P (leaving s) = true) : restorePick s = s := by
  rw [restorePick_first hr ho hP, if_neg (by simp [h1]), if_pos h2]

theorem restorePick_swaps (h2 : fitsWithout s P (leaving s) = false) (h3 : allBlocked s = true) : restorePick s = swapBlocked s := by
  rw [restorePick_first hr ho hP, if_neg (by simp [h1]), if_neg (by simp [h2]), if_pos h3]

theorem restorePick_room (h2 : fitsWithout s P (leaving s) = false) (h3 : allBlocked s = false) : restorePick s = makeRoomFor s P := by
  rw [restorePick_first hr ho hP, if_neg (by simp [h1]), if_neg (by simp [h2]), if_neg (by simp [h3])]

end

/-- Settles O44, event by event. -/
theorem savesAndRestores : Obligations.SavesAndRestores := by
  unfold Obligations.SavesAndRestores
  refine ⟨fun s d P hh hP => ⟨fun p q hs hq => ⟨fun h => ?_, fun h1 h2 h3 => ?_⟩, fun p q c hs hq hc => ⟨fun h => ?_, fun _ _ => exec_restoreEnd hh⟩,
      fun h => ?_, fun h1 h2 h3 h4 => ?_, fun q hq => ⟨fun h => ?_, fun h1 h2 => ?_⟩⟩,
    fun s hh hr => ⟨fun hl => ⟨fun ho => ?_, fun d P ho hP => ⟨fun p h hp => ?_, fun h1 h2 => ?_, fun h1 h2 h3 => ?_, fun h1 h2 h3 => ?_⟩⟩,
      fun r hl hw => ?_⟩⟩
  · rw [exec_clampSaveEnd hh, saveEnd_waits hP hs hq h]
  · obtain ⟨hev, hctx, hother, hmem, hcnt⟩ := savedState_frame s d p P
    have hpart := savedState_part (p := p) hP
    obtain ⟨lout, lctx, lpart, lmem, lcnt⟩ := latchIf_frame (savedState s d p P) ((partOf (savedState s d p P) d).any runnable)
    refine ⟨_, savedPart s d P, exec_clampSaveEnd hh, ?_, rfl, rfl, rfl, rfl, rfl, rfl, rfl, rfl, rfl, ?_⟩
    · rw [saveEnd_ends hP hs hq h1 h2 h3, lpart, hpart]
    · rw [saveEnd_ends hP hs hq h1 h2 h3, lout, lctx, lmem, lcnt]
      exact ⟨hev, hctx, fun e he => (lpart e).trans (hother e he), hmem, hcnt⟩
  · rw [exec_restoreEnd hh, restoreDone_waits hP hs hq hc h]
  · rw [exec_partitionBlocked hh, partBlock_waits hP h]
  · rw [exec_partitionBlocked hh, partBlock_blocks hP h1 h2 h3 h4]
  · rw [exec_urgentTimer hh, urgentArm_waits hP hq h]
  · rw [exec_urgentTimer hh, urgentArm_arms hP hq h1 h2]
  · rw [exec_restoreStart hh hr, restorePick_none hl ho]
  · rw [exec_restoreStart hh hr, restorePick_fits hl ho hP h hp]
  · rw [exec_restoreStart hh hr, restorePick_waits hl ho hP h1 h2]
  · rw [exec_restoreStart hh hr, restorePick_swaps hl ho hP h1 h2 h3]
  · rw [exec_restoreStart hh hr, restorePick_room hl ho hP h1 h2 h3]
  · rw [exec_restoreStart hh hr, restorePick_reload hl hw]

end Sys2Proof.Machine
end

section
/-! PROOF. Events of tiles and of the scrubber (R81, R397, R399, R404 to R408). -/

namespace Sys2Proof.Machine

/-! ## Substitution (R81) -/

section
variable {s : State} (hh : held s = false)
include hh

theorem exec_spareSubstitution_waits {l : Nat} (h : tileInUse s l = true ∨ s.rel.subst.find? (fun x => x.1 == l) = none) :
    exec (.spareSubstitution l) s = .next s := by
  refine congrArg Host.Outcome.next ?_
  by_cases hu : tileInUse s l = true
  · exact if_pos (by simp [hu])
  · rw [h.resolve_left hu]
    exact if_neg (by simp [hh, hu])

theorem exec_spareSubstitution {l : Nat} {x : Nat × Nat} (hu : tileInUse s l = false) (h : s.rel.subst.find? (fun x => x.1 == l) = some x) :
    exec (.spareSubstitution l) s = .next (substitute s x.1 x.2) := by
  refine congrArg Host.Outcome.next ?_
  rw [h]
  exact if_neg (by simp [hh, hu])

end

/-- A substitution changes the state of the spare and the place of the logical tile, beside counters. -/
theorem substitute_is (s : State) (l sp : Nat) : physTile (substitute s l sp) l = sp ∧ tileState (substitute s l sp) sp = 0 ∧
    (∀ k, k ≠ l → physTile (substitute s l sp) k = physTile s k) ∧ (∀ y, y ≠ sp → tileState (substitute s l sp) y = tileState s y) ∧
    substitute s l sp = { s with rel := (substitute s l sp).rel, cnt := (substitute s l sp).cnt } := by
  obtain ⟨hrel, hframe, -⟩ := substitute_frame s l sp
  unfold physTile tileState
  rw [hrel]
  refine ⟨?_, ?_, fun k hk => ?_, fun y hy => ?_, hrel ▸ hframe⟩
  · exact Option.getD_eq_iff.mpr (.inl (Tab.find?_put_self _ _ _))
  · rw [tileState_put, if_pos rfl]
  · exact congrArg (·.getD 0xFF) (Tab.find?_put_ne _ _ hk)
  · rw [tileState_put, if_neg hy]

/-! ## Known-answer tests and scores (R405 to R407) -/

theorem katEnd_none {s : State} {x : Nat} (h : 2 ≤ tileState s x ∨ tileReady s x = true) (pass : Bool) : katEnd s x pass = s :=
  if_pos (by rcases h with h | h <;> simp [h])

section
variable {s : State} (hh : held s = false) {x : Nat} (h1 : tileState s x < 2) (h2 : tileReady s x = false)
include hh h1 h2

theorem katEnd_passes : katEnd s x true = { s with rel := { s.rel with katFail := s.rel.katFail.filter (· != x) } } :=
  if_neg (by simp [hh, h2, Nat.not_le.mpr h1])

theorem katEnd_fails : katEnd s x false = mapOutTile { s with rel := { s.rel with katFail := x :: s.rel.katFail.filter (· != x) } } x :=
  if_neg (by simp [hh, h2, Nat.not_le.mpr h1])

end

theorem getD_halved (t : Tab Nat) (k : Nat) : Tab.getD (t.map (fun e => (e.1, e.2 / 2))) k 0 = t.getD k 0 / 2 := by
  induction t with
  | nil => simp [Tab.getD, Tab.find?]
  | cons e t ih =>
    obtain ⟨a, v⟩ := e
    unfold Tab.getD at ih ⊢
    rw [List.map_cons, Tab.find?, Tab.find?]
    split
    · rfl
    · exact ih

/-! ## The scrubber (R404) -/

theorem exec_scrubPeriod {s : State} (hh : held s = false) (h : 6 ≤ s.boot.stage) (f : List (Nat × Nat × Bool)) :
    exec (.scrubPeriod f) s = .next (scrubPeriod s f) :=
  congrArg Host.Outcome.next (if_neg (by simp [hh, Nat.not_lt.mpr h]))

/-- A period with one find handles it, and counts. -/
theorem scrubPeriod_one (s : State) (f : Nat × Nat × Bool) : scrubPeriod s [f] =
    bump (updRel (scrubFind s f) (fun r => { r with scrub := (s.rel.scrub + valU s 9 0x31) % scrubLines s })) Cnt.scrubRounds
      ((s.rel.scrub + valU s 9 0x31) / scrubLines s) := rfl

/-- A correctable find in a tile's accumulators adds one to its score, where that stays below the limit. -/
theorem scrubFind_score {s : State} {idx : Nat} (hi : idx < 34 * 16384) (h : s.rel.score.getD (idx / 16384) 0 + 1 < valU s 9 0x21) :
    scrubFind s (2, idx, false) = updRel (bump s Cnt.eccCorr 1)
      (fun r => { r with score := r.score.put (idx / 16384) (s.rel.score.getD (idx / 16384) 0 + 1) }) := by
  have hfind : scrubFind s (2, idx, false) = scrubCorr s 2 idx :=
    (if_neg (by simp [scrubbed, scrubRange, Nat.not_le.mpr hi])).trans (if_neg Bool.false_ne_true)
  rw [hfind]
  unfold scrubCorr
  dsimp only
  rw [if_pos (by decide), if_pos rfl]
  refine if_neg ?_
  rw [Bool.and_eq_true, decide_eq_true_eq]
  exact fun hc => absurd hc.1 (Nat.not_le.mpr h)

/-- Settles O46, event by event. -/
theorem tileEvents : Obligations.TileEvents := by
  unfold Obligations.TileEvents
  intro s hh
  refine ⟨fun l => ⟨exec_spareSubstitution_waits hh, fun x hu hx => ?_⟩, fun x pass h => congrArg Host.Outcome.next (katEnd_none h pass),
    fun x h1 h2 => ⟨congrArg Host.Outcome.next (katEnd_passes hh h1 h2), congrArg Host.Outcome.next (katEnd_fails hh h1 h2)⟩,
    ⟨_, congrArg Host.Outcome.next (if_neg (by simp [hh])), rfl, fun x => getD_halved _ _⟩, fun h f => congrArg Host.Outcome.next (if_pos (by simp [h])),
    fun h => ⟨fun n at' hn hat => ?_, fun idx hi => ⟨_, exec_scrubPeriod hh h _, fun hs => ?_⟩,
      fun q k hq hk => ⟨_, exec_scrubPeriod hh h _, ?_⟩⟩⟩
  · have hl : x.1 = l := by simpa using List.find?_some hx
    refine ⟨_, exec_spareSubstitution hh hu hx, ?_⟩
    rw [hl]
    exact substitute_is s l x.2
  · subst hn hat
    exact exec_scrubPeriod hh h []
  · rw [scrubPeriod_one, scrubFind_score hi hs]
    exact ⟨rfl, Option.getD_eq_iff.mpr (.inl (Tab.find?_put_self _ _ _)), rfl, rfl⟩
  · obtain ⟨u, hu, hfind⟩ := scrub_reg_find s q k hq hk
    obtain ⟨hbad, hothers, hlane⟩ := scrubReg_is u q k hk
    have heng : ∀ r, engOf u r = engOf s r := engOf_congr hu
    have hee : ∀ r, engOf (scrubPeriod s [(6, 32768 * q + k, true)]) r = engOf (scrubReg u q k) r :=
      engOf_congr (by rw [scrubPeriod_one, hfind]; rfl)
    refine ⟨fun x => ?_, fun r hr => ?_, fun r i j hi hj => ?_⟩
    · rw [hee, hbad, heng]
    · rw [hee, hothers r hr, heng]
    · have := hlane r i j hi hj
      unfold lane at this ⊢
      rw [hee, this, heng]

end Sys2Proof.Machine
end

section
/-! PROOF. OBJ_ALLOC, OBJ_FREE and OBJ_MOVE, effects at boundaries, and the end of a move's copy (R131, R132, R135, R144 to R146, R321). -/

namespace Sys2Proof.Machine

/-! ## Effects at boundaries (R321) -/

theorem boundaries_outside {P : Part} (h : P.st ≠ .running ∨ P.inStep = false) : boundaries P = 0 :=
  if_neg (by rcases h with h | h <;> simp [h])

theorem boundaries_inside {P : Part} (h1 : P.st = .running) (h2 : P.inStep = true) : boundaries P = if P.frozen then 2 else 1 :=
  if_pos (by simp [h1, h2])

theorem atBoundary_waits {s : State} {i : Inst} {d : Nat} {P : Part} (h : boundaries P ≠ 0) (f : State → Inst → State) :
    atBoundary s i d P f = setInst s { i with st := .pending, wait := boundaries P, part := d } := if_neg h

/-- A command that waits for a boundary is PENDING. -/
theorem status_atBoundary {s : State} {i : Inst} {d : Nat} {P : Part} (h : boundaries P ≠ 0) (f : State → Inst → State) :
    statusOf (atBoundary s i d P f) i = some { state := 2, tag := i.tag } := by
  rw [atBoundary_waits h]
  exact status_setInst s { i with st := .pending, wait := boundaries P, part := d }

/-! ## OBJ_ALLOC (R131, R132) -/

section
variable {s : State} {i : Inst}

theorem exec_objAlloc (h : Due s 2 0x20 i) : exec .objAlloc s = .next (objAllocAct s i) := congrArg Host.Outcome.next (cmdRow_due h objAllocAct)

theorem exec_objFree (h : Due s 2 0x21 i) : exec .objFree s = .next (objFreeAct s i) := congrArg Host.Outcome.next (cmdRow_due h objFreeAct)

theorem exec_objMove (h : Due s 2 0x22 i) (hb : bitOf (i.arg 0) 8 = false) : exec .objMove s = .next (objMoveAct s i) :=
  congrArg Host.Outcome.next ((cmdRowIf_due h _ objMoveAct).trans (if_pos (by simp [hb])))

theorem exec_objMoveCancel (h : Due s 2 0x22 i) (hb : bitOf (i.arg 0) 8 = true) : exec .objMoveCancel s = .next (objCancelAct s i) :=
  congrArg Host.Outcome.next ((cmdRowIf_due h _ objCancelAct).trans (if_pos hb))

/-- An allocation that is accepted has a handle. -/
theorem freeHandle_of_allocCode {d : Nat} (h : allocCode s d i = 0) : ∃ n, freeHandle s d = some n := by
  rw [← Option.isSome_iff_exists]
  by_contra hn
  rw [Option.not_isSome_iff_eq_none] at hn
  unfold allocCode at h
  simp only [hn, Option.isNone_none, if_true] at h
  repeat' split at h
  all_goals cases h

/-- The object that OBJ_ALLOC makes. -/
def allocObj (s : State) (i : Inst) : Objt :=
  { home := allocFlag i 31 29, cache := allocFlag i 31 29 != 1 && allocFlag i 28 28 == 1, rick := allocFlag i 27 27 == 1,
    movable := allocFlag i 26 26 == 1, spread := allocFlag i 25 25 == 1, port := allocFlag i 24 21, bytes := i.arg 2, base := i.arg 3,
    mu := if allocFlag i 31 29 = 3 then (freeRun s (ceilDiv (i.arg 2) 65536)).getD 0 else 0 }

theorem applyObjAlloc_eq {h : Nat} (hc : allocCode s i.part i = 0) (hf : freeHandle s i.part = some h) : applyObjAlloc s i =
    capCheck (finish { s with tm := { s.tm with objs := s.tm.objs.put (objKey i.part h) (allocObj s i) } } i (some i.part) Code.ok (w64 h) 0) := by
  unfold applyObjAlloc
  dsimp only
  rw [hf]
  exact if_neg (not_not.mpr hc)

theorem objAllocAct_command : SlotCommand s i (fun d _ => allocCode s d i) (fun d P => atBoundary s { i with part := d } d P applyObjAlloc)
    (objAllocAct s i) :=
  withSlot_command (s := s) (i := i) (code := fun d _ => allocCode s d i) (go := fun d P => atBoundary s { i with part := d } d P applyObjAlloc)

theorem objAllocAct_now {d : Nat} {P : Part} (hs : slotPart s i.slotArg = some (d, P)) (hc : allocCode s d i = 0) (hb : boundaries P = 0) :
    objAllocAct s i = applyObjAlloc s { i with part := d } := by
  exact ((objAllocAct_command.2 d P hs).2 hc).trans (atBoundary_now hb applyObjAlloc)

/-! ## OBJ_FREE -/

/-- The code of OBJ_FREE. -/
def freeCode (s : State) (i : Inst) (d : Nat) : Nat :=
  if (objOf s d (i.arg 1 % 2 ^ 20)).isNone then Code.limitRange else if objBusy s d (i.arg 1 % 2 ^ 20) then Code.objBusy else 0

theorem objFreeAct_eq : objFreeAct s i = withSlot s i (fun d P => if freeCode s i d ≠ 0 then refuse s i (some d) (freeCode s i d)
    else atBoundary s { i with part := d } d P applyObjFree) := by
  refine congrArg (withSlot s i) (funext fun d => funext fun P => ?_)
  unfold freeCode
  dsimp only
  split
  · rw [if_pos (by decide)]
  · split
    · rw [if_pos (by decide)]
    · exact (if_neg (by simp)).symm

theorem objFreeAct_command : SlotCommand s i (fun d _ => freeCode s i d) (fun d P => atBoundary s { i with part := d } d P applyObjFree)
    (objFreeAct s i) := by
  rw [objFreeAct_eq]
  exact withSlot_command (code := fun d _ => freeCode s i d) (go := fun d P => atBoundary s { i with part := d } d P applyObjFree)

theorem not_isNone {α : Type} {o : Option α} (h : o.isSome) : ¬ o.isNone = true := by
  rw [Option.isNone_iff_eq_none]
  exact Option.isSome_iff_ne_none.mp h

theorem objFreeAct_now {d : Nat} {P : Part} (hs : slotPart s i.slotArg = some (d, P)) (hc : freeCode s i d = 0) (hb : boundaries P = 0) :
    objFreeAct s i = applyObjFree s { i with part := d } :=
  ((objFreeAct_command.2 d P hs).2 hc).trans (atBoundary_now hb applyObjFree)

theorem freeCode_ok {d : Nat} (h1 : (objOf s d (i.arg 1 % 2 ^ 20)).isSome) (h2 : objBusy s d (i.arg 1 % 2 ^ 20) = false) : freeCode s i d = 0 :=
  (if_neg (not_isNone h1)).trans (if_neg (by rw [h2]; decide))

theorem applyObjFree_ends (h1 : (objOf s i.part (i.arg 1 % 2 ^ 20)).isSome) (h2 : objBusy s i.part (i.arg 1 % 2 ^ 20) = false) :
    Ends (capCheck (objDrop s i.part (i.arg 1 % 2 ^ 20))) i (some i.part) Code.ok 0 0 (applyObjFree s i) := by
  unfold applyObjFree
  dsimp only
  rw [if_neg (not_isNone h1), if_neg (by rw [h2]; decide)]
  exact finish_ends _ _ _ _ _ _

theorem objOf_objDrop (s : State) (d h : Nat) : objOf (objDrop s d h) d h = none := by
  unfold objOf objDrop
  dsimp only
  rw [Tab.find?_del, if_pos rfl]

/-! ## OBJ_MOVE (R144, R146) -/

theorem objMoveAct_command : SlotCommand s i (fun d _ => moveCode s d i) (fun d P => atBoundary s { i with part := d } d P applyObjMove)
    (objMoveAct s i) :=
  withSlot_command (s := s) (i := i) (code := fun d _ => moveCode s d i) (go := fun d P => atBoundary s { i with part := d } d P applyObjMove)

theorem objCancelAct_command : SlotCommand s i (fun d _ => moveCode s d i) (fun d P => atBoundary s { i with part := d } d P applyObjCancel)
    (objCancelAct s i) :=
  withSlot_command (s := s) (i := i) (code := fun d _ => moveCode s d i) (go := fun d P => atBoundary s { i with part := d } d P applyObjCancel)

end

section
variable {s : State} {x : Nat}

theorem moveCopied_none (h : moveOf s x = none) (ok : Bool) : moveCopied s x ok = s := by
  unfold moveCopied
  rw [h]

variable {m : Move} (hm : moveOf s x = some m)
include hm

theorem moveCopied_past (h : m.opened = false ∨ m.copied = true) (ok : Bool) : moveCopied s x ok = s := by
  unfold moveCopied
  rw [hm]
  exact if_pos (by rcases h with h | h <;> simp [h])

variable (h1 : m.opened = true) (h2 : m.copied = false)
include h1 h2

/-- The end of the copy of a move in progress. -/
theorem moveCopied_open (ok : Bool) : moveCopied s x ok = if !ok || poisonedX s x then moveAbort s x
    else if useBusy s (.move x) then s
    else movesIdle (moveReplay (setMove { s with mem := storeBytes s.mem (memKey m.tier m.addr) (extBytes s x) } { m with copied := true }) x) m.d := by
  unfold moveCopied
  rw [hm]
  exact if_neg (by simp [h1, h2])

theorem moveCopied_failed : moveCopied s x false = moveAbort s x := by
  rw [moveCopied_open hm h1 h2, if_pos (by simp)]

theorem moveCopied_poisoned (hp : poisonedX s x = true) : moveCopied s x true = moveAbort s x := by
  rw [moveCopied_open hm h1 h2, if_pos (by simp [hp])]

theorem moveCopied_busy (hp : poisonedX s x = false) (hb : useBusy s (.move x) = true) : moveCopied s x true = s := by
  rw [moveCopied_open hm h1 h2, if_neg (by simp [hp]), if_pos hb]

theorem moveCopied_done (hp : poisonedX s x = false) (hb : useBusy s (.move x) = false) : moveCopied s x true =
    movesIdle (moveReplay (setMove { s with mem := storeBytes s.mem (memKey m.tier m.addr) (extBytes s x) } { m with copied := true }) x) m.d := by
  rw [moveCopied_open hm h1 h2, if_neg (by simp [hp]), if_neg (by simp [hb])]

end

theorem exec_moveCopyEnd {s : State} (hh : held s = false) {d h xi x : Nat} (hx : x = xKey d h xi) (ok : Bool) :
    exec (.moveCopyEnd d h xi ok) s = .next (moveCopied s x ok) := by
  subst hx
  exact congrArg Host.Outcome.next (if_neg (by simp [hh]))

/-- Settles O47: the commands, the boundary, the copy. -/
theorem objectCommands : Obligations.ObjectCommands := by
  unfold Obligations.ObjectCommands
  refine ⟨fun s i => ⟨fun h => ⟨_, exec_objAlloc h, objAllocAct_command, fun d P hs hc hb => ?_⟩,
      fun h => ⟨_, exec_objFree h, objFreeAct_command, fun d P hs h1 h2 hb => ?_⟩,
      fun h hb => ⟨_, exec_objMove h hb, objMoveAct_command⟩, fun h hb => ⟨_, exec_objMoveCancel h hb, objCancelAct_command⟩⟩,
    fun s i d P f => ⟨fun h => atBoundary_now (boundaries_outside h) f, fun h1 h2 => ⟨_, rfl, _, rfl, ?_⟩⟩,
    fun s d h xi hh x hx => ⟨fun hm ok => ?_, fun m hm hp ok => ?_, fun m hm h1 h2 => ⟨?_, fun hp => ?_, fun hp hb => ?_, fun hp hb => ?_⟩⟩⟩
  · obtain ⟨n, hn⟩ := freeHandle_of_allocCode hc
    rw [objAllocAct_now hs hc hb, applyObjAlloc_eq (i := { i with part := d }) hc hn]
    exact ⟨_, n, allocObj s { i with part := d }, hn, finish_ends _ _ _ _ _ _, rfl, rfl, rfl, rfl, rfl, rfl, rfl, rfl⟩
  · rw [objFreeAct_now hs (freeCode_ok h1 h2) hb]
    exact ⟨applyObjFree_ends (i := { i with part := d }) h1 h2, objOf_objDrop s d _⟩
  · have hne : boundaries P ≠ 0 := by rw [boundaries_inside h1 h2]; split <;> decide
    refine ⟨?_, status_atBoundary hne f, ?_⟩
    · rw [atBoundary_waits hne]; rfl
    · rw [atBoundary_waits hne, boundaries_inside h1 h2]; rfl
  · rw [exec_moveCopyEnd hh hx, moveCopied_none hm]
  · rw [exec_moveCopyEnd hh hx, moveCopied_past hm hp]
  · rw [exec_moveCopyEnd hh hx, moveCopied_failed hm h1 h2]
  · rw [exec_moveCopyEnd hh hx, moveCopied_poisoned hm h1 h2 hp]
  · rw [exec_moveCopyEnd hh hx, moveCopied_busy hm h1 h2 hp hb]
  · rw [exec_moveCopyEnd hh hx, moveCopied_done hm h1 h2 hp hb]

end Sys2Proof.Machine
end

section
/-! PROOF. PUBLISH, the read-back of its units, and FL_FORMAT (R164, R165, R170). -/

namespace Sys2Proof.Machine

/-! ## PUBLISH (R164) -/

section
variable {s : State} {i : Inst}

theorem exec_publishImage (h : Due s 2 0x24 i) (hm : pubThawed i = false) : exec .publishImage s = .next (publishAct s i) :=
  congrArg Host.Outcome.next ((cmdRowIf_due h _ publishAct).trans (if_pos (by rw [hm]; decide)))

theorem exec_publishThawed (h : Due s 2 0x24 i) (hm : pubThawed i = true) : exec .publishThawed s = .next (publishAct s i) :=
  congrArg Host.Outcome.next ((cmdRowIf_due h _ publishAct).trans (if_pos hm))

theorem publishAct_command : SlotCommand s i (fun d P => pubCode s d P i) (fun d _ =>
    pubNext { setInst s { i with st := .checking, part := d } with fl := { s.fl with pubs := s.fl.pubs ++ [newPublish s i d] } } d (i.arg 1 % 2 ^ 20) (i.arg 2))
    (publishAct s i) :=
  withSlot_command (s := s) (i := i) (code := fun d P => pubCode s d P i) (go := fun d _ =>
    pubNext { setInst s { i with st := .checking, part := d } with fl := { s.fl with pubs := s.fl.pubs ++ [newPublish s i d] } } d (i.arg 1 % 2 ^ 20) (i.arg 2))

end

/-! ## The read-back of a unit (R165) -/

theorem exec_publishReadBack {s : State} (hh : held s = false) (mu : Nat) (crcs : List Nat) :
    exec (.publishReadBack mu crcs) s = .next (lunsStart (pubReadBack s mu crcs)) := congrArg Host.Outcome.next (if_neg (by simp [hh]))

section
variable {s : State} {mu : Nat}

theorem pubReadBack_none (h : pubOf s mu = none) (crcs : List Nat) : pubReadBack s mu crcs = s := by
  unfold pubReadBack
  rw [h]

variable {p : Publish} {u : PubUnit} (h : pubOf s mu = some (p, u))
include h

theorem pubReadBack_early (hu : u.st ≠ 2) (crcs : List Nat) : pubReadBack s mu crcs = s := by
  unfold pubReadBack
  rw [h]
  exact if_pos hu

variable (hu : u.st = 2) {crcs : List Nat}
include hu

/-- The read-back of a unit that has been programmed. -/
theorem pubReadBack_programmed : pubReadBack s mu crcs =
    if crcs == unitDcrcs u.bytes mu u.bseq then
      (if p.img then imgSettle (setPub s (setPubUnit p { u with st := 6 })) (setPubUnit p { u with st := 6 })
       else journalPut (setPub s (setPubUnit p { u with st := 3 })) mu 2)
    else if u.tries = 0 then pubProgram s p { u with tries := 1 } (blkKey (entryLun u.entry) (entryBlk u.entry))
    else pubFail s p := by
  unfold pubReadBack
  rw [h]
  exact if_neg (not_not.mpr hu)

theorem pubReadBack_unit (hc : crcs = unitDcrcs u.bytes mu u.bseq) (hi : p.img = false) :
    pubReadBack s mu crcs = journalPut (setPub s (setPubUnit p { u with st := 3 })) mu 2 := by
  rw [pubReadBack_programmed h hu, if_pos (beq_iff_eq.mpr hc), hi]
  exact if_neg Bool.false_ne_true

theorem pubReadBack_image (hc : crcs = unitDcrcs u.bytes mu u.bseq) (hi : p.img = true) :
    pubReadBack s mu crcs = imgSettle (setPub s (setPubUnit p { u with st := 6 })) (setPubUnit p { u with st := 6 }) := by
  rw [pubReadBack_programmed h hu, if_pos (beq_iff_eq.mpr hc), if_pos hi]

variable (hc : crcs ≠ unitDcrcs u.bytes mu u.bseq)
include hc

theorem pubReadBack_again (ht : u.tries = 0) :
    pubReadBack s mu crcs = pubProgram s p { u with tries := 1 } (blkKey (entryLun u.entry) (entryBlk u.entry)) := by
  rw [pubReadBack_programmed h hu, if_neg (fun e => hc (beq_iff_eq.mp e)), if_pos ht]

theorem pubReadBack_fails (ht : u.tries ≠ 0) : pubReadBack s mu crcs = pubFail s p := by
  rw [pubReadBack_programmed h hu, if_neg (fun e => hc (beq_iff_eq.mp e)), if_neg ht]

end

/-! ## FL_FORMAT (R170) -/

section
variable {s : State} {i : Inst}

theorem exec_flFormat (h : Due s 2 0x25 i) : exec .flFormat s = .next (flFormatAct s i) := congrArg Host.Outcome.next (cmdRow_due h flFormatAct)

theorem flFormatAct_absent (h : cfgFlash s = 0 ∨ s.fl.geo = none) : Ends s i none Code.tierAbsent 0 0 (flFormatAct s i) := by
  unfold flFormatAct
  rw [if_pos (by rcases h with h | h <;> simp [h])]
  exact refuse_ends _ _ _ _

section
variable (h1 : cfgFlash s ≠ 0) (h2 : s.fl.geo.isSome)
include h1 h2

theorem flFormatAct_busy (h3 : t3Objs s ≠ []) : Ends s i none Code.objBusy 0 0 (flFormatAct s i) := by
  unfold flFormatAct
  rw [if_neg (by simp [h1, Option.isSome_iff_ne_none.mp h2]), if_pos (by simp [h3])]
  exact refuse_ends _ _ _ _

/-- Formatting: the tier is there where the translation region is large enough, and else FLASH_MAP_SMALL is posted. -/
theorem flFormatAct_formats (h3 : t3Objs s = []) : flFormatAct s i =
    if regionNeeds (formatNow s) ≤ valU (formatNow s) 2 0x66 then
      finish (capCheck (regionInstall { formatNow s with fl := { (formatNow s).fl with present := true } })) i none Code.ok (w64 (formatNow s).fl.userMu) 0
    else finish (post { formatNow s with fl := { (formatNow s).fl with present := false } } Ev.flashMapSmall none 0 (regionNeeds (formatNow s)) 0) i none
      Code.ok (w64 (formatNow s).fl.userMu) 0 := by
  unfold flFormatAct
  rw [if_neg (by simp [h1, Option.isSome_iff_ne_none.mp h2]), if_neg (by simp [h3])]
  rfl

end

theorem formatNow_frame (s : State) : formatNow s = { s with fl := (formatNow s).fl } := rfl

/-- No copy of a mounted LUN is left. -/
theorem formatNow_copies (s : State) : ∀ c ∈ (formatNow s).fl.copies, c ∈ s.fl.copies ∧ c.lun ∉ allLuns s := by
  intro c hc
  obtain ⟨hc, ho⟩ := List.mem_filter.mp hc
  exact ⟨hc, by simpa using ho⟩

theorem userCapacity_userMu (s : State) (n : Nat) : userCapacity { s with fl := { s.fl with userMu := n } } = userCapacity s := rfl

/-- The user capacity after a format is that of the formatted tier. -/
theorem formatNow_userMu (s : State) : (formatNow s).fl.userMu = userCapacity (formatNow s) := (userCapacity_userMu _ _).symm

end

/-- Settles O48: the command, the read-back, the format. -/
theorem publishCommands : Obligations.PublishCommands := by
  unfold Obligations.PublishCommands
  refine ⟨fun s i h => ⟨publishAct s i, exec_publishImage h, exec_publishThawed h, publishAct_command⟩,
    fun s mu hh => ⟨fun h crcs => ?_, fun p u h hu crcs => ?_, fun p u h hu crcs => ⟨fun hc hi => ?_, fun hc hi p' hp => ?_, fun hc ht => ?_, fun hc ht => ?_⟩⟩,
    fun s i h => ⟨flFormatAct s i, exec_flFormat h, flFormatAct_absent, flFormatAct_busy, fun h1 h2 h3 => ?_⟩⟩
  · rw [exec_publishReadBack hh, pubReadBack_none h]
  · rw [exec_publishReadBack hh, pubReadBack_early h hu]
  · rw [exec_publishReadBack hh, pubReadBack_unit h hu hc hi]
  · rw [exec_publishReadBack hh, pubReadBack_image h hu hc hi, hp]
  · rw [exec_publishReadBack hh, pubReadBack_again h hu hc ht]
  · rw [exec_publishReadBack hh, pubReadBack_fails h hu hc ht]
  · rw [flFormatAct_formats h1 h2 h3]
    by_cases hr : regionNeeds (formatNow s) ≤ valU (formatNow s) 2 0x66
    · rw [if_pos hr]
      refine ⟨formatNow s, _, finish_ends _ _ _ _ _ _, formatNow_frame s, rfl, rfl, rfl, rfl, rfl, rfl, formatNow_copies s, formatNow_userMu s, ?_⟩
      rintro _ rfl
      exact ⟨fun _ => rfl, fun hn => absurd hr (Nat.not_le.mpr hn)⟩
    · rw [if_neg hr]
      refine ⟨formatNow s, _, finish_ends _ _ _ _ _ _, formatNow_frame s, rfl, rfl, rfl, rfl, rfl, rfl, formatNow_copies s, formatNow_userMu s, ?_⟩
      rintro _ rfl
      exact ⟨fun hn => absurd hn hr, fun _ => ⟨_, rfl, rfl, post_posted _ _ _ _ _ _⟩⟩

end Sys2Proof.Machine
end

section
/-! PROOF. The upkeep of flash (R153, R161, R162, R168) and what ends on a flash channel (R159, R161, R168, R413). -/

namespace Sys2Proof.Machine

/-! ## Checkpoints, calibration and moves of units (R153, R168) -/

theorem exec_readDisturb_idle {s : State} {ch ce lun b : Nat} (h : (blkOf s (lunKey ch ce lun) b).reads < valU s 2 0x6A ∨ (flChannels s).length < 2) :
    exec (.readDisturbRelocate ch ce lun b) s = .next s :=
  congrArg Host.Outcome.next (if_pos (by rcases h with h | h <;> simp [h]))

section
variable {s : State} (hh : held s = false)
include hh

theorem exec_checkpoint_early (h : s.fl.journal < 2 ^ 20) : exec .checkpoint s = .next s :=
  congrArg Host.Outcome.next (if_pos (by rw [hh, Bool.false_or]; exact decide_eq_true h))

theorem exec_checkpoint (h : 2 ^ 20 ≤ s.fl.journal) : exec .checkpoint s = .next (checkpoint s) :=
  congrArg Host.Outcome.next (if_neg (by rw [hh, Bool.false_or]; exact fun e => Nat.not_lt.mpr h (of_decide_eq_true e)))

theorem exec_zqShort_idle (h : flChannels s = []) : exec .zqShort s = .next s := congrArg Host.Outcome.next (if_pos (by rw [h, hh]; rfl))

theorem exec_zqShort (h : flChannels s ≠ []) : exec .zqShort s = .next (zqShort s) :=
  congrArg Host.Outcome.next (if_neg (by simp [hh, h]))

theorem exec_readDisturb {ch ce lun b : Nat} (h1 : valU s 2 0x6A ≤ (blkOf s (lunKey ch ce lun) b).reads) (h2 : 2 ≤ (flChannels s).length) :
    exec (.readDisturbRelocate ch ce lun b) s = .next (reclaim s (blkKey (lunKey ch ce lun) b) 4) :=
  congrArg Host.Outcome.next (if_neg (by simp [hh, h1, Nat.lt_of_succ_le h2]))

theorem exec_wearLevel : exec .wearLevel s = .next (wearMove s) := congrArg Host.Outcome.next (if_neg (by simp [hh]))

theorem exec_gcReclaim (ch ce lun : Nat) : exec (.gcReclaim ch ce lun) s = .next (gcReclaimLun s (lunKey ch ce lun)) :=
  congrArg Host.Outcome.next (if_neg (by simp [hh]))

theorem exec_fenceBreak (ch ce lun : Nat) : exec (.fenceBreak ch ce lun) s = .next (fenceBreakLun s (lunKey ch ce lun)) :=
  congrArg Host.Outcome.next (if_neg (by simp [hh]))

end

theorem wearMove_idle {s : State} (h : (wearRange s).2 - (wearRange s).1 ≤ valU s 2 0x6B ∨ (flChannels s).length < 2) : wearMove s = s :=
  if_pos (by rcases h with h | h <;> simp [h])

/-- Every mounted chip enable is calibrated, and its channel issues the command. -/
theorem zqShort_is (s : State) : zqShort s = { s with fl := { s.fl with
      zq := s.fl.zq + sumBy (flChannels s) (fun ch => (s.fl.ces.getD ch []).length), ops := (zqShort s).fl.ops } } ∧
    ∀ ch, (zqShort s).fl.ops.find? ch = if ch ∈ flChannels s then some onfiZq else s.fl.ops.find? ch :=
  zq_is (flChannels s) { s with fl := { s.fl with zq := s.fl.zq + sumBy (flChannels s) (fun ch => (s.fl.ces.getD ch []).length) } }

/-! ## The collector (R168) -/

/-- The least of some blocks is one of them, and no other has a lower key. -/
theorem leastBlk_is (key : Nat × Blk → Nat) {l : List (Nat × Blk)} (h : l ≠ []) : ∃ e, leastBlk l key = some e ∧ e ∈ l ∧ ∀ e' ∈ l, key e ≤ key e' := by
  obtain ⟨-, h2, h3⟩ := foldl_least key l none (fun _ _ => trivial) _ rfl
  obtain ⟨e, he, hm⟩ := h2 rfl h
  exact ⟨e, he, hm, h3 e he⟩

section
variable {s : State} {k : Nat}

theorem gcReclaimLun_idle (h : (allLuns s).contains k = false ∨ valU s 2 0x6D ≤ freeBlks s k) : gcReclaimLun s k = s :=
  if_pos (by rcases h with h | h <;> simp only [h, Bool.not_false, Bool.true_or, decide_true, Bool.or_true])

/-- A closed block of a LUN, of no journal. -/
def closedBlks (s : State) (k : Nat) : List (Nat × Blk) := s.fl.blocks.filter (fun e => e.1 / 2 ^ 20 == k && e.2.st == 2 && !e.2.jr)

theorem gcReclaimLun_least (h1 : (allLuns s).contains k = true) (h2 : freeBlks s k < valU s 2 0x6D) (hl : closedBlks s k ≠ []) :
    ∃ e ∈ closedBlks s k, gcReclaimLun s k = reclaim s e.1 1 ∧
      ∀ e' ∈ closedBlks s k, blkValid s k (e.1 % 2 ^ 20) * 2 ^ 32 + e.2.erases ≤ blkValid s k (e'.1 % 2 ^ 20) * 2 ^ 32 + e'.2.erases := by
  obtain ⟨e, he, hm, hle⟩ := leastBlk_is (fun e => blkValid s k (e.1 % 2 ^ 20) * 2 ^ 32 + e.2.erases) hl
  refine ⟨e, hm, ?_, hle⟩
  unfold gcReclaimLun
  rw [if_neg (by rw [h1, decide_eq_false (Nat.not_le.mpr h2)]; decide)]
  unfold closedBlks at he
  rw [he]

/-! ## Fences (R162) -/

theorem fenceBreakLun_idle (h : fenced s k = false ∨ lunBusy s k = true) : fenceBreakLun s k = s :=
  if_pos (by rcases h with h | h <;> simp [h])

section
variable (hb : lunBusy s k = false)
include hb

/-- No program runs on an idle LUN. -/
theorem not_started_of_idle {g : FlProg} (hg : g ∈ s.fl.progs) (hk : g.lun = k) : g.started = false := by
  have h := (Bool.or_eq_false_iff.mp hb).1
  simpa [hk] using List.any_eq_false.mp h g hg

/-- No erase runs on an idle LUN. -/
theorem not_erasing_of_idle {e : Nat × Nat × Bool} (he : e ∈ s.fl.erases) (hk : e.1 = k) : e.2.2 = false := by
  have h := (Bool.or_eq_false_iff.mp hb).2
  simpa [hk] using List.any_eq_false.mp h e he

theorem mem_waiting_iff (g : FlProg) : g ∈ s.fl.progs.filter (fun g => g.lun == k && !g.started) ↔ g ∈ s.fl.progs ∧ g.lun = k := by
  rw [List.mem_filter]
  refine and_congr_right fun hg => ⟨fun h => beq_iff_eq.mp (Bool.and_eq_true_iff.mp h).1, fun h => ?_⟩
  rw [not_started_of_idle hb hg h, h, beq_self_eq_true]
  rfl

/-- An idle LUN with programs takes one of the best class next. -/
theorem lunNext_prog (h : ∃ g ∈ s.fl.progs, g.lun = k) : ∃ g ∈ s.fl.progs, g.lun = k ∧
    (∀ h ∈ s.fl.progs, h.lun = k → progClass g ≤ progClass h) ∧ lunNext s k = (some (progClass g, g), none) := by
  obtain ⟨h1, h2⟩ := sortBy_head progClass (s.fl.progs.filter (fun g => g.lun == k && !g.started)) []
  have hne : s.fl.progs.filter (fun g => g.lun == k && !g.started) ≠ [] := by
    obtain ⟨g, hg⟩ := h
    exact List.ne_nil_of_mem ((mem_waiting_iff hb g).mpr hg)
  obtain ⟨g, hg⟩ := Option.ne_none_iff_exists'.mp fun e => hne (h2 e).1
  obtain ⟨hm, hle, -⟩ := h1 g hg
  obtain ⟨hm, hk⟩ := (mem_waiting_iff hb g).mp (hm.resolve_right (fun e => nomatch e))
  refine ⟨g, hm, hk, fun x hx hxk => hle x ((mem_waiting_iff hb x).mpr ⟨hx, hxk⟩), ?_⟩
  unfold lunNext sortBy
  rw [hg]

/-- An idle LUN without programs takes an erase of a block that is not being read. -/
theorem lunNext_erase (h : ∀ g ∈ s.fl.progs, g.lun ≠ k) :
    lunNext s k = (none, s.fl.erases.find? (fun e => e.1 == k && !e.2.2 && !blkReading s k e.2.1)) := by
  have he : s.fl.progs.filter (fun g => g.lun == k && !g.started) = [] :=
    List.eq_nil_iff_forall_not_mem.mpr fun g hg => absurd ((mem_waiting_iff hb g).mp hg).2 (h g ((mem_waiting_iff hb g).mp hg).1)
  unfold lunNext
  rw [he]
  rfl

theorem erase_waits_iff {e : Nat × Nat × Bool} (he : e ∈ s.fl.erases) :
    (e.1 == k && !e.2.2 && !blkReading s k e.2.1) = true ↔ e.1 = k ∧ blkReading s k e.2.1 = false := by
  by_cases hk : e.1 = k
  · simp [hk, not_erasing_of_idle hb he hk]
  · simp [hk]

variable (hf : fenced s k = true)
include hf

theorem fenceBreakLun_fenced : fenceBreakLun s k = match lunNext s k with
    | (some (_, g), _) => bump (beginProg s g) Cnt.flashFenceBreak 1
    | (none, some e) => bump (beginErase s e) Cnt.flashFenceBreak 1
    | (none, none) => s := if_neg (by simp [hb, hf])

theorem fenceBreakLun_prog (h : ∃ g ∈ s.fl.progs, g.lun = k) : ∃ g ∈ s.fl.progs, g.lun = k ∧
    (∀ h ∈ s.fl.progs, h.lun = k → progClass g ≤ progClass h) ∧ fenceBreakLun s k = bump (beginProg s g) Cnt.flashFenceBreak 1 := by
  obtain ⟨g, hm, hk, hle, hn⟩ := lunNext_prog hb h
  exact ⟨g, hm, hk, hle, by rw [fenceBreakLun_fenced hb hf, hn]⟩

section
variable (h : ∀ g ∈ s.fl.progs, g.lun ≠ k)
include h

theorem fenceBreakLun_none (he : ∀ e ∈ s.fl.erases, e.1 = k → blkReading s k e.2.1 = true) : fenceBreakLun s k = s := by
  have hn : s.fl.erases.find? (fun e => e.1 == k && !e.2.2 && !blkReading s k e.2.1) = none :=
    List.find?_eq_none.mpr fun e hm ht => by
      obtain ⟨hk, hr⟩ := (erase_waits_iff hb hm).mp ht
      exact Bool.false_ne_true (hr.symm.trans (he e hm hk))
  rw [fenceBreakLun_fenced hb hf, lunNext_erase hb h, hn]

theorem fenceBreakLun_erase (he : ∃ e ∈ s.fl.erases, e.1 = k ∧ blkReading s k e.2.1 = false) : ∃ e ∈ s.fl.erases, e.1 = k ∧
    blkReading s k e.2.1 = false ∧ fenceBreakLun s k = bump (beginErase s e) Cnt.flashFenceBreak 1 := by
  obtain ⟨e, hm, ht⟩ := he
  have hs : (s.fl.erases.find? (fun e => e.1 == k && !e.2.2 && !blkReading s k e.2.1)).isSome :=
    List.find?_isSome.mpr ⟨e, hm, (erase_waits_iff hb hm).mpr ht⟩
  obtain ⟨x, hx⟩ := Option.isSome_iff_exists.mp hs
  have hxm := List.mem_of_find?_eq_some hx
  obtain ⟨hk, hr⟩ := (erase_waits_iff hb hxm).mp (List.find?_some (p := fun e : Nat × Nat × Bool => e.1 == k && !e.2.2 && !blkReading s k e.2.1) hx)
  exact ⟨x, hxm, hk, hr, by rw [fenceBreakLun_fenced hb hf, lunNext_erase hb h, hx]⟩

end
end
end

/-! ## The ends of programs and erases (R161, R168) -/

section
variable {s : State} {k b : Nat}

theorem progDone_none (h : s.fl.progs.find? (fun g => g.lun == k && g.block == b && g.started) = none) (ok : Bool) : progDone s k b ok = s := by
  unfold progDone
  rw [h]

theorem progDone_some {g : FlProg} (h : s.fl.progs.find? (fun g => g.lun == k && g.block == b && g.started) = some g) (ok : Bool) :
    progDone s k b ok = lunStart (if ok then progUse (lunDone { s with fl := { s.fl with progs := s.fl.progs.erase g } } k (progClass g)) g
      else moveUnits (progAgain (retireBlk (lunDone { s with fl := { s.fl with progs := s.fl.progs.erase g } } k (progClass g)) k b) g) k b 1) k := by
  unfold progDone
  rw [h] <;> rfl

theorem eraseDone_none (h : s.fl.erases.find? (fun e => e.1 == k && e.2.1 == b && e.2.2) = none) (ok : Bool) : eraseDone s k b ok = s := by
  unfold eraseDone
  rw [h]

theorem eraseDone_some {e : Nat × Nat × Bool} (h : s.fl.erases.find? (fun e => e.1 == k && e.2.1 == b && e.2.2) = some e) (ok : Bool) :
    eraseDone s k b ok = lunStart (if ok then pubsRetry (blkErased (lunDone { s with fl := { s.fl with erases := s.fl.erases.erase e } } k 5) k b)
      else retireBlk (lunDone { s with fl := { s.fl with erases := s.fl.erases.erase e } } k 5) k b) k := by
  unfold eraseDone
  rw [h] <;> rfl

/-- An erased block is free, with one more erase and no copy of a unit. -/
theorem blkErased_is (u : State) (k b : Nat) : blkErased u k b =
    setBlk { u with fl := { u.fl with copies := u.fl.copies.filter (fun c => !(c.lun == k && c.block == b)) } } k b { erases := (blkOf u k b).erases + 1 } := rfl

end

/-! ## The ends of reads, and LUNs that are lost (R159, R413) -/

section
variable {s : State} (hh : held s = false)
include hh

theorem exec_flashProgramDone {ch ce lun k : Nat} (hk : k = lunKey ch ce lun) (b : Nat) (ok : Bool) :
    exec (.flashProgramDone ch ce lun b ok) s = .next (progDone s k b ok) := by
  subst hk
  exact congrArg Host.Outcome.next (if_neg (by simp [hh]))

theorem exec_flashEraseDone {ch ce lun k : Nat} (hk : k = lunKey ch ce lun) (b : Nat) (ok : Bool) :
    exec (.flashEraseDone ch ce lun b ok) s = .next (eraseDone s k b ok) := by
  subst hk
  exact congrArg Host.Outcome.next (if_neg (by simp [hh]))

theorem exec_flashReadDone_gone (ch : Nat) (ok : Bool) (errs crc : Nat) :
    exec (.flashReadDone ch ok errs crc true) s = .next (settle (channelGone (settleT3 s) ch)) :=
  congrArg Host.Outcome.next ((if_neg (by simp [hh])).trans (if_pos rfl))

theorem exec_flashReadDone (ch : Nat) (ok : Bool) (errs crc : Nat) :
    exec (.flashReadDone ch ok errs crc false) s = .next (settle (flashRead s ch ok errs crc)) :=
  congrArg Host.Outcome.next ((if_neg (by simp [hh])).trans (if_neg Bool.false_ne_true))

theorem exec_lunLost (ch ce lun : Nat) : exec (.lunLost ch ce lun) s = .next (settle (lunGone (settleT3 s) ch ce lun)) :=
  congrArg Host.Outcome.next (if_neg (by simp [hh]))

end

section
variable {s : State} {ch : Nat}

theorem flashRead_none (h : channelRead (settleT3 s) ch = none) (ok : Bool) (errs crc : Nat) : flashRead s ch ok errs crc = settleT3 s := by
  unfold flashRead
  dsimp only
  rw [h]

/-- What the end of a read leaves before its LUN goes on: the answer, the next retry level, or another attempt. -/
def readEnd (u : State) (x : FlRead) (ok : Bool) (errs crc : Nat) : State :=
  if ok && crc == readDcrc u x then readPassed u x errs
  else if x.level < (match u.fl.geo with | some g => g.retry | none => 0) then nextLevel u x
  else flRetry u x

theorem flashRead_some {x : FlRead} (h : channelRead (settleT3 s) ch = some x) (ok : Bool) (errs crc : Nat) :
    flashRead s ch ok errs crc = lunStart (settleT3 (readEnd (settleT3 s) x ok errs crc)) x.lun := by
  unfold flashRead
  dsimp only
  rw [h] <;> rfl

section
variable {u : State} {x : FlRead} {ok good : Bool} {errs crc : Nat} (hg : good = true ↔ ok = true ∧ crc = readDcrc u x)
include hg

theorem readEnd_good (h : good = true) : readEnd u x ok errs crc = readPassed u x errs :=
  if_pos (by simpa using hg.mp h)

theorem readEnd_bad (h : good = false) : readEnd u x ok errs crc =
    if x.level < (match u.fl.geo with | some g => g.retry | none => 0) then nextLevel u x else flRetry u x :=
  if_neg fun e => Bool.false_ne_true (h.symm.trans (hg.mpr (by simpa using e)))

theorem readEnd_next (h : good = false) {g : Geo} (hgeo : u.fl.geo = some g) (hl : x.level < g.retry) : readEnd u x ok errs crc = nextLevel u x := by
  rw [readEnd_bad hg h, hgeo]
  exact if_pos hl

theorem readEnd_last (h : good = false) (hl : ∀ g, u.fl.geo = some g → g.retry ≤ x.level) : readEnd u x ok errs crc = flRetry u x := by
  rw [readEnd_bad hg h]
  cases hgeo : u.fl.geo with
  | none => exact if_neg (Nat.not_lt_zero _)
  | some g => exact if_neg (Nat.not_lt.mpr (hl g hgeo))

end

theorem lunGone_idle {u : State} {ce lun : Nat} (h : (chLuns u ch).contains (lunKey ch ce lun) = false) : lunGone u ch ce lun = u :=
  if_pos (by rw [h]; rfl)

end

/-- Settles O49: upkeep, the ends of programs and erases, and the ends of reads. -/
theorem flashEvents : Obligations.FlashEvents := by
  unfold Obligations.FlashEvents
  refine ⟨fun s hh => ⟨exec_checkpoint_early hh, exec_checkpoint hh, exec_zqShort_idle hh, fun h => ⟨zqShort s, exec_zqShort hh h, zqShort_is s⟩,
      fun ch ce lun b => ⟨exec_readDisturb_idle, exec_readDisturb hh⟩, fun h => ?_, fun _ _ => exec_wearLevel hh, ?_⟩,
    fun s ch ce lun b k hh hk => ⟨fun h ok => ?_, ?_, fun h ok => ?_, ?_, exec_flashReadDone_gone hh ch, ?_, ?_⟩⟩
  · rw [exec_wearLevel hh, wearMove_idle h]
  · rintro ch ce lun _ rfl
    rw [exec_gcReclaim hh, exec_fenceBreak hh]
    refine ⟨fun h => by rw [gcReclaimLun_idle h], ?_, fun h => by rw [fenceBreakLun_idle h], fun hf hb => ⟨_, rfl, fenceBreakLun_prog hb hf,
      fun h => ⟨fenceBreakLun_none hb hf h, fenceBreakLun_erase hb hf h⟩⟩⟩
    rintro h1 h2 _ rfl hl
    obtain ⟨e, hm, he, hle⟩ := gcReclaimLun_least h1 h2 hl
    exact ⟨e, hm, by rw [he], hle⟩
  · rw [exec_flashProgramDone hh hk, progDone_none h]
  · rintro g h _ rfl
    rw [exec_flashProgramDone hh hk, exec_flashProgramDone hh hk, progDone_some h, progDone_some h]
    exact ⟨rfl, rfl⟩
  · rw [exec_flashEraseDone hh hk, eraseDone_none h]
  · rintro e h _ rfl
    rw [exec_flashEraseDone hh hk, exec_flashEraseDone hh hk, eraseDone_some h, eraseDone_some h]
    exact ⟨⟨_, rfl, blkErased_is _ _ _⟩, rfl⟩
  · rintro _ rfl
    refine ⟨fun h ok errs crc => ?_, fun x h good ok errs crc hg => ⟨readEnd (settleT3 s) x ok errs crc, ?_, readEnd_good hg,
      fun h g => readEnd_next hg h, readEnd_last hg⟩⟩
    · rw [exec_flashReadDone hh, flashRead_none h]
    · rw [exec_flashReadDone hh, flashRead_some h]
  · rintro _ rfl
    refine ⟨exec_lunLost hh ch ce lun, fun h => ?_⟩
    rw [exec_lunLost hh, lunGone_idle (hk ▸ h)]

end Sys2Proof.Machine
end

section
/-! PROOF. ADPT_LOAD and the end of its checks, ADPT_UNLOAD and CTX_REBIND (R54 to R59). -/

namespace Sys2Proof.Machine

section
variable {s : State} {i : Inst}

/-! ## ADPT_LOAD (R54, R55) -/

theorem exec_adptLoad (h : Due s 3 0x10 i) : exec .adptLoad s = .next (adptLoadBegin s i) := congrArg Host.Outcome.next (cmdRow_due h adptLoadBegin)

theorem adptLoadBegin_command : SlotCommand s i (fun d _ => loadSource s d i) (fun d _ => setInst s { i with st := .checking, part := d }) (adptLoadBegin s i) :=
  withSlot_command (s := s) (i := i) (code := fun d _ => loadSource s d i) (go := fun d _ => setInst s { i with st := .checking, part := d })

theorem exec_adptLoadChecksEnd {r : CmdRef} (hh : held s = false) (hi : instAt s 3 0x10 r = some i) :
    exec (.adptLoadChecksEnd r) s = .next (if i.st = .checking then adptLoadEnd s i else s) :=
  congrArg Host.Outcome.next (endRow_is hh hi .checking adptLoadEnd)

theorem adptLoadEnd_away (h : partOf s i.part = none) : Ends s i none Code.partState 0 0 (adptLoadEnd s i) := by
  unfold adptLoadEnd
  rw [h]
  exact refuse_ends _ _ _ _

/-- The state in which a checked image is staged: a T3 object is cut as the image says (R131). -/
def loadCuts (s : State) (d src base : Nat) (g : AGen) : State :=
  if src = 1 then { s with tm := { s.tm with objs := s.tm.objs.upd (objKey d base) (fun o => { o with cuts := imageCuts g }) } } else s

section
variable {P : Part} (hp : partOf s i.part = some P) {c : Nat} {h : ImgHdr} {g : AGen}
  (hc : c = adptChecks s i.part P (loadBase i).1 (loadBase i).2) (hg : (h, g) = imgGen s i.part (loadBase i).1 (loadBase i).2)
include hp hc hg

theorem adptLoadEnd_part : adptLoadEnd s i =
    if c ≠ 0 then refuse s i (some i.part) c
    else if !h.bank && adapterAttached P h.id then refuse s i (some i.part) Code.adapterBusy
    else if boundaries P = 0 then
      finish (installNow (stageGen (loadCuts s i.part (loadBase i).1 (loadBase i).2 g) i.part 0 h g) i.part h g) i (some i.part) Code.ok (w64 h.id) (w64 h.gen)
    else setInst (stageGen (loadCuts s i.part (loadBase i).1 (loadBase i).2 g) i.part 1 h g) { i with st := .pending, wait := 1 } := by
  obtain ⟨rfl, rfl⟩ := Prod.mk.inj hg
  subst hc
  unfold adptLoadEnd
  rw [hp] <;> rfl

theorem adptLoadEnd_refused (h0 : c ≠ 0) : Ends s i (some i.part) c 0 0 (adptLoadEnd s i) := by
  rw [adptLoadEnd_part hp hc hg, if_pos h0]
  exact refuse_ends _ _ _ _

variable (h0 : c = 0)
include h0

theorem adptLoadEnd_attached (hb : h.bank = false) (ha : adapterAttached P h.id = true) :
    Ends s i (some i.part) Code.adapterBusy 0 0 (adptLoadEnd s i) := by
  rw [adptLoadEnd_part hp hc hg, if_neg (not_not.mpr h0), if_pos (by rw [hb, ha]; decide)]
  exact refuse_ends _ _ _ _

variable (hb : h.bank = true ∨ adapterAttached P h.id = false)
include hb

/-- An image of T1 that passes its checks is staged, and installed at once where the partition is in no step. -/
theorem adptLoadEnd_staged (h1 : (loadBase i).1 = 0) : adptLoadEnd s i =
    if boundaries P = 0 then finish (installNow (stageGen s i.part 0 h g) i.part h g) i (some i.part) Code.ok (w64 h.id) (w64 h.gen)
    else setInst (stageGen s i.part 1 h g) { i with st := .pending, wait := 1 } := by
  rw [adptLoadEnd_part hp hc hg, if_neg (not_not.mpr h0), if_neg (by rcases hb with hb | hb <;> simp [hb])]
  have hcut : loadCuts s i.part (loadBase i).1 (loadBase i).2 g = s := if_neg (by rw [h1]; decide)
  rw [hcut]

end

/-! ## ADPT_UNLOAD (R56) -/

theorem exec_adptUnload (h : Due s 3 0x11 i) : exec .adptUnload s = .next (adptUnloadAct s i) := congrArg Host.Outcome.next (cmdRow_due h adptUnloadAct)

/-- What ADPT_UNLOAD names is marked to go. -/
def unloadMark (i : Inst) (P : Part) : Part :=
  if unloadPair i then { P with pairs := P.pairs.upd (unloadKey i) (fun a => { a with unload := some 1 }) }
  else { P with adpts := P.adpts.upd (unloadKey i) (fun a => { a with unload := some 1 }) }

/-- What ADPT_UNLOAD names is gone. -/
def unloadDel (i : Inst) (P : Part) : Part :=
  if unloadPair i then { P with pairs := P.pairs.del (unloadKey i) } else { P with adpts := P.adpts.del (unloadKey i) }

theorem adptUnloadAct_command : SlotCommand s i (fun d P => unloadCode s d P i) (fun d P =>
    if boundaries P = 0 then applyAdptUnload (updPart s d (unloadMark i)) { i with part := d }
    else setInst (updPart s d (unloadMark i)) { i with st := .pending, wait := 1, part := d }) (adptUnloadAct s i) :=
  withSlot_command (s := s) (i := i) (code := fun d P => unloadCode s d P i) (go := fun d P =>
    if boundaries P = 0 then applyAdptUnload (updPart s d (unloadMark i)) { i with part := d }
    else setInst (updPart s d (unloadMark i)) { i with st := .pending, wait := 1, part := d })

theorem adptUnloadAct_ok {d : Nat} {P : Part} (hs : slotPart s i.slotArg = some (d, P)) (hc : unloadCode s d P i = 0) : adptUnloadAct s i =
    if boundaries P = 0 then applyAdptUnload (updPart s d (unloadMark i)) { i with part := d }
    else setInst (updPart s d (unloadMark i)) { i with st := .pending, wait := 1, part := d } := (adptUnloadAct_command.2 d P hs).2 hc

theorem adptUnloadAct_now {d : Nat} {P : Part} (hs : slotPart s i.slotArg = some (d, P)) (hc : unloadCode s d P i = 0) (hb : boundaries P = 0) :
    Ends (updPart (updPart s d (unloadMark i)) d (unloadDel i)) { i with part := d } (some d) Code.ok 0 0 (adptUnloadAct s i) := by
  rw [adptUnloadAct_ok hs hc, if_pos hb]
  exact finish_ends _ _ _ _ _ _

theorem adptUnloadAct_waits {d : Nat} {P : Part} (hs : slotPart s i.slotArg = some (d, P)) (hc : unloadCode s d P i = 0) (hb : boundaries P ≠ 0) :
    statusOf (adptUnloadAct s i) i = some { state := 2, tag := i.tag } := by
  rw [adptUnloadAct_ok hs hc, if_neg hb]
  exact status_setInst (updPart s d (unloadMark i)) { i with st := .pending, wait := 1, part := d }

/-- An entry that is marked and then deleted is gone, and every other is as it was. -/
theorem find?_del_upd {α : Type} (t : Tab α) (k j : Nat) (f : α → α) : ((t.upd k f).del k).find? j = if j = k then none else t.find? j := by
  rw [Tab.find?_del]
  split
  · rfl
  · next h => rw [Tab.find?_upd, if_neg h]

/-- A basis pair that is unloaded. -/
theorem unloaded_pair (h : unloadPair i = true) (P : Part) : unloadDel i (unloadMark i P) = { P with pairs := (unloadDel i (unloadMark i P)).pairs } ∧
    ∀ k, (unloadDel i (unloadMark i P)).pairs.find? k = if k = unloadKey i then none else P.pairs.find? k := by
  have e : unloadDel i (unloadMark i P) = { P with pairs := (P.pairs.upd (unloadKey i) (fun a => { a with unload := some 1 })).del (unloadKey i) } := by
    unfold unloadMark unloadDel
    rw [if_pos h, if_pos h]
  rw [e]
  exact ⟨rfl, fun k => find?_del_upd _ _ _ _⟩

/-- An adapter that is unloaded. -/
theorem unloaded_adapter (h : unloadPair i = false) (P : Part) : unloadDel i (unloadMark i P) = { P with adpts := (unloadDel i (unloadMark i P)).adpts } ∧
    ∀ k, (unloadDel i (unloadMark i P)).adpts.find? k = if k = unloadKey i then none else P.adpts.find? k := by
  have e : unloadDel i (unloadMark i P) = { P with adpts := (P.adpts.upd (unloadKey i) (fun a => { a with unload := some 1 })).del (unloadKey i) } := by
    unfold unloadMark unloadDel
    rw [h]
    rfl
  rw [e]
  exact ⟨rfl, fun k => find?_del_upd _ _ _ _⟩

/-! ## CTX_REBIND (R58, R59) -/

theorem exec_ctxRebind (h : Due s 3 0x12 i) : exec .ctxRebind s = .next (rebindRow s i) := congrArg Host.Outcome.next (cmdRow_due h rebindRow)

theorem rebindRow_nobody (h : ctxOwner s (i.arg 0 % 2 ^ 14) = none) : Ends s i none Code.ctxState 0 0 (rebindRow s i) := by
  unfold rebindRow rebindAct
  dsimp only
  rw [h]
  exact refuse_ends _ _ _ _

section
variable {p d : Nat} {P : Part} (ho : ctxOwner s (i.arg 0 % 2 ^ 14) = some (p, d, P))
include ho

theorem rebindRow_owner : rebindRow s i = ctxIdle (rebindAct s i) d := by
  unfold rebindRow
  dsimp only
  rw [ho]

theorem rebindAct_free (h : ctxOf s (i.arg 0 % 2 ^ 14) = none) : Ends s i (some d) Code.ctxState 0 0 (rebindAct s i) := by
  unfold rebindAct
  dsimp only
  rw [ho]
  dsimp only
  rw [if_pos (by rw [h]; rfl)]
  exact refuse_ends _ _ _ _

variable {x : Ctx} (hx : ctxOf s (i.arg 0 % 2 ^ 14) = some x)
include hx

theorem rebindAct_context : rebindAct s i =
    if bindChecks s p P (bindArgs i) (boundaries P) ≠ 0 then refuse s i (some d) (bindChecks s p P (bindArgs i) (boundaries P))
    else if pinsAttached P (bindArgs i) then refuse s i (some d) Code.genPinned
    else if boundaries P = 0 then applyRebind s d { i with part := d }
    else setInst (takeOrder s).2 { i with st := .pending, wait := boundaries P, part := d, aux := (takeOrder s).1 } := by
  unfold rebindAct
  dsimp only
  rw [ho]
  dsimp only
  exact if_neg (not_isNone (by rw [hx]; rfl))

theorem rebindAct_refused (hc : bindChecks s p P (bindArgs i) (boundaries P) ≠ 0) :
    Ends s i (some d) (bindChecks s p P (bindArgs i) (boundaries P)) 0 0 (rebindAct s i) := by
  rw [rebindAct_context ho hx, if_pos hc]
  exact refuse_ends _ _ _ _

variable (hc : bindChecks s p P (bindArgs i) (boundaries P) = 0)
include hc

theorem rebindAct_pinned (hp : pinsAttached P (bindArgs i) = true) : Ends s i (some d) Code.genPinned 0 0 (rebindAct s i) := by
  rw [rebindAct_context ho hx, if_neg (not_not.mpr hc), if_pos hp]
  exact refuse_ends _ _ _ _

theorem rebindAct_now (hp : pinsAttached P (bindArgs i) = false) (hb : boundaries P = 0) : rebindAct s i = applyRebind s d { i with part := d } := by
  rw [rebindAct_context ho hx, if_neg (not_not.mpr hc), if_neg (by rw [hp]; decide), if_pos hb]

end

theorem ctxOf_updCtx_self {s : State} {c : Nat} {x : Ctx} (h : ctxOf s c = some x) (f : Ctx → Ctx) : ctxOf (updCtx s c f) c = some (f x) := by
  unfold updCtx ctxOf
  dsimp only
  rw [Tab.find?_upd, if_pos rfl]
  unfold ctxOf at h
  rw [h]
  rfl

theorem ctxOf_updCtx_other (s : State) {c k : Nat} (h : k ≠ c) (f : Ctx → Ctx) : ctxOf (updCtx s c f) k = ctxOf s k := by
  unfold updCtx ctxOf
  dsimp only
  rw [Tab.find?_upd, if_neg h]

/-- What a rebinding leaves before its command ends: the new binding, and an UNFIT context READY behind every arrival. -/
def rebound (s : State) (d c : Nat) (b : List W64) (x : Ctx) : State :=
  if x.st == .unfit then
    updCtx (updPart s d (fun P => { P with arrseq := P.arrseq + 1 })) c
      (fun x => { x with bind := b, st := .ready, arrseq := ((partOf s d).map (·.arrseq)).getD 0, deferred := 0, dlValid := false })
  else updCtx s c (fun x => { x with bind := b })

theorem applyRebind_ends {d : Nat} {x : Ctx} (h : ctxOf s (i.arg 0 % 2 ^ 14) = some x) :
    Ends (rebound s d (i.arg 0 % 2 ^ 14) (bindArgs i) x) { i with part := d } (some d) Code.ok 0 0 (applyRebind s d { i with part := d }) := by
  have e : applyRebind s d { i with part := d } = finish (rebound s d (i.arg 0 % 2 ^ 14) (bindArgs i) x) { i with part := d } (some d) Code.ok 0 0 := by
    unfold applyRebind
    dsimp only
    have h' : ctxOf s (Inst.arg { i with part := d } 0 % 2 ^ 14) = some x := h
    rw [h'] <;> rfl
  rw [e]
  exact finish_ends _ _ _ _ _ _

theorem rebound_is {c d : Nat} {x : Ctx} (h : ctxOf s c = some x) (b : List W64) : ∃ y,
    rebound s d c b x = { s with parts := (rebound s d c b x).parts, ctxs := (rebound s d c b x).ctxs } ∧
    ctxOf (rebound s d c b x) c = some y ∧ y.bind = b ∧
    (x.st ≠ .unfit → y = { x with bind := b } ∧ (rebound s d c b x).parts = s.parts) ∧ (x.st = .unfit → y.st = .ready) ∧
    ∀ k, k ≠ c → ctxOf (rebound s d c b x) k = ctxOf s k := by
  unfold rebound
  by_cases hu : x.st = .unfit
  · rw [if_pos (beq_iff_eq.mpr hu)]
    exact ⟨_, rfl, ctxOf_updCtx_self (s := updPart s d _) h _, rfl, fun hn => absurd hu hn, fun _ => rfl, fun k hk => ctxOf_updCtx_other (updPart s d _) hk _⟩
  · rw [if_neg (fun e => hu (beq_iff_eq.mp e))]
    exact ⟨_, rfl, ctxOf_updCtx_self h _, rfl, fun _ => ⟨rfl, rfl⟩, fun hu' => absurd hu' hu, fun k hk => ctxOf_updCtx_other s hk _⟩

end

/-- Settles O50: the load and the end of its checks, the unload, the rebind. -/
theorem adapterCommands : Obligations.AdapterCommands := by
  unfold Obligations.AdapterCommands
  refine fun s i => ⟨fun h => ⟨_, exec_adptLoad h, adptLoadBegin_command⟩, fun r hh hi => ⟨fun hn => ?_, fun hs => ⟨adptLoadEnd s i, ?_, adptLoadEnd_away, ?_⟩⟩,
    fun h => ⟨_, exec_adptUnload h, adptUnloadAct_command.1, fun d P hs => ⟨(adptUnloadAct_command.2 d P hs).1, fun hc hb hp => ?_, adptUnloadAct_waits hs⟩⟩,
    fun h => ⟨_, exec_ctxRebind h, rebindRow_nobody, fun p d P ho => ⟨rebindAct s i, rebindRow_owner ho, rebindAct_free ho, ?_⟩⟩⟩
  · rw [exec_adptLoadChecksEnd hh hi, if_neg hn]
  · rw [exec_adptLoadChecksEnd hh hi, if_pos hs]
  · refine fun P c h g hp hc hg => ⟨adptLoadEnd_refused hp hc hg, adptLoadEnd_attached hp hc hg, fun h0 hb h1 => ⟨fun h2 => ?_, fun h2 => ?_⟩⟩
    · rw [adptLoadEnd_staged hp hc hg h0 hb h1, if_pos h2]
      exact finish_ends _ _ _ _ _ _
    · rw [adptLoadEnd_staged hp hc hg h0 hb h1, if_neg h2]
  · exact ⟨_, unloadDel i (unloadMark i P), adptUnloadAct_now hs hc hb, rfl, partOf_updPart_self (partOf_updPart_self hp _) _,
      fun e he => (partOf_updPart_other _ he _).trans (partOf_updPart_other _ he _), fun hu => unloaded_pair hu P, fun hu => unloaded_adapter hu P⟩
  · rintro x hx _ rfl
    refine ⟨rebindAct_refused ho hx, rebindAct_pinned ho hx, fun hc hp hb => ?_⟩
    rw [rebindAct_now ho hx hc hp hb]
    obtain ⟨y, h1⟩ := rebound_is (d := d) hx (bindArgs i)
    exact ⟨_, y, applyRebind_ends hx, h1⟩

end Sys2Proof.Machine
end

section
/-! PROOF. TBL_DEFINE, TBL_DROP, POOL_DEF and TROW_PUT (R174, R178, R187). -/

namespace Sys2Proof.Machine

section
variable {s : State} {d : Nat} {P : Part}

theorem partOf_updTraits_self (hp : partOf s d = some P) (f : Traits → Traits) : partOf (updTraits s d f) d = some { P with traits := f P.traits } :=
  partOf_updPart_self hp _

theorem partOf_updTraits_other (s : State) {d e : Nat} (h : e ≠ d) (f : Traits → Traits) : partOf (updTraits s d f) e = partOf s e :=
  partOf_updPart_other s h _

end

section
variable {s : State} {i : Inst}

/-! ## TBL_DEFINE (R174) -/

theorem exec_tblDefine (h : Due s 4 0x10 i) : exec .tblDefine s = .next (tblDefineAct s i) := congrArg Host.Outcome.next (cmdRow_due h tblDefineAct)

/-- The physical tables of a descriptor are cut into rows. -/
def tblStrides (s : State) (d : Nat) (w : List W64) : State :=
  if 2 ≤ tblComp w then setStride (setStride s d (tblHandle w false) (tblStride w)) d (tblHandle w true) (tblStride w)
  else setStride s d (tblHandle w false) (tblStride w)

theorem tblStrides_objs (s : State) (d : Nat) (w : List W64) : tblStrides s d w = { s with tm := { s.tm with objs := (tblStrides s d w).tm.objs } } := by
  unfold tblStrides
  split <;> rfl

/-- A table is defined, usable after `n` boundaries. -/
def tblPut (s : State) (d : Nat) (w : List W64) (n : Nat) : State :=
  updTraits (tblStrides s d w) d (fun t => { t with tbls := t.tbls.put (tblTid w) { desc := w, gen := wfld (w.getD 6 0) 63 48, wait := n } })

theorem partOf_tblStrides (s : State) (d : Nat) (w : List W64) (e : Nat) : partOf (tblStrides s d w) e = partOf s e := by
  rw [tblStrides_objs]
  rfl

theorem tblPut_frame (s : State) (d : Nat) (w : List W64) (n : Nat) :
    tblPut s d w n = { s with parts := (tblPut s d w n).parts, tm := { s.tm with objs := (tblPut s d w n).tm.objs } } := by
  unfold tblPut
  rw [tblStrides_objs]
  rfl

theorem partOf_tblPut_self {d : Nat} {P : Part} (hp : partOf s d = some P) (w : List W64) (n : Nat) : partOf (tblPut s d w n) d =
    some { P with traits := { P.traits with tbls := P.traits.tbls.put (tblTid w) { desc := w, gen := wfld (w.getD 6 0) 63 48, wait := n } } } :=
  partOf_updTraits_self ((partOf_tblStrides s d w d).trans hp) _

theorem partOf_tblPut_other (s : State) {d e : Nat} (h : e ≠ d) (w : List W64) (n : Nat) : partOf (tblPut s d w n) e = partOf s e :=
  (partOf_updTraits_other _ h _).trans (partOf_tblStrides s d w e)

/-- What TBL_DEFINE does once its checks pass. -/
def tblGo (s : State) (i : Inst) (d : Nat) (P : Part) : State :=
  if Nat.min 1 (boundaries P) = 0 then finish (tblPut s d (bytesWords (argBytes s i 1 64)) (Nat.min 1 (boundaries P))) i (some d) Code.ok 0 0
  else setInst (tblPut s d (bytesWords (argBytes s i 1 64)) (Nat.min 1 (boundaries P)))
    { i with st := .pending, wait := 1, part := d, aux := tblTid (bytesWords (argBytes s i 1 64)) }

theorem tblDefineAct_command : SlotCommand s i (fun d P => tblCode s d P (argBytes s i 1 64)) (tblGo s i) (tblDefineAct s i) :=
  withSlot_command (s := s) (i := i) (code := fun d P => tblCode s d P (argBytes s i 1 64)) (go := tblGo s i)

theorem tblGo_now {d : Nat} {P : Part} (hb : boundaries P = 0) : tblGo s i d P = finish (tblPut s d (bytesWords (argBytes s i 1 64)) 0) i (some d) Code.ok 0 0 := by
  unfold tblGo
  rw [hb]
  exact if_pos rfl

theorem tblGo_waits {d : Nat} {P : Part} (hb : boundaries P ≠ 0) : statusOf (tblGo s i d P) i = some { state := 2, tag := i.tag } := by
  unfold tblGo
  have hn : min 1 (boundaries P) ≠ 0 := by omega
  rw [if_neg hn]
  exact status_setInst _ { i with st := .pending, wait := 1, part := d, aux := tblTid (bytesWords (argBytes s i 1 64)) }

/-! ## TBL_DROP (R174) -/

theorem exec_tblDrop (h : Due s 4 0x11 i) : exec .tblDrop s = .next (tblDropAct s i) := congrArg Host.Outcome.next (cmdRow_due h tblDropAct)

theorem tblDropAct_nobody (h : slotPart s i.slotArg = none) : Ends s i none Code.partState 0 0 (tblDropAct s i) := by
  unfold tblDropAct withSlot
  rw [h]
  exact refuse_ends _ _ _ _

/-- A pool, a PUT or a staged row keeps the table. -/
def tblKept (P : Part) (tid : Nat) : Bool :=
  poolNames P tid || P.traits.puts.any (fun u => u.tid == tid) || P.traits.redirs.any (fun r => r.tid == tid && decide (r.st < 2))

/-- The table of a TBL_DROP is marked to go. -/
def tblMark (s : State) (i : Inst) (d n : Nat) : State :=
  updTraits s d (fun t => { t with tbls := t.tbls.upd i.tidArg (fun b => { b with drop := some n }) })

/-- The table of a TBL_DROP is gone, with its redirections and flips. -/
def tblGone (s : State) (i : Inst) (d : Nat) : State :=
  updTraits s d (fun t => { t with
    tbls := t.tbls.del i.tidArg, redirs := t.redirs.filter (fun r => r.tid != i.tidArg), flips := t.flips.filter (fun f => f.tid != i.tidArg) })

section
variable {d : Nat} {P : Part} (hs : slotPart s i.slotArg = some (d, P))
include hs

theorem tblDropAct_slot : tblDropAct s i =
    if (P.traits.tbls.find? i.tidArg).isNone then refuse s i (some d) Code.adapterAbsent
    else if tblKept P i.tidArg then refuse s i (some d) Code.objBusy
    else atBoundary (tblMark s i d (boundaries P)) { i with part := d } d P applyTblDrop := by
  unfold tblDropAct withSlot
  rw [hs] <;> rfl

theorem tblDropAct_absent (h : P.traits.tbls.find? i.tidArg = none) : Ends s i (some d) Code.adapterAbsent 0 0 (tblDropAct s i) := by
  rw [tblDropAct_slot hs, if_pos (by rw [h]; rfl)]
  exact refuse_ends _ _ _ _

variable (h : (P.traits.tbls.find? i.tidArg).isSome)
include h

theorem tblDropAct_kept (hk : tblKept P i.tidArg = true) : Ends s i (some d) Code.objBusy 0 0 (tblDropAct s i) := by
  rw [tblDropAct_slot hs, if_neg (not_isNone h), if_pos hk]
  exact refuse_ends _ _ _ _

theorem tblDropAct_now (hk : tblKept P i.tidArg = false) (hb : boundaries P = 0) :
    Ends (tblGone (tblMark s i d (boundaries P)) i d) { i with part := d } (some d) Code.ok 0 0 (tblDropAct s i) := by
  rw [tblDropAct_slot hs, if_neg (not_isNone h), if_neg (by rw [hk]; decide), atBoundary_now hb]
  exact finish_ends (tblGone (tblMark s i d (boundaries P)) i d) { i with part := d } (some d) Code.ok 0 0

end

/-! ## POOL_DEF (R178) -/

theorem exec_poolDef (h : Due s 4 0x12 i) : exec .poolDef s = .next (poolDefAct s i) := congrArg Host.Outcome.next (cmdRow_due h poolDefAct)

/-- A pool is defined and awaits its installation. -/
def poolStage (s : State) (d : Nat) (w : List W64) (n : Nat) : State :=
  updTraits s d (fun t => { t with pools := t.pools.put (psidOf w) { cur := (t.pools.find? (psidOf w)).bind (·.cur), next := some (w, n) } })

/-- What POOL_DEF does once its checks pass. -/
def poolGo (s : State) (i : Inst) (d : Nat) (P : Part) : State :=
  if boundaries P = 0 then applyPoolDef (poolStage s d (bytesWords (argBytes s i 1 160)) (Nat.min 1 (boundaries P)))
    { i with part := d, aux := psidOf (bytesWords (argBytes s i 1 160)) }
  else setInst (poolStage s d (bytesWords (argBytes s i 1 160)) (Nat.min 1 (boundaries P)))
    { i with st := .pending, wait := 1, part := d, aux := psidOf (bytesWords (argBytes s i 1 160)) }

theorem poolDefAct_command : SlotCommand s i (fun d P => poolCode s d P (argBytes s i 1 160)) (poolGo s i) (poolDefAct s i) :=
  withSlot_command (s := s) (i := i) (code := fun d P => poolCode s d P (argBytes s i 1 160)) (go := poolGo s i)

theorem poolGo_now {d : Nat} {P : Part} (hb : boundaries P = 0) :
    Ends (poolInstall (poolStage s d (bytesWords (argBytes s i 1 160)) (Nat.min 1 (boundaries P))) d (psidOf (bytesWords (argBytes s i 1 160))))
      { i with part := d, aux := psidOf (bytesWords (argBytes s i 1 160)) } (some d) Code.ok 0 0 (poolGo s i d P) := by
  unfold poolGo
  rw [if_pos hb]
  exact finish_ends _ _ _ _ _ _

theorem poolGo_waits {d : Nat} {P : Part} (hb : boundaries P ≠ 0) : statusOf (poolGo s i d P) i = some { state := 2, tag := i.tag } := by
  unfold poolGo
  rw [if_neg hb]
  exact status_setInst _ { i with st := .pending, wait := 1, part := d, aux := psidOf (bytesWords (argBytes s i 1 160)) }

/-- A pool that is defined and installed at once. -/
def pooled (P : Part) (w : List W64) (n : Nat) : Part :=
  { P with traits := { P.traits with
    pools := (P.traits.pools.put (psidOf w) { cur := (P.traits.pools.find? (psidOf w)).bind (·.cur), next := some (w, n) }).upd (psidOf w)
      (fun x => match x.next with | some (w, _) => { cur := some w } | none => x) } }

theorem partOf_pooled {d : Nat} {P : Part} (hp : partOf s d = some P) (w : List W64) (n : Nat) :
    partOf (poolInstall (poolStage s d w n) d (psidOf w)) d = some (pooled P w n) :=
  partOf_updTraits_self (partOf_updTraits_self hp _) _

theorem pooled_find (P : Part) (w : List W64) (n k : Nat) : (pooled P w n).traits.pools.find? k =
    if k = psidOf w then some { cur := some w } else P.traits.pools.find? k := by
  unfold pooled
  dsimp only
  rw [Tab.find?_upd]
  split
  · rw [Tab.find?_put_self] <;> rfl
  · next h => exact Tab.find?_put_ne _ _ h

/-! ## TROW_PUT (R187) -/

theorem exec_trowPut (h : Due s 4 0x20 i) : exec .trowPut s = .next (trowPutAct s i) := congrArg Host.Outcome.next (cmdRow_due h trowPutAct)

theorem trowPutAct_nobody (h : slotPart s i.slotArg = none) : Ends s i none Code.partState 0 0 (trowPutAct s i) := by
  unfold trowPutAct withSlot
  rw [h]
  exact refuse_ends _ _ _ _

/-- The entry in which a TROW_PUT's row is staged already. -/
def stagedRow (P : Part) (i : Inst) : Option Redir :=
  P.traits.redirs.find? (fun r => r.tid == i.tidArg && r.q == i.pqArg && r.row == i.arg 1 && r.st == 0)

/-- The PUT that a TROW_PUT makes, for a slot of the shadow area. -/
def newPut (i : Inst) (slot : Nat) : Put :=
  { path := i.path, cseq := i.cseq, tid := i.tidArg, q := i.pqArg, row := i.arg 1, slot := slot, src := i.arg 2 % 2 ^ 52, opt := bitOf (i.arg 0) 15, flip := false }

/-- The redirections with the row of a PUT staged. -/
def stageRedirs (st : Option Redir) (u : Put) (l : List Redir) : List Redir :=
  match st with
  | some r => l.map (fun x => if x == r then { x with copying := x.copying + 1, opt := u.opt } else x)
  | none => l ++ [{ tid := u.tid, q := u.q, row := u.row, slot := u.slot, st := 0, opt := u.opt, copying := 1 }]

/-- A PUT is accepted: its row is staged. -/
def putStage (s : State) (d : Nat) (st : Option Redir) (u : Put) : State :=
  updTraits s d (fun t => { t with puts := t.puts ++ [u], redirs := stageRedirs st u t.redirs })

/-- The shadow area has no room for a row, or the table no such row. -/
def putBad (s : State) (i : Inst) (d : Nat) (P : Part) (b : Tbl) : Bool :=
  (objOf s d (shadowArea s d P).1).isNone || decide (((objOf s d (shadowArea s d P).1).map (·.bytes)).getD 0 < shadowStride P) ||
    decide (tblRows b.desc i.pqArg ≤ i.arg 1) || (i.pqArg && decide (tblComp b.desc < 2))

section
variable {d : Nat} {P : Part} (hs : slotPart s i.slotArg = some (d, P))
include hs

theorem trowPutAct_absent (h : P.traits.tbls.find? i.tidArg = none) : Ends s i (some d) Code.adapterAbsent 0 0 (trowPutAct s i) := by
  unfold trowPutAct withSlot
  rw [hs]
  dsimp only
  rw [h]
  exact refuse_ends _ _ _ _

variable {b : Tbl} (hb : P.traits.tbls.find? i.tidArg = some b)
include hb

theorem trowPutAct_table : trowPutAct s i =
    if putBad s i d P b then refuse s i (some d) Code.limitRange
    else match stagedRow P i, freeShadow s d P with
      | none, none => refuse s i (some d) Code.shadowFull
      | st, fr => setInst (bumpD (putStage s d st (newPut i (match st with | some r => r.slot | none => fr.getD 0))) Cnt.traitPut d 1)
          { i with st := .checking, part := d } := by
  unfold trowPutAct withSlot
  rw [hs]
  dsimp only
  rw [hb] <;> rfl

theorem trowPutAct_bad (h : putBad s i d P b = true) : Ends s i (some d) Code.limitRange 0 0 (trowPutAct s i) := by
  rw [trowPutAct_table hs hb, if_pos h]
  exact refuse_ends _ _ _ _

variable (hg : putBad s i d P b = false)
include hg

theorem trowPutAct_full (h : stagedRow P i = none) (hf : freeShadow s d P = none) : Ends s i (some d) Code.shadowFull 0 0 (trowPutAct s i) := by
  rw [trowPutAct_table hs hb, if_neg (by rw [hg]; decide), h, hf]
  exact refuse_ends _ _ _ _

/-- A row is staged in the slot it is staged in already, or in the lowest free one. -/
theorem trowPutAct_stages {slot : Nat} (h1 : ∀ r, stagedRow P i = some r → slot = r.slot) (h2 : stagedRow P i = none → freeShadow s d P = some slot) :
    trowPutAct s i = setInst (bumpD (putStage s d (stagedRow P i) (newPut i slot)) Cnt.traitPut d 1) { i with st := .checking, part := d } := by
  rw [trowPutAct_table hs hb, if_neg (by rw [hg]; decide)]
  cases hst : stagedRow P i with
  | none => rw [h2 hst] <;> rfl
  | some r => rw [h1 r hst]

end

/-- The room of the shadow area, as a count of its object's bytes. -/
theorem fits_iff (s : State) (d h n : Nat) : (objOf s d h).any (fun o => decide (n ≤ o.bytes)) =
    !((objOf s d h).isNone || decide (((objOf s d h).map (·.bytes)).getD 0 < n)) := by
  cases objOf s d h with
  | none => rfl
  | some o =>
    show decide (n ≤ o.bytes) = !(false || decide (o.bytes < n))
    rw [Bool.false_or, ← decide_not, decide_eq_decide]
    exact Nat.not_lt.symm

theorem putBad_eq (s : State) (i : Inst) (d : Nat) (P : Part) (b : Tbl) : putBad s i d P b =
    (!(objOf s d (shadowArea s d P).1).any (fun o => decide (shadowStride P ≤ o.bytes)) || decide (tblRows b.desc i.pqArg ≤ i.arg 1) ||
      (i.pqArg && decide (tblComp b.desc < 2))) := by
  unfold putBad
  rw [fits_iff, Bool.not_not]

theorem putBad_true {d : Nat} {P : Part} {b : Tbl} (h : (objOf s d (shadowArea s d P).1).any (fun o => decide (shadowStride P ≤ o.bytes)) = false ∨
    tblRows b.desc i.pqArg ≤ i.arg 1 ∨ (i.pqArg = true ∧ tblComp b.desc < 2)) : putBad s i d P b = true := by
  rw [putBad_eq]
  rcases h with h | h | ⟨h1, h2⟩
  · rw [h]; rfl
  · simp [h]
  · simp [h1, h2]

theorem putBad_false {d : Nat} {P : Part} {b : Tbl} (h : (objOf s d (shadowArea s d P).1).any (fun o => decide (shadowStride P ≤ o.bytes)) = true)
    (h1 : i.arg 1 < tblRows b.desc i.pqArg) (h2 : i.pqArg = false ∨ 2 ≤ tblComp b.desc) : putBad s i d P b = false := by
  rw [putBad_eq, h, decide_eq_false (Nat.not_le.mpr h1)]
  rcases h2 with h2 | h2
  · rw [h2]; rfl
  · rw [decide_eq_false (Nat.not_lt.mpr h2)]; simp

end

end Sys2Proof.Machine
end

section
/-! PROOF. The ends of the copies of PUTs, TROW_FLIP and fold-back (R187, R188, R190). -/

namespace Sys2Proof.Machine

/-! ## The end of a PUT's copy (R187) -/

/-- The copy of the PUT of a command has ended. -/
def putAck (i : Inst) (ok : Bool) (u : Put) : Put := if u.path == i.path && u.cseq == i.cseq then { u with acked := some ok } else u

/-- The PUTs of a partition with the end of one copy noted. -/
def ackPuts (s : State) (d : Nat) (i : Inst) (ok : Bool) : State := updTraits s d (fun t => { t with puts := t.puts.map (putAck i ok) })

def ackPart (P : Part) (i : Inst) (ok : Bool) : Part := { P with traits := { P.traits with puts := P.traits.puts.map (putAck i ok) } }

/-- The redirect entry of a PUT. -/
def putRow (u : Put) (r : Redir) : Bool := r.tid == u.tid && r.q == u.q && r.row == u.row && decide (r.st < 2) && r.slot == u.slot

/-- What a PUT leaves whose bytes have reached the slot. -/
def putLanded (s : State) (d : Nat) (P : Part) (b : Tbl) (u : Put) : State :=
  flipsCommit (updTraits (objWrite s d (shadowArea s d P).1 (u.slot * shadowStride P) (putBytes s b u)) d (fun t => { t with
    puts := t.puts.filter (fun x => x != u), redirs := t.redirs.map (fun r => if putRow u r then { r with copying := r.copying - 1 } else r) })) d

/-- What a PUT leaves whose copy has failed. -/
def putUndone (s : State) (d : Nat) (u : Put) : State :=
  flipsCommit (updTraits s d (fun t => { t with puts := t.puts.filter (fun x => x != u), redirs := t.redirs.filter (fun r => !putRow u r) })) d

section
variable {s : State} {i : Inst}

theorem exec_trowPutCopyEnd {r : CmdRef} (hh : held s = false) (hi : instAt s 4 0x20 r = some i) (ok : Bool) :
    exec (.trowPutCopyEnd r ok) s = .next (if i.st = .checking then flipsIdle (putAcked ok s i) i.part else s) :=
  congrArg Host.Outcome.next (endRow_is hh hi .checking (fun s i => flipsIdle (putAcked ok s i) i.part))

section
variable {P : Part} {u : Put} (hp : partOf s i.part = some P) (hu : P.traits.puts.find? (fun u => u.path == i.path && u.cseq == i.cseq) = some u)
include hp hu

theorem trowPutEnd_failed : Ends (putUndone s i.part u) i (some i.part) Code.xferFail 0 0 (trowPutEnd false s i) := by
  have e : trowPutEnd false s i = refuse (putUndone s i.part u) i (some i.part) Code.xferFail := by
    unfold trowPutEnd
    rw [hp]
    dsimp only
    rw [hu] <;> rfl
  rw [e]
  exact refuse_ends _ _ _ _

theorem trowPutEnd_landed {b : Tbl} (hb : P.traits.tbls.find? u.tid = some b) :
    Ends (putLanded s i.part P b u) i (some i.part) Code.ok (w64 u.slot) 0 (trowPutEnd true s i) := by
  have e : trowPutEnd true s i = finish (putLanded s i.part P b u) i (some i.part) Code.ok (w64 u.slot) 0 := by
    unfold trowPutEnd
    rw [hp]
    dsimp only
    rw [hu]
    dsimp only
    rw [if_pos rfl, hb] <;> rfl
  rw [e]
  exact finish_ends _ _ _ _ _ _

end

theorem putsDrain_waits {d : Nat} {P : Part} {u : Put} (hp : partOf s d = some P) (hu : P.traits.puts.head? = some u) (ha : u.acked = none) (n : Nat) :
    putsDrain (n + 1) s d = s := by
  unfold putsDrain
  rw [hp, Option.bind_some, hu]
  dsimp only
  rw [ha]

theorem putsDrain_ends {d : Nat} {P : Part} {u : Put} {ok : Bool} (hp : partOf s d = some P) (hu : P.traits.puts.head? = some u) (ha : u.acked = some ok)
    (hi : instAt s 4 0x20 { path := u.path, cseq := u.cseq } = some i) (n : Nat) : putsDrain (n + 1) s d = putsDrain n (trowPutEnd ok s i) d := by
  rw [putsDrain, hp, Option.bind_some, hu]
  dsimp only
  rw [ha, hi]

section
variable {P : Part} {u : Put} {rest : List Put} (hp : partOf s i.part = some P) (hu : P.traits.puts = u :: rest)
include hp hu

theorem putAcked_drains (ok : Bool) : putAcked ok s i = putsDrain (rest.length + 1) (ackPuts s i.part i ok) i.part := by
  unfold putAcked
  dsimp only
  rw [hp, Option.map_some, hu] <;> rfl

omit hu in
theorem partOf_ackPuts (ok : Bool) : partOf (ackPuts s i.part i ok) i.part = some (ackPart P i ok) := partOf_updTraits_self hp _

omit hp in
theorem ackPart_head (ok : Bool) : (ackPart P i ok).traits.puts.head? = some (putAck i ok u) := by
  show (P.traits.puts.map (putAck i ok)).head? = _
  rw [hu] <;> rfl

theorem putAcked_behind (hn : u.path ≠ i.path ∨ u.cseq ≠ i.cseq) (ha : u.acked = none) (ok : Bool) : putAcked ok s i = ackPuts s i.part i ok := by
  have hid : putAck i ok u = u := if_neg (by rcases hn with hn | hn <;> simp [hn])
  rw [putAcked_drains hp hu]
  exact putsDrain_waits (partOf_ackPuts hp ok) (ackPart_head hu ok) ((congrArg Put.acked hid).trans ha) _

variable (h1 : u.path = i.path) (h2 : u.cseq = i.cseq)
include h1 h2

omit hp hu in
theorem putAck_own (ok : Bool) : putAck i ok u = { u with acked := some ok } := if_pos (by rw [h1, h2, beq_self_eq_true, beq_self_eq_true]; rfl)

omit hp hu in
theorem putAck_tid (ok : Bool) : (putAck i ok u).tid = u.tid := by rw [putAck_own h1 h2]

omit hp hu in
theorem putAck_slot (ok : Bool) : (putAck i ok u).slot = u.slot := by rw [putAck_own h1 h2]

omit hp hu in
/-- The end of a copy leaves the row of its PUT. -/
theorem putRow_putAck (ok : Bool) : putRow (putAck i ok u) = putRow u := by
  rw [putAck_own h1 h2]
  rfl

theorem putAcked_front (hi : instAt s 4 0x20 { path := i.path, cseq := i.cseq } = some i) (ok : Bool) :
    putAcked ok s i = putsDrain rest.length (trowPutEnd ok (ackPuts s i.part i ok) i) i.part := by
  rw [putAcked_drains hp hu]
  have ha := putAck_own h1 h2 ok
  refine putsDrain_ends (partOf_ackPuts hp ok) (ackPart_head hu ok) (congrArg Put.acked ha) ?_ _
  rw [ha, ← hi]
  show instAt s 4 0x20 { path := u.path, cseq := u.cseq } = _
  rw [h1, h2]

omit hp in
/-- The PUT of the command is the first of its path and number. -/
theorem ackPart_find (ok : Bool) : (ackPart P i ok).traits.puts.find? (fun u => u.path == i.path && u.cseq == i.cseq) = some (putAck i ok u) := by
  show (P.traits.puts.map (putAck i ok)).find? _ = _
  rw [hu, List.map_cons, List.find?_cons_of_pos]
  rw [putAck_own h1 h2 ok]
  simp [h1, h2]

end

/-! ## TROW_FLIP (R188) -/

theorem exec_trowFlip (h : Due s 4 0x21 i) : exec .trowFlip s = .next (trowFlipAct s i) := congrArg Host.Outcome.next (cmdRow_due h trowFlipAct)

theorem trowFlipAct_nobody (h : slotPart s i.slotArg = none) : Ends s i none Code.partState 0 0 (trowFlipAct s i) := by
  unfold trowFlipAct withSlot
  rw [h]
  exact refuse_ends _ _ _ _

/-- Every staged row of the table of a flip is taken. -/
def flipTake (s : State) (i : Inst) (d : Nat) : State :=
  updTraits s d (fun t => { t with
    puts := t.puts.map (fun u => if u.tid = i.tidArg then { u with flip := true } else u)
    redirs := t.redirs.map (fun r => if r.tid = i.tidArg && r.st = 0 then { r with st := 1 } else r)
    flips := t.flips ++ [{ tid := i.tidArg, path := i.path, cseq := i.cseq, committed := false, wait := 0 }] })

section
variable {d : Nat} {P : Part} (hs : slotPart s i.slotArg = some (d, P))
include hs

theorem trowFlipAct_slot : trowFlipAct s i =
    if (P.traits.tbls.find? i.tidArg).isNone then refuse s i (some d) Code.adapterAbsent
    else if P.traits.flips.any (fun f => f.tid == i.tidArg) then refuse s i (some d) Code.adapterBusy
    else flipsIdle (flipsCommit (setInst (flipTake s i d) { i with st := .checking, part := d }) d) d := by
  unfold trowFlipAct withSlot
  rw [hs] <;> rfl

theorem trowFlipAct_absent (h : P.traits.tbls.find? i.tidArg = none) : Ends s i (some d) Code.adapterAbsent 0 0 (trowFlipAct s i) := by
  rw [trowFlipAct_slot hs, if_pos (by rw [h]; rfl)]
  exact refuse_ends _ _ _ _

variable (h : (P.traits.tbls.find? i.tidArg).isSome)
include h

theorem trowFlipAct_busy (hf : P.traits.flips.any (fun f => f.tid == i.tidArg) = true) : Ends s i (some d) Code.adapterBusy 0 0 (trowFlipAct s i) := by
  rw [trowFlipAct_slot hs, if_neg (not_isNone h), if_pos hf]
  exact refuse_ends _ _ _ _

theorem trowFlipAct_flips (hf : P.traits.flips.any (fun f => f.tid == i.tidArg) = false) :
    trowFlipAct s i = flipsIdle (flipsCommit (setInst (flipTake s i d) { i with st := .checking, part := d }) d) d := by
  rw [trowFlipAct_slot hs, if_neg (not_isNone h), if_neg (by rw [hf]; decide)]

end
end

/-! ## Fold-back (R190) -/

section
variable {s : State} {d tid row : Nat}

theorem exec_foldBackEnd (hh : held s = false) (ok : Bool) : exec (.foldBackEnd d tid row ok) s = .next (foldBack s d tid row ok) :=
  congrArg Host.Outcome.next (if_neg (by simp [hh]))

/-- The redirect entry of a row that folds back. -/
def foldRow (P : Part) (tid row : Nat) : Option Redir := P.traits.redirs.find? (fun r => r.tid == tid && r.row == row && r.st == 2 && r.upto.isNone)

theorem foldBack_idle {P : Part} (hp : partOf s d = some P) (h : foldRow P tid row = none ∨ P.traits.tbls.find? tid = none) (ok : Bool) :
    foldBack s d tid row ok = s := by
  unfold foldBack
  rw [hp]
  dsimp only
  rcases h with h | h
  · unfold foldRow at h
    rw [h]
  · rw [h]
    split
    · next h' => cases h'
    · rfl

/-- The entry of a folded row has retired. -/
def foldRetired (s : State) (d : Nat) (r : Redir) : State :=
  updTraits s d (fun t => { t with redirs := t.redirs.map (fun k => if k == r then { k with st := 3, thaws := false } else k) })

variable {P : Part} {r : Redir} {b : Tbl} (hp : partOf s d = some P) (hr : foldRow P tid row = some r) (hb : P.traits.tbls.find? tid = some b)
include hp hr hb

theorem foldBack_waits (hw : foldWaits P r = true) (ok : Bool) : foldBack s d tid row ok = s := by
  unfold foldBack
  rw [hp]
  dsimp only
  unfold foldRow at hr
  rw [hr, hb]
  exact if_pos hw

variable (hw : foldWaits P r = false)
include hw

theorem foldBack_fails : foldBack s d tid row false = poisonExtent s (xKey d (tblHandle b.desc r.q) row) := by
  unfold foldBack
  rw [hp]
  dsimp only
  unfold foldRow at hr
  rw [hr, hb]
  exact (if_neg (by rw [hw]; decide)).trans (if_pos rfl)

theorem foldBack_home (hc : homeCode s (xKey d (tblHandle b.desc r.q) row) ≠ 3) : foldBack s d tid row true =
    foldRetired (objWriteQ s 2 d (tblHandle b.desc r.q) (row * tblStride b.desc) (rowBytes s d P r.since tid r.q row)) d r := by
  unfold foldBack
  rw [hp]
  dsimp only
  unfold foldRow at hr
  rw [hr, hb]
  exact (if_neg (by rw [hw]; decide)).trans ((if_neg (by decide)).trans (if_pos hc))

end

/-- Settles O51: tables and pools, PUTs and the ends of their copies, flips and fold-back. -/
theorem traitCommands : Obligations.TraitCommands := by
  unfold Obligations.TraitCommands
  refine ⟨fun s i => ⟨fun h => ⟨_, exec_tblDefine h, tblDefineAct_command.1, ?_⟩, fun h => ⟨_, exec_tblDrop h, tblDropAct_nobody, fun d P hs =>
        ⟨tblDropAct_absent hs, ?_⟩⟩, fun h => ⟨_, exec_poolDef h, poolDefAct_command.1, ?_⟩⟩,
    fun s i => ⟨fun h => ⟨_, exec_trowPut h, trowPutAct_nobody, fun d P hs => ⟨trowPutAct_absent hs, ?_⟩⟩, ?_,
      fun h => ⟨_, exec_trowFlip h, trowFlipAct_nobody, fun d P hs => ⟨trowFlipAct_absent hs, trowFlipAct_busy hs, trowFlipAct_flips hs⟩⟩, ?_⟩⟩
  · rintro d P hs _ _ rfl rfl
    refine ⟨(tblDefineAct_command.2 d P hs).1, fun hc hb hp => ?_, fun hc hb => ?_⟩
    · rw [(tblDefineAct_command.2 d P hs).2 hc, tblGo_now hb]
      exact ⟨_, _, finish_ends _ _ _ _ _ _, tblPut_frame _ _ _ _, partOf_tblPut_self hp _ _, rfl, fun e he => partOf_tblPut_other s he _ _⟩
    · rw [(tblDefineAct_command.2 d P hs).2 hc, tblGo_waits hb]
  · rintro ht _ rfl
    exact ⟨tblDropAct_kept hs ht, fun hk hb hp => ⟨_, _, tblDropAct_now hs ht hk hb, rfl, partOf_updTraits_self (partOf_updTraits_self hp _) _, rfl, rfl,
      fun k => find?_del_upd _ _ _ _, fun e he => (partOf_updTraits_other _ he _).trans (partOf_updTraits_other _ he _)⟩⟩
  · rintro d P hs _ _ rfl rfl
    refine ⟨(poolDefAct_command.2 d P hs).1, fun hc hb hp => ?_, fun hc hb => ?_⟩
    · rw [(poolDefAct_command.2 d P hs).2 hc]
      exact ⟨_, _, poolGo_now hb, rfl, partOf_pooled hp _ _, rfl, pooled_find P _ _,
        fun e he => (partOf_updTraits_other _ he _).trans (partOf_updTraits_other _ he _)⟩
    · rw [(poolDefAct_command.2 d P hs).2 hc, poolGo_waits hb]
  · rintro b _ hb rfl _ rfl
    refine ⟨fun h => trowPutAct_bad hs hb (putBad_true h), fun h h1 h2 => ⟨trowPutAct_full hs hb (putBad_false h h1 h2), ?_⟩⟩
    rintro slot h3 h4 hp _ rfl
    refine ⟨_, _, trowPutAct_stages hs hb (putBad_false h h1 h2) h3 h4, rfl, partOf_updTraits_self hp _, rfl, fun hn => ?_, fun r hr => ?_,
      fun e he => partOf_updTraits_other s he _⟩
    · exact congrArg (fun st => stageRedirs st (newPut i slot) P.traits.redirs) hn
    · exact congrArg (fun st => stageRedirs st (newPut i slot) P.traits.redirs) hr
  · rintro r hh hi _ P rfl hp
    refine ⟨fun hn ok => ?_, fun hc ok => ?_⟩
    · rw [exec_trowPutCopyEnd hh hi, if_neg hn]
    · rintro _ rfl _ _ rfl rfl
      refine ⟨putAcked ok s i, ?_, fun u rest hu hn ha => putAcked_behind hp hu hn ha ok,
        fun u rest hu h1 h2 hi => ⟨_, putAcked_front hp hu h1 h2 hi ok, ?_⟩⟩
      · rw [exec_trowPutCopyEnd hh hi, if_pos hc]
      · rintro _ rfl
        have hf := ackPart_find (i := i) hu h1 h2 ok
        refine ⟨?_, ?_⟩
        · rintro rfl
          have h := trowPutEnd_failed (partOf_ackPuts hp false) hf
          unfold putUndone at h
          rw [putRow_putAck h1 h2] at h
          exact h
        · rintro rfl b hb
          have h := trowPutEnd_landed (b := b) (partOf_ackPuts hp true) hf ((congrArg P.traits.tbls.find? (putAck_tid h1 h2 true)).trans hb)
          unfold putLanded at h
          rw [putRow_putAck h1 h2, putAck_slot h1 h2] at h
          exact h
  · refine fun d tid row hh => ⟨fun P hp h ok => ?_, ?_⟩
    · rw [exec_foldBackEnd hh, foldBack_idle hp h]
    · rintro P r b _ hp hr hb rfl
      refine ⟨fun hw ok => ?_, fun hw => ⟨?_, fun hc => ?_⟩⟩
      · rw [exec_foldBackEnd hh, foldBack_waits hp hr hb hw]
      · rw [exec_foldBackEnd hh, foldBack_fails hp hr hb hw]
      · rw [exec_foldBackEnd hh, foldBack_home hp hr hb hw hc] <;> rfl

end Sys2Proof.Machine
end

section
/-! PROOF. The commands of training: attachments, detaches, sweeps, discards and snapshots (R192 to R194, R219, R221). -/

namespace Sys2Proof.Machine

theorem partOf_updTrain_self {s : State} {d : Nat} {P : Part} (hp : partOf s d = some P) (f : Train → Train) :
    partOf (updTrain s d f) d = some { P with train := f P.train } := partOf_updPart_self hp _

section
variable {s : State} {i : Inst}

/-! ## TRAIN_ATTACH (R194) -/

theorem exec_trainAttach (h : Due s 5 0x10 i) : exec .trainAttach s = .next (trainAttachAct s i) := congrArg Host.Outcome.next (cmdRow_due h trainAttachAct)

/-- An attachment is made, and waits to take effect. -/
def attachStage (s : State) (d n : Nat) (w : List W64) : State := updTrain s d (fun T => { T with atts := T.atts.put n { desc := w, wait := 1 } })

/-- What TRAIN_ATTACH does once its checks pass. -/
def attachGo (s : State) (i : Inst) (d : Nat) (P : Part) : State :=
  if boundaries P = 0 then applyTrainAttach (attachStage s d (freeAtt P) (bytesWords (argBytes s i 1 64))) { i with part := d, aux := freeAtt P }
  else setInst (attachStage s d (freeAtt P) (bytesWords (argBytes s i 1 64))) { i with st := .pending, wait := 1, part := d, aux := freeAtt P }

theorem trainAttachAct_command :
    SlotCommand s i (fun d P => attachCode s d i.slotArg P (bytesWords (argBytes s i 1 64)) (argBytes s i 1 64)) (attachGo s i) (trainAttachAct s i) :=
  withSlot_command (s := s) (i := i) (code := fun d P => attachCode s d i.slotArg P (bytesWords (argBytes s i 1 64)) (argBytes s i 1 64)) (go := attachGo s i)

theorem attachGo_now {d : Nat} {P : Part} (hb : boundaries P = 0) :
    Ends (attachTake (attachStage s d (freeAtt P) (bytesWords (argBytes s i 1 64))) d (freeAtt P)) { i with part := d, aux := freeAtt P } (some d) Code.ok
      (w64 (freeAtt P)) 0 (attachGo s i d P) := by
  unfold attachGo
  rw [if_pos hb]
  exact finish_ends _ _ _ _ _ _

theorem attachTake_found {d n : Nat} {P : Part} {a : Attach} (hp : partOf s d = some P) (ha : P.train.atts.find? n = some a) (hi : attInit a.desc = false) :
    attachTake s d n = updTrain s d (fun T => { T with atts := T.atts.put n { a with wait := 0 } }) := by
  unfold attachTake
  rw [hp, Option.bind_some, ha]
  dsimp only
  rw [partOf_updTrain_self hp]
  dsimp only
  rw [hi]
  exact if_neg Bool.false_ne_true

/-- A partition with attachment `n` in force. -/
def attached (P : Part) (n : Nat) (w : List W64) : Part :=
  { P with train := { P.train with atts := (P.train.atts.put n { desc := w, wait := 1 }).put n { desc := w, wait := 0 } } }

theorem attachTake_stage {d n : Nat} {P : Part} {w : List W64} (hi : attInit w = false) (hp : partOf s d = some P) :
    partOf (attachTake (attachStage s d n w) d n) d = some (attached P n w) := by
  have h1 : partOf (attachStage s d n w) d = some { P with train := { P.train with atts := P.train.atts.put n { desc := w, wait := 1 } } } :=
    partOf_updTrain_self hp _
  rw [attachTake_found h1 (Tab.find?_put_self _ _ _) hi, partOf_updTrain_self h1]
  rfl

theorem attached_find (P : Part) (n : Nat) (w : List W64) (k : Nat) :
    (attached P n w).train.atts.find? k = if k = n then some { desc := w, wait := 0 } else P.train.atts.find? k := by
  unfold attached
  dsimp only
  rw [Tab.find?_put]
  split
  · rfl
  · next h => exact Tab.find?_put_ne _ _ h

/-! ## TRAIN_DETACH (R193) -/

theorem exec_trainDetach (h : Due s 5 0x11 i) : exec .trainDetach s = .next (trainDetachAct s i) := congrArg Host.Outcome.next (cmdRow_due h trainDetachAct)

theorem trainDetachAct_nobody (h : slotPart s i.slotArg = none) : Ends s i none Code.partState 0 0 (trainDetachAct s i) := by
  unfold trainDetachAct withSlot
  rw [h]
  exact refuse_ends _ _ _ _

section
variable {d : Nat} {P : Part} (hs : slotPart s i.slotArg = some (d, P)) {n : Nat} (hn : n = fld (i.arg 0) 19 8)
include hs hn

theorem trainDetachAct_absent (h : P.train.atts.find? n = none) : Ends s i (some d) Code.adapterAbsent 0 0 (trainDetachAct s i) := by
  subst hn
  unfold trainDetachAct withSlot
  rw [hs]
  dsimp only
  rw [h]
  exact refuse_ends _ _ _ _

/-- A detach waits for the last update of its attachment. -/
def detachWait (s : State) (i : Inst) (d n : Nat) (a : Attach) : State :=
  setInst (updTrain s d (fun T => { T with atts := T.atts.put n { a with detach := some { path := i.path, cseq := i.cseq } } }))
    { i with st := .pending, part := d, wait := 0, aux := n }

variable {a : Attach} (h : P.train.atts.find? n = some a)
include h

theorem trainDetachAct_found : trainDetachAct s i = if a.detach.isSome then refuse s i (some d) Code.adapterBusy
    else if boundaries P = 0 then detachesDue (detachWait s i d n a) d else detachWait s i d n a := by
  subst hn
  unfold trainDetachAct withSlot
  rw [hs]
  dsimp only
  rw [h] <;> rfl

theorem trainDetachAct_busy (ha : a.detach.isSome) : Ends s i (some d) Code.adapterBusy 0 0 (trainDetachAct s i) := by
  rw [trainDetachAct_found hs hn h, if_pos ha]
  exact refuse_ends _ _ _ _

theorem trainDetachAct_waits (ha : a.detach = none) :
    trainDetachAct s i = if boundaries P = 0 then detachesDue (detachWait s i d n a) d else detachWait s i d n a := by
  rw [trainDetachAct_found hs hn h, if_neg (by rw [ha]; decide)]

end

/-! ## TRAIN_SWEEP and TRAIN_DISCARD (R219) -/

theorem exec_trainSweep (h : Due s 5 0x12 i) : exec .trainSweep s = .next (trainSweepAct s i) := congrArg Host.Outcome.next (cmdRow_due h trainSweepAct)

theorem exec_trainDiscard (h : Due s 5 0x13 i) : exec .trainDiscard s = .next (trainDiscardAct s i) := congrArg Host.Outcome.next (cmdRow_due h trainDiscardAct)

theorem trainSweepAct_nobody (h : slotPart s i.slotArg = none) : Ends s i none Code.partState 0 0 (trainSweepAct s i) := by
  unfold trainSweepAct withSlot
  rw [h]
  exact refuse_ends _ _ _ _

theorem trainDiscardAct_nobody (h : slotPart s i.slotArg = none) : Ends s i none Code.partState 0 0 (trainDiscardAct s i) := by
  unfold trainDiscardAct withSlot
  rw [h]
  exact refuse_ends _ _ _ _

/-- The lists that a sweep of the partition's own takes: the sealed ones that have not ended and have items left. -/
def sweepLists (P : Part) : List TList :=
  ((P.train.lists.filter (fun l => l.isSealed && !l.ended)).map (fun l => { l with sweep := true })).filter (fun l => !listOver l)

section
variable {d : Nat} {P : Part} (hs : slotPart s i.slotArg = some (d, P))
include hs

theorem trainSweepAct_absent (h : cfgTrain s = false) : Ends s i (some d) Code.optionAbsent 0 0 (trainSweepAct s i) := by
  unfold trainSweepAct withSlot
  rw [hs]
  dsimp only
  rw [if_pos (by rw [h]; rfl)]
  exact refuse_ends _ _ _ _

theorem trainDiscardAct_absent (h : cfgTrain s = false) : Ends s i (some d) Code.optionAbsent 0 0 (trainDiscardAct s i) := by
  unfold trainDiscardAct withSlot
  rw [hs]
  dsimp only
  rw [if_pos (by rw [h]; rfl)]
  exact refuse_ends _ _ _ _

variable (ht : cfgTrain s = true)
include ht

theorem trainSweepAct_again (h : P.train.sweepInst.isSome) : trainSweepAct s i = s := by
  unfold trainSweepAct withSlot
  rw [hs]
  exact (if_neg (by rw [ht]; decide)).trans (if_pos h)

section
variable (h : P.train.sweepInst = none)
include h

theorem trainSweepAct_bad (h1 : i.arg 1 ≠ 0) (h2 : readList P s.mem (1048576 + 64) (memKey 0 (i.arg 1 % 2 ^ 52)) [] 0 = none) :
    Ends s i (some d) Code.imageBad 0 0 (trainSweepAct s i) := by
  unfold trainSweepAct withSlot
  rw [hs]
  dsimp only
  rw [if_neg (by rw [ht]; decide), if_neg (by rw [h]; decide), if_neg h1, h2]
  exact refuse_ends _ _ _ _

/-- A sweep of the partition's own lists. -/
theorem trainSweepAct_own (h1 : i.arg 1 = 0) : trainSweepAct s i =
    if (sweepLists P).isEmpty then finish s i (some d) Code.ok 0 0
    else setInst (updTrain s d (fun T => { T with
      lists := T.lists.filter (fun l => !l.isSealed) ++ sweepLists P, sweepInst := some { path := i.path, cseq := i.cseq } }))
      { i with st := .checking, part := d, aux := 0 } := by
  unfold trainSweepAct withSlot
  rw [hs]
  dsimp only
  rw [if_neg (by rw [ht]; decide), if_neg (by rw [h]; decide), if_pos h1]
  simp only [h1, if_true]
  rfl

end

/-- What TRAIN_DISCARD gives up: first its lists, each carried as its last flip left it. -/
def discarded (s : State) (d : Nat) (P : Part) : State :=
  listsAbandon (forEach (P.train.lists.filter (·.isSealed)) (pensGone s d P) (fun s l => listDropped s d l)) d

/-- No list, Pen entry or gradient is left. -/
def trainCleared (s : State) (d : Nat) : State :=
  updTrain s d (fun T => { T with lists := [], pen := [], penFull := false, grads := [], accs := [], save := [], stash := [] })

omit hs ht in
theorem trainCleared_part {Q : Part} (h : partOf (trainCleared s d) d = some Q) :
    Q.train.lists = [] ∧ Q.train.pen = [] ∧ Q.train.penFull = false ∧ Q.train.grads = [] := by
  unfold trainCleared updTrain at h
  rw [partOf_updPart, if_pos rfl] at h
  obtain ⟨Q0, -, rfl⟩ := Option.map_eq_some_iff.mp h
  exact ⟨rfl, rfl, rfl, rfl⟩

theorem trainDiscardAct_ends : Ends (trainCleared (discarded s d P) d) i (some d) Code.ok 0 0 (trainDiscardAct s i) := by
  unfold trainDiscardAct withSlot
  rw [hs]
  dsimp only
  rw [if_neg (by rw [ht]; decide)]
  exact finish_ends _ _ _ _ _ _

end

/-! ## EXPORT_SNAP (R221) -/

theorem exec_exportSnap (h : Due s 5 0x14 i) : exec .exportSnap s = .next (exportSnapAct s i) := congrArg Host.Outcome.next (cmdRow_due h exportSnapAct)

theorem exportSnapAct_eq : exportSnapAct s i = withSlot s i (fun d P => if (if cfgTrain s then 0 else Code.optionAbsent) ≠ 0
    then refuse s i (some d) (if cfgTrain s then 0 else Code.optionAbsent) else atBoundary s { i with part := d } d P applyExportSnap) := by
  refine congrArg (withSlot s i) (funext fun d => funext fun P => ?_)
  by_cases h : cfgTrain s = true
  · have hn : ¬ (!cfgTrain s) = true := by rw [h]; decide
    rw [if_neg hn, if_pos h, if_neg (not_not.mpr rfl)]
  · have hn : (!cfgTrain s) = true := by simp [h]
    rw [if_pos hn, if_neg h, if_pos (by decide)]

theorem exportSnapAct_command : SlotCommand s i (fun _ _ => if cfgTrain s then 0 else Code.optionAbsent)
    (fun d P => atBoundary s { i with part := d } d P applyExportSnap) (exportSnapAct s i) := by
  rw [exportSnapAct_eq]
  exact withSlot_command (code := fun _ _ => if cfgTrain s then 0 else Code.optionAbsent) (go := fun d P => atBoundary s { i with part := d } d P applyExportSnap)

end

end Sys2Proof.Machine
end

section
/-! PROOF. The events of an update: weight-gradient phases, and the two passes (R200, R206, R207, R211, R215, R217). -/

namespace Sys2Proof.Machine

section
variable {s : State} {p : Nat}

theorem exec_weightGradientPhase (hh : held s = false) (x : Nat) : exec (.weightGradientPhase p x) s = .next (phaseRun s p x) :=
  congrArg Host.Outcome.next (if_neg (by simp [hh]))

theorem exec_updatePass1 (hh : held s = false) (g : Nat) : exec (.updatePass1 p g) s = .next (pass1 s p g) :=
  congrArg Host.Outcome.next (if_neg (by simp [hh]))

theorem exec_updateItem (hh : held s = false) : exec (.updateItem p) s = .next (updateItem s p) :=
  congrArg Host.Outcome.next (if_neg (by simp [hh]))

/-! ## Slots without a partition -/

section
variable (h : slotPart s p = none)
include h

theorem phaseRun_nobody (x : Nat) : phaseRun s p x = s := by
  unfold phaseRun
  rw [h]

theorem pass1_nobody (g : Nat) : pass1 s p g = s := by
  unfold pass1
  rw [h]

theorem updateItem_nobody : updateItem s p = s := by
  unfold updateItem
  rw [h]

end

variable {d : Nat} {P : Part} (hs : slotPart s p = some (d, P))
include hs

/-! ## Weight-gradient phases (R200) -/

theorem phaseRun_stopped (h : P.st ≠ .running) (x : Nat) : phaseRun s p x = s := by
  unfold phaseRun
  rw [hs]
  exact if_pos (bne_iff_ne.mpr h)

/-- The first target of a slot whose last window has merged, as a view of the partition has it. -/
def phasePick (x : Nat) (V : Part) : Option (Nat × Nat) := V.train.phases.find? (fun y => y.2 == 0 && y.1 % 16 == x)

section
variable (hr : P.st = .running) (x : Nat)
include hr

theorem phaseRun_running : phaseRun s p x = match (lateView P).bind (fun V => (phasePick x V).map (fun y => (V, y))) with
    | some (V, y) => phaseOne s d V y true
    | none => match phasePick x P with
      | some y => phaseOne s d P y false
      | none => s := by
  unfold phaseRun
  rw [hs]
  exact if_neg (by simp [hr])

theorem phaseRun_late {V : Part} {y : Nat × Nat} (h1 : lateView P = some V) (h2 : phasePick x V = some y) : phaseRun s p x = phaseOne s d V y true := by
  rw [phaseRun_running hs hr, h1, Option.bind_some, h2, Option.map_some]

/-- With no phase left of a step that has ended, those of the step in progress run. -/
theorem phaseRun_step (h : ∀ V, lateView P = some V → phasePick x V = none) : phaseRun s p x = match phasePick x P with
    | some y => phaseOne s d P y false
    | none => s := by
  have hn : (lateView P).bind (fun V => (phasePick x V).map (fun y => (V, y))) = none :=
    Option.bind_eq_none_iff.mpr fun V hV => by rw [h V hV, Option.map_none]
  rw [phaseRun_running hs hr, hn]

end

/-! ## Pass 1 (R206, R207) -/

/-- The complete list with an undecided group. -/
def groupWaits (P : Part) (g : Nat) : Option TList :=
  P.train.lists.find? (fun l => l.complete && !l.sweep && l.items.any (fun it => it.group == g) && !l.groups.any (fun r => r.group == g))

theorem pass1_none {g : Nat} (h : groupWaits P g = none) : pass1 s p g = s := by
  unfold groupWaits at h
  unfold pass1
  rw [hs]
  dsimp only
  rw [h]

section
variable {g : Nat} {l : TList} (h : groupWaits P g = some l)
include h

/-- The Pen has yet to take a gradient of the group. -/
def groupUnpenned (s : State) (d : Nat) (P : Part) (l : TList) (g : Nat) : Bool :=
  (l.items.filter (fun it => it.group == g)).any (fun it => wantsPen s P d l.step it && !it.pen)

theorem pass1_group : pass1 s p g = if groupUnpenned s d P l g then s
    else listSeal (if (groupDecide s d P.train l g).act = 2 then
        post (bumpD (groupPut s d P l g (groupDecide s d P.train l g)) Cnt.trainSkip d 1) Ev.trainSkip (some d) 0 g (groupDecide s d P.train l g).norm
      else if (groupDecide s d P.train l g).act = 1 then bumpD (groupPut s d P l g (groupDecide s d P.train l g)) Cnt.trainClip d 1
      else groupPut s d P l g (groupDecide s d P.train l g)) d l.step := by
  unfold groupWaits at h
  unfold pass1
  rw [hs]
  dsimp only
  rw [h] <;> rfl

theorem pass1_waits (hw : groupUnpenned s d P l g = true) : pass1 s p g = s := by
  rw [pass1_group hs h, if_pos hw]

variable (hw : groupUnpenned s d P l g = false)
include hw

theorem pass1_skips (ha : (groupDecide s d P.train l g).act = 2) : pass1 s p g = listSeal
    (post (bumpD (groupPut s d P l g (groupDecide s d P.train l g)) Cnt.trainSkip d 1) Ev.trainSkip (some d) 0 g (groupDecide s d P.train l g).norm) d l.step := by
  rw [pass1_group hs h, if_neg (by rw [hw]; decide), if_pos ha]

theorem pass1_clips (ha : (groupDecide s d P.train l g).act = 1) : pass1 s p g =
    listSeal (bumpD (groupPut s d P l g (groupDecide s d P.train l g)) Cnt.trainClip d 1) d l.step := by
  rw [pass1_group hs h, if_neg (by rw [hw]; decide), if_neg (by rw [ha]; decide), if_pos ha]

theorem pass1_decides (ha : (groupDecide s d P.train l g).act = 0) : pass1 s p g =
    listSeal (groupPut s d P l g (groupDecide s d P.train l g)) d l.step := by
  rw [pass1_group hs h, if_neg (by rw [hw]; decide), if_neg (by rw [ha]; decide), if_neg (by rw [ha]; decide)]

end

/-! ## Pass 2 (R211, R217, R219) -/

theorem updateItem_slot : updateItem s p = itemSettled P (updateOne s p) d := by
  unfold updateItem itemSettled
  rw [hs]
  dsimp only
  cases partOf (quiesceSettle (updateOne s p) d) d with
  | none => simp
  | some Q => rfl

theorem updateOne_idle (h : P.st ≠ .running ∨ passTurn s p = false) : updateOne s p = s := by
  unfold updateOne
  rw [hs]
  exact if_pos (by rcases h with h | h <;> simp [h])

section
variable (hr : P.st = .running) (ht : passTurn s p = true)
include hr ht

theorem updateOne_none (h : nextItem s d P = none) : updateOne s p = s := by
  unfold updateOne
  rw [hs]
  dsimp only
  rw [if_neg (by simp [hr, ht]), h]

variable {l : TList} {it : Item} {r : GroupRes} {a : Attach} (hn : nextItem s d P = some (l, it, r)) (ha : P.train.atts.find? it.att = some a)
include hn ha

omit hs hr ht hn ha in
/-- Only an item that its pass 2 has updated is counted. -/
theorem counted_item {lost skip failed : Bool} {q : Prop} [Decidable q] {A B C D : State} (f : State → State) :
    (if lost || skip || failed || decide q then (if lost then A else if skip then B else if failed then C else D)
      else f (if lost then A else if skip then B else if failed then C else D)) =
    if lost then A else if skip then B else if failed then C else if q then D else f D := by
  cases lost
  · cases skip
    · cases failed <;> simp
    · rfl
  · rfl

/-- Pass 2 of an item: the item's own effect, its counter, its Pen entry, and its place in the list. -/
theorem updateOne_item {lost skip failed : Bool} (h1 : lost = thawLost s P d it) (h2 : skip = sweepDone s d P a l it)
    (h3 : failed = (!lost && !skip && !it.trait && !tensorReadable s d P a l it)) {w u x v : State} {l' : TList}
    (hw : w = if it.trait then updateRow s d P a l it r else updateTensor s d P a l it r)
    (hu : u = if lost then itemLost s d l it else if skip then s else if failed then tensorDropped (bumpArr s Cnt.tierFail d 4 0 1) d P a l it
      else if r.act = 2 then w else bumpD w (if l.sweep then Cnt.sweepItems else Cnt.trainItems) d 1)
    (hx : x = penLeave u P d l it lost)
    (hl : l' = { l with
      items := l.items.map (fun x => if x == it then { it with done := !(lost || failed), dropped := lost || failed } else x)
      census := if lost || skip then l.census else l.census.set 0 sweptKey (l.census.getD sweptKey 0 + 1) })
    (hv : v = updTrain { x with rel := { x.rel with trained := p } } d (fun T => setList T l')) :
    updateOne s p = if listOver l' then listOverEnd v d l' else v := by
  subst hl
  unfold updateOne
  rw [hs]
  dsimp only
  rw [if_neg (by simp [hr, ht]), hn]
  dsimp only
  rw [ha]
  dsimp only
  rw [← h1, ← h2, ← h3, counted_item (f := fun z => bumpD z (if l.sweep then Cnt.sweepItems else Cnt.trainItems) d 1), ← hw, ← hu, ← hx, hv]

end
end

/-- Settles O52: the commands, the phases, the two passes. -/
theorem training_holds : Obligations.Training := by
  unfold Obligations.Training
  refine ⟨fun s i => ⟨fun h => ⟨_, exec_trainAttach h, trainAttachAct_command.1, ?_⟩, fun h => ⟨_, exec_trainDetach h, trainDetachAct_nobody, ?_⟩,
      fun h => ⟨_, exec_trainSweep h, trainSweepAct_nobody, fun d P hs => ⟨trainSweepAct_absent hs, trainSweepAct_again hs, trainSweepAct_bad hs, ?_⟩⟩,
      fun h => ⟨_, exec_trainDiscard h, trainDiscardAct_nobody, fun d P hs => ⟨trainDiscardAct_absent hs, ?_⟩⟩,
      fun h => ⟨_, exec_exportSnap h, exportSnapAct_command⟩⟩,
    fun s p hh => ⟨fun h => ⟨fun x => ?_, fun g => ?_, ?_⟩, fun d P hs => ⟨fun h x => ?_, fun h => ?_, ?_, ?_, fun hr ht => ⟨fun h => ?_, ?_⟩⟩⟩⟩
  · rintro d P hs _ _ _ _ rfl rfl rfl rfl
    refine ⟨(trainAttachAct_command.2 d P hs).1, ?_⟩
    rintro hc _ rfl
    rw [(trainAttachAct_command.2 d P hs).2 hc]
    exact ⟨attachGo_now, fun hb => if_neg hb, fun hi hp => ⟨_, attachTake_stage hi hp, rfl, attached_find P _ _⟩⟩
  · rintro d P hs n hn
    refine ⟨trainDetachAct_absent hs hn, fun a ha => ⟨trainDetachAct_busy hs hn ha, ?_⟩⟩
    rintro h _ rfl
    exact trainDetachAct_waits hs hn ha h
  · rintro ht h h1 ls (hls : ls = sweepLists P)
    subst hls
    refine ⟨fun he => ?_, fun he => ?_⟩
    · rw [trainSweepAct_own hs ht h h1, if_pos (List.isEmpty_iff.mpr he)]
      exact finish_ends _ _ _ _ _ _
    · exact (trainSweepAct_own hs ht h h1).trans (if_neg (fun e => he (List.isEmpty_iff.mp e)))
  · rintro ht _ rfl
    exact ⟨_, trainDiscardAct_ends hs ht, rfl, fun Q hQ => trainCleared_part hQ⟩
  · rw [exec_weightGradientPhase hh, phaseRun_nobody h]
  · rw [exec_updatePass1 hh, pass1_nobody h]
  · rw [exec_updateItem hh, updateItem_nobody h]
  · rw [exec_weightGradientPhase hh, phaseRun_stopped hs h]
  · rw [exec_updateItem hh, updateItem_slot hs, updateOne_idle hs h]
  · rintro hr x _ rfl
    refine ⟨fun V y h1 h2 => ?_, fun h => ⟨fun y h2 => ?_, fun h2 => ?_⟩⟩
    · rw [exec_weightGradientPhase hh, phaseRun_late hs hr x h1 h2]
    · rw [exec_weightGradientPhase hh, phaseRun_step hs hr x h, show phasePick x P = some y from h2]
    · rw [exec_weightGradientPhase hh, phaseRun_step hs hr x h, show phasePick x P = none from h2]
  · rintro g _ rfl
    refine ⟨fun h => ?_, ?_⟩
    · rw [exec_updatePass1 hh, pass1_none hs h]
    · rintro l h _ rfl
      refine ⟨fun hw => ?_, ?_⟩
      · rw [exec_updatePass1 hh, pass1_waits hs h hw]
      · rintro hw _ _ rfl rfl
        refine ⟨fun ha => ?_, fun ha => ?_, fun ha => ?_⟩
        · rw [exec_updatePass1 hh, pass1_skips hs h hw ha] <;> rfl
        · rw [exec_updatePass1 hh, pass1_clips hs h hw ha] <;> rfl
        · rw [exec_updatePass1 hh, pass1_decides hs h hw ha] <;> rfl
  · rw [exec_updateItem hh, updateItem_slot hs, updateOne_none hs hr ht h]
  · intro l it r a hn ha lost skip failed h1 h2 h3 w u x v l' hw hu hx hl hv
    rw [exec_updateItem hh, updateItem_slot hs, updateOne_item hs hr ht hn ha h1 h2 h3 hw hu hx hl hv]

end Sys2Proof.Machine
end

section
/-! PROOF. The Request Ring and MAN_SUBMIT (R224 to R229, R232). -/

namespace Sys2Proof.Machine

/-! ## The Request Ring (R226, R227) -/

section
variable {s : State} {p : Nat}

/-- The row of OP 1 reads the reserved values of OP too. -/
def newReqRow (op : Nat) : Bool := op = 1 || op = 0 || decide (5 ≤ op)

section
variable (hh : held s = false)
include hh

theorem exec_newReq : exec (.newReq p) s = .next (ringRead s p newReqRow) := congrArg Host.Outcome.next (if_neg (by simp [hh]))

theorem exec_append : exec (.append p) s = .next (ringRead s p (· = 2)) := congrArg Host.Outcome.next (if_neg (by simp [hh]))

theorem exec_pause : exec (.pause p) s = .next (ringRead s p (· = 3)) := congrArg Host.Outcome.next (if_neg (by simp [hh]))

theorem exec_cancel : exec (.cancel p) s = .next (ringRead s p (· = 4)) := congrArg Host.Outcome.next (if_neg (by simp [hh]))

end

theorem ringRead_none (h : ringNext s p = none) (mine : Nat → Bool) : ringRead s p mine = s := by
  unfold ringRead
  rw [h]

/-- The entry that is read next is that of the RUNNING partition of the slot, at its TAIL. -/
theorem ringNext_is {d idx : Nat} {P : Part} {w : List W64} (h : ringNext s p = some (d, P, idx, w)) :
    P.st = .running ∧ P.rqTail = idx ∧ slotPart s p = some (d, P) := by
  unfold ringNext at h
  cases hs : slotPart s p with
  | none => rw [hs] at h; cases h
  | some x =>
    obtain ⟨e, Q⟩ := x
    rw [hs] at h
    dsimp only at h
    split at h
    · cases h
    · next hc =>
      cases h
      simp only [Bool.or_eq_true, not_or, bne_iff_ne, ne_eq, not_not] at hc
      exact ⟨hc.1.1.1, rfl, rfl⟩

/-- TAIL moves on past an entry. -/
def tailNext (s : State) (p d idx : Nat) : State :=
  updPart s d (fun P => { P with rqTail := (idx + 1) % max (lastVal s 6 0x21 p).toNat 1 })

section
variable {d idx : Nat} {P : Part} {w : List W64} (h : ringNext s p = some (d, P, idx, w))
include h

theorem ringRead_refused (hc : reqCheck s p d P w ≠ 0) : ringRead s p (fun _ => true) = reqRefuse (tailNext s p d idx) d (reqCheck s p d P w) idx w :=
  (ringRead_is h _).trans ((if_neg (by decide)).trans (if_pos hc))

section
variable (hc : reqCheck s p d P w = 0) (ho : reqOp w ≠ 1)
include hc ho

theorem ringRead_existing : ringRead s p (fun _ => true) = reqWait (tailNext s p d idx) d P idx w :=
  (ringRead_is h _).trans ((if_neg (by decide)).trans ((if_neg (not_not.mpr hc)).trans (request_other ho)))

theorem ringRead_at_once (hi : P.inStep = false) : ringRead s p (fun _ => true) =
    ctxIdle (ctxTimers (applyRequest (tailNext s p d idx) d (reqOp w) (reqCtx w) w) d (reqCtx w) (nowNs (tailNext s p d idx))) d :=
  (ringRead_existing h hc ho).trans (if_neg (by rw [hi]; decide))

theorem ringRead_waits (hi : P.inStep = true) : ringRead s p (fun _ => true) =
    updPart { tailNext s p d idx with order := s.order + 1 } d (fun P => { P with
      rqWait := P.rqWait ++ [{ order := s.order, idx := idx, op := reqOp w, ctx := reqCtx w, words := w, wait := boundaries P }] }) :=
  (ringRead_existing h hc ho).trans (if_pos hi)

end

/-- A new request is taken: the entry is read, and TAIL has moved on. -/
theorem ringRead_new (hc : reqCheck s p d P w = 0) (ho : reqOp w = 1) {c : Nat} (hf : freeCtxNo (tailNext s p d idx) d = some c) :
    ∃ v x, (P.inStep = false → ringRead s p (fun _ => true) = ctxIdle v d) ∧
      (P.inStep = true → ringRead s p (fun _ => true) = updPart { v with order := v.order + 1 } d (fun P => { P with
        rqWait := P.rqWait ++ [{ order := v.order, idx := idx, op := reqOp w, ctx := c, words := w, wait := boundaries P }] })) ∧
      ctxOf v c = some x ∧ (∀ k, k ≠ c → ctxOf v k = ctxOf s k) ∧ x.st = .ready ∧ x.part = d ∧ x.pos = 0 ∧ x.pend = attWord w 3 63 40 ∧
      x.cls = attWord w 0 45 43 ∧ x.rtag = w.getD 1 0 ∧ x.deadline = w.getD 2 0 ∧ x.nbag = attWord w 3 39 31 ∧ x.bind = reqBind w ∧ x.arrseq = P.arrseq := by
  obtain ⟨v, x, h1, h2, h3⟩ := request_new (s := s) (s1 := tailNext s p d idx) (d := d) (idx := idx) (P := P) (w := w) rfl c hf ho
  have hr := (ringRead_is h (fun _ => true)).trans ((if_neg (by decide)).trans (if_neg (not_not.mpr hc)))
  exact ⟨v, x, fun hi => hr.trans (h1 hi), fun hi => hr.trans (h2 hi), h3⟩

omit h in
/-- An entry with a reserved OP is refused. -/
theorem reqCheck_reserved (ho : 0 = reqOp w ∨ 5 ≤ reqOp w) : reqCheck s p d P w = Code.imageBad := by
  have hw : reqWhole w = false := by
    unfold reqWhole
    rcases ho with ho | ho
    · simp [← ho]
    · simp [show ¬ reqOp w ≤ 4 by omega]
  unfold reqCheck
  exact if_pos (by rw [hw]; rfl)

/-- The rows of the Request Ring, by OP. -/
def ringRows (p : Nat) : List (Nat × Instr) := [(1, .newReq p), (2, .append p), (3, .pause p), (4, .cancel p)]

variable (hh : held s = false) {x : Nat × Instr} (hx : x ∈ ringRows p)
include hh hx

omit h in
/-- A row of the ring reads the entries whose OP is its own. -/
theorem exec_ringRow : ∃ mine : Nat → Bool, exec x.2 s = .next (ringRead s p mine) ∧
    ∀ op, (mine op = true ↔ x.1 = op ∨ (x.1 = 1 ∧ (op = 0 ∨ 5 ≤ op))) := by
  simp only [ringRows, List.mem_cons, List.not_mem_nil, or_false] at hx
  rcases hx with rfl | rfl | rfl | rfl
  · exact ⟨newReqRow, exec_newReq hh, fun op => by dsimp only; simp only [newReqRow, Bool.or_eq_true, decide_eq_true_eq, true_and]; omega⟩
  · exact ⟨(· = 2), exec_append hh, fun op => by dsimp only; simp only [decide_eq_true_eq]; omega⟩
  · exact ⟨(· = 3), exec_pause hh, fun op => by dsimp only; simp only [decide_eq_true_eq]; omega⟩
  · exact ⟨(· = 4), exec_cancel hh, fun op => by dsimp only; simp only [decide_eq_true_eq]; omega⟩

theorem exec_ringRow_other (hn : x.1 ≠ reqOp w) (h1 : 1 ≤ reqOp w) (h4 : reqOp w ≤ 4) : exec x.2 s = .next s := by
  obtain ⟨mine, he, hm⟩ := exec_ringRow hh hx
  have hf : mine (reqOp w) = false := by
    rw [Bool.eq_false_iff, ne_eq, hm]
    omega
  rw [he, ringRead_other h mine hf]

theorem exec_ringRow_own (ho : x.1 = reqOp w ∨ (x.1 = 1 ∧ (reqOp w = 0 ∨ 5 ≤ reqOp w))) : exec x.2 s = .next (ringRead s p (fun _ => true)) := by
  obtain ⟨mine, he, hm⟩ := exec_ringRow hh hx
  rw [he, ringRead_mine h mine ((hm _).mpr ho)]

end

theorem exec_ringRow_empty (h : ringNext s p = none) (hh : held s = false) : ∀ x ∈ [Instr.newReq p, .append p, .pause p, .cancel p], exec x s = .next s := by
  have hr : ∀ y ∈ ringRows p, exec y.2 s = .next s := fun y hy => by
    obtain ⟨mine, he, -⟩ := exec_ringRow hh hy
    rw [he, ringRead_none h]
  exact fun x hx => by
    obtain ⟨y, hy, rfl⟩ := List.mem_map.mp (show x ∈ (ringRows p).map (·.2) from hx)
    exact hr y hy

end

/-! ## MAN_SUBMIT (R229, R232) -/

section
variable {s : State} {i : Inst}

theorem exec_manSubmit (h : Due s 6 0x51 i) : exec .manSubmit s = .next (manSubmitAct s i) := congrArg Host.Outcome.next (cmdRow_due h manSubmitAct)

theorem manSubmitAct_nobody (h : slotPart s i.slotArg = none) : Ends s i none Code.partState 0 0 (manSubmitAct s i) := by
  unfold manSubmitAct withSlot
  rw [h]
  exact refuse_ends _ _ _ _

variable {d : Nat} {P : Part} {step : Nat} (hs : slotPart s i.slotArg = some (d, P)) (hn : step = i.arg 1 % 2 ^ 40)
include hs

theorem manSubmitAct_stopped (h : P.st ≠ .running ∨ P.modes.serveHost = false) : Ends s i (some d) Code.partState 0 0 (manSubmitAct s i) := by
  unfold manSubmitAct withSlot
  rw [hs]
  dsimp only
  rw [if_pos (by rcases h with h | h <;> simp [h])]
  exact refuse_ends _ _ _ _

variable (hr : P.st = .running) (hm : P.modes.serveHost = true)
include hn hr hm

theorem manSubmitAct_early (h : step ≠ buildStep P ∨ P.hostNext.isSome) : Ends s i (some d) Code.manBad 0 0 (manSubmitAct s i) := by
  subst hn
  unfold manSubmitAct withSlot
  rw [hs]
  dsimp only
  rw [if_neg (by simp [hr, hm]), if_pos (by
    rw [Bool.or_eq_true, decide_eq_true_eq]
    exact h)]
  exact refuse_ends _ _ _ _

variable (h1 : step = buildStep P) (h2 : P.hostNext = none)
include h1 h2

/-- A manifest is kept for its step. -/
def hostKept (s : State) (d : Nat) (m : Man) : State := updPart s d (fun P => { P with hostNext := some m })

theorem manSubmitAct_unread (h : manRead s d (valP s 6 0x50 i.slotArg d) (manHalf step) step = none) :
    Ends s i (some d) Code.manBad 0 0 (manSubmitAct s i) := by
  subst hn
  unfold manSubmitAct withSlot
  rw [hs]
  dsimp only
  rw [if_neg (by simp [hr, hm]), if_neg (by rw [h1, h2]; simp), h]
  exact refuse_ends _ _ _ _

variable {m0 m : Man} {code : Nat} (h : manRead s d (valP s 6 0x50 i.slotArg d) (manHalf step) step = some m0) (hc : manCheck s i.slotArg d P m0 = (code, m))
include h hc

/-- Step and place are right: the manifest is checked. -/
theorem manSubmitAct_checked : manSubmitAct s i = if code ≠ 0 then refuse s i (some d) code
    else if !P.inStep || P.frozen then idleTry (manPrep (finish (hostKept s d m) i (some d) Code.ok 0 0) i.slotArg d m) d
    else finish (hostKept s d m) i (some d) Code.ok 0 0 := by
  subst hn
  unfold manSubmitAct withSlot
  rw [hs]
  dsimp only
  rw [if_neg (by simp [hr, hm]), if_neg (by rw [h1, h2]; simp), h]
  dsimp only
  rw [hc] <;> rfl

theorem manSubmitAct_refused (h0 : code ≠ 0) : Ends s i (some d) code 0 0 (manSubmitAct s i) := by
  rw [manSubmitAct_checked hs hn hr hm h1 h2 h hc, if_pos h0]
  exact refuse_ends _ _ _ _

variable (h0 : code = 0)
include h0

theorem manSubmitAct_kept (hi : P.inStep = true) (hf : P.frozen = false) :
    manSubmitAct s i = finish (hostKept s d m) i (some d) Code.ok 0 0 := by
  rw [manSubmitAct_checked hs hn hr hm h1 h2 h hc, if_neg (not_not.mpr h0), if_neg (by rw [hi, hf]; decide)]

theorem manSubmitAct_prepared (hi : P.inStep = false ∨ P.frozen = true) : manSubmitAct s i =
    idleTry (manPrep (finish (hostKept s d m) i (some d) Code.ok 0 0) i.slotArg d m) d := by
  rw [manSubmitAct_checked hs hn hr hm h1 h2 h hc, if_neg (not_not.mpr h0), if_pos (by rcases hi with hi | hi <;> simp [hi])]

end

/-- Settles O53: the rows of the Request Ring, and MAN_SUBMIT. -/
theorem contextRequests : Obligations.ContextRequests := by
  unfold Obligations.ContextRequests
  refine ⟨fun s p hh => ⟨fun h => exec_ringRow_empty h hh, fun d P idx w h => ⟨ringNext_is h, ?_⟩⟩,
    fun s i h => ⟨_, exec_manSubmit h, manSubmitAct_nobody, fun d P step hs hn => ⟨manSubmitAct_stopped hs, fun hr hm => ⟨manSubmitAct_early hs hn hr hm,
      fun h1 h2 => ⟨manSubmitAct_unread hs hn hr hm h1 h2, fun m0 code m hread hc => ⟨manSubmitAct_refused hs hn hr hm h1 h2 hread hc,
        fun h0 => ⟨_, finish_ends _ _ _ _ _ _, manSubmitAct_kept hs hn hr hm h1 h2 hread hc h0, manSubmitAct_prepared hs hn hr hm h1 h2 hread hc h0⟩⟩⟩⟩⟩⟩⟩
  rintro _ rfl
  refine ⟨fun x hx => ⟨exec_ringRow_other h hh hx, fun ho => ⟨_, exec_ringRow_own h hh hx ho, ?_⟩⟩, reqCheck_reserved⟩
  rintro _ _ rfl rfl
  exact ⟨ringRead_refused h, ringRead_at_once h, ringRead_waits h, fun hc h1 c => ringRead_new h hc h1⟩

end Sys2Proof.Machine
end

section
/-! PROOF. Embers and the ends of page and adoption copies (R242, R243, R245), and the Page Port (R241, R245, R246). -/

namespace Sys2Proof.Machine

/-! ## Embers (R242, R243) -/

section
variable {s : State} {d c : Nat} {x : Ctx} {P : Part} (hh : held s = false) (hx : ctxOf s c = some x) (hd : x.part = d) (hp : partOf s d = some P)
include hh hx hd hp

omit hd in
theorem exec_emberAfter_idle (h : x.st ≠ .paused ∨ P.st ≠ .running ∨ P.modes.ember = false ∨ emberTime s d x (nowNs s) = false) :
    exec (.emberAfter d c) s = .next s := by
  show execEmberAfter d c s = _
  unfold execEmberAfter
  rw [if_neg (by simp [hh]), hx, hp]
  exact congrArg Host.Outcome.next (if_pos (by rcases h with h | h | h | h <;> simp [h]))

theorem exec_emberAfter (h1 : x.st = .paused) (h2 : P.st = .running) (h3 : P.modes.ember = true) (h4 : emberTime s d x (nowNs s) = true) :
    exec (.emberAfter d c) s = .next (if P.inStep then updCtx s c (fun x => { x with emberDue := true })
      else ctxIdle (ctxTimers (updCtx s c (fun x => { x with emberDue := true })) d c (nowNs s)) d) := by
  show execEmberAfter d c s = _
  unfold execEmberAfter
  rw [if_neg (by simp [hh]), hx, hp]
  exact congrArg Host.Outcome.next (if_neg (by simp [hd, h1, h2, h3, h4]))

omit hd in
theorem exec_emberExpiry_idle (h : P.st ≠ .running ∨ P.inStep = true) : exec (.emberExpiry d c) s = .next s := by
  show execEmberExpiry d c s = _
  unfold execEmberExpiry
  rw [if_neg (by simp [hh]), hx, hp]
  exact congrArg Host.Outcome.next (if_pos (by rcases h with h | h <;> simp [h]))

theorem exec_emberExpiry (h1 : P.st = .running) (h2 : P.inStep = false) : exec (.emberExpiry d c) s = .next (ctxIdle (ctxTimers s d c (nowNs s)) d) := by
  show execEmberExpiry d c s = _
  unfold execEmberExpiry
  rw [if_neg (by simp [hh]), hx, hp]
  exact congrArg Host.Outcome.next (if_neg (by simp [hd, h1, h2]))

end

/-! ## The ends of copies (R243, R245) -/

section
variable {s : State} {c : Nat} {x : Ctx} (hx : ctxOf s c = some x)
include hx

theorem ctxAway_resident : ctxAway s c = some x := by
  unfold ctxAway
  rw [hx]
  rfl

theorem exec_emberPageCopyEnd (hh : held s = false) (page : Nat) : exec (.emberPageCopyEnd c page) s = .next (pageCopied s x.part c page x) := by
  show execEmberPageCopyEnd c page s = _
  unfold execEmberPageCopyEnd
  rw [if_neg (by simp [hh]), ctxAway_resident hx]

theorem exec_adoptionCopyEnd (hh : held s = false) (pos : Nat) : exec (.adoptionCopyEnd c pos) s = .next (adopted s x.part c pos x) := by
  show execAdoptionCopyEnd c pos s = _
  unfold execAdoptionCopyEnd
  rw [if_neg (by simp [hh]), ctxAway_resident hx]

end

section
variable {s : State} {d c : Nat} {x : Ctx}

theorem pageCopied_none {page : Nat} (h : x.copies.find? (fun q => q.page == page && !q.copied) = none) : pageCopied s d c page x = s := by
  unfold pageCopied
  rw [h]

theorem adopted_none {pos : Nat} (h : x.adopts.find? (fun a => a.pos == pos && !a.copied) = none) : adopted s d c pos x = s := by
  unfold adopted
  rw [h]

/-- The bytes of a page where it lies. -/
def pageData (s : State) (d w : Nat) : List Byte := bytesAt s.mem (memKey (fld w 62 61) (64 * fld w 45 0)) (pageBytes s d)

/-- The bytes of a page stand in its new frame. -/
def pageLanded (s : State) (d c page : Nat) (x : Ctx) (q : PageCopy) : State :=
  updAway { s with mem := storeBytes s.mem (memKey q.tier (framePlace s d q.tier q.frame).2) (pageData s d (pageWord s x page)) } d c
    (fun x => { x with copies := x.copies.map (fun v => if v.page = page then { v with copied := true } else v) })

/-- The bytes of an adopted slot stand in its page. -/
def slotLanded (s : State) (d c pos : Nat) (x : Ctx) (a : Adopt) : State :=
  updAway { s with mem := storeBytes s.mem (slotKey s d pos x) (bytesAt s.mem (memKey 0 (framePlace s d 2 a.pslot).2) (kvSlotBytes s d)) } d c
    (fun x => { x with adopts := x.adopts.map (fun v => if v.pos = pos then { v with copied := true } else v) })

variable {P : Part} (hx : ctxOf s c = some x) (hp : partOf s d = some P)
include hx hp

/-- A copy that lands leaves the partition. -/
theorem partOf_landed (m : Tab Byte) (f : Ctx → Ctx) : partOf (updAway { s with mem := m } d c f) d = some P :=
  (updAway_part (s := { s with mem := m }) hx d f d).trans hp

theorem pageCopied_some {page : Nat} {q : PageCopy} (h : x.copies.find? (fun q => q.page == page && !q.copied) = some q) : pageCopied s d c page x =
    if P.st = .running && !P.inStep then ctxIdle (ctxTimers (pageLanded s d c page x q) d c (nowNs s)) d else pageLanded s d c page x q := by
  unfold pageLanded pageData
  unfold pageCopied
  rw [h]
  dsimp only
  rw [partOf_landed hx hp]

theorem adopted_some {pos : Nat} {a : Adopt} (h : x.adopts.find? (fun a => a.pos == pos && !a.copied) = some a) : adopted s d c pos x =
    if P.st = .running && !P.inStep then ctxIdle (ctxTimers (adoptsFree (slotLanded s d c pos x a) d c) d c (nowNs s)) d else slotLanded s d c pos x a := by
  unfold slotLanded
  unfold adopted
  rw [h]
  dsimp only
  rw [partOf_landed hx hp]

end

/-- Whether the partition of a context is between steps. -/
theorem between_steps {P : Part} : (decide (P.st = .running) && !P.inStep) = true ↔ P.st = .running ∧ P.inStep = false := by simp

/-- Settles O54: Embers, their expiry, and the ends of the two copies. -/
theorem contextEvents : Obligations.ContextEvents := by
  unfold Obligations.ContextEvents
  refine fun s d c x P hh hx hd hp => ⟨exec_emberAfter_idle hh hx hp, fun h1 h2 h3 h4 => ?_, exec_emberExpiry_idle hh hx hp, exec_emberExpiry hh hx hd hp,
    fun page => ⟨fun h => ?_, ?_⟩, fun pos => ⟨fun h => ?_, ?_⟩⟩
  · rintro _ rfl
    rw [exec_emberAfter hh hx hd hp h1 h2 h3 h4]
    exact ⟨fun hi => by rw [if_pos hi], fun hi => by rw [if_neg (by rw [hi]; decide)]⟩
  · rw [exec_emberPageCopyEnd hx hh, pageCopied_none h]
  · rintro q _ _ _ h rfl rfl rfl
    subst hd
    rw [exec_emberPageCopyEnd hx hh, pageCopied_some hx hp h]
    exact ⟨fun h1 h2 => congrArg Host.Outcome.next (if_pos (between_steps.mpr ⟨h1, h2⟩)),
      fun h1 => congrArg Host.Outcome.next (if_neg fun e => h1.elim (fun h1 => h1 (between_steps.mp e).1)
        fun h1 => Bool.false_ne_true ((between_steps.mp e).2.symm.trans h1))⟩
  · rw [exec_adoptionCopyEnd hx hh, adopted_none h]
  · rintro a _ h rfl
    subst hd
    rw [exec_adoptionCopyEnd hx hh, adopted_some hx hp h]
    exact ⟨fun h1 h2 => congrArg Host.Outcome.next (if_pos (between_steps.mpr ⟨h1, h2⟩)),
      fun h1 => congrArg Host.Outcome.next (if_neg fun e => h1.elim (fun h1 => h1 (between_steps.mp e).1)
        fun h1 => Bool.false_ne_true ((between_steps.mp e).2.symm.trans h1))⟩

/-! ## The Page Port (R241, R245, R246) -/

section
variable {s : State} {w : W64} {kind : Nat} {f : State → W64 → Nat}

theorem lookup_idle (h : ready s = false ∨ wfld w 63 61 ≠ kind) : lookup s kind w f = s :=
  if_pos (by rcases h with h | h <;> simp [h])

/-- The answer of the Page Port is a word. -/
def answered (s : State) (a : Nat) : State := { s with out := { s.out with pgp := w64 a } }

section
variable (hh : held s = false) (h1 : ready s = true) (h2 : wfld w 63 61 = kind)
include hh h1 h2

theorem lookup_answers : lookup s kind w f = if f s w = 0 then
    (match slotPart s (wfld w 60 58) with | some (d, _) => bumpD (answered s (f s w)) Cnt.pgpInvalid d 1 | none => answered s (f s w))
    else answered s (f s w) :=
  if_neg (by simp [hh, h1, h2])

theorem lookup_valid (h : f s w ≠ 0) : lookup s kind w f = answered s (f s w) := by
  rw [lookup_answers hh h1 h2, if_neg h]

theorem lookup_nobody (h : f s w = 0) (hs : slotPart s (wfld w 60 58) = none) : lookup s kind w f = answered s (f s w) := by
  rw [lookup_answers hh h1 h2, if_pos h, hs]

theorem lookup_invalid (h : f s w = 0) {d : Nat} {P : Part} (hs : slotPart s (wfld w 60 58) = some (d, P)) :
    lookup s kind w f = bumpD (answered s (f s w)) Cnt.pgpInvalid d 1 := by
  rw [lookup_answers hh h1 h2, if_pos h, hs]

end

/-- The four lookups of the Page Port, by KIND. -/
theorem exec_lookup {x : Nat × Instr × (State → W64 → Nat)}
    (hx : x ∈ [(0, Instr.slotLookup w, lookupSlot), (1, .nodeLookup w, lookupNode), (2, .pageLookup w, lookupPage), (3, .maskLookup w, lookupMask)]) :
    exec x.2.1 s = .next (lookup s x.1 w x.2.2) := by
  simp only [List.mem_cons, List.not_mem_nil, or_false] at hx
  rcases hx with rfl | rfl | rfl | rfl <;> rfl

section
variable (h : lookupCtx s w = none)
include h

theorem lookups_nobody : lookupSlot s w = 0 ∧ lookupNode s w = 0 ∧ lookupPage s w = 0 ∧ lookupMask s w = 0 := by
  unfold lookupSlot lookupNode lookupPage lookupMask
  rw [h]
  exact ⟨rfl, rfl, rfl, rfl⟩

end

section
variable {d c : Nat} {x : Ctx} (h : lookupCtx s w = some (d, c, x))
include h

theorem lookupSlot_adopted {a : Adopt} (ha : x.adopts.find? (fun a => a.pos == wfld w 43 0) = some a) : lookupSlot s w = provWord s d a.pslot := by
  unfold lookupSlot
  rw [h]
  dsimp only
  rw [ha]

theorem lookupNode_open {f : Nat} (hf : x.tree.find? (wfld w 43 0) = some f) : lookupNode s w = provWord s d f := by
  unfold lookupNode
  rw [h]
  dsimp only
  rw [hf]

theorem lookupNode_closed (hf : x.tree.find? (wfld w 43 0) = none) : lookupNode s w = 0 := by
  unfold lookupNode
  rw [h]
  dsimp only
  rw [hf]

theorem lookupMask_is : lookupMask s w = if (x.tree.find? (wfld w 43 0)).isSome then verifyMask (ctxTpl s d c) (wfld w 43 0) else 0 := by
  unfold lookupMask
  rw [h]

variable (ht : 0 < pageTokens s d)
include ht

omit h in
theorem pageTokens_max : Nat.max (pageTokens s d) 1 = pageTokens s d := Nat.max_eq_left ht

theorem lookupSlot_page (ha : x.adopts.find? (fun a => a.pos == wfld w 43 0) = none) {e : Nat} (he : e = pageWord s x (wfld w 43 0 / pageTokens s d)) :
    lookupSlot s w = if bitOf e 63 then lookupWord (fld e 62 61) (fld e 60 57) (64 * fld e 45 0 + wfld w 43 0 % pageTokens s d * kvSlotBytes s d) else 0 := by
  subst he
  unfold lookupSlot
  rw [h]
  dsimp only
  rw [ha, pageTokens_max ht]

theorem lookupPage_is {e : Nat} (he : e = pageWord s x (wfld w 43 0)) : lookupPage s w = if bitOf e 63 then
    (if x.adopts.any (fun a => a.pos / pageTokens s d == wfld w 43 0) then e ||| 2 ^ 56 else e) else 0 := by
  subst he
  unfold lookupPage
  rw [h]
  dsimp only
  rw [pageTokens_max ht]
  cases bitOf (pageWord s x (wfld w 43 0)) 63
  · rfl
  · rfl

end
end

/-- Settles O55: the four lookups and their answers. -/
theorem pageLookups : Obligations.PageLookups := by
  unfold Obligations.PageLookups
  refine fun s w hh => ⟨fun x hx => ⟨fun h => ?_, ?_⟩, lookups_nobody, ?_⟩
  · rw [exec_lookup hx, lookup_idle h]
  · rintro h1 h2 _ rfl
    rw [exec_lookup hx]
    exact ⟨fun h => congrArg Host.Outcome.next (lookup_valid hh h1 h2 h), fun h => ⟨fun hs => congrArg Host.Outcome.next (lookup_nobody hh h1 h2 h hs),
      fun d P hs => congrArg Host.Outcome.next (lookup_invalid hh h1 h2 h hs)⟩⟩
  · rintro d c x _ h rfl ht
    refine ⟨fun a => lookupSlot_adopted h, fun ha e => lookupSlot_page h ht ha, fun f hf => ⟨lookupNode_open h hf, ?_⟩, fun hf => ⟨lookupNode_closed h hf, ?_⟩,
      fun e => lookupPage_is h ht⟩
    · rw [lookupMask_is h, if_pos (by rw [hf]; rfl)]
    · rw [lookupMask_is h, if_neg (by rw [hf]; decide)]

end Sys2Proof.Machine
end

section
/-! PROOF. Stream records (R10, R87, R88, R263, R357) and epilogue requests (R93 to R95, R99, R100). -/

namespace Sys2Proof.Machine

/-! ## Stream records -/

/-- A kind of stream record: its command, its beats past those it has, the order it must keep, and what taking it does. -/
abbrev RecordRow := Nat × Instr × Nat × (Part → PosKey → Bool) × (State → Nat → Nat → Man → PosKey → State)

/-- The records of kinds 1, 2 and 3. -/
def recordRows (w0 w1 : W64) (payload : List (BitVec 2048)) : List RecordRow :=
  [(1, .panelRecord w0 w1 payload, payload.length - recRows w1, panelEarly, panelTake (recRows w1) payload),
   (2, .posRecord w0 w1, 0, posEarly, fun s _ d _ k => reached s d k),
   (3, .outcomeRecord w0 w1 payload, payload.length - outcomeBeats payload, fun _ _ => false, outcomeTake (payload.take (outcomeBeats payload)))]

section
variable {s : State} {w0 w1 : W64} {payload : List (BitVec 2048)} {x : RecordRow}

/-- A record of its own kind goes to its partition, and of another kind nowhere. -/
theorem exec_record (hh : held s = false) (hx : x ∈ recordRows w0 w1 payload) : ∃ beats due : Nat, beats - due = x.2.2.1 ∧
    exec x.2.1 s = .next (if recKind w1 ≠ x.1 then s else recordTake s w0 w1 beats due x.2.2.2.1 x.2.2.2.2) := by
  simp only [recordRows, List.mem_cons, List.not_mem_nil, or_false] at hx
  rcases hx with rfl | rfl | rfl
  · refine ⟨payload.length, recRows w1, rfl, ?_⟩
    show execPanelRecord w0 w1 payload s = _
    unfold execPanelRecord
    rw [hh]
    simp
  · refine ⟨0, 0, rfl, ?_⟩
    show execPosRecord w0 w1 s = _
    unfold execPosRecord
    rw [hh]
    simp
  · refine ⟨payload.length, outcomeBeats payload, rfl, ?_⟩
    show execOutcomeRecord w0 w1 payload s = _
    unfold execOutcomeRecord
    rw [hh]
    simp

end

/-- Settles O56: the cases of `recordTake`, for each of the three kinds. -/
theorem streamRecords : Obligations.StreamRecords := by
  unfold Obligations.StreamRecords
  intro s w0 w1 payload hh d k hd hk x hx
  obtain ⟨beats, due, hb, he⟩ := exec_record (w0 := w0) (w1 := w1) (payload := payload) hh hx
  obtain ⟨h1, h2⟩ := recordTake_cases s w0 w1 beats due x.2.2.2.1 x.2.2.2.2 d k hd hk
  rw [he, ← hb]
  refine ⟨fun hn => congrArg Host.Outcome.next (if_pos hn), fun hr => ?_⟩
  rw [if_neg (not_not.mpr hr)]
  refine ⟨fun hp => congrArg Host.Outcome.next (h1 hp), fun P hp => ?_⟩
  obtain ⟨h3, h4, h5⟩ := h2 P hp
  refine ⟨fun p hs hrun u hu => ?_, fun hq => congrArg Host.Outcome.next (h4 hq), fun hr1 hr2 => congrArg Host.Outcome.next (h5 hr1 hr2)⟩
  obtain ⟨h6, h7⟩ := h3 p hs hrun u hu
  exact ⟨fun hdrop => congrArg Host.Outcome.next (h6 hdrop), fun m hm hi hst hl => congrArg Host.Outcome.next (h7 m hm hi hst hl)⟩

/-! ## Epilogue requests -/

section
variable {s : State} {e : Nat}

theorem exec_epilogueRequest (hh : held s = false) : exec (.epilogueRequest e) s = .next (epilogueRequest s e) :=
  congrArg Host.Outcome.next (if_neg (by simp [hh]))

theorem epilogueRequest_nobody {p : Nat} (hp : p = fld e 25 23) (h : slotPart s p = none) : epilogueRequest s e = s := by
  subst hp
  unfold epilogueRequest
  dsimp only
  rw [h]

theorem epilogueRequest_stopped {p d : Nat} {P : Part} (hp : p = fld e 25 23) (hs : slotPart s p = some (d, P)) (hr : P.st ≠ .running) :
    epilogueRequest s e = s := by
  subst hp
  unfold epilogueRequest
  dsimp only
  rw [hs]
  exact if_pos (bne_iff_ne.mpr hr)

/-- The window that an epilogue request names. -/
def epiKey (P : Part) (e : Nat) : PosKey :=
  { step := P.step, bwd := fld e 22 22 == 1, layer := fld e 21 14, tslot := fld e 13 10, win := fld e 9 0, tick := 0 }

section
variable {p d : Nat} {P : Part} (hp : p = fld e 25 23) (hs : slotPart s p = some (d, P)) (hr : P.st = .running) {k : PosKey} (hk : k = epiKey P e)
include hp hs hr hk

theorem epilogueRequest_outside (h : P.inStep = false ∨ P.man = none ∨ passTgt P k = none) : epilogueRequest s e = answer s p k := by
  rw [epilogueRequest_is hp hs hr k hk]
  split
  · next h1 h2 h3 =>
    rw [h1, h2, h3] at h
    rcases h with h | h | h <;> cases h
  · rfl

theorem epilogueRequest_inside {m : Man} {t : Tgt} (h1 : P.inStep = true) (h2 : P.man = some m) (h3 : passTgt P k = some t) :
    epilogueRequest s e = if manWins m ≤ k.win then answer s p k else requestWin s p d P t k := by
  rw [epilogueRequest_is hp hs hr k hk, h1, h2, h3]

end
end

/-! ## A window that is asked for -/

section
variable {s : State} {p d : Nat} {P : Part} {t : Tgt} {k : PosKey}

section
variable (h : winOf P k = none)
include h

theorem requestWin_dropped {f : PosKey} (hf : P.stream.far = some f) (ho : k.ord < (winKey f).ord) : requestWin s p d P t k = answer s p k := by
  unfold requestWin
  rw [h]
  dsimp only
  rw [hf]
  exact if_pos (decide_eq_true ho)

theorem requestWin_ahead (hf : ∀ f, P.stream.far = some f → (winKey f).ord ≤ k.ord) :
    requestWin s p d P t k = request (missingPanel (ppSeq s d 1) p d k) p d k := by
  unfold requestWin
  rw [h]
  dsimp only
  cases hfar : P.stream.far with
  | none => exact if_neg Bool.false_ne_true
  | some f => exact if_neg fun e => absurd (of_decide_eq_true e) (Nat.not_lt.mpr (hf f hfar))

end

section
variable {w : Win} (h : winOf P k = some w)
include h

theorem requestWin_answered (h1 : w.answered = true) : requestWin s p d P t k = answer s p k := by
  unfold requestWin
  rw [h]
  exact if_pos h1

variable (h1 : w.answered = false)
include h1

theorem requestWin_again (h2 : w.requested = true) : requestWin s p d P t k = s := by
  unfold requestWin
  rw [h]
  exact (if_neg (by rw [h1]; decide)).trans (if_pos h2)

variable (h2 : w.requested = false)
include h2

theorem requestWin_dead (h3 : w.dead = some 4) : requestWin s p d P t k = request s p d k := by
  unfold requestWin
  rw [h]
  dsimp only
  rw [if_neg (by rw [h1]; decide), if_neg (by rw [h2]; decide), if_pos h3]

variable (h3 : w.dead ≠ some 4)
include h3

theorem requestWin_misses (h4 : w.seen < panelsOf t) : requestWin s p d P t k = request (missingPanel (ppSeq s d 1) p d k) p d k := by
  unfold requestWin
  rw [h]
  dsimp only
  rw [if_neg (by rw [h1]; decide), if_neg (by rw [h2]; decide), if_neg h3, if_pos h4]

variable (h4 : panelsOf t ≤ w.seen)
include h4

theorem requestWin_merged (h5 : w.stage = .merged) : requestWin s p d P t k = request s p d k := by
  unfold requestWin
  rw [h]
  dsimp only
  rw [if_neg (by rw [h1]; decide), if_neg (by rw [h2]; decide), if_neg h3, if_neg (Nat.not_lt.mpr h4), if_pos h5]

variable (h5 : w.stage ≠ .merged)
include h5

/-- The target of a window has spent its ceiling, and rows of the window miss data. -/
def pastCeiling (P : Part) (k : PosKey) (w : Win) : Bool :=
  P.stream.ceilTgt.contains (k.bwd, k.layer, k.tslot) && decide (k.win ≠ 0) && !w.miss.isEmpty

theorem requestWin_spent (h6 : pastCeiling P k w = true) : requestWin s p d P t k = request (bypassRest s d w) p d k := by
  unfold pastCeiling at h6
  unfold requestWin
  rw [h]
  dsimp only
  rw [if_neg (by rw [h1]; decide), if_neg (by rw [h2]; decide), if_neg h3, if_neg (Nat.not_lt.mpr h4), if_neg h5, if_pos h6]

/-- A window that is not merged in time is asked for, and starts an epilogue hold where it is still not merged. -/
theorem requestWin_holds (h6 : pastCeiling P k w = false) {u : State} (hu : u = winsSettle (setWin s d { w with requested := true }) p d) :
    requestWin s p d P t k = match (partOf u d).bind (fun P => winOf P k) with
      | some v => if v.stage = .merged then settlePart u p d else settlePart (holdStart u d .epilogue k 2) p d
      | none => settlePart u p d := by
  subst hu
  unfold pastCeiling at h6
  unfold requestWin
  rw [h]
  dsimp only
  rw [if_neg (by rw [h1]; decide), if_neg (by rw [h2]; decide), if_neg h3, if_neg (Nat.not_lt.mpr h4), if_neg h5]
  exact if_neg (by rw [h6]; decide)

end
end

/-- Settles O57: the request's window, and what is done for it. -/
theorem epilogueRequests : Obligations.EpilogueRequests := by
  unfold Obligations.EpilogueRequests
  intro s e p hh hp
  rw [exec_epilogueRequest hh]
  refine ⟨fun h => congrArg Host.Outcome.next (epilogueRequest_nobody hp h), fun d P hs =>
    ⟨fun h => congrArg Host.Outcome.next (epilogueRequest_stopped hp hs h), fun hr k hk =>
      ⟨fun h => congrArg Host.Outcome.next (epilogueRequest_outside hp hs hr hk h), fun m t hi hm ht => ?_⟩⟩⟩
  rw [epilogueRequest_inside hp hs hr hk hi hm ht]
  refine ⟨fun hw => congrArg Host.Outcome.next (if_pos hw), fun hw => ?_⟩
  rw [if_neg (Nat.not_le.mpr hw)]
  refine ⟨fun f h hf ho => congrArg Host.Outcome.next (requestWin_dropped h hf ho), fun h hf => congrArg Host.Outcome.next (requestWin_ahead h hf), fun w h =>
    ⟨fun h1 => congrArg Host.Outcome.next (requestWin_answered h h1), fun h1 h2 => congrArg Host.Outcome.next (requestWin_again h h1 h2),
      fun h1 h2 h3 => congrArg Host.Outcome.next (requestWin_dead h h1 h2 h3),
      fun h1 h2 h3 h4 => congrArg Host.Outcome.next (requestWin_misses h h1 h2 h3 h4),
      fun h1 h2 h3 h4 h5 => congrArg Host.Outcome.next (requestWin_merged h h1 h2 h3 h4 h5), ?_⟩⟩
  rintro _ rfl
  exact ⟨fun h1 h2 h3 h4 h5 h6 => congrArg Host.Outcome.next (requestWin_spent h h1 h2 h3 h4 h5 h6),
    fun h1 h2 h3 h4 h5 h6 u hu => congrArg Host.Outcome.next (requestWin_holds h h1 h2 h3 h4 h5 h6 hu)⟩

end Sys2Proof.Machine
end

section
/-! PROOF. Kindling, write-back, weight blocks, the host's data, Merge's writes and the hold ceiling (R99, R112 to R114, R117, R125, R359, R360). -/

namespace Sys2Proof.Machine

/-! ## Kindling and write-back (R112, R114, R125) -/

section
variable {s : State} {p : Nat} (hh : held s = false)
include hh

section
variable (h : slotPart s p = none)
include h

theorem exec_kindlingStart_nobody : exec (.kindlingStart p) s = .next s := by
  show execKindlingStart p s = _
  unfold execKindlingStart
  rw [if_neg (by simp [hh]), h]

theorem exec_dirtyWriteBack_nobody (x : Nat) : exec (.dirtyWriteBack p x) s = .next s := by
  show execDirtyWriteBack p x s = _
  unfold execDirtyWriteBack
  rw [if_neg (by simp [hh]), h]

end

variable {d : Nat} {P : Part} (hs : slotPart s p = some (d, P))
include hs

theorem exec_kindlingStart : exec (.kindlingStart p) s = .next (settlePart (kindleSettle (kindleNext (winsSettle s p d) p) d) p d) := by
  show execKindlingStart p s = _
  unfold execKindlingStart
  rw [if_neg (by simp [hh]), hs]

theorem exec_dirtyWriteBack (x : Nat) : exec (.dirtyWriteBack p x) s = .next (if P.st = .running then writeBack s d x else s) := by
  show execDirtyWriteBack p x s = _
  unfold execDirtyWriteBack
  rw [if_neg (by simp [hh]), hs]

end

section
variable {s : State} {d x : Nat} {P : Part} (hp : partOf s d = some P)
include hp

theorem writeBack_none (h : P.units.find? (fun u => u.place == x) = none) : writeBack s d x = s := by
  unfold writeBack
  rw [hp, Option.bind_some, h]

theorem writeBack_idle {u : LsUnit} (h : P.units.find? (fun u => u.place == x) = some u) (hu : u.wb = true ∨ u.dirty = [] ∨ u.done = false) :
    writeBack s d x = s := by
  unfold writeBack
  rw [hp, Option.bind_some, h]
  exact if_pos (by rcases hu with hu | hu | hu <;> simp [hu])

end

/-! ## Weight blocks -/

section
variable {s : State} {p : Nat}

theorem slotPart_tilesTake (s : State) (p : Nat) : slotPart (tilesTake s) p = slotPart s p := by
  unfold slotPart
  rw [tilesTake_parts]

theorem blockEnd_nobody (h : slotPart s p = none) (w u : Nat) (f : Bool) : blockEnd s p w u f = none := by
  unfold blockEnd
  dsimp only
  rw [slotPart_tilesTake, h]

theorem exec_weightBlockEnd_none (hh : held s = false) {w u : Nat} {f : Bool} (h : blockEnd s p w u f = none) : exec (.weightBlockEnd p w u f) s = .next s := by
  show execWeightBlockEnd p w u f s = _
  unfold execWeightBlockEnd
  rw [if_neg (by simp [hh]), h]

theorem exec_weightBlockEnd (hh : held s = false) {w u d : Nat} {f : Bool} {v : State} (h : blockEnd s p w u f = some (d, v)) :
    exec (.weightBlockEnd p w u f) s = .next (settlePart (urgentBlock (winsSettle v p d) d) p d) := by
  show execWeightBlockEnd p w u f s = _
  unfold execWeightBlockEnd
  rw [if_neg (by simp [hh]), h]

/-! ## The hold ceiling (R99, R117) -/

theorem exec_holdCeiling (hh : held s = false) : exec (.holdCeiling p) s = .next (ceilingHit s p) := congrArg Host.Outcome.next (if_neg (by simp [hh]))

theorem ceilingHit_nobody (h : slotPart s p = none) : ceilingHit s p = s := by
  unfold ceilingHit
  rw [h]

section
variable {d : Nat} {P : Part} (hs : slotPart s p = some (d, P))
include hs

theorem ceilingHit_none (h : P.holds.find? holdFull = none) : ceilingHit s p = s := by
  unfold ceilingHit
  rw [hs]
  dsimp only
  rw [h]

variable {h : Hold} (hf : P.holds.find? holdFull = some h)
include hf

theorem ceilingHit_hold : ceilingHit s p = settlePart (match h.kind, winOf P h.key with
    | .kindle, _ => kindleCeiling (holdSpent s d h) d { h with ceil := 0 }
    | .epilogue, some w => bypassRest (holdSpent s d h) d w
    | _, _ => holdSpent s d h) p d := by
  unfold ceilingHit
  rw [hs]
  dsimp only
  rw [hf] <;> rfl

theorem ceilingHit_kindle (hk : h.kind = .kindle) : ceilingHit s p = settlePart (kindleCeiling (holdSpent s d h) d { h with ceil := 0 }) p d := by
  rw [ceilingHit_hold hs hf, hk]

theorem ceilingHit_window (hk : h.kind = .epilogue) {w : Win} (hw : winOf P h.key = some w) :
    ceilingHit s p = settlePart (bypassRest (holdSpent s d h) d w) p d := by
  rw [ceilingHit_hold hs hf, hk, hw]

theorem ceilingHit_alone (hk : h.kind = .epilogue) (hw : winOf P h.key = none) : ceilingHit s p = settlePart (holdSpent s d h) p d := by
  rw [ceilingHit_hold hs hf, hk, hw]

end
end

/-! ## The host's data (R359) -/

section
variable {s : State}

theorem exec_xpReadData (hh : held s = false) (data : List (BitVec 32)) : exec (.xpReadData data) s = .next (xpRead s data) :=
  congrArg Host.Outcome.next (if_neg (by simp [hh]))

theorem xpRead_empty (h : s.xp.out = []) (data : List (BitVec 32)) : xpRead s data = s := by
  unfold xpRead
  rw [h]

section
variable {r : XpRead} {rest : List XpRead} {u : State} (h : s.xp.out = r :: rest) (hu : u = { s with xp := { s.xp with out := rest } }) {P : Part}
  (hp : partOf u r.d = some P) (data : List (BitVec 32))
include h hu hp

/-- Data for a partition that does not run are dropped. -/
theorem xpRead_stopped (hr : P.st ≠ .running) : xpRead s data = xpPump u := by
  subst hu
  have hp' : partOf (updXp s (fun x => { x with out := rest })) r.d = some P := hp
  unfold xpRead
  rw [h]
  dsimp only
  rw [hp', Option.bind_some, if_neg hr] <;> rfl

variable (hr : P.st = .running) {c : WinCtx} (hc : (winOf P r.key).bind (winShape P) = some c)
include hr hc

theorem xpRead_window : xpRead s data = if c.w.dead.isSome || c.w.out.contains r.row then xpPump u
    else xpPump (xpTake u r.d c r.buf r.row r.chunk (data.map (·.toNat))) := by
  subst hu
  have hp' : partOf (updXp s (fun x => { x with out := rest })) r.d = some P := hp
  unfold xpRead
  rw [h]
  dsimp only
  rw [hp', Option.bind_some, if_pos hr, hc] <;> rfl

theorem xpRead_lost (hd : c.w.dead.isSome ∨ c.w.out.contains r.row = true) : xpRead s data = xpPump u := by
  rw [xpRead_window h hu hp data hr hc, if_pos (by rcases hd with hd | hd <;> simp only [hd, Bool.true_or, Bool.or_true])]

theorem xpRead_taken (h1 : c.w.dead = none) (h2 : c.w.out.contains r.row = false) :
    xpRead s data = xpPump (xpTake u r.d c r.buf r.row r.chunk (data.map (·.toNat))) := by
  rw [xpRead_window h hu hp data hr hc, if_neg (by rw [h1, h2]; decide)]

end

theorem getD_toNat (data : List (BitVec 32)) (j : Nat) : (data.map (·.toNat)).getD j 0 = (data.getD j 0).toNat :=
  List.getD_map data (0 : BitVec 32) BitVec.toNat

/-- What the taken data leave, over the data as the port brings them. -/
theorem xpTake_is (u : State) (d : Nat) (c : WinCtx) (buf row chunk : Nat) (data : List (BitVec 32)) {vs : List (Nat × Census)}
    (hv : vs = (List.range (min 512 ((if buf = 3 then c.tgt.din else c.tgt.dout) - 512 * chunk))).map
      (fun j => xpValue (valD u 8 0x31 d 0 == 1) buf (data.getD j 0).toNat)) {i : Nat} (hi : i = 256 * c.w.key.win + row) :
    xpTake u d c buf row chunk (data.map (·.toNat)) = gradCensus
      (setWin u d { c.w with chunks := c.w.chunks.put (chunkKey buf row chunk) (vs.map Prod.fst) }) d c.w.key.step
      (if c.w.key.bwd then
        dedup (tgtGroups c.P.train c.w.key.step c.w.key.layer c.w.key.tslot none ++
          (if c.P.modes.trainTrait && (poolTerm c.P (rowBind c.m i) c.w.key.layer c.w.key.tslot).isSome then bagGroups u d c.P c.m i else []))
      else []) (vs.foldl (fun (k : Census) v => k.add v.2) {}) := by
  subst hv hi
  unfold xpTake
  simp only [getD_toNat]

/-! ## Merge's writes (R96, R360) -/

theorem exec_xpWriteAccept (hh : held s = false) : exec .xpWriteAccept s = .next (xpWrite s) := congrArg Host.Outcome.next (if_neg (by simp [hh]))

theorem xpWrite_empty (h : writers s = []) : xpWrite s = s := by
  unfold xpWrite
  rw [h]

theorem xpWrite_first {p d : Nat} {c : WinCtx} {x : Nat × Nat × Nat} {rest : List (Nat × Nat × WinCtx × (Nat × Nat × Nat))} {data : List Nat} {cs : Census}
    {host : Nat} (h : writers s = (p, d, c, x) :: rest) (hm : mergeChunk c (valD s 8 0x31 d 0 == 1) x = (data, cs, host)) : xpWrite s =
    settlePart (xpPump (bumpD (bumpCensus (setWin s d { c.w with writes := c.w.writes.put (chunkKey x.1 (x.2.1 % 256) x.2.2) data }) d cs)
      Cnt.mergeHostNonfinite d host)) p d := by
  unfold xpWrite
  rw [h]
  dsimp only
  rw [hm]

end

/-- Settles O58: the rows of a slot, the host's data, and Merge's writes. -/
theorem windowPath : Obligations.WindowPath := by
  unfold Obligations.WindowPath
  refine fun s hh => ⟨fun p => ⟨fun h => ⟨exec_kindlingStart_nobody hh h, exec_dirtyWriteBack_nobody hh h,
      fun w u f => exec_weightBlockEnd_none hh (blockEnd_nobody h w u f), ?_⟩, fun d P hs => ⟨exec_kindlingStart hh hs, fun x => ⟨fun hr => ?_, fun hr hp =>
        ⟨fun h => ?_, fun u h => ⟨fun hu => ?_, fun _ _ _ => ?_⟩⟩⟩, fun w u f => ⟨exec_weightBlockEnd_none hh, fun v h => exec_weightBlockEnd hh h⟩,
      fun h => ?_, fun h hf => ⟨fun hk => ?_, fun w hk hw => ?_, fun hk hw => ?_⟩⟩⟩,
    fun data => ⟨fun h => ?_, fun r rest u h hu P hp => ⟨fun hr => ?_, fun hr c hc => ⟨fun hd => ?_, ?_⟩⟩⟩, fun h => ?_, ?_⟩
  · rw [exec_holdCeiling hh, ceilingHit_nobody h]
  · rw [exec_dirtyWriteBack hh hs, if_neg hr]
  · rw [exec_dirtyWriteBack hh hs, if_pos hr, writeBack_none hp h]
  · rw [exec_dirtyWriteBack hh hs, if_pos hr, writeBack_idle hp h hu]
  · rw [exec_dirtyWriteBack hh hs, if_pos hr]
  · rw [exec_holdCeiling hh, ceilingHit_none hs h]
  · rw [exec_holdCeiling hh, ceilingHit_kindle hs hf hk]
  · rw [exec_holdCeiling hh, ceilingHit_window hs hf hk hw]
  · rw [exec_holdCeiling hh, ceilingHit_alone hs hf hk hw]
  · rw [exec_xpReadData hh, xpRead_empty h]
  · rw [exec_xpReadData hh, xpRead_stopped h hu hp data hr]
  · rw [exec_xpReadData hh, xpRead_lost h hu hp data hr hc hd]
  · rintro h1 h2 vs hv i _ hi rfl
    rw [exec_xpReadData hh, xpRead_taken h hu hp data hr hc h1 h2, xpTake_is u r.d c r.buf r.row r.chunk data hv hi]
  · rw [exec_xpWriteAccept hh, xpWrite_empty h]
  · intro p d c x rest data cs host h hm
    rw [exec_xpWriteAccept hh, xpWrite_first h hm]

end Sys2Proof.Machine
end

section
/-! PROOF. The memory ports: issue, replies, reissue, quarantine, expiry and ageing (R143, R148, R149, R160, R258, R259, R270, R365). -/

namespace Sys2Proof

theorem Tab.find?_map {α β : Type} (t : Tab α) (g : α → β) (k : Nat) : Tab.find? (t.map (fun e => (e.1, g e.2))) k = (t.find? k).map g := by
  induction t with
  | nil => rfl
  | cons e t ih =>
    obtain ⟨a, v⟩ := e
    rw [List.map_cons]
    by_cases hk : k = a
    · simp [Tab.find?, hk]
    · simp [Tab.find?, hk, ih]

namespace Machine

/-! ## Issue (R143, R259) -/

section
variable {s : State} {m : Nat}

theorem exec_mpRequestAccept (hh : held s = false) : exec (.mpRequestAccept m) s = .next (mpAccept s m) := congrArg Host.Outcome.next (if_neg (by simp [hh]))

theorem mpAccept_idle (h : (portsUp s).contains m = false ∨ 2048 ≤ (s.mp.out.filter (fun r => r.port == m)).length) : mpAccept s m = s :=
  if_pos (by
    rw [Bool.or_eq_true, decide_eq_true_eq, Bool.not_eq_true']
    exact h)

theorem mpAccept_up (h1 : (portsUp s).contains m = true) (h2 : (s.mp.out.filter (fun r => r.port == m)).length < 2048) :
    mpAccept s m = match nextIssue s m with
      | some (r, b) => issueReq s r b
      | none => s :=
  if_neg (by
    rw [Bool.or_eq_true, decide_eq_true_eq, h1]
    exact fun e => e.elim (by decide) (Nat.not_le.mpr h2))

theorem freeTag_is {t : Nat} (h : freeTag s m = some t) : (tagsUsed s m).contains t = false ∧ t < 2048 := by
  have hm := List.mem_of_find?_eq_some h
  have ht := List.find?_some h
  exact ⟨by simpa using ht, List.mem_range.mp hm⟩

theorem issueReq_waiting {r : Req} {t : Nat} (h : freeTag s r.port = some t) (b : Bool) :
    (issueReq s r b).mp.waiting = s.mp.waiting.filter (fun x => x.id != r.id) := by
  unfold issueReq
  rw [h]
  dsimp only
  rw [issueReq_mp]

theorem issueReq_out {r : Req} {t : Nat} (h : freeTag s r.port = some t) (b : Bool) :
    (issueReq s r b).mp.out = s.mp.out ++ [{ r with tag := t, first := if r.issues = 0 then s.mp.mgmt else r.first }] := by
  unfold issueReq
  rw [h]
  dsimp only
  rw [issueReq_mp]

end

/-! ## Replies (R148, R149, R365) -/

section
variable {s : State} {m tag st : Nat} {write : Bool} {beat : Nat}

theorem exec_mpReadResponse (hh : held s = false) : exec (.mpReadResponse m tag beat st) s = .next (settle (replyOn s m tag st false beat)) :=
  congrArg Host.Outcome.next (if_neg (by simp [hh]))

theorem exec_mpWriteAck (hh : held s = false) : exec (.mpWriteAck m tag st) s = .next (settle (replyOn s m tag st true 0)) :=
  congrArg Host.Outcome.next (if_neg (by simp [hh]))

section
variable {r : Req} (h : s.mp.out.find? (fun r => r.port == m && r.tag == tag && r.write == write && r.tier != 2) = some r)
include h

theorem replyOn_request : replyOn s m tag st write beat =
    if !write && decide (beat ≠ lastBeat r.bytes) then (if st = 0 then s else reqRetry (quarantine s r) r)
    else if st = 0 then reqDone { s with mp := { s.mp with out := s.mp.out.filter (fun x => x.id != r.id) } } r
    else reqRetry s r := by
  unfold replyOn
  rw [h]

theorem replyOn_early (h1 : write = false) (h2 : beat ≠ lastBeat r.bytes) :
    replyOn s m tag st write beat = if st = 0 then s else reqRetry (quarantine s r) r := by
  rw [replyOn_request h, if_pos (by simp [h1, h2])]

theorem replyOn_last (h1 : write = true ∨ beat = lastBeat r.bytes) : replyOn s m tag st write beat =
    if st = 0 then reqDone { s with mp := { s.mp with out := s.mp.out.filter (fun x => x.id != r.id) } } r else reqRetry s r := by
  rw [replyOn_request h, if_neg (by rcases h1 with h1 | h1 <;> simp [h1])]

end

section
variable (h : s.mp.out.find? (fun r => r.port == m && r.tag == tag && r.write == write && r.tier != 2) = none) (h1 : lrbAt s m tag = none)
  (h2 : queuedReply s m tag = none)
include h h1 h2

theorem replyOn_stray (hq : s.mp.quar.find? (fun q => q.port == m && q.tag == tag) = none) :
    replyOn s m tag st write beat = bumpD s Cnt.mpStray (s.mp.tagPart.getD (2048 * m + tag) 0) 1 := by
  unfold replyOn
  rw [h, h1, h2, hq]

theorem replyOn_quarantined {q : Quar} (hq : s.mp.quar.find? (fun q => q.port == m && q.tag == tag) = some q) : replyOn s m tag st write beat =
    if beat ≠ q.last then s
    else bumpD { s with mp := { s.mp with quar := s.mp.quar.filter (fun x => !(x.port == m && x.tag == tag)) } } Cnt.tierLateReply q.part 1 := by
  unfold replyOn
  rw [h, h1, h2, hq]

end

theorem bumpArr_mp (s : State) (item d per i n : Nat) : (bumpArr s item d per i n).mp = s.mp := by
  unfold bumpArr
  split <;> rfl

/-- The request is outstanding no longer. -/
def unissued (s : State) (r : Req) : State := { s with mp := { s.mp with out := s.mp.out.filter (fun x => x.id != r.id) } }

theorem reqRetry_again {r : Req} (h : r.issues < retryMax s r) : (reqRetry s r).mp.waiting =
    { r with issues := r.issues + 1, port := (rickNext (unissued s r) r).1, addr := (rickNext (unissued s r) r).2 } :: s.mp.waiting := by
  unfold reqRetry
  dsimp only
  rw [if_pos h, bumpArr_mp]
  rfl

theorem reqRetry_fails {r : Req} (h : retryMax s r ≤ r.issues) : reqRetry s r = reqFail (unissued s r) r := if_neg (Nat.not_lt.mpr h)

/-! ## Lifetimes, quarantine and Late Reply Bins (R149, R160, R270) -/

theorem exec_replyLifetimeExpiry (hh : held s = false) : exec (.replyLifetimeExpiry m tag) s = .next (settle (lifetimeEnd s m tag)) :=
  congrArg Host.Outcome.next (if_neg (by simp [hh]))

theorem lifetimeEnd_port (hm : m < 16) : lifetimeEnd s m tag = match s.mp.out.find? (fun r => r.port == m && r.tag == tag && r.tier != 2) with
    | some r => reqRetry (quarantine s r) r
    | none => s := if_neg (Nat.not_le.mpr hm)

theorem lifetimeEnd_flash (ch : Nat) : lifetimeEnd s (16 + ch) tag = match s.fl.reads.find? (fun x => lunCh x.lun == ch && x.req.id == tag) with
    | some x => if lunBusy s x.lun then s else flRetry s x
    | none => s := by
  unfold lifetimeEnd
  rw [if_pos (Nat.le_add_right 16 ch), Nat.add_sub_cancel_left] <;> rfl

theorem exec_quarantineExpiry (hh : held s = false) : exec (.quarantineExpiry m tag) s =
    .next { s with mp := { s.mp with quar := s.mp.quar.filter (fun q => !(q.port == m && q.tag == tag)) } } :=
  congrArg Host.Outcome.next (if_neg (by simp [hh]))

theorem exec_lrbExpiry (hh : held s = false) (d e : Nat) : exec (.lrbExpiry d e) s = .next (lrbPlace (lrbExpire s d e) d) :=
  congrArg Host.Outcome.next (if_neg (by simp [hh]))

theorem lrbExpire_entry {d e : Nat} {P : Part} {x : Lrb} (hp : partOf s d = some P) (hx : P.lrb.find? e = some x) :
    lrbExpire s d e = if x.st = 1 then bumpD (setLrb s d e { x with st := 3 }) Cnt.lrbExpired d 1 else s := by
  unfold lrbExpire
  rw [hp]
  dsimp only
  rw [hx]

/-! ## Ageing and periods (R138, R258, R259) -/

theorem exec_sketchAgeing_early (h : s.tm.sketchIncs < 131072) : exec .sketchAgeing s = .next s :=
  congrArg Host.Outcome.next (if_pos (by simp [h]))

theorem exec_sketchAgeing (hh : held s = false) (h : 131072 ≤ s.tm.sketchIncs) : exec .sketchAgeing s = .next (sketchAge s) :=
  congrArg Host.Outcome.next (if_neg (by simp [hh, h]))

/-- An entry of the extent table with its FREQ halved. -/
def aged (e : XEnt) : XEnt := { e with freq := e.freq / 2 }

theorem sketchAge_xt {k : Nat} {e : XEnt} (h : s.tm.xt.find? k = some e) : (sketchAge s).tm.xt.find? k = some { e with freq := e.freq / 2 } := by
  have hm : (sketchAge s).tm.xt = s.tm.xt.map (fun e => (e.1, aged e.2)) := rfl
  rw [hm, Tab.find?_map, h, Option.map_some]
  rfl

theorem exec_bucketRefill (hh : held s = false) : exec .bucketRefill s = .next (mgmtTick s) := congrArg Host.Outcome.next (if_neg (by simp [hh]))

end

/-- Settles O59: issue, replies, reissue, lifetimes, bins, ageing and the Management period. -/
theorem memoryReplies : Obligations.MemoryReplies := by
  unfold Obligations.MemoryReplies
  refine fun s hh => ⟨fun m => ⟨fun h => ?_, fun h1 h2 => ⟨fun h => ?_, fun r b h => ?_⟩⟩,
    fun r b t h => ⟨(freeTag_is h).1, (freeTag_is h).2, issueReq_waiting h b, issueReq_out h b⟩, ?_, ?_,
    fun m tag hm => ⟨fun h => ?_, fun r h => ?_⟩, fun ch id => ⟨fun h => ?_, fun x h => ⟨fun hb => ?_, fun hb => ?_⟩⟩,
    fun m tag => exec_quarantineExpiry hh, fun d e => ⟨exec_lrbExpiry hh d e, fun P x hp hx => ⟨fun h => ?_, fun h => ?_⟩⟩,
    exec_sketchAgeing_early, fun h => ⟨sketchAge s, exec_sketchAgeing hh h, rfl, fun k e => sketchAge_xt⟩, ⟨_, exec_bucketRefill hh, rfl⟩⟩
  · rw [exec_mpRequestAccept hh, mpAccept_idle h]
  · rw [exec_mpRequestAccept hh, mpAccept_up h1 h2, h]
  · rw [exec_mpRequestAccept hh, mpAccept_up h1 h2, h]
  · rintro m tag write beat st _ rfl
    refine ⟨fun hw => ?_, fun hw hb => ?_, ?_⟩
    · rw [hw, exec_mpReadResponse hh]
    · rw [hw, hb, exec_mpWriteAck hh]
    · rintro _ rfl
      refine ⟨fun r h => ⟨fun h1 h2 h3 => ?_, fun h1 h2 h3 => ?_, fun h1 h3 => ?_, fun h1 h3 => ?_⟩,
        fun h h1 h2 => ⟨fun hq => ?_, fun q hq => ⟨fun hb => ?_, fun hb => ?_⟩⟩⟩
      · rw [replyOn_early h h1 h2, if_pos h3]
      · rw [replyOn_early h h1 h2, if_neg h3]
      · rw [replyOn_last h h1, if_pos h3]
      · rw [replyOn_last h h1, if_neg h3]
      · rw [replyOn_stray h h1 h2 hq]
      · rw [replyOn_quarantined h h1 h2 hq, if_pos hb]
      · rw [replyOn_quarantined h h1 h2 hq, if_neg (not_not.mpr hb)]
  · rintro r _ rfl
    exact ⟨reqRetry_again, reqRetry_fails⟩
  · rw [exec_replyLifetimeExpiry hh, lifetimeEnd_port hm, h]
  · rw [exec_replyLifetimeExpiry hh, lifetimeEnd_port hm, h]
  · rw [exec_replyLifetimeExpiry hh, lifetimeEnd_flash, h]
  · rw [exec_replyLifetimeExpiry hh, lifetimeEnd_flash, h]
    exact congrArg (fun t => Host.Outcome.next (settle t)) (if_pos hb)
  · rw [exec_replyLifetimeExpiry hh, lifetimeEnd_flash, h]
    exact congrArg (fun t => Host.Outcome.next (settle t)) (if_neg (by rw [hb]; decide))
  · rw [lrbExpire_entry hp hx, if_neg h]
  · rw [lrbExpire_entry hp hx, if_pos h]

end Machine
end Sys2Proof
end

section
/-! PROOF. REPLAY_RUN and the end of a replay (R428 to R430). -/

namespace Sys2Proof.Machine

/-! ## REPLAY_RUN (R428) -/

section
variable {s : State} {i : Inst}

theorem exec_replayRun (h : Due s 10 0x43 i) : exec .replayRun s = .next (replayRunAct s i) := congrArg Host.Outcome.next (cmdRow_due h replayRunAct)

theorem replayRunAct_refused (h : replayCode s i ≠ 0) : Ends s i none (replayCode s i) 0 0 (replayRunAct s i) := by
  unfold replayRunAct
  dsimp only
  rw [if_pos h]
  exact refuse_ends _ _ _ _

/-- The replay that a command begins: the lowest free slot, the granules of its record, and every free quad. -/
def newReplay (s : State) (i : Inst) : Replay :=
  { path := i.path
    cseq := i.cseq
    slot := (freeSlot s).getD 0
    recAt := i.arg 2 % 2 ^ 52
    capAt := i.arg 3 % 2 ^ 52
    granules := t1Word s (i.arg 2 % 2 ^ 52 + 64) (blockWord 7 0x50)
    quads := (quadsFree s).foldl (fun a q => a + 2 ^ q) 0 }

/-- A replay is in progress. -/
def withReplay (t : State) (r : Replay) : State := { t with dbg := { t.dbg with replay := some r } }

theorem replayRunAct_begins (h : replayCode s i = 0) :
    replayRunAct s i = withReplay (setInst s { i with st := .pending, part := 32 }) (newReplay s i) := if_neg (not_not.mpr h)

theorem withReplay_frame (j : Inst) (r : Replay) : withReplay (setInst s j) r = { s with
    od := { s.od with insts := (withReplay (setInst s j) r).od.insts, stats := (withReplay (setInst s j) r).od.stats }
    dbg := (withReplay (setInst s j) r).dbg } := rfl

end

/-! ## The end of a replay (R430) -/

section
variable {s : State}

theorem exec_replayEnd (hh : held s = false) : exec .replayEnd s = .next (replayEnd s) := congrArg Host.Outcome.next (if_neg (by simp [hh]))

theorem replayEnd_none (h : s.dbg.replay = none) : replayEnd s = s := by
  unfold replayEnd
  rw [h]

/-- No replay is in progress. -/
def replayOver (t : State) : State := { t with dbg := { t.dbg with replay := none } }

theorem replayOver_mem (t : State) : (replayOver t).mem = t.mem := rfl

theorem replayEnd_some {r : Replay} {i : Inst} (h : s.dbg.replay = some r)
    (hi : s.od.insts.find? (fun i => i.area == 10 && i.item == 0x43 && i.path == r.path && i.cseq == r.cseq) = some i) : replayEnd s =
    finish (replayOver (replayOutput s r).1) i none (replayOutput s r).2 (if (replayOutput s r).2 = Code.ok then w64 r.slot else 0) 0 := by
  unfold replayEnd
  rw [h]
  dsimp only
  rw [hi] <;> rfl

end

/-! ## The output region -/

section
variable {m : Tab Byte} {a room : Nat} {all : List Byte}

/-- Output that is cut to its room leaves every byte outside the room. -/
theorem byteAt_outside {k : Nat} (h : k < a ∨ a + room ≤ k) : byteAt (storeBytes m a (all.take room)) k = byteAt m k := by
  have hl := List.length_take_le room all
  rw [byteAt_storeBytes, if_neg (by omega)]

/-- The first two words of what is written are read back, where there is room for them. -/
theorem outputWords {w0 w1 : W64} {ws : List W64} {rest : List Byte} (ha : all = wordBytes (w0 :: w1 :: ws) ++ rest) (hr : 16 ≤ room) :
    wordsAt (storeBytes m a (all.take room)) a 2 = [w0, w1] := by
  have hall : all = (leBytes 8 w0.toNat ++ leBytes 8 w1.toNat) ++ (wordBytes ws ++ rest) := by
    rw [ha]
    simp [wordBytes]
  have hlen : (leBytes 8 w0.toNat ++ leBytes 8 w1.toNat).length = 16 := by rw [List.length_append, leBytes_len, leBytes_len]
  refine header_reads ?_ fun j hj => ?_
  · rw [List.length_take, hall, List.length_append, hlen]
    omega
  · have hj' : j < room := by omega
    rw [List.getD_eq_getElem?_getD, List.getElem?_take_of_lt hj', ← List.getD_eq_getElem?_getD, hall,
      List.getD_append _ _ _ _ (by rw [hlen]; exact hj)]

end

/-- The second word of the header: the step and the final code. -/
theorem headerWord_eq (x : Nat) {code : Nat} (h : code = Code.ok ∨ code = Code.replayMissing) :
    w64 (fld x 63 24 % 2 ^ 40 * 2 ^ 24 + code % 2 ^ 16) = w64 (fld x 63 24 * 2 ^ 24 + code) := by
  have hx : fld x 63 24 < 2 ^ 40 := Nat.mod_lt _ (by decide)
  have hc : code % 2 ^ 16 = code := by rcases h with rfl | rfl <;> rfl
  rw [Nat.mod_eq_of_lt hx, hc]

/-- Settles O60: the command, and the end of the replay with its output. -/
theorem replays : Obligations.Replays := by
  unfold Obligations.Replays
  refine ⟨fun s i h => ⟨_, exec_replayRun h, replayRunAct_refused, fun hc => ?_⟩, fun s hh => ⟨fun h => ?_, fun r i h hi => ?_⟩⟩
  · rw [replayRunAct_begins hc]
    exact ⟨newReplay s i, rfl, rfl, rfl, rfl, rfl, rfl, status_setInst s { i with st := .pending, part := 32 }, withReplay_frame _ _⟩
  · rw [exec_replayEnd hh, replayEnd_none h]
  · obtain ⟨t, all, code, n, q, ho, hcode, ht, a, b, c, e, rest, hall⟩ := replayOutput_is s r
    rw [exec_replayEnd hh, replayEnd_some h hi, ho]
    refine ⟨_, replayOver t, code, rfl, hcode, fun hk => ?_, fun hk => ?_, dbgOf_is ht, ?_⟩
    · rw [if_pos hk, hk]
      exact finish_ends _ _ _ _ _ _
    · rw [if_neg hk]
      exact finish_ends _ _ _ _ _ _
    · intro region room hregion hroom
      have hm : (replayOver t).mem = storeBytes s.mem (memKey 0 region) (all.take room) := by
        have hmem := congrArg State.mem ht
        dsimp only at hmem
        rw [replayOver_mem, hregion, hroom, hmem]
      refine ⟨fun k hk => ?_, fun h16 => ?_⟩
      · rw [hm, byteAt_outside hk]
      · unfold t1Words
        rw [hm, outputWords hall h16, headerWord_eq _ hcode]

end Sys2Proof.Machine
end
